-- ==== Sys2Proof/Word.lean ====
section
/-! DEFINITION. The word types of the Syolo device and the names of the parties that issue work. -/

namespace Sys2Proof

/-- A byte of memory (R2). -/
abbrev Byte := BitVec 8
/-- A 32-bit word: a lane element, a predicate mask, a control register (R167). -/
abbrev W32 := BitVec 32
/-- A 64-bit word: a scalar register (R135, R167). -/
abbrev W64 := BitVec 64
/-- A register number or field of 1 to 8 bits. -/
abbrev B1 := BitVec 1
abbrev B2 := BitVec 2
abbrev B3 := BitVec 3
abbrev B4 := BitVec 4
abbrev B5 := BitVec 5
abbrev B6 := BitVec 6
abbrev B7 := BitVec 7

/-- A party whose engine commands are queued together (R96): a crew of an edge core, a tile
instance, or a management core. A crew is named by the device edge-core index and its index there. -/
inductive Issuer where
  | crew (core idx : Nat)
  | tile (e : Nat)
  | mgmt (h : Nat)
  deriving DecidableEq, Repr

/-- Where a sub-gang lives: the device edge-core index, the gang slot of that core and the
sub-gang's place among the sub-gangs of the gang (R176 to R178). -/
structure SgRef where
  core : Nat
  slot : Nat
  sub : Nat
  deriving DecidableEq, Repr

end Sys2Proof
end

