-- ==== Sys2Proof/Machine/Bits.lean ====
section
/-! DEFINITION. Bit fields, sign extension and byte order, on natural numbers (R1, R2). -/

namespace Sys2Proof

/-- Bits [hi:lo] of w as a number (R1). -/
def fld (w hi lo : Nat) : Nat := w / 2 ^ lo % 2 ^ (hi + 1 - lo)

/-- Bit i of w. -/
def bitAt (w i : Nat) : Bool := w / 2 ^ i % 2 == 1

/-- The signed reading of the n-bit number v (two's complement). -/
def sx (n v : Nat) : Int := if v < 2 ^ (n - 1) then (v : Int) else (v : Int) - 2 ^ n

/-- An integer reduced to n bits, as a number. -/
def wrapN (n : Nat) (i : Int) : Nat := (i % (2 ^ n : Int)).toNat

/-- w with bits [hi:lo] replaced by the low bits of v. -/
def setFld (w hi lo v : Nat) : Nat :=
  w / 2 ^ (hi + 1) * 2 ^ (hi + 1) + v % 2 ^ (hi + 1 - lo) * 2 ^ lo + w % 2 ^ lo

def b2n (b : Bool) : Nat := if b then 1 else 0

/-- The number whose little-endian bytes are the list (R2). -/
def leNat : List Byte → Nat
  | [] => 0
  | b :: t => b.toNat + 256 * leNat t

/-- The n little-endian bytes of v (R2). -/
def leBytes : Nat → Nat → List Byte
  | 0, _ => []
  | n + 1, v => BitVec.ofNat 8 v :: leBytes n (v / 256)

/-- a, a + 1, ... (n of them). -/
def span : Nat → Nat → List Nat
  | _, 0 => []
  | a, n + 1 => a :: span (a + 1) n

/-- Groups of n of a list's elements. -/
def chunks {α : Type} (n : Nat) : Nat → List α → List (List α)
  | 0, _ => []
  | _ + 1, [] => []
  | fuel + 1, l => l.take n :: chunks n fuel (l.drop n)

/-- The bytes of a list of 32-bit words, lowest first. -/
def wordsBytes (ws : List Nat) : List Byte := ws.flatMap (leBytes 4)

/-- The 32-bit words of a byte list. -/
def bytesWords (bs : List Byte) : List Nat := (chunks 4 bs.length bs).map leNat

/-- A 64-bit field of a structure at byte offset o. -/
def u64At (bs : List Byte) (o : Nat) : Nat := leNat ((bs.drop o).take 8)
def u32At (bs : List Byte) (o : Nat) : Nat := leNat ((bs.drop o).take 4)
def u16At (bs : List Byte) (o : Nat) : Nat := leNat ((bs.drop o).take 2)
def u8At (bs : List Byte) (o : Nat) : Nat := leNat ((bs.drop o).take 1)

/-- Whether the bytes from offset o to offset e (exclusive) are all zero (reserved fields, R4). -/
def zeroAt (bs : List Byte) (o e : Nat) : Bool := ((bs.drop o).take (e - o)).all (· == 0)

/-- bs with the bytes from offset o replaced by vs. -/
def putAt (bs : List Byte) (o : Nat) (vs : List Byte) : List Byte :=
  bs.take o ++ vs ++ bs.drop (o + vs.length)

def zeros (n : Nat) : List Byte := List.replicate n 0

/-- The least element position satisfying p, counted from 0. -/
def firstIdx {α : Type} (p : α → Bool) : List α → Option Nat
  | [] => none
  | x :: t => if p x then some 0 else (firstIdx p t).map (· + 1)

/-- Integer square root: the largest r with r * r at most n, found bit by bit over k bits. -/
def isqrtBits (n : Nat) : Nat → Nat → Nat
  | 0, r => r
  | k + 1, r =>
    let r' := r + 2 ^ k
    if r' * r' ≤ n then isqrtBits n k r' else isqrtBits n k r

/-- The number of one bits among the low n bits. -/
def popcount : Nat → Nat → Nat
  | 0, _ => 0
  | n + 1, w => w % 2 + popcount n (w / 2)

/-- Round up to a multiple of m. -/
def alignUp (a m : Nat) : Nat := (a + m - 1) / m * m

/-- Insertion of a key in a rising list without repeats. -/
def insKey (k : Nat) : List Nat → List Nat
  | [] => [k]
  | h :: t => if k < h then k :: h :: t else if k = h then h :: t else h :: insKey k t

/-- Stable insertion sort by a number key. -/
def insBy {α : Type} (key : α → Nat) (x : α) : List α → List α
  | [] => [x]
  | h :: t => if key x < key h then x :: h :: t else h :: insBy key x t

def sortBy {α : Type} (key : α → Nat) (l : List α) : List α := l.foldl (fun acc x => insBy key x acc) []

/-- Replace element i of a list. -/
def setAt {α : Type} (l : List α) (i : Nat) (x : α) : List α := l.set i x

/-- Apply f to element i of a list. -/
def updAt {α : Type} (l : List α) (i : Nat) (f : α → α) : List α := l.modify i f

end Sys2Proof
end

