-- ==== Sys2Proof/Syntax.lean ====
section
/-! DEFINITION. The instructions of the Syolo device: one constructor per row of the operation table.
Rows that are encoded instructions carry the fields of their encoding (R109 to R125); rows that are
steps of a unit or of an outside party take their inputs from the state. -/

namespace Sys2Proof

/-- Edge scalar format ER (R121), without the function field. -/
structure ER where
  d : B5
  a : B5
  b : B5
  deriving DecidableEq, Repr

/-- Edge scalar format EI (R121). -/
structure EI where
  d : B5
  a : B5
  i : BitVec 15
  deriving DecidableEq, Repr

/-- Edge scalar format EM (R121): core memory bit, strong bit, order, scope, scaled offset. -/
structure EM where
  d : B5
  a : B5
  c : B1
  s : B1
  o : B2
  k : B3
  i : BitVec 8
  deriving DecidableEq, Repr

/-- Edge scalar format EB (R121). -/
structure EB where
  a : B5
  b : B5
  i : BitVec 15
  deriving DecidableEq, Repr

/-- Engine-command word below the opcode (R120). -/
structure EC where
  g : B4
  a : B5
  b : B5
  c : B5
  m : B6
  deriving DecidableEq, Repr

/-- The function field of amo (R122): operation, order, scope, size. -/
structure AmoF where
  d : B5
  a : B5
  b : B5
  o : B4
  r : B2
  s : B3
  z : B1
  deriving DecidableEq, Repr

/-- S-slot format SA (R114): lo is [9:0], an immediate when i is 1, else B, QB and zeros. -/
structure SA where
  g : B4
  d : B5
  a : B5
  i : B1
  qa : B1
  lo : BitVec 10
  deriving DecidableEq, Repr

/-- S-slot format SP (R114). -/
structure SP where
  g : B4
  pd : B4
  pa : B4
  pb : B4
  deriving DecidableEq, Repr

/-- L-slot operation (R117): vector, base register, low field. -/
structure LF where
  g : B4
  v : B6
  a : B5
  lo : BitVec 11
  deriving DecidableEq, Repr

/-- V-slot operation (R118). -/
structure VF where
  g : B4
  d : B6
  a : B6
  b : B6
  m : B4
  deriving DecidableEq, Repr

/-- Lane instruction fields (R123), without the opcode. -/
structure LaneF where
  imm : W32
  d : B7
  a : B7
  b : B7
  c : B7
  ge : B1
  g : B3
  gn : B1
  t : B3
  i : B1
  pw : B1
  f8 : BitVec 8
  f0 : BitVec 8
  deriving DecidableEq, Repr

/-- One constructor per row of spec/opcode_table.json: the encoded instructions first, then the steps of
units and outside parties. A step takes its inputs (which unit, which entry, the value written) from the
turn of the agenda that runs it, which the state holds as plain data. -/
inductive Instr where
  -- edge scalar instructions
  | add (f : ER)
  | sub (f : ER)
  | and (f : ER)
  | or (f : ER)
  | xor (f : ER)
  | andn (f : ER)
  | shl (f : ER)
  | shr (f : ER)
  | sra (f : ER)
  | mul (f : ER)
  | mulh (f : ER)
  | slt (f : ER)
  | sltu (f : ER)
  | min (f : ER)
  | max (f : ER)
  | addi (f : EI)
  | andi (f : EI)
  | ori (f : EI)
  | xori (f : EI)
  | shli (f : EI)
  | shri (f : EI)
  | srai (f : EI)
  | slti (f : EI)
  | lui (d : B5) (i : BitVec 20)
  | ldB (f : EM)
  | ldH (f : EM)
  | ldW (f : EM)
  | ldD (f : EM)
  | stB (f : EM)
  | stH (f : EM)
  | stW (f : EM)
  | stD (f : EM)
  | beq (f : EB)
  | bne (f : EB)
  | blt (f : EB)
  | bge (f : EB)
  | bltu (f : EB)
  | bgeu (f : EB)
  | jal (d : B5) (c : B1) (i : BitVec 19)
  | jr (d a : B5) (c : B1)
  | jrW (d : B5) (c : B1) (n : B7)
  | ret
  | laneIss (n : B4)
  | laneJmp (i : BitVec 19)
  | laneJmpInd (a : B5)
  | mpush (p : B3)
  | minv
  | mpop
  | bzM (i : BitVec 19)
  | part (p : B3) (i : BitVec 19)
  | regang
  | fmt (a : B5)
  | fmtImm (i : BitVec 17)
  | bar (a : B5) (n : B4)
  | csrRd (d : B5) (c : BitVec 12)
  | csrWr (a : B5) (c : BitVec 12)
  | trap (c : BitVec 16)
  | eret
  | exit
  | fence (s : B3) (k : B2)
  | amo (f : AmoF)
  | wfe
  | tlbinv (a : B5) (z : B3)
  | gstRd (f : ER)
  | gstWr (f : ER)
  | gstRes (a : B5)
  -- engine commands
  | cpLd (f : EC)
  | cpSt (f : EC)
  | cpG2g (f : EC)
  | cpMc (f : EC)
  | ringArm (f : EC)
  | ringArmInit (f : EC)
  | ringAwait (f : EC)
  | ringRel (f : EC)
  | jn (f : EC)
  | rlkBind (f : EC)
  | rlkAcq (f : EC)
  | rlkRel (f : EC)
  | cairnOpen (f : EC)
  | cairnApp (f : EC)
  | cairnQry (f : EC)
  | cairnSave (f : EC)
  | cairnRst (f : EC)
  | cairnClose (f : EC)
  | kvCmt (f : EC)
  | wpUpd (f : EC)
  | wpPre (f : EC)
  | launch (f : EC)
  -- tile-engine S slot
  | teAdd (f : SA)
  | teSub (f : SA)
  | teAnd (f : SA)
  | teOr (f : SA)
  | teXor (f : SA)
  | teAndn (f : SA)
  | teShl (f : SA)
  | teShr (f : SA)
  | teSra (f : SA)
  | teMul (f : SA)
  | teMulh (f : SA)
  | teMin (f : SA)
  | teMax (f : SA)
  | teMov (f : SA)
  | teSel (g : B4) (d a b : B5) (p : B4)
  | teLi (g : B4) (d : B5) (i : BitVec 16)
  | teLih (g : B4) (d : B5) (i : BitVec 16)
  | teCmp (g pt pf : B4) (a b : B5) (c : B3)
  | tePand (f : SP)
  | tePor (f : SP)
  | tePxor (f : SP)
  | tePnot (f : SP)
  | teLdS (g : B4) (d a : B5) (i : BitVec 12)
  | teStS (g : B4) (d a : B5) (i : BitVec 12)
  | teLdp (g : B4) (d a : B5) (w : B3) (i : BitVec 9)
  | teBr (g : B4) (i : BitVec 22)
  | teBri (g : B4) (a : B5)
  | teLoop (g : B4) (n : BitVec 10) (stg : B3) (len : BitVec 9)
  | teLoopx (g : B4) (a : B5) (stg : B3) (len : BitVec 9)
  | teTmark (g : B4) (i : BitVec 16)
  | teHalt (g : B4)
  | teRds (g : B4) (d : B5) (spr : BitVec 8)
  | teWrs (g : B4) (a : B5) (spr : BitVec 8)
  -- tile-engine L slot
  | vld (f : LF)
  | vldB (f : LF)
  | vldS (f : LF)
  | vst (f : LF)
  | vstS (f : LF)
  | vldSc (f : LF)
  | vstSc (f : LF)
  -- tile-engine V slots
  | vadd (f : VF)
  | vsub (f : VF)
  | vmul (f : VF)
  | vfma (f : VF)
  | vfms (f : VF)
  | vmax (f : VF)
  | vmin (f : VF)
  | vabs (f : VF)
  | vneg (f : VF)
  | vrcp (f : VF)
  | vrsq (f : VF)
  | vexp2 (f : VF)
  | vlog2 (f : VF)
  | vcmp (f : VF)
  | vsel (f : VF)
  | vcvt (f : VF)
  | vquant (f : VF)
  | vmaxabs (f : VF)
  | vred (f : VF)
  | vperm (f : VF)
  | vbcast (f : VF)
  | vext (f : VF)
  | vmov (f : VF)
  | vIadd (f : VF)
  | vIsub (f : VF)
  | vIshl (f : VF)
  | vIshr (f : VF)
  | vIsra (f : VF)
  | vIand (f : VF)
  | vIor (f : VF)
  | vIxor (f : VF)
  | vImul (f : VF)
  -- tile-engine M slot
  | mma (g : B4) (d : B2) (a b : B5) (msk topk : B1) (km1 : B3)
  | mz (g : B4) (d : B2)
  | mrd (g : B4) (d : B2) (v : B6) (a : B5)
  | mwr (g : B4) (d : B2) (v : B6) (a : B5)
  | mld (g : B4) (d : B2) (a : B5)
  | mst (g : B4) (d : B2) (a : B5) (fc : B4)
  | mtree (g : B4) (a : B5)
  | mkld (g : B4) (a : B5)
  | rndPoly (g : B4) (d x : B2) (n p : B4) (nt : B1)
  | rndNs (g : B4) (x : B2) (p : B4) (nt : B1)
  | rndIsr (g : B4) (y z : B2) (p : B4) (nt : B1)
  | mtopkRd (g : B4) (d : B2) (v : B6)
  -- lane instructions
  | fadd (f : LaneF)
  | fsub (f : LaneF)
  | fmul (f : LaneF)
  | ffma (f : LaneF)
  | ffms (f : LaneF)
  | fmin (f : LaneF)
  | fmax (f : LaneF)
  | fabs (f : LaneF)
  | fneg (f : LaneF)
  | frcp (f : LaneF)
  | frsq (f : LaneF)
  | fexp2 (f : LaneF)
  | flog2 (f : LaneF)
  | fcmp (f : LaneF)
  | fsel (f : LaneF)
  | cvt (f : LaneF)
  | iadd (f : LaneF)
  | isub (f : LaneF)
  | imul (f : LaneF)
  | imulh (f : LaneF)
  | imin (f : LaneF)
  | imax (f : LaneF)
  | iand (f : LaneF)
  | ior (f : LaneF)
  | ixor (f : LaneF)
  | ishl (f : LaneF)
  | ishr (f : LaneF)
  | isra (f : LaneF)
  | icmp (f : LaneF)
  | popc (f : LaneF)
  | clz (f : LaneF)
  | bperm (f : LaneF)
  | bfx (f : LaneF)
  | bfi (f : LaneF)
  | shfl (f : LaneF)
  | bcast (f : LaneF)
  | vote (f : LaneF)
  | lld (f : LaneF)
  | lst (f : LaneF)
  | lldc (f : LaneF)
  | lstc (f : LaneF)
  | lldp (f : LaneF)
  | lblk (f : LaneF)
  | aadd (f : LaneF)
  | amin (f : LaneF)
  | amax (f : LaneF)
  | aand (f : LaneF)
  | aor (f : LaneF)
  | axor (f : LaneF)
  | axchg (f : LaneF)
  | acas (f : LaneF)
  | amaxvi (f : LaneF)
  | gumbel (f : LaneF)
  | nhash (f : LaneF)
  | lmma (f : LaneF)
  | laccRd (f : LaneF)
  | laccWr (f : LaneF)
  | hdot2 (f : LaneF)
  | lerp (f : LaneF)
  | isad (f : LaneF)
  -- the edge scalar word no table assigns (R126)
  | illegalInstruction (w : W32)
  -- starts and modes
  | coldStart
  | warmStart
  | powerLoss
  | vfFunctionLevelReset
  | dmodePclassWrite
  | clockChangePoint
  | dmodePartWrite
  | dmodeFabricWrite
  | fabricModeSwitch
  | dmodeDetermWrite
  | registerWrite
  | dmapWrite
  | qctlWrite
  | qtailWrite
  -- queues, graphs and launches
  | ringEntryRead
  | graphLaunchReady
  | dlqAppend
  | launchBeginDispatch
  | workItemDispatch
  | bodyAdmission
  | workItemRetire
  -- tile-engine sequencing
  | teBundle
  | bundleSkip
  | resultLand
  | loopPassEnd
  | signpostStop
  | quietPointStop
  | tileEngineGrant
  | edgeSliceExpiry
  | crewSwapIn
  | engineJoin
  | itemDeal
  -- entry performances
  | matrixEntryPerform
  | roundaboutIteration
  | copyPerform
  | ringDelivery
  | multicastPerform
  | junctionPerform
  | lockAcquirePerform
  | lockBindPerform
  | lockReleasePerform
  | cairnOpenPerform
  | cairnAppendPerform
  | cairnQueryPerform
  | cairnSavePerform
  | cairnRestorePerform
  | cairnClosePerform
  | kvCommitPerform
  | waypostUpdatePerform
  | waypostPrefetchPerform
  | launchPerform
  -- translation, save and restore, trace, determinism
  | pageWalk
  | frespWalkAgain
  | frespFail
  | gtermWrite
  | pcmdSave
  | partitionSaveQuiesced
  | saveStopTimeout
  | pcmdRestore
  | slctlWrite
  | trctlWrite
  | rctlWrite
  | epochBoundary
  | dlqctlWrite
  | drstGo
  | dieQuiesceDone
  | dieResetDone
  | dieRetrainDone
  | strayRequest
  -- the host and the fabric
  | mailboxPost
  | instantiateGraph
  | destroyGraph
  | setAperture
  | hostCopy
  | saveRequest
  | restoreRequest
  | dieWarmResetRequest
  | setRankCeiling
  | powerClassRequest
  | bootConfiguration
  | warmStartRequest
  | apertureRead
  | apertureWrite
  | fabricInboundAccess
  | flushMarkerArrival
  | flushAckArrival
  | alaicPortFailure
  | loadBlockFill
  -- closing rows
  | spdmRequest
  | scalarFetchOutOfRange
  | uncorrectableGranule
  | fabricReplyArrival
  | packagePowerLimit
  deriving DecidableEq, Repr

end Sys2Proof
end

