-- ==== Sys2Proof/WellFormed.lean ====
section
/-! DEFINITION. Which field values of an encoded instruction its tables allow (R113 to R125, R199 to R225).
A step of a unit carries inputs, not an encoding, and is always well formed. -/

namespace Sys2Proof

/-- Strong and weak access fields of a load (R84, R121): core memory and weak forms carry no order or scope. -/
def accWf (cm strong ord sc : Nat) (isStore : Bool) : Bool :=
  if strong = 0 then ord = 0 && sc = 0
  else cm = 0 && sc ≤ 5 && (ord = 0 || (if isStore then ord = 2 else ord = 1))

def emWf (f : EM) (isStore : Bool) : Bool := accWf f.c.toNat f.s.toNat f.o.toNat f.k.toNat isStore

/-- Shift immediates are 0 to 63 (R188). -/
def shiWf (f : EI) : Bool := f.i.toNat < 64

/-- The order and scope of amo and its operation code (R122, R191). -/
def amoWf (f : AmoF) : Bool := f.o.toNat ≤ 9 && f.s.toNat ≤ 5

/-! Engine commands (R120): fields the table marks zero. -/

def ecQueueWf (f : EC) : Bool := f.m.toNat < 16
def ecRingWf (f : EC) : Bool := f.b == 0 && f.c == 0 && f.m.toNat < 16
/-- MASK of jn: bits [20:13] of the word (R120). -/
def jnMask (f : EC) : Nat := f.a.toNat * 8 + f.b.toNat / 4
def jnQueue (f : EC) : Nat := f.m.toNat % 8
def jnWf (f : EC) : Bool :=
  jnMask f != 0 && f.b.toNat % 4 == 0 && f.m.toNat < 8 && (jnQueue f == 7 || f.c == 0)
def ecScopeWf (f : EC) : Bool := f.b == 0 && f.c == 0 && f.m.toNat ≤ 5

/-- Format SA: the second operand's layout by I and QB (R114). -/
def saWf (f : SA) : Bool :=
  (f.qa == 0 || f.a.toNat < 4) &&
  (f.i == 1 ||
    (f.lo.toNat % 16 == 0 && (!bitAt f.lo.toNat 4 || f.lo.toNat / 32 < 4)))

/-- mov has no second operand (R115). -/
def movWf (f : SA) : Bool := saWf f && f.i == 0 && f.lo == 0

/-- rds of any listed register (R116). -/
def sprReadable (n : Nat) : Bool := n ≤ 6 || (8 ≤ n && n ≤ 0xC) || (0x10 ≤ n && n ≤ 0x24)
/-- wrs of a register with access RW (R116). -/
def sprWritable (n : Nat) : Bool := n ≤ 4 || (8 ≤ n && n ≤ 0xB) || (0x10 ≤ n && n ≤ 0x1F)

def strideWf (f : LF) : Bool := f.lo.toNat % 64 == 0
def indexWf (f : LF) : Bool := f.lo.toNat % 32 == 0

def vTyWf (f : VF) : Bool := f.m.toNat < 2
def vUnWf (f : VF) : Bool := f.b == 0 && f.m.toNat < 2
def vUn0Wf (f : VF) : Bool := f.b == 0 && f.m == 0
def vIntWf (f : VF) : Bool := f.m.toNat < 3

/-- Elements per 32-bit lane of a format code (R163). -/
def perLane (code : Nat) : Nat := if code = 0 ∨ code = 8 then 1 else if code = 1 ∨ code = 2 then 2 else 4

/-- The codes and PART of a conversion (R163). -/
def cvtWf (src dst part : Nat) : Bool :=
  src ≤ 8 && dst ≤ 8 && src != dst &&
  (let ns := perLane src
   let nd := perLane dst
   if ns > nd then part < ns / nd else if ns < nd then part < nd / ns else part == 0)

/-- Source code and PART of vcvt stand in the B field: [9:6] and [5:4] of the word (R118). -/
def vcvtWf (f : VF) : Bool := cvtWf (f.b.toNat / 4) f.m.toNat (f.b.toNat % 4)

def rndWf (p : B4) (nt : B1) : Bool := nt == 1 || p == 0

/-! Lane instructions (R199 and the tables of R213 to R225). -/

/-- GE = 0 leaves G and GN zero (R123). -/
def guardWf (f : LaneF) : Bool := f.ge == 1 || (f.g == 0 && f.gn == 0)
/-- I optional: with I, B is zero; without it, IMM is zero. -/
def optWf (f : LaneF) : Bool := if f.i == 1 then f.b == 0 else f.imm == 0
def noImm (f : LaneF) : Bool := f.i == 0 && f.imm == 0
def f80 (f : LaneF) : Bool := f.f8 == 0
def t012 (f : LaneF) : Bool := f.t.toNat ≤ 2
def t34 (f : LaneF) : Bool := f.t.toNat == 3 || f.t.toNat == 4
/-- Destination of a compare or vote: a w register, or a predicate in D[2:0] (R199). -/
def pwD (f : LaneF) : Bool := f.pw == 0 || f.d.toNat < 8
/-- C names an x register: C[6:5] zero (R123). -/
def cX (f : LaneF) : Bool := f.c.toNat < 32

def laneArith (f : LaneF) : Bool :=
  guardWf f && f.c == 0 && t012 f && optWf f && f.pw == 0 && f80 f && f.f0 == 0
def laneFma (f : LaneF) : Bool := guardWf f && t012 f && optWf f && f.pw == 0 && f80 f && f.f0 == 0
def laneAbs (f : LaneF) : Bool :=
  guardWf f && f.b == 0 && f.c == 0 && t012 f && noImm f && f.pw == 0 && f80 f && f.f0 == 0
def laneFn (f : LaneF) : Bool := laneAbs f && f.t == 0
def laneFcmp (f : LaneF) : Bool :=
  guardWf f && f.c == 0 && f.t == 0 && optWf f && pwD f && f80 f && f.f0.toNat ≤ 6
def laneFsel (f : LaneF) : Bool :=
  guardWf f && f.c == 0 && f.t == 0 && optWf f && f.pw == 0 && f80 f && f.f0.toNat < 8
def laneCvt (f : LaneF) : Bool :=
  guardWf f && f.b == 0 && f.c == 0 && f.t == 0 && noImm f && f.pw == 0 && f.f8.toNat < 64 &&
  f.f0.toNat < 16 && cvtWf (f.f8.toNat % 16) f.f0.toNat (f.f8.toNat / 16)
def laneInt (f : LaneF) (sat : Bool) : Bool :=
  guardWf f && f.c == 0 && t34 f && optWf f && f.pw == 0 && f80 f &&
  (if sat then f.f0.toNat < 2 else f.f0 == 0)
def laneIcmp (f : LaneF) : Bool :=
  guardWf f && f.c == 0 && t34 f && optWf f && pwD f && f80 f && f.f0.toNat ≤ 5
def laneCount (f : LaneF) : Bool :=
  guardWf f && f.b == 0 && f.c == 0 && t34 f && noImm f && f.pw == 0 && f80 f && f.f0 == 0
def laneBperm (f : LaneF) : Bool :=
  guardWf f && f.t == 0 && f.i == 0 && f.pw == 0 && f80 f && f.f0.toNat < 2 &&
  (if f.f0 == 1 then f.c == 0 && f.imm.toNat < 2 ^ 16 else f.imm == 0)
/-- The ignored bits of a bit-field operand are zero in an immediate (R209). -/
def bfImm (f : LaneF) : Bool :=
  f.i == 0 || (f.imm.toNat < 2 ^ 14 && f.imm.toNat / 32 % 8 == 0)
def laneBfx (f : LaneF) : Bool := laneInt f false && bfImm f
def laneBfi (f : LaneF) : Bool :=
  guardWf f && f.c == 0 && f.t == 0 && optWf f && f.pw == 0 && f80 f && f.f0 == 0 && bfImm f
def laneShfl (f : LaneF) : Bool :=
  guardWf f && f.c == 0 && f.t == 0 && optWf f && f.pw == 0 && f80 f && f.f0.toNat < 4 &&
  (f.i == 0 || f.imm.toNat < 32)
def laneBcast (f : LaneF) : Bool :=
  guardWf f && f.b == 0 && f.c == 0 && f.t == 0 && f.i == 0 && f.pw == 0 && f80 f &&
  f.f0.toNat < 2 && (if f.f0 == 1 then f.imm == 0 else f.imm.toNat < 32)
def laneVote (f : LaneF) : Bool :=
  guardWf f && f.a.toNat < 8 && f.b == 0 && f.c == 0 && f.t == 0 && noImm f && f80 f &&
  f.f0.toNat < 4 && (if f.f0 == 2 then f.pw == 0 else f.pw == 1 && f.d.toNat < 8)

/-- Access bytes of SZ 0 to 4 (R213). -/
def szBytes (sz : Nat) : Nat := 2 ^ sz
/-- A run of registers from n for z bytes ends at or below w127 (R199). -/
def runWf (n z : Nat) : Bool := n + (z + 3) / 4 ≤ 128
def memSz (f : LaneF) : Nat := f.f0.toNat % 8
def memHint (f : LaneF) : Nat := f.f0.toNat / 16
def memSx (f : LaneF) : Bool := bitAt f.f0.toNat 3
def memStrong (f : LaneF) : Nat := f.f8.toNat / 128
def memOrd (f : LaneF) : Nat := f.f8.toNat / 32 % 4
def memSc (f : LaneF) : Nat := f.f8.toNat / 4 % 8
def memBase (f : LaneF) : Bool :=
  guardWf f && cX f && f.t == 0 && f.i == 0 && f.pw == 0 && memSz f ≤ 4
def memAccWf (f : LaneF) (st : Bool) : Bool :=
  f.f8.toNat % 4 == 0 && accWf 0 (memStrong f) (memOrd f) (memSc f) st &&
  (memStrong f == 0 || memSz f ≤ 3)
def laneLd (f : LaneF) : Bool :=
  memBase f && f.b == 0 && runWf f.d.toNat (szBytes (memSz f)) && (!memSx f || memSz f ≤ 1)
def laneSt (f : LaneF) : Bool :=
  memBase f && f.d == 0 && runWf f.b.toNat (szBytes (memSz f)) && f.f0.toNat < 8
def laneLld (f : LaneF) : Bool := laneLd f && memAccWf f false
def laneLst (f : LaneF) : Bool := laneSt f && memAccWf f true
def laneLldc (f : LaneF) : Bool := laneLd f && f.f0.toNat < 16 && f80 f
def laneLstc (f : LaneF) : Bool := laneSt f && f80 f
def laneLldp (f : LaneF) : Bool := laneLd f && f.f0.toNat < 16 && f.f8.toNat < 8
def laneLblk (f : LaneF) : Bool :=
  guardWf f && f.d == 0 && f.a == 0 && f.b == 0 && cX f && f.t == 0 && f.i == 0 && f.pw == 0 &&
  f.f8.toNat < 64 && f.f0.toNat % 16 == 0

/-- Core memory form of an atomic: F8[1] (R218). -/
def atomCm (f : LaneF) : Bool := bitAt f.f8.toNat 1
def atomBase (f : LaneF) : Bool :=
  guardWf f && cX f && f.i == 0 && f.pw == 0 && (f.f0.toNat == 2 || f.f0.toNat == 3) &&
  runWf f.d.toNat (szBytes f.f0.toNat) && runWf f.b.toNat (szBytes f.f0.toNat) &&
  f.f8.toNat < 128 && f.f8.toNat % 2 == 0 &&
  (if atomCm f then memOrd f == 0 && memSc f == 0 else memSc f ≤ 5)
def atomArith (f : LaneF) : Bool := atomBase f && (t34 f || (f.t == 0 && f.f0.toNat == 2))
def atomInt (f : LaneF) : Bool := atomBase f && t34 f
/-- amaxvi is an 8-byte access of a value and an index (R219, R220). -/
def atomVi (f : LaneF) : Bool := atomBase f && f.t == 0 && f.f0.toNat == 3

def laneNoise (f : LaneF) : Bool :=
  guardWf f && cX f && f.t == 0 && noImm f && f.pw == 0 && f80 f && f.f0 == 0
def laneLmma (f : LaneF) : Bool :=
  guardWf f && f.d == 0 && f.b.toNat ≤ 124 && cX f && f.t == 0 && f.i == 0 && f.pw == 0 &&
  f.f0.toNat < 64 && f.f8.toNat < 32
def laneAccBase (f : LaneF) : Bool :=
  guardWf f && f.b == 0 && f.c == 0 && f.t == 0 && noImm f && f.pw == 0 && f80 f && f.f0.toNat < 2
def laneRetired (f : LaneF) : Bool :=
  guardWf f && f.t == 0 && noImm f && f.pw == 0 && f80 f && f.f0 == 0

/-- Every check the spec's encoding tables put on an instruction's fields. -/
def Instr.wf (i : Instr) : Bool :=
  match i with
  | .shli f | .shri f | .srai f => shiWf f
  | .ldB f | .ldH f | .ldW f | .ldD f => emWf f false
  | .stB f | .stH f | .stW f | .stD f => emWf f true
  | .fence s _ => s.toNat ≤ 5
  | .amo f => amoWf f
  | .cpMc f => ecQueueWf f
  | .ringArm f => f.c == 0 && f.m.toNat < 16
  | .ringArmInit f => f.b == 0 && f.c == 0 && 32 ≤ f.m.toNat && f.m.toNat < 48
  | .ringAwait f => ecRingWf f
  | .ringRel f => f.a == 0 && ecRingWf f
  | .jn f => jnWf f
  | .rlkBind f => f.m == 0
  | .rlkAcq f | .rlkRel f => ecScopeWf f
  | .cairnOpen f | .cairnQry f | .cairnSave f | .cairnRst f | .kvCmt f | .launch f =>
    f.c == 0 && f.m == 0
  | .cairnApp f | .wpUpd f => f.m == 0
  | .cairnClose f => f.b == 0 && f.c == 0 && f.m == 0
  | .wpPre f => f.c == 0 && f.m.toNat < 8
  | .teAdd f | .teSub f | .teAnd f | .teOr f | .teXor f | .teAndn f | .teShl f | .teShr f
  | .teSra f | .teMul f | .teMulh f | .teMin f | .teMax f => saWf f
  | .teMov f => movWf f
  | .teCmp _ pt pf _ _ c => c.toNat ≤ 5 && (pt != pf || pt == 0)
  | .tePnot f => f.pb == 0
  | .teLoop _ n _ len => n != 0 && len != 0
  | .teLoopx _ _ _ len => len != 0
  | .teRds _ _ spr => sprReadable spr.toNat
  | .teWrs _ _ spr => sprWritable spr.toNat
  | .vldS f | .vstS f => strideWf f
  | .vldSc f | .vstSc f => indexWf f
  | .vadd f | .vsub f | .vmul f | .vfma f | .vfms f | .vmax f | .vmin f => vTyWf f
  | .vabs f | .vneg f => vUnWf f
  | .vrcp f | .vrsq f | .vexp2 f | .vlog2 f | .vmov f => vUn0Wf f
  | .vmaxabs f => vUn0Wf f && f.a != 63
  | .vcmp f => f.m.toNat / 2 ≤ 6
  | .vsel f | .vperm f => f.m == 0
  | .vcvt f => vcvtWf f
  | .vquant f => 3 ≤ f.m.toNat && f.m.toNat ≤ 7 && f.a != 63
  | .vred f => f.b == 0 && f.m.toNat < 3
  | .vbcast f => f.a.toNat % 2 == 0 && f.b == 0 && f.m == 0
  | .vext f => f.b.toNat % 2 == 0 && f.m == 0
  | .vIadd f | .vIsub f | .vIshl f | .vIshr f | .vIsra f | .vIand f | .vIor f | .vIxor f
  | .vImul f => vIntWf f
  | .mma _ _ _ _ _ topk km1 => topk == 1 || km1 == 0
  | .mst _ _ _ fc => fc.toNat ≤ 8
  | .rndPoly _ d x _ p nt => d != x && rndWf p nt
  | .rndNs _ _ p nt => rndWf p nt
  | .rndIsr _ y z p nt => y != z && rndWf p nt
  | .fadd f | .fsub f | .fmul f | .fmin f | .fmax f => laneArith f
  | .ffma f | .ffms f => laneFma f
  | .fabs f | .fneg f => laneAbs f
  | .frcp f | .frsq f | .fexp2 f | .flog2 f => laneFn f
  | .fcmp f => laneFcmp f
  | .fsel f => laneFsel f
  | .cvt f => laneCvt f
  | .iadd f | .isub f => laneInt f true
  | .imul f | .imulh f | .imin f | .imax f | .iand f | .ior f | .ixor f | .ishl f | .ishr f
  | .isra f => laneInt f false
  | .icmp f => laneIcmp f
  | .popc f | .clz f => laneCount f
  | .bperm f => laneBperm f
  | .bfx f => laneBfx f
  | .bfi f => laneBfi f
  | .shfl f => laneShfl f
  | .bcast f => laneBcast f
  | .vote f => laneVote f
  | .lld f => laneLld f
  | .lst f => laneLst f
  | .lldc f => laneLldc f
  | .lstc f => laneLstc f
  | .lldp f => laneLldp f
  | .lblk f => laneLblk f
  | .aadd f | .amin f | .amax f => atomArith f
  | .aand f | .aor f | .axor f | .axchg f | .acas f => atomInt f
  | .amaxvi f => atomVi f
  | .gumbel f => laneNoise f
  | .nhash f => laneNoise f && runWf f.d.toNat 8
  | .lmma f => laneLmma f
  | .laccRd f => laneAccBase f && f.a == 0
  | .laccWr f => laneAccBase f && f.d == 0
  | .hdot2 f | .isad f => laneRetired f && f.c == 0
  | .lerp f => laneRetired f
  | .lui _ _ | .jal _ _ _ | .jr _ _ _ | .jrW _ _ _ | .ret | .laneIss _ | .laneJmp _
  | .laneJmpInd _ | .mpush _ | .minv | .mpop | .bzM _ | .part _ _ | .regang | .fmt _ | .fmtImm _
  | .bar _ _ | .csrRd _ _ | .csrWr _ _ | .trap _ | .eret | .exit | .wfe | .tlbinv _ _ | .gstRd _
  | .gstWr _ | .gstRes _ | .add _ | .sub _ | .and _ | .or _ | .xor _ | .andn _ | .shl _ | .shr _
  | .sra _ | .mul _ | .mulh _ | .slt _ | .sltu _ | .min _ | .max _ | .addi _ | .andi _ | .ori _
  | .xori _ | .slti _ | .beq _ | .bne _ | .blt _ | .bge _ | .bltu _ | .bgeu _ => true
  | .cpLd _ | .cpSt _ | .cpG2g _ => true
  | .teSel _ _ _ _ _ | .teLi _ _ _ | .teLih _ _ _ | .tePand _ | .tePor _ | .tePxor _
  | .teLdS _ _ _ _ | .teStS _ _ _ _ | .teLdp _ _ _ _ _ | .teBr _ _ | .teBri _ _ | .teTmark _ _
  | .teHalt _ | .vld _ | .vldB _ | .vst _ | .mz _ _ | .mrd _ _ _ _ | .mwr _ _ _ _ | .mld _ _ _
  | .mtree _ _ | .mkld _ _ | .mtopkRd _ _ _ => true
  | .illegalInstruction _ => true
  | .coldStart | .warmStart | .powerLoss | .vfFunctionLevelReset | .dmodePclassWrite
  | .clockChangePoint | .dmodePartWrite | .dmodeFabricWrite | .fabricModeSwitch | .dmodeDetermWrite
  | .registerWrite | .dmapWrite | .qctlWrite | .qtailWrite | .ringEntryRead
  | .graphLaunchReady | .dlqAppend | .launchBeginDispatch | .workItemDispatch | .bodyAdmission
  | .workItemRetire | .teBundle | .bundleSkip | .resultLand | .loopPassEnd
  | .signpostStop | .quietPointStop | .tileEngineGrant | .edgeSliceExpiry | .crewSwapIn
  | .engineJoin | .itemDeal | .matrixEntryPerform | .roundaboutIteration | .copyPerform
  | .ringDelivery | .multicastPerform | .junctionPerform | .lockAcquirePerform | .lockBindPerform
  | .lockReleasePerform | .cairnOpenPerform | .cairnAppendPerform | .cairnQueryPerform | .cairnSavePerform
  | .cairnRestorePerform | .cairnClosePerform | .kvCommitPerform | .waypostUpdatePerform | .waypostPrefetchPerform
  | .launchPerform | .pageWalk | .frespWalkAgain | .frespFail | .gtermWrite
  | .pcmdSave | .partitionSaveQuiesced | .saveStopTimeout | .pcmdRestore | .slctlWrite
  | .trctlWrite | .rctlWrite | .epochBoundary | .dlqctlWrite | .drstGo
  | .dieQuiesceDone | .dieResetDone | .dieRetrainDone | .strayRequest | .mailboxPost
  | .instantiateGraph | .destroyGraph | .setAperture | .hostCopy | .saveRequest
  | .restoreRequest | .dieWarmResetRequest | .setRankCeiling | .powerClassRequest | .bootConfiguration
  | .warmStartRequest | .apertureRead | .apertureWrite | .fabricInboundAccess | .flushMarkerArrival
  | .flushAckArrival | .alaicPortFailure | .loadBlockFill | .spdmRequest | .scalarFetchOutOfRange
  | .uncorrectableGranule | .fabricReplyArrival | .packagePowerLimit => true

end Sys2Proof
end

