-- ==== Sys2Proof/Decode.lean ====
section
/-! DEFINITION. Decoding and encoding of the three instruction streams (R109 to R126): the edge scalar
stream with engine commands (32 bits), tile-engine slot words (32 bits) and lane instructions (96 bits).
A decoder extracts the fields and accepts the word exactly when the instruction is well formed and its
encoding is the word again, so every bit that must be zero is checked (R126). -/

namespace Sys2Proof

/-! ## Field layouts -/

/-- ER (R121): opcode, D, A, B, F. -/
def encER (op : Nat) (f : ER) (fn : Nat) : Nat :=
  op * 2 ^ 25 + f.d.toNat * 2 ^ 20 + f.a.toNat * 2 ^ 15 + f.b.toNat * 2 ^ 10 + fn
def decER (w : Nat) : ER :=
  { d := BitVec.ofNat 5 (w / 2 ^ 20), a := BitVec.ofNat 5 (w / 2 ^ 15), b := BitVec.ofNat 5 (w / 2 ^ 10) }

/-- EI (R121): opcode, D, A, IMM15. -/
def encEI (op : Nat) (f : EI) : Nat :=
  op * 2 ^ 25 + f.d.toNat * 2 ^ 20 + f.a.toNat * 2 ^ 15 + f.i.toNat
def decEI (w : Nat) : EI :=
  { d := BitVec.ofNat 5 (w / 2 ^ 20), a := BitVec.ofNat 5 (w / 2 ^ 15), i := BitVec.ofNat 15 w }

/-- EM (R121): opcode, D, A, CM, S, ORD, SC, IMM8. -/
def encEM (op : Nat) (f : EM) : Nat :=
  op * 2 ^ 25 + f.d.toNat * 2 ^ 20 + f.a.toNat * 2 ^ 15 + f.c.toNat * 2 ^ 14 + f.s.toNat * 2 ^ 13 +
    f.o.toNat * 2 ^ 11 + f.k.toNat * 2 ^ 8 + f.i.toNat
def decEM (w : Nat) : EM :=
  { d := BitVec.ofNat 5 (w / 2 ^ 20), a := BitVec.ofNat 5 (w / 2 ^ 15), c := BitVec.ofNat 1 (w / 2 ^ 14),
    s := BitVec.ofNat 1 (w / 2 ^ 13), o := BitVec.ofNat 2 (w / 2 ^ 11), k := BitVec.ofNat 3 (w / 2 ^ 8),
    i := BitVec.ofNat 8 w }

/-- EB (R121): opcode, A, B, DISP15. -/
def encEB (op : Nat) (f : EB) : Nat :=
  op * 2 ^ 25 + f.a.toNat * 2 ^ 20 + f.b.toNat * 2 ^ 15 + f.i.toNat
def decEB (w : Nat) : EB :=
  { a := BitVec.ofNat 5 (w / 2 ^ 20), b := BitVec.ofNat 5 (w / 2 ^ 15), i := BitVec.ofNat 15 w }

/-- Engine command (R120): opcode, G, A, B, C, M. -/
def encEC (op : Nat) (f : EC) : Nat :=
  op * 2 ^ 25 + f.g.toNat * 2 ^ 21 + f.a.toNat * 2 ^ 16 + f.b.toNat * 2 ^ 11 + f.c.toNat * 2 ^ 6 + f.m.toNat
def decEC (w : Nat) : EC :=
  { g := BitVec.ofNat 4 (w / 2 ^ 21), a := BitVec.ofNat 5 (w / 2 ^ 16), b := BitVec.ofNat 5 (w / 2 ^ 11),
    c := BitVec.ofNat 5 (w / 2 ^ 6), m := BitVec.ofNat 6 w }

/-- amo (R122): ER with F = op, order, scope, size. -/
def encAmo (f : AmoF) : Nat :=
  0x50 * 2 ^ 25 + f.d.toNat * 2 ^ 20 + f.a.toNat * 2 ^ 15 + f.b.toNat * 2 ^ 10 + f.o.toNat * 2 ^ 6 +
    f.r.toNat * 2 ^ 4 + f.s.toNat * 2 + f.z.toNat
def decAmo (w : Nat) : AmoF :=
  { d := BitVec.ofNat 5 (w / 2 ^ 20), a := BitVec.ofNat 5 (w / 2 ^ 15), b := BitVec.ofNat 5 (w / 2 ^ 10),
    o := BitVec.ofNat 4 (w / 2 ^ 6), r := BitVec.ofNat 2 (w / 2 ^ 4), s := BitVec.ofNat 3 (w / 2),
    z := BitVec.ofNat 1 w }

/-! ## The edge scalar stream (R121, R122) -/

/-- The word of an engine command, the same in the C slot and in the scalar stream (R120). -/
def commandWord (i : Instr) : Option Nat :=
  match i with
  | .cpLd f => some (encEC 0x60 f)
  | .cpSt f => some (encEC 0x61 f)
  | .cpG2g f => some (encEC 0x62 f)
  | .cpMc f => some (encEC 0x63 f)
  | .ringAwait f => some (encEC 0x65 f)
  | .ringRel f => some (encEC 0x66 f)
  | .jn f => some (encEC 0x67 f)
  | .rlkBind f => some (encEC 0x68 f)
  | .rlkAcq f => some (encEC 0x69 f)
  | .rlkRel f => some (encEC 0x6A f)
  | .cairnOpen f => some (encEC 0x6B f)
  | .cairnApp f => some (encEC 0x6C f)
  | .cairnQry f => some (encEC 0x6D f)
  | .cairnSave f => some (encEC 0x6E f)
  | .cairnRst f => some (encEC 0x6F f)
  | .cairnClose f => some (encEC 0x70 f)
  | .kvCmt f => some (encEC 0x71 f)
  | .wpUpd f => some (encEC 0x72 f)
  | .wpPre f => some (encEC 0x73 f)
  | .launch f => some (encEC 0x74 f)
  | .ringArm f => some (encEC 0x64 f)
  | .ringArmInit f => some (encEC 0x64 f)
  | _ => none

/-- The word of an instruction of the edge scalar stream. -/
def scalarWord (i : Instr) : Option Nat :=
  match i with
  | .add f => some (encER 0x01 f 0)
  | .sub f => some (encER 0x02 f 0)
  | .and f => some (encER 0x03 f 0)
  | .or f => some (encER 0x04 f 0)
  | .xor f => some (encER 0x05 f 0)
  | .andn f => some (encER 0x06 f 0)
  | .shl f => some (encER 0x07 f 0)
  | .shr f => some (encER 0x08 f 0)
  | .sra f => some (encER 0x09 f 0)
  | .mul f => some (encER 0x0A f 0)
  | .mulh f => some (encER 0x0B f 0)
  | .slt f => some (encER 0x0C f 0)
  | .sltu f => some (encER 0x0D f 0)
  | .min f => some (encER 0x0E f 0)
  | .max f => some (encER 0x0F f 0)
  | .addi f => some (encEI 0x10 f)
  | .andi f => some (encEI 0x11 f)
  | .ori f => some (encEI 0x12 f)
  | .xori f => some (encEI 0x13 f)
  | .shli f => some (encEI 0x14 f)
  | .shri f => some (encEI 0x15 f)
  | .srai f => some (encEI 0x16 f)
  | .slti f => some (encEI 0x17 f)
  | .lui d i => some (0x18 * 2 ^ 25 + d.toNat * 2 ^ 20 + i.toNat)
  | .ldB f => some (encEM 0x20 f)
  | .ldH f => some (encEM 0x21 f)
  | .ldW f => some (encEM 0x22 f)
  | .ldD f => some (encEM 0x23 f)
  | .stB f => some (encEM 0x24 f)
  | .stH f => some (encEM 0x25 f)
  | .stW f => some (encEM 0x26 f)
  | .stD f => some (encEM 0x27 f)
  | .beq f => some (encEB 0x30 f)
  | .bne f => some (encEB 0x31 f)
  | .blt f => some (encEB 0x32 f)
  | .bge f => some (encEB 0x33 f)
  | .bltu f => some (encEB 0x34 f)
  | .bgeu f => some (encEB 0x35 f)
  | .jal d c i => some (0x36 * 2 ^ 25 + (d.toNat * 2 ^ 20 + c.toNat * 2 ^ 19 + i.toNat))
  | .jr d a c => some (0x37 * 2 ^ 25 + (d.toNat * 2 ^ 20 + a.toNat * 2 ^ 15 + c.toNat * 2 ^ 9))
  | .jrW d c n => some (0x37 * 2 ^ 25 + (d.toNat * 2 ^ 20 + c.toNat * 2 ^ 9 + 2 ^ 8 + n.toNat * 2))
  | .ret => some (0x38 * 2 ^ 25 + (0))
  | .laneIss n => some (0x40 * 2 ^ 25 + (n.toNat))
  | .laneJmp i => some (0x41 * 2 ^ 25 + (i.toNat))
  | .laneJmpInd a => some (0x41 * 2 ^ 25 + (2 ^ 24 + a.toNat * 2 ^ 19))
  | .mpush p => some (0x42 * 2 ^ 25 + (p.toNat))
  | .minv => some (0x43 * 2 ^ 25 + (0))
  | .mpop => some (0x44 * 2 ^ 25 + (0))
  | .bzM i => some (0x45 * 2 ^ 25 + (i.toNat))
  | .part p i => some (0x46 * 2 ^ 25 + (p.toNat * 2 ^ 19 + i.toNat))
  | .regang => some (0x47 * 2 ^ 25 + (0))
  | .fmt a => some (0x48 * 2 ^ 25 + (a.toNat * 2 ^ 15))
  | .fmtImm i => some (0x48 * 2 ^ 25 + (2 ^ 24 + i.toNat))
  | .bar a n => some (0x49 * 2 ^ 25 + (a.toNat * 2 ^ 15 + n.toNat))
  | .csrRd d c => some (0x4A * 2 ^ 25 + (d.toNat * 2 ^ 20 + c.toNat))
  | .csrWr a c => some (0x4B * 2 ^ 25 + (a.toNat * 2 ^ 15 + c.toNat))
  | .trap c => some (0x4C * 2 ^ 25 + (c.toNat))
  | .eret => some (0x4D * 2 ^ 25 + (0))
  | .exit => some (0x4E * 2 ^ 25 + (0))
  | .fence s k => some (0x4F * 2 ^ 25 + (s.toNat * 2 ^ 3 + k.toNat))
  | .amo f => some (encAmo f)
  | .wfe => some (0x58 * 2 ^ 25 + (0))
  | .tlbinv a z => some (0x59 * 2 ^ 25 + (a.toNat * 2 ^ 15 + z.toNat * 2 ^ 12))
  | .gstRd f => some (encER 0x5A f 0)
  | .gstWr f => some (encER 0x5B f 0)
  -- DESIGN CHOICE (log entry 93): gst.res names A alone, and its D and B must be zero as F must
  | .gstRes a => some (0x5C * 2 ^ 25 + a.toNat * 2 ^ 15)
  | i => commandWord i

/-- The engine command an opcode of 0x60 to 0x74 names, with the fields of the word. -/
def commandFields (w : Nat) : Option Instr :=
  match w / 2 ^ 25 % 128 with
  | 0x60 => some (.cpLd (decEC w))
  | 0x61 => some (.cpSt (decEC w))
  | 0x62 => some (.cpG2g (decEC w))
  | 0x63 => some (.cpMc (decEC w))
  | 0x65 => some (.ringAwait (decEC w))
  | 0x66 => some (.ringRel (decEC w))
  | 0x67 => some (.jn (decEC w))
  | 0x68 => some (.rlkBind (decEC w))
  | 0x69 => some (.rlkAcq (decEC w))
  | 0x6A => some (.rlkRel (decEC w))
  | 0x6B => some (.cairnOpen (decEC w))
  | 0x6C => some (.cairnApp (decEC w))
  | 0x6D => some (.cairnQry (decEC w))
  | 0x6E => some (.cairnSave (decEC w))
  | 0x6F => some (.cairnRst (decEC w))
  | 0x70 => some (.cairnClose (decEC w))
  | 0x71 => some (.kvCmt (decEC w))
  | 0x72 => some (.wpUpd (decEC w))
  | 0x73 => some (.wpPre (decEC w))
  | 0x74 => some (.launch (decEC w))
  | 0x64 => some (if bitAt w 5 then .ringArmInit (decEC w) else .ringArm (decEC w))
  | _ => none

/-- The scalar instruction the opcode names, with the fields of the word; none for an unassigned opcode. -/
def scalarFields (w : Nat) : Option Instr :=
  match w / 2 ^ 25 % 128 with
  | 0x01 => some (.add (decER w))
  | 0x02 => some (.sub (decER w))
  | 0x03 => some (.and (decER w))
  | 0x04 => some (.or (decER w))
  | 0x05 => some (.xor (decER w))
  | 0x06 => some (.andn (decER w))
  | 0x07 => some (.shl (decER w))
  | 0x08 => some (.shr (decER w))
  | 0x09 => some (.sra (decER w))
  | 0x0A => some (.mul (decER w))
  | 0x0B => some (.mulh (decER w))
  | 0x0C => some (.slt (decER w))
  | 0x0D => some (.sltu (decER w))
  | 0x0E => some (.min (decER w))
  | 0x0F => some (.max (decER w))
  | 0x10 => some (.addi (decEI w))
  | 0x11 => some (.andi (decEI w))
  | 0x12 => some (.ori (decEI w))
  | 0x13 => some (.xori (decEI w))
  | 0x14 => some (.shli (decEI w))
  | 0x15 => some (.shri (decEI w))
  | 0x16 => some (.srai (decEI w))
  | 0x17 => some (.slti (decEI w))
  | 0x18 => some (.lui (BitVec.ofNat 5 (w / 2 ^ 20)) (BitVec.ofNat 20 w))
  | 0x20 => some (.ldB (decEM w))
  | 0x21 => some (.ldH (decEM w))
  | 0x22 => some (.ldW (decEM w))
  | 0x23 => some (.ldD (decEM w))
  | 0x24 => some (.stB (decEM w))
  | 0x25 => some (.stH (decEM w))
  | 0x26 => some (.stW (decEM w))
  | 0x27 => some (.stD (decEM w))
  | 0x30 => some (.beq (decEB w))
  | 0x31 => some (.bne (decEB w))
  | 0x32 => some (.blt (decEB w))
  | 0x33 => some (.bge (decEB w))
  | 0x34 => some (.bltu (decEB w))
  | 0x35 => some (.bgeu (decEB w))
  | 0x36 => some (.jal (BitVec.ofNat 5 (w / 2 ^ 20)) (BitVec.ofNat 1 (w / 2 ^ 19)) (BitVec.ofNat 19 w))
  | 0x37 => some (if bitAt w 8 then .jrW (BitVec.ofNat 5 (w / 2 ^ 20)) (BitVec.ofNat 1 (w / 2 ^ 9)) (BitVec.ofNat 7 (w / 2 ^ 1))
      else .jr (BitVec.ofNat 5 (w / 2 ^ 20)) (BitVec.ofNat 5 (w / 2 ^ 15)) (BitVec.ofNat 1 (w / 2 ^ 9)))
  | 0x38 => some .ret
  | 0x40 => some (.laneIss (BitVec.ofNat 4 w))
  | 0x41 => some (if bitAt w 24 then .laneJmpInd (BitVec.ofNat 5 (w / 2 ^ 19)) else .laneJmp (BitVec.ofNat 19 w))
  | 0x42 => some (.mpush (BitVec.ofNat 3 w))
  | 0x43 => some .minv
  | 0x44 => some .mpop
  | 0x45 => some (.bzM (BitVec.ofNat 19 w))
  | 0x46 => some (.part (BitVec.ofNat 3 (w / 2 ^ 19)) (BitVec.ofNat 19 w))
  | 0x47 => some .regang
  | 0x48 => some (if bitAt w 24 then .fmtImm (BitVec.ofNat 17 w) else .fmt (BitVec.ofNat 5 (w / 2 ^ 15)))
  | 0x49 => some (.bar (BitVec.ofNat 5 (w / 2 ^ 15)) (BitVec.ofNat 4 w))
  | 0x4A => some (.csrRd (BitVec.ofNat 5 (w / 2 ^ 20)) (BitVec.ofNat 12 w))
  | 0x4B => some (.csrWr (BitVec.ofNat 5 (w / 2 ^ 15)) (BitVec.ofNat 12 w))
  | 0x4C => some (.trap (BitVec.ofNat 16 w))
  | 0x4D => some .eret
  | 0x4E => some .exit
  | 0x4F => some (.fence (BitVec.ofNat 3 (w / 2 ^ 3)) (BitVec.ofNat 2 w))
  | 0x50 => some (.amo (decAmo w))
  | 0x58 => some .wfe
  | 0x59 => some (.tlbinv (BitVec.ofNat 5 (w / 2 ^ 15)) (BitVec.ofNat 3 (w / 2 ^ 12)))
  | 0x5A => some (.gstRd (decER w))
  | 0x5B => some (.gstWr (decER w))
  | 0x5C => some (.gstRes (BitVec.ofNat 5 (w / 2 ^ 15)))
  | _ => commandFields w

/-- The guard of an engine command is zero off a tile engine (R120). -/
def commandGuard (w : Nat) : Bool := w / 2 ^ 25 % 128 < 0x60 || w / 2 ^ 21 % 16 == 0

/-- Decode one word of the edge scalar stream; none is the illegal instruction of R126. -/
def decodeScalar (w : Nat) : Option Instr :=
  match scalarFields w with
  | none => none
  | some i => if scalarWord i = some w ∧ i.wf = true ∧ commandGuard w = true then some i else none

/-! ## Tile-engine slot words (R113 to R119) -/

/-- Opcode and guard of a slot word. -/
def encSlot (op : Nat) (g : B4) (rest : Nat) : Nat := op * 2 ^ 26 + g.toNat * 2 ^ 22 + rest

def encSA (op : Nat) (f : SA) : Nat :=
  encSlot op f.g (f.d.toNat * 2 ^ 17 + f.a.toNat * 2 ^ 12 + f.i.toNat * 2 ^ 11 + f.qa.toNat * 2 ^ 10 + f.lo.toNat)
def decSA (w : Nat) : SA :=
  { g := BitVec.ofNat 4 (w / 2 ^ 22), d := BitVec.ofNat 5 (w / 2 ^ 17), a := BitVec.ofNat 5 (w / 2 ^ 12),
    i := BitVec.ofNat 1 (w / 2 ^ 11), qa := BitVec.ofNat 1 (w / 2 ^ 10), lo := BitVec.ofNat 10 w }

def encSP (op : Nat) (f : SP) : Nat :=
  encSlot op f.g (f.pd.toNat * 2 ^ 18 + f.pa.toNat * 2 ^ 14 + f.pb.toNat * 2 ^ 10)
def decSP (w : Nat) : SP :=
  { g := BitVec.ofNat 4 (w / 2 ^ 22), pd := BitVec.ofNat 4 (w / 2 ^ 18), pa := BitVec.ofNat 4 (w / 2 ^ 14),
    pb := BitVec.ofNat 4 (w / 2 ^ 10) }

def encLF (op : Nat) (f : LF) : Nat :=
  encSlot op f.g (f.v.toNat * 2 ^ 16 + f.a.toNat * 2 ^ 11 + f.lo.toNat)
def decLF (w : Nat) : LF :=
  { g := BitVec.ofNat 4 (w / 2 ^ 22), v := BitVec.ofNat 6 (w / 2 ^ 16), a := BitVec.ofNat 5 (w / 2 ^ 11),
    lo := BitVec.ofNat 11 w }

def encVF (op : Nat) (f : VF) : Nat :=
  encSlot op f.g (f.d.toNat * 2 ^ 16 + f.a.toNat * 2 ^ 10 + f.b.toNat * 2 ^ 4 + f.m.toNat)
def decVF (w : Nat) : VF :=
  { g := BitVec.ofNat 4 (w / 2 ^ 22), d := BitVec.ofNat 6 (w / 2 ^ 16), a := BitVec.ofNat 6 (w / 2 ^ 10),
    b := BitVec.ofNat 6 (w / 2 ^ 4), m := BitVec.ofNat 4 w }

/-- The word of an S-slot operation (R114, R115). -/
def sWord (i : Instr) : Option Nat :=
  match i with
  | .teAdd f => some (encSA 0x01 f)
  | .teSub f => some (encSA 0x02 f)
  | .teAnd f => some (encSA 0x03 f)
  | .teOr f => some (encSA 0x04 f)
  | .teXor f => some (encSA 0x05 f)
  | .teAndn f => some (encSA 0x06 f)
  | .teShl f => some (encSA 0x07 f)
  | .teShr f => some (encSA 0x08 f)
  | .teSra f => some (encSA 0x09 f)
  | .teMul f => some (encSA 0x0A f)
  | .teMulh f => some (encSA 0x0B f)
  | .teMin f => some (encSA 0x0C f)
  | .teMax f => some (encSA 0x0D f)
  | .teMov f => some (encSA 0x11 f)
  | .teSel g d a b p => some (encSlot 0x0E g (d.toNat * 2 ^ 17 + a.toNat * 2 ^ 12 + b.toNat * 2 ^ 7 + p.toNat * 2 ^ 3))
  | .teLi g d i => some (encSlot 0x0F g (d.toNat * 2 ^ 17 + i.toNat))
  | .teLih g d i => some (encSlot 0x10 g (d.toNat * 2 ^ 17 + i.toNat))
  | .teCmp g pt pf a b c => some (encSlot 0x12 g (pt.toNat * 2 ^ 18 + pf.toNat * 2 ^ 14 + a.toNat * 2 ^ 9 + b.toNat * 2 ^ 4 + c.toNat * 2))
  | .teLdS g d a i => some (encSlot 0x17 g (d.toNat * 2 ^ 17 + a.toNat * 2 ^ 12 + i.toNat))
  | .teStS g d a i => some (encSlot 0x18 g (d.toNat * 2 ^ 17 + a.toNat * 2 ^ 12 + i.toNat))
  | .teLdp g d a w i => some (encSlot 0x19 g (d.toNat * 2 ^ 17 + a.toNat * 2 ^ 12 + w.toNat * 2 ^ 9 + i.toNat))
  | .teBr g i => some (encSlot 0x1A g (i.toNat))
  | .teBri g a => some (encSlot 0x1B g (a.toNat * 2 ^ 17))
  | .teLoop g n st l => some (encSlot 0x1C g (n.toNat * 2 ^ 12 + st.toNat * 2 ^ 9 + l.toNat))
  | .teLoopx g a st l => some (encSlot 0x1D g (a.toNat * 2 ^ 17 + st.toNat * 2 ^ 9 + l.toNat))
  | .teTmark g i => some (encSlot 0x1E g (i.toNat))
  | .teHalt g => some (encSlot 0x1F g (0))
  | .teRds g d r => some (encSlot 0x20 g (d.toNat * 2 ^ 17 + r.toNat * 2 ^ 9))
  | .teWrs g a r => some (encSlot 0x21 g (a.toNat * 2 ^ 17 + r.toNat * 2 ^ 9))
  | .tePand f => some (encSP 0x13 f)
  | .tePor f => some (encSP 0x14 f)
  | .tePxor f => some (encSP 0x15 f)
  | .tePnot f => some (encSP 0x16 f)
  | _ => none

/-- The S-slot operation an opcode names. -/
def sFields (w : Nat) : Option Instr :=
  match w / 2 ^ 26 % 64 with
  | 0x01 => some (.teAdd (decSA w))
  | 0x02 => some (.teSub (decSA w))
  | 0x03 => some (.teAnd (decSA w))
  | 0x04 => some (.teOr (decSA w))
  | 0x05 => some (.teXor (decSA w))
  | 0x06 => some (.teAndn (decSA w))
  | 0x07 => some (.teShl (decSA w))
  | 0x08 => some (.teShr (decSA w))
  | 0x09 => some (.teSra (decSA w))
  | 0x0A => some (.teMul (decSA w))
  | 0x0B => some (.teMulh (decSA w))
  | 0x0C => some (.teMin (decSA w))
  | 0x0D => some (.teMax (decSA w))
  | 0x11 => some (.teMov (decSA w))
  | 0x0E => some (.teSel (BitVec.ofNat 4 (w / 2 ^ 22)) (BitVec.ofNat 5 (w / 2 ^ 17)) (BitVec.ofNat 5 (w / 2 ^ 12)) (BitVec.ofNat 5 (w / 2 ^ 7)) (BitVec.ofNat 4 (w / 2 ^ 3)))
  | 0x0F => some (.teLi (BitVec.ofNat 4 (w / 2 ^ 22)) (BitVec.ofNat 5 (w / 2 ^ 17)) (BitVec.ofNat 16 w))
  | 0x10 => some (.teLih (BitVec.ofNat 4 (w / 2 ^ 22)) (BitVec.ofNat 5 (w / 2 ^ 17)) (BitVec.ofNat 16 w))
  | 0x12 => some (.teCmp (BitVec.ofNat 4 (w / 2 ^ 22)) (BitVec.ofNat 4 (w / 2 ^ 18)) (BitVec.ofNat 4 (w / 2 ^ 14)) (BitVec.ofNat 5 (w / 2 ^ 9)) (BitVec.ofNat 5 (w / 2 ^ 4)) (BitVec.ofNat 3 (w / 2 ^ 1)))
  | 0x17 => some (.teLdS (BitVec.ofNat 4 (w / 2 ^ 22)) (BitVec.ofNat 5 (w / 2 ^ 17)) (BitVec.ofNat 5 (w / 2 ^ 12)) (BitVec.ofNat 12 w))
  | 0x18 => some (.teStS (BitVec.ofNat 4 (w / 2 ^ 22)) (BitVec.ofNat 5 (w / 2 ^ 17)) (BitVec.ofNat 5 (w / 2 ^ 12)) (BitVec.ofNat 12 w))
  | 0x19 => some (.teLdp (BitVec.ofNat 4 (w / 2 ^ 22)) (BitVec.ofNat 5 (w / 2 ^ 17)) (BitVec.ofNat 5 (w / 2 ^ 12)) (BitVec.ofNat 3 (w / 2 ^ 9)) (BitVec.ofNat 9 w))
  | 0x1A => some (.teBr (BitVec.ofNat 4 (w / 2 ^ 22)) (BitVec.ofNat 22 w))
  | 0x1B => some (.teBri (BitVec.ofNat 4 (w / 2 ^ 22)) (BitVec.ofNat 5 (w / 2 ^ 17)))
  | 0x1C => some (.teLoop (BitVec.ofNat 4 (w / 2 ^ 22)) (BitVec.ofNat 10 (w / 2 ^ 12)) (BitVec.ofNat 3 (w / 2 ^ 9)) (BitVec.ofNat 9 w))
  | 0x1D => some (.teLoopx (BitVec.ofNat 4 (w / 2 ^ 22)) (BitVec.ofNat 5 (w / 2 ^ 17)) (BitVec.ofNat 3 (w / 2 ^ 9)) (BitVec.ofNat 9 w))
  | 0x1E => some (.teTmark (BitVec.ofNat 4 (w / 2 ^ 22)) (BitVec.ofNat 16 w))
  | 0x1F => some (.teHalt (BitVec.ofNat 4 (w / 2 ^ 22)))
  | 0x20 => some (.teRds (BitVec.ofNat 4 (w / 2 ^ 22)) (BitVec.ofNat 5 (w / 2 ^ 17)) (BitVec.ofNat 8 (w / 2 ^ 9)))
  | 0x21 => some (.teWrs (BitVec.ofNat 4 (w / 2 ^ 22)) (BitVec.ofNat 5 (w / 2 ^ 17)) (BitVec.ofNat 8 (w / 2 ^ 9)))
  | 0x13 => some (.tePand (decSP w))
  | 0x14 => some (.tePor (decSP w))
  | 0x15 => some (.tePxor (decSP w))
  | 0x16 => some (.tePnot (decSP w))
  | _ => none

/-- The word of an L-slot operation (R117). -/
def lWord (i : Instr) : Option Nat :=
  match i with
  | .vld f => some (encLF 0x01 f)
  | .vldB f => some (encLF 0x02 f)
  | .vldS f => some (encLF 0x03 f)
  | .vst f => some (encLF 0x04 f)
  | .vstS f => some (encLF 0x05 f)
  | .vldSc f => some (encLF 0x06 f)
  | .vstSc f => some (encLF 0x07 f)
  | _ => none

def lFields (w : Nat) : Option Instr :=
  match w / 2 ^ 26 % 64 with
  | 0x01 => some (.vld (decLF w))
  | 0x02 => some (.vldB (decLF w))
  | 0x03 => some (.vldS (decLF w))
  | 0x04 => some (.vst (decLF w))
  | 0x05 => some (.vstS (decLF w))
  | 0x06 => some (.vldSc (decLF w))
  | 0x07 => some (.vstSc (decLF w))
  | _ => none

/-- The word of a V-slot operation (R118). -/
def vWord (i : Instr) : Option Nat :=
  match i with
  | .vadd f => some (encVF 0x01 f)
  | .vsub f => some (encVF 0x02 f)
  | .vmul f => some (encVF 0x03 f)
  | .vfma f => some (encVF 0x04 f)
  | .vfms f => some (encVF 0x05 f)
  | .vmax f => some (encVF 0x06 f)
  | .vmin f => some (encVF 0x07 f)
  | .vabs f => some (encVF 0x08 f)
  | .vneg f => some (encVF 0x09 f)
  | .vrcp f => some (encVF 0x0A f)
  | .vrsq f => some (encVF 0x0B f)
  | .vexp2 f => some (encVF 0x0C f)
  | .vlog2 f => some (encVF 0x0D f)
  | .vcmp f => some (encVF 0x0E f)
  | .vsel f => some (encVF 0x0F f)
  | .vcvt f => some (encVF 0x10 f)
  | .vquant f => some (encVF 0x11 f)
  | .vmaxabs f => some (encVF 0x12 f)
  | .vred f => some (encVF 0x13 f)
  | .vperm f => some (encVF 0x14 f)
  | .vbcast f => some (encVF 0x15 f)
  | .vext f => some (encVF 0x16 f)
  | .vmov f => some (encVF 0x17 f)
  | .vIadd f => some (encVF 0x18 f)
  | .vIsub f => some (encVF 0x19 f)
  | .vIshl f => some (encVF 0x1A f)
  | .vIshr f => some (encVF 0x1B f)
  | .vIsra f => some (encVF 0x1C f)
  | .vIand f => some (encVF 0x1D f)
  | .vIor f => some (encVF 0x1E f)
  | .vIxor f => some (encVF 0x1F f)
  | .vImul f => some (encVF 0x20 f)
  | _ => none

def vFields (w : Nat) : Option Instr :=
  match w / 2 ^ 26 % 64 with
  | 0x01 => some (.vadd (decVF w))
  | 0x02 => some (.vsub (decVF w))
  | 0x03 => some (.vmul (decVF w))
  | 0x04 => some (.vfma (decVF w))
  | 0x05 => some (.vfms (decVF w))
  | 0x06 => some (.vmax (decVF w))
  | 0x07 => some (.vmin (decVF w))
  | 0x08 => some (.vabs (decVF w))
  | 0x09 => some (.vneg (decVF w))
  | 0x0A => some (.vrcp (decVF w))
  | 0x0B => some (.vrsq (decVF w))
  | 0x0C => some (.vexp2 (decVF w))
  | 0x0D => some (.vlog2 (decVF w))
  | 0x0E => some (.vcmp (decVF w))
  | 0x0F => some (.vsel (decVF w))
  | 0x10 => some (.vcvt (decVF w))
  | 0x11 => some (.vquant (decVF w))
  | 0x12 => some (.vmaxabs (decVF w))
  | 0x13 => some (.vred (decVF w))
  | 0x14 => some (.vperm (decVF w))
  | 0x15 => some (.vbcast (decVF w))
  | 0x16 => some (.vext (decVF w))
  | 0x17 => some (.vmov (decVF w))
  | 0x18 => some (.vIadd (decVF w))
  | 0x19 => some (.vIsub (decVF w))
  | 0x1A => some (.vIshl (decVF w))
  | 0x1B => some (.vIshr (decVF w))
  | 0x1C => some (.vIsra (decVF w))
  | 0x1D => some (.vIand (decVF w))
  | 0x1E => some (.vIor (decVF w))
  | 0x1F => some (.vIxor (decVF w))
  | 0x20 => some (.vImul (decVF w))
  | _ => none

/-- The word of an M-slot operation (R119). -/
def mWord (i : Instr) : Option Nat :=
  match i with
  | .mma g d a b msk topk km1 => some (encSlot 0x30 g (d.toNat * 2 ^ 20 + a.toNat * 2 ^ 15 + b.toNat * 2 ^ 10 + msk.toNat * 2 ^ 9 + topk.toNat * 2 ^ 8 + km1.toNat * 2 ^ 5))
  | .mz g d => some (encSlot 0x31 g (d.toNat * 2 ^ 20))
  | .mrd g d v a => some (encSlot 0x32 g (d.toNat * 2 ^ 20 + v.toNat * 2 ^ 14 + a.toNat * 2 ^ 9))
  | .mwr g d v a => some (encSlot 0x33 g (d.toNat * 2 ^ 20 + v.toNat * 2 ^ 14 + a.toNat * 2 ^ 9))
  | .mld g d a => some (encSlot 0x34 g (d.toNat * 2 ^ 20 + a.toNat * 2 ^ 15))
  | .mst g d a fc => some (encSlot 0x35 g (d.toNat * 2 ^ 20 + a.toNat * 2 ^ 15 + fc.toNat))
  | .mtree g a => some (encSlot 0x36 g (a.toNat * 2 ^ 15))
  | .mkld g a => some (encSlot 0x37 g (a.toNat * 2 ^ 15))
  | .rndPoly g d x n p nt => some (encSlot 0x38 g (d.toNat * 2 ^ 20 + x.toNat * 2 ^ 18 + n.toNat * 2 ^ 14 + p.toNat * 2 + nt.toNat))
  | .rndNs g x p nt => some (encSlot 0x39 g (x.toNat * 2 ^ 20 + p.toNat * 2 + nt.toNat))
  | .rndIsr g y z p nt => some (encSlot 0x3A g (y.toNat * 2 ^ 20 + z.toNat * 2 ^ 18 + p.toNat * 2 + nt.toNat))
  | .mtopkRd g d v => some (encSlot 0x3B g (d.toNat * 2 ^ 20 + v.toNat * 2 ^ 14))
  | _ => none

def mFields (w : Nat) : Option Instr :=
  match w / 2 ^ 26 % 64 with
  | 0x30 => some (.mma (BitVec.ofNat 4 (w / 2 ^ 22)) (BitVec.ofNat 2 (w / 2 ^ 20)) (BitVec.ofNat 5 (w / 2 ^ 15)) (BitVec.ofNat 5 (w / 2 ^ 10)) (BitVec.ofNat 1 (w / 2 ^ 9)) (BitVec.ofNat 1 (w / 2 ^ 8)) (BitVec.ofNat 3 (w / 2 ^ 5)))
  | 0x31 => some (.mz (BitVec.ofNat 4 (w / 2 ^ 22)) (BitVec.ofNat 2 (w / 2 ^ 20)))
  | 0x32 => some (.mrd (BitVec.ofNat 4 (w / 2 ^ 22)) (BitVec.ofNat 2 (w / 2 ^ 20)) (BitVec.ofNat 6 (w / 2 ^ 14)) (BitVec.ofNat 5 (w / 2 ^ 9)))
  | 0x33 => some (.mwr (BitVec.ofNat 4 (w / 2 ^ 22)) (BitVec.ofNat 2 (w / 2 ^ 20)) (BitVec.ofNat 6 (w / 2 ^ 14)) (BitVec.ofNat 5 (w / 2 ^ 9)))
  | 0x34 => some (.mld (BitVec.ofNat 4 (w / 2 ^ 22)) (BitVec.ofNat 2 (w / 2 ^ 20)) (BitVec.ofNat 5 (w / 2 ^ 15)))
  | 0x35 => some (.mst (BitVec.ofNat 4 (w / 2 ^ 22)) (BitVec.ofNat 2 (w / 2 ^ 20)) (BitVec.ofNat 5 (w / 2 ^ 15)) (BitVec.ofNat 4 w))
  | 0x36 => some (.mtree (BitVec.ofNat 4 (w / 2 ^ 22)) (BitVec.ofNat 5 (w / 2 ^ 15)))
  | 0x37 => some (.mkld (BitVec.ofNat 4 (w / 2 ^ 22)) (BitVec.ofNat 5 (w / 2 ^ 15)))
  | 0x38 => some (.rndPoly (BitVec.ofNat 4 (w / 2 ^ 22)) (BitVec.ofNat 2 (w / 2 ^ 20)) (BitVec.ofNat 2 (w / 2 ^ 18)) (BitVec.ofNat 4 (w / 2 ^ 14)) (BitVec.ofNat 4 (w / 2 ^ 1)) (BitVec.ofNat 1 w))
  | 0x39 => some (.rndNs (BitVec.ofNat 4 (w / 2 ^ 22)) (BitVec.ofNat 2 (w / 2 ^ 20)) (BitVec.ofNat 4 (w / 2 ^ 1)) (BitVec.ofNat 1 w))
  | 0x3A => some (.rndIsr (BitVec.ofNat 4 (w / 2 ^ 22)) (BitVec.ofNat 2 (w / 2 ^ 20)) (BitVec.ofNat 2 (w / 2 ^ 18)) (BitVec.ofNat 4 (w / 2 ^ 1)) (BitVec.ofNat 1 w))
  | 0x3B => some (.mtopkRd (BitVec.ofNat 4 (w / 2 ^ 22)) (BitVec.ofNat 2 (w / 2 ^ 20)) (BitVec.ofNat 6 (w / 2 ^ 14)))
  | _ => none

/-- The slot classes of a bundle (R113). -/
inductive SlotClass where
  | s | l | v | m | c
  deriving DecidableEq, Repr

def slotWord (k : SlotClass) (i : Instr) : Option Nat :=
  match k with
  | .s => sWord i | .l => lWord i | .v => vWord i | .m => mWord i | .c => commandWord i

def slotFields (k : SlotClass) (w : Nat) : Option Instr :=
  match k with
  | .s => sFields w | .l => lFields w | .v => vFields w | .m => mFields w | .c => commandFields w

/-- The initialising ring.arm of a tile body has a zero A (R127). -/
def tileArm (i : Instr) : Bool :=
  match i with
  | .ringArmInit f => f.a == 0
  | _ => true

/-- An operation of a slot class from its fields, or the admission code of R127: 0x04 an unassigned
opcode, 0x05 a refused field, 0x06 a special-register number, 0x0A an initialising ring.arm with a
nonzero A, 0x0B an engine command's illegal field. -/
def decodeSlot (k : SlotClass) (w : Nat) : Except Nat Instr :=
  match slotFields k w with
  | none => .error 0x04
  | some i =>
    if slotWord k i = some w ∧ i.wf = true ∧ tileArm i = true then .ok i
    else match i with
      | .teRds _ _ _ => .error (if slotWord k i = some w then 0x06 else 0x05)
      | .teWrs _ _ _ => .error (if slotWord k i = some w then 0x06 else 0x05)
      | .ringArmInit f => .error (if f.a = 0 then 0x0B else 0x0A)
      | _ => .error (if k = .c then 0x0B else 0x05)

/-! ## Lane instructions (R123, R124) -/

def encLane (op : Nat) (f : LaneF) : Nat :=
  f.imm.toNat * 2 ^ 64 + op * 2 ^ 54 + f.d.toNat * 2 ^ 47 + f.a.toNat * 2 ^ 40 + f.b.toNat * 2 ^ 33 +
    f.c.toNat * 2 ^ 26 + f.ge.toNat * 2 ^ 25 + f.g.toNat * 2 ^ 22 + f.gn.toNat * 2 ^ 21 + f.t.toNat * 2 ^ 18 +
    f.i.toNat * 2 ^ 17 + f.pw.toNat * 2 ^ 16 + f.f8.toNat * 2 ^ 8 + f.f0.toNat
def decLane (w : Nat) : LaneF :=
  { imm := BitVec.ofNat 32 (w / 2 ^ 64), d := BitVec.ofNat 7 (w / 2 ^ 47), a := BitVec.ofNat 7 (w / 2 ^ 40),
    b := BitVec.ofNat 7 (w / 2 ^ 33), c := BitVec.ofNat 7 (w / 2 ^ 26), ge := BitVec.ofNat 1 (w / 2 ^ 25),
    g := BitVec.ofNat 3 (w / 2 ^ 22), gn := BitVec.ofNat 1 (w / 2 ^ 21), t := BitVec.ofNat 3 (w / 2 ^ 18),
    i := BitVec.ofNat 1 (w / 2 ^ 17), pw := BitVec.ofNat 1 (w / 2 ^ 16), f8 := BitVec.ofNat 8 (w / 2 ^ 8),
    f0 := BitVec.ofNat 8 w }

/-- Opcode and fields of a lane instruction (R124). -/
def laneParts (i : Instr) : Option (Nat × LaneF) :=
  match i with
  | .fadd f => some (0x001, f)
  | .fsub f => some (0x002, f)
  | .fmul f => some (0x003, f)
  | .ffma f => some (0x004, f)
  | .ffms f => some (0x005, f)
  | .fmin f => some (0x006, f)
  | .fmax f => some (0x007, f)
  | .fabs f => some (0x008, f)
  | .fneg f => some (0x009, f)
  | .frcp f => some (0x00A, f)
  | .frsq f => some (0x00B, f)
  | .fexp2 f => some (0x00C, f)
  | .flog2 f => some (0x00D, f)
  | .fcmp f => some (0x00E, f)
  | .fsel f => some (0x00F, f)
  | .cvt f => some (0x010, f)
  | .iadd f => some (0x020, f)
  | .isub f => some (0x021, f)
  | .imul f => some (0x022, f)
  | .imulh f => some (0x023, f)
  | .imin f => some (0x024, f)
  | .imax f => some (0x025, f)
  | .iand f => some (0x026, f)
  | .ior f => some (0x027, f)
  | .ixor f => some (0x028, f)
  | .ishl f => some (0x029, f)
  | .ishr f => some (0x02A, f)
  | .isra f => some (0x02B, f)
  | .icmp f => some (0x02C, f)
  | .popc f => some (0x02D, f)
  | .clz f => some (0x02E, f)
  | .bperm f => some (0x030, f)
  | .bfx f => some (0x031, f)
  | .bfi f => some (0x032, f)
  | .shfl f => some (0x038, f)
  | .bcast f => some (0x039, f)
  | .vote f => some (0x03A, f)
  | .lld f => some (0x040, f)
  | .lst f => some (0x041, f)
  | .lldc f => some (0x042, f)
  | .lstc f => some (0x043, f)
  | .lldp f => some (0x044, f)
  | .lblk f => some (0x045, f)
  | .aadd f => some (0x048, f)
  | .amin f => some (0x049, f)
  | .amax f => some (0x04A, f)
  | .aand f => some (0x04B, f)
  | .aor f => some (0x04C, f)
  | .axor f => some (0x04D, f)
  | .axchg f => some (0x04E, f)
  | .acas f => some (0x04F, f)
  | .amaxvi f => some (0x050, f)
  | .gumbel f => some (0x058, f)
  | .nhash f => some (0x059, f)
  | .lmma f => some (0x060, f)
  | .laccRd f => some (0x061, f)
  | .laccWr f => some (0x062, f)
  | .hdot2 f => some (0x300, f)
  | .lerp f => some (0x301, f)
  | .isad f => some (0x302, f)
  | _ => none

/-- The 96-bit word of a lane instruction. -/
def laneWord (i : Instr) : Option Nat := (laneParts i).map (fun p => encLane p.1 p.2)

/-- The lane instruction an opcode names (R124). -/
def laneOf (op : Nat) (f : LaneF) : Option Instr :=
  match op with
  | 0x001 => some (.fadd f)
  | 0x002 => some (.fsub f)
  | 0x003 => some (.fmul f)
  | 0x004 => some (.ffma f)
  | 0x005 => some (.ffms f)
  | 0x006 => some (.fmin f)
  | 0x007 => some (.fmax f)
  | 0x008 => some (.fabs f)
  | 0x009 => some (.fneg f)
  | 0x00A => some (.frcp f)
  | 0x00B => some (.frsq f)
  | 0x00C => some (.fexp2 f)
  | 0x00D => some (.flog2 f)
  | 0x00E => some (.fcmp f)
  | 0x00F => some (.fsel f)
  | 0x010 => some (.cvt f)
  | 0x020 => some (.iadd f)
  | 0x021 => some (.isub f)
  | 0x022 => some (.imul f)
  | 0x023 => some (.imulh f)
  | 0x024 => some (.imin f)
  | 0x025 => some (.imax f)
  | 0x026 => some (.iand f)
  | 0x027 => some (.ior f)
  | 0x028 => some (.ixor f)
  | 0x029 => some (.ishl f)
  | 0x02A => some (.ishr f)
  | 0x02B => some (.isra f)
  | 0x02C => some (.icmp f)
  | 0x02D => some (.popc f)
  | 0x02E => some (.clz f)
  | 0x030 => some (.bperm f)
  | 0x031 => some (.bfx f)
  | 0x032 => some (.bfi f)
  | 0x038 => some (.shfl f)
  | 0x039 => some (.bcast f)
  | 0x03A => some (.vote f)
  | 0x040 => some (.lld f)
  | 0x041 => some (.lst f)
  | 0x042 => some (.lldc f)
  | 0x043 => some (.lstc f)
  | 0x044 => some (.lldp f)
  | 0x045 => some (.lblk f)
  | 0x048 => some (.aadd f)
  | 0x049 => some (.amin f)
  | 0x04A => some (.amax f)
  | 0x04B => some (.aand f)
  | 0x04C => some (.aor f)
  | 0x04D => some (.axor f)
  | 0x04E => some (.axchg f)
  | 0x04F => some (.acas f)
  | 0x050 => some (.amaxvi f)
  | 0x058 => some (.gumbel f)
  | 0x059 => some (.nhash f)
  | 0x060 => some (.lmma f)
  | 0x061 => some (.laccRd f)
  | 0x062 => some (.laccWr f)
  | 0x300 => some (.hdot2 f)
  | 0x301 => some (.lerp f)
  | 0x302 => some (.isad f)
  | _ => none

/-- Decode 96 bits of the lane stream; none is the illegal instruction of R126. -/
def decodeLane (w : Nat) : Option Instr :=
  match laneOf (w / 2 ^ 54 % 1024) (decLane w) with
  | none => none
  | some i => if laneWord i = some w ∧ i.wf = true then some i else none

/-! ## Encoding and the table's numbering -/

/-- The 32-bit words of an encoded instruction, first word first; a step of a unit has none. -/
def encode (i : Instr) : List W32 :=
  match scalarWord i with
  | some w => [BitVec.ofNat 32 w]
  | none =>
    match laneWord i with
    | some w => [BitVec.ofNat 32 w, BitVec.ofNat 32 (w / 2 ^ 32), BitVec.ofNat 32 (w / 2 ^ 64)]
    | none =>
      match sWord i, lWord i, vWord i, mWord i with
      | some w, _, _, _ => [BitVec.ofNat 32 w]
      | _, some w, _, _ => [BitVec.ofNat 32 w]
      | _, _, some w, _ => [BitVec.ofNat 32 w]
      | _, _, _, some w => [BitVec.ofNat 32 w]
      | _, _, _, _ => []

/-- The instruction the decoder reads from an instruction of the given bits: a lane instruction when
the table gives 96 bits, else a word of the edge scalar stream. -/
def decodeTableWord (nbits w : Nat) : Option Instr :=
  if nbits = 96 then decodeLane (w % 2 ^ 96) else decodeScalar (w % 2 ^ 32)

end Sys2Proof
end

