-- ==== Sys2Proof/Machine/Fp.lean ====
section
/-! DEFINITION. Number formats, rounding, special values, the noise hash and the transcendentals (R54 to R72). -/

namespace Sys2Proof

/-- The storage formats of R54, by register code 0 to 8. -/
inductive NumFmt where
  | fp32 | bf16 | fp16 | e4m3 | e5m2 | l6 | int8 | uint8 | int32
  deriving DecidableEq, Repr

/-- The format of a register code; codes 9 to 15 are reserved (R54). -/
def NumFmt.ofCode (c : Nat) : Option NumFmt :=
  match c with
  | 0 => some .fp32 | 1 => some .bf16 | 2 => some .fp16 | 3 => some .e4m3 | 4 => some .e5m2
  | 5 => some .l6 | 6 => some .int8 | 7 => some .uint8 | 8 => some .int32
  | _ => none

/-- Element width in bits (R54). -/
def NumFmt.width : NumFmt → Nat
  | .fp32 => 32 | .bf16 => 16 | .fp16 => 16 | .e4m3 => 8 | .e5m2 => 8
  | .l6 => 6 | .int8 => 8 | .uint8 => 8 | .int32 => 32

/-- Exponent bits, fraction bits and bias of the binary floating formats (R54). -/
def NumFmt.efb : NumFmt → Nat × Nat × Nat
  | .fp32 => (8, 23, 127) | .bf16 => (8, 7, 127) | .fp16 => (5, 10, 15)
  | .e4m3 => (4, 3, 7) | .e5m2 => (5, 2, 15)
  | _ => (0, 0, 0)

/-- Whether the format is an integer format. -/
def NumFmt.isInt : NumFmt → Bool
  | .int8 | .uint8 | .int32 => true
  | _ => false

/-- A decoded value: NaN, an infinity, or sign, magnitude and exponent, the value being
plus or minus m × 2^e; a zero keeps its sign. -/
inductive FVal where
  | nan
  | inf (neg : Bool)
  | fin (neg : Bool) (m : Nat) (e : Int)
  deriving DecidableEq, Repr

/-- The sticky conditions of fmt[27:24] (R59). -/
structure FFlags where
  uf : Bool := false
  of_ : Bool := false
  nv : Bool := false
  sat : Bool := false
  deriving DecidableEq, Repr

def FFlags.or (a b : FFlags) : FFlags :=
  { uf := a.uf || b.uf, of_ := a.of_ || b.of_, nv := a.nv || b.nv, sat := a.sat || b.sat }

/-- fmt[27:24] as a number in place (R59). -/
def FFlags.bits (f : FFlags) : Nat :=
  b2n f.uf * 2 ^ 27 + b2n f.of_ * 2 ^ 26 + b2n f.nv * 2 ^ 25 + b2n f.sat * 2 ^ 24

/-- A rounding mode; stochastic rounding carries the 24-bit sample x[63:40] of R63. -/
inductive Rnd where
  | rne | rz | ru | rd
  | sr (sample : Nat)
  deriving DecidableEq, Repr

/-- Stochastic taken as RNE (R62). -/
def Rnd.noSr : Rnd → Rnd
  | .sr _ => .rne
  | m => m

/-! ## L6 -/

/-- T[f] of R56. -/
def l6T (f : Nat) : Nat := match f with
  | 0 => 0x8000 | 1 => 0x9838 | 2 => 0xB505 | _ => 0xD745

/-- The magnitude of code L in units of 2^-22 (R56). -/
def l6Mag (l : Nat) : Nat := if l = 0 then 0 else l6T (l % 4) * 2 ^ (l / 4)

def l6Val (bits : Nat) : FVal :=
  let l := bits % 32
  if l = 0 then .fin false 0 0 else .fin (bitAt bits 5) (l6Mag l) (-22)

/-- PROD6 of R57 as sign, magnitude and exponent; a product with a zero code is plus 0. -/
def prod6 (a b : Nat) : FVal :=
  let la := a % 32
  let lb := b % 32
  if la = 0 ∨ lb = 0 then .fin false 0 0
  else
    let s := la + lb
    .fin (bitAt a 5 != bitAt b 5) (l6T (s % 4)) (((s / 4 : Nat) : Int) - 14 - 15)

/-! ## Decoding -/

/-- The value of an element's bits (R54, R56). -/
def NumFmt.decode (f : NumFmt) (bits : Nat) : FVal :=
  match f with
  | .l6 => l6Val bits
  | .int8 => .fin (decide (sx 8 (bits % 256) < 0)) (sx 8 (bits % 256)).natAbs 0
  | .uint8 => .fin false (bits % 256) 0
  | .int32 => .fin (decide (sx 32 (bits % 2 ^ 32) < 0)) (sx 32 (bits % 2 ^ 32)).natAbs 0
  | _ =>
    let (eb, fb, bias) := f.efb
    let fr := bits % 2 ^ fb
    let ex := bits / 2 ^ fb % 2 ^ eb
    let neg := bitAt bits (eb + fb)
    if f = .e4m3 ∧ ex = 15 ∧ fr = 7 then .nan
    else if f ≠ .e4m3 ∧ ex = 2 ^ eb - 1 then (if fr = 0 then .inf neg else .nan)
    else if ex = 0 then .fin neg fr (1 - (bias : Int) - fb)
    else .fin neg (2 ^ fb + fr) ((ex : Int) - bias - fb)

/-- Whether the bits are a nonzero subnormal of a binary floating format (R54). -/
def NumFmt.isSubnormal (f : NumFmt) (bits : Nat) : Bool :=
  let (eb, fb, _) := f.efb
  eb != 0 && bits / 2 ^ fb % 2 ^ eb == 0 && bits % 2 ^ fb != 0

/-- The value read as an operand: with FLUSH a subnormal reads as zero of its sign (R65). -/
def NumFmt.read (f : NumFmt) (flush : Bool) (bits : Nat) : FVal :=
  match f.decode bits with
  | .fin s m e => if flush && f.isSubnormal bits then .fin s 0 0 else .fin s m e
  | v => v

/-! ## Rounding -/

/-- Whether rounding takes the magnitude next above, for a discarded part rem of 2^sh with a
nonzero tail beyond when sticky (R62, R63). -/
def roundUp (mode : Rnd) (neg : Bool) (lo rem sh : Nat) (sticky : Bool) : Bool :=
  if rem = 0 ∧ sticky = false then false else
  match mode with
  | .rne => (2 * rem > 2 ^ sh) || (2 * rem == 2 ^ sh && (sticky || lo % 2 == 1))
  | .rz => false
  | .ru => !neg
  | .rd => neg
  | .sr x => x < rem * 2 ^ 24 / 2 ^ sh

/-- m × 2^e (plus a positive tail below one unit of m when sticky) rounded to a multiple of 2^q:
the multiple, and whether it was inexact. -/
def roundAt (mode : Rnd) (neg : Bool) (m : Nat) (e q : Int) (sticky : Bool) : Nat × Bool :=
  if q ≤ e then
    let v := m * 2 ^ (e - q).toNat
    if sticky then ((if roundUp mode neg v 0 1 true then v + 1 else v), true) else (v, false)
  else
    let sh := (q - e).toNat
    let lo := m / 2 ^ sh
    let rem := m % 2 ^ sh
    ((if roundUp mode neg lo rem sh sticky then lo + 1 else lo), rem != 0 || sticky)

/-- The overflow column of R64: whether the infinity (or NaN) column applies. -/
def ovfMiddle (mode : Rnd) (neg : Bool) : Bool :=
  match mode with
  | .rne => true | .sr _ => true | .rz => false | .ru => !neg | .rd => neg

/-- Bits of the largest finite magnitude, of infinity and of the canonical NaN (R54, R65). -/
def NumFmt.maxBits : NumFmt → Nat
  | .fp32 => 0x7F7FFFFF | .bf16 => 0x7F7F | .fp16 => 0x7BFF | .e4m3 => 0x7E | .e5m2 => 0x7B
  | .l6 => 31 | _ => 0
def NumFmt.infBits : NumFmt → Nat
  | .fp32 => 0x7F800000 | .bf16 => 0x7F80 | .fp16 => 0x7C00 | .e5m2 => 0x7C | .e4m3 => 0x7F
  | _ => 0
def NumFmt.nanBits : NumFmt → Nat
  | .fp32 => 0x7FC00000 | .bf16 => 0x7FC0 | .fp16 => 0x7E00 | .e4m3 => 0x7F | .e5m2 => 0x7E
  | _ => 0

def NumFmt.signBit (f : NumFmt) : Nat := 2 ^ (f.width - 1)

/-- The overflow outcome of R64 for a binary floating format or L6. -/
def NumFmt.overflow (f : NumFmt) (mode : Rnd) (satf neg : Bool) : Nat :=
  let s := if neg then f.signBit else 0
  if f = .l6 then s + 31
  else if satf || !ovfMiddle mode neg then s + f.maxBits
  else s + f.infBits

/-- Exponent of the last place for a magnitude m × 2^e in a binary format. -/
def lastPlace (f : NumFmt) (m : Nat) (e : Int) : Int :=
  let (_, fb, bias) := f.efb
  let emin : Int := 1 - (bias : Int) - fb
  let n : Int := (Nat.log2 m : Int) + e - fb
  if n < emin then emin else n

/-- Bits of the magnitude k × 2^q of a binary format, q being its last place; none above the largest finite. -/
def packMag (f : NumFmt) (k : Nat) (q : Int) : Option Nat :=
  let (eb, fb, bias) := f.efb
  if k = 0 then some 0
  else
    let (k, q) := if k = 2 ^ (fb + 1) then (2 ^ fb, q + 1) else (k, q)
    if k < 2 ^ fb then some k
    else
      let ex : Int := q + fb + bias
      let w := ex.toNat * 2 ^ fb + (k - 2 ^ fb)
      if ex < 2 ^ eb ∧ w ≤ f.maxBits then some w else none

/-- A nonzero finite magnitude rounded once to a binary floating format (R62 to R65). -/
def roundBin (f : NumFmt) (mode : Rnd) (satf flush neg : Bool) (m : Nat) (e : Int) (sticky : Bool) :
    Nat × FFlags :=
  let q := lastPlace f m e
  let s := if neg then f.signBit else 0
  -- stochastic rounding whose upper neighbour is not finite rounds as RNE (R63)
  let mode := match mode with
    | .sr x => (match packMag f ((roundAt .rz neg m e q sticky).1 + 1) q with
        | some _ => .sr x
        | none => .rne)
    | md => md
  let (k, _) := roundAt mode neg m e q sticky
  match packMag f k q with
  | none => (f.overflow mode satf neg, { of_ := true })
  | some w =>
    if w = 0 then (s, { uf := true })
    else if flush && f.isSubnormal w then (s, { uf := true })
    else (s + w, {})

/-- The greatest L6 code (extended by one code, 32) at or below m × 2^e, and whether it is exact. -/
def l6Below (m : Nat) (e : Int) (sticky : Bool) : Nat × Bool :=
  -- compare in units of 2^-22 scaled so that both sides are whole
  let up := (e + 22).toNat
  let dn := (-(e + 22)).toNat
  let v := m * 2 ^ up
  let mag := fun (l : Nat) => (if l = 32 then 0x8000 * 2 ^ 8 else l6Mag l) * 2 ^ dn
  let l := ((span 1 32).filter (fun l => mag l ≤ v)).length
  (l, mag l == v && !sticky)

def l6MagX (l : Nat) : Nat := if l = 32 then 0x8000 * 2 ^ 8 else l6Mag l

/-- A nonzero finite magnitude rounded to L6; the tie goes to the even code (R62, R63, R70). -/
def roundL6 (mode : Rnd) (neg : Bool) (m : Nat) (e : Int) (sticky : Bool) : Nat × FFlags :=
  let s := if neg then 32 else 0
  let (l, exact) := l6Below m e sticky
  if 32 ≤ l then (s + 31, { of_ := true })
  else if exact then (if l = 0 then (0, { uf := true }) else (s + l, {}))
  else
    let up := (e + 22).toNat
    let dn := (-(e + 22)).toNat
    let v := m * 2 ^ up
    let a := l6MagX l * 2 ^ dn
    let b := l6MagX (l + 1) * 2 ^ dn
    let rne := (2 * v > a + b) || (2 * v == a + b && (sticky || l % 2 == 1))
    let goUp := match mode with
      | .rne => rne
      | .rz => false
      | .ru => !neg
      | .rd => neg
      | .sr x => if l = 31 then rne else x < (v - a) * 2 ^ 24 / (b - a)
    let r := if goUp then l + 1 else l
    if r = 32 then (s + 31, { of_ := true })
    else if r = 0 then (0, { uf := true })
    else (s + r, {})

/-- Range ends of an integer format. -/
def NumFmt.intRange : NumFmt → Int × Int
  | .int8 => (-128, 127) | .uint8 => (0, 255) | _ => (-(2 ^ 31), 2 ^ 31 - 1)

/-- Conversion of a value to an integer format (R64). -/
def roundInt (f : NumFmt) (mode : Rnd) (v : FVal) : Nat × FFlags :=
  let (lo, hi) := f.intRange
  match v with
  | .nan => (0, { nv := true })
  | .inf neg => (wrapN f.width (if neg then lo else hi), { sat := true })
  | .fin neg m e =>
    let k := (roundAt mode.noSr neg m e 0 false).1
    let i : Int := if neg then -(k : Int) else k
    if f = .uint8 ∧ neg ∧ m ≠ 0 then (0, { sat := true })
    else if i < lo then (wrapN f.width lo, { sat := true })
    else if hi < i then (wrapN f.width hi, { sat := true })
    else (wrapN f.width i, {})

/-- Delivery of an arithmetic result to FP32 (or BF16, FP16): SATF does not act (R64). -/
def deliver (f : NumFmt) (mode : Rnd) (flush : Bool) (v : FVal) (sticky : Bool := false) : Nat × FFlags :=
  let mode := if f = .fp32 then mode.noSr else mode
  match v with
  | .nan => (f.nanBits, {})
  | .inf neg => ((if neg then f.signBit else 0) + f.infBits, {})
  | .fin neg m e =>
    if m = 0 ∧ sticky = false then ((if neg then f.signBit else 0), {})
    else roundBin f mode false flush neg m e sticky

/-- Conversion of a decoded value to a format (R62 to R65). DESIGN CHOICE (log entry 79): an infinite operand converted to
E4M3 or L6 follows the middle column of R64 only where SATF is 0; with SATF 1 it clamps, as every other overflow does. -/
def convertTo (f : NumFmt) (mode : Rnd) (satf flush : Bool) (v : FVal) : Nat × FFlags :=
  if f.isInt then roundInt f mode v else
  let mode := if f = .fp32 then mode.noSr else mode
  match v with
  | .nan => if f = .l6 then (0, { nv := true }) else (f.nanBits, {})
  | .inf neg =>
    if f = .l6 ∨ f = .e4m3 then (f.overflow .rne satf neg, { of_ := true })
    else ((if neg then f.signBit else 0) + f.infBits, {})
  | .fin neg m e =>
    if m = 0 then ((if neg && f != .l6 then f.signBit else 0), {})
    else if f = .l6 then roundL6 mode neg m e false
    else roundBin f mode satf flush neg m e false

/-! ## Exact arithmetic -/

/-- The signed integer of a finite value at exponent q, where q is at most its exponent. -/
def dyAt (neg : Bool) (m : Nat) (e q : Int) : Int :=
  let k : Int := m * 2 ^ (e - q).toNat
  if neg then -k else k

/-- The finite value of a signed integer times 2^q. An exact zero is plus 0. -/
def ofDy (k q : Int) : FVal := .fin (decide (k < 0)) k.natAbs q

def FVal.neg : FVal → FVal
  | .nan => .nan
  | .inf s => .inf (!s)
  | .fin s m e => .fin (!s) m e

def FVal.abs : FVal → FVal
  | .nan => .nan
  | .inf _ => .inf false
  | .fin _ m e => .fin false m e

def FVal.isNan : FVal → Bool
  | .nan => true
  | _ => false
def FVal.isInf : FVal → Bool
  | .inf _ => true
  | _ => false
def FVal.isZero : FVal → Bool
  | .fin _ 0 _ => true
  | _ => false
def FVal.isNeg : FVal → Bool
  | .nan => false
  | .inf s => s
  | .fin s _ _ => s

/-- The sign of an exact sum of zero: both zeros negative gives minus 0; a sum that cancels is
plus 0, and minus 0 when rounding down (IEEE 754, whose binary32 the format is). -/
def zeroSign (mode : Rnd) (a b : Bool) : Bool := if a = b then a else mode == .rd

/-- Exact sum of two finite values with the zero-sign convention. -/
def addFin (mode : Rnd) (s1 : Bool) (m1 : Nat) (e1 : Int) (s2 : Bool) (m2 : Nat) (e2 : Int) : FVal :=
  if m1 = 0 ∧ m2 = 0 then .fin (zeroSign mode s1 s2) 0 0
  else
    let q := if m1 = 0 then e2 else if m2 = 0 then e1 else if e1 < e2 then e1 else e2
    let k := (if m1 = 0 then 0 else dyAt s1 m1 e1 q) + (if m2 = 0 then 0 else dyAt s2 m2 e2 q)
    if k = 0 then .fin (mode == .rd) 0 0 else ofDy k q

/-- Exact sum: infinity minus infinity is invalid (R65). -/
def fAdd (mode : Rnd) (a b : FVal) : FVal × FFlags :=
  match a, b with
  | .nan, _ => (.nan, {})
  | _, .nan => (.nan, {})
  | .inf s, .inf t => if s = t then (.inf s, {}) else (.nan, { nv := true })
  | .inf s, .fin _ _ _ => (.inf s, {})
  | .fin _ _ _, .inf t => (.inf t, {})
  | .fin s1 m1 e1, .fin s2 m2 e2 => (addFin mode s1 m1 e1 s2 m2 e2, {})

/-- Exact product: zero times infinity is invalid (R65). -/
def fMul (a b : FVal) : FVal × FFlags :=
  match a, b with
  | .nan, _ => (.nan, {})
  | _, .nan => (.nan, {})
  | .inf s, .inf t => (.inf (s != t), {})
  | .inf s, .fin t m _ => if m = 0 then (.nan, { nv := true }) else (.inf (s != t), {})
  | .fin s m _, .inf t => if m = 0 then (.nan, { nv := true }) else (.inf (s != t), {})
  | .fin s1 m1 e1, .fin s2 m2 e2 => (.fin (s1 != s2) (m1 * m2) (e1 + e2), {})

/-- Exact a × b + c, rounded by the caller once. DESIGN CHOICE (log entry 80): 0 × ∞ is invalid and sets NV also where the
addend is a NaN, on which R59 and R65 together are silent. -/
def fFma (mode : Rnd) (a b c : FVal) : FVal × FFlags :=
  let (p, f1) := fMul a b
  if c.isNan then (.nan, f1) else
  let (r, f2) := fAdd mode p c
  (r, f1.or f2)

/-- Whether a is below b, for operands that are not NaN; zeros of either sign are equal. -/
def fLt (a b : FVal) : Bool :=
  match a, b with
  | .nan, _ => false
  | _, .nan => false
  | .inf s, .inf t => s && !t
  | .inf s, _ => s
  | _, .inf t => !t
  | .fin s1 m1 e1, .fin s2 m2 e2 =>
    let q := if e1 < e2 then e1 else e2
    dyAt s1 m1 e1 q < dyAt s2 m2 e2 q

def fEq (a b : FVal) : Bool :=
  match a, b with
  | .nan, _ => false
  | _, .nan => false
  | _, _ => !fLt a b && !fLt b a

/-! ## The noise hash (R71) -/

def hashRound (k x : Nat) : Nat :=
  let x := Nat.xor x k
  let x := x * 0x9E3779B97F4A7C15 % 2 ^ 64
  Nat.xor x (x / 2 ^ 29)

/-- HASH(K, C) of R71. -/
def hash64 (k c : Nat) : Nat := hashRound k (hashRound k (hashRound k (hashRound k (c % 2 ^ 64))))

/-- The sample of stochastic rounding for element e: x[63:40] (R63). -/
def srSample (key ctr e : Nat) : Nat := hash64 key ((ctr + e) % 2 ^ 64) / 2 ^ 40

/-! ## Transcendentals (R72): fixed-point evaluation with 256 fraction bits, far past the last place -/

def txBits : Nat := 256
def txOne : Nat := 2 ^ txBits

/-- Σ z^(2k+1) / (2k+1) by its term: the current power, the square of z, the index. -/
def atanhSum (z2 : Nat) : Nat → Nat → Nat → Nat → Nat
  | 0, _, _, acc => acc
  | n + 1, k, p, acc => atanhSum z2 n (k + 1) (p * z2 / txOne) (acc + p / (2 * k + 1))

/-- ln(m / 2^s) in fixed point for 1 ≤ m / 2^s ≤ 2. -/
def lnFix (m s : Nat) : Nat :=
  let z := (m - 2 ^ s) * txOne / (m + 2 ^ s)
  2 * atanhSum (z * z / txOne) 90 0 z 0

/-- ln 2 in fixed point. -/
def ln2Fix : Nat := lnFix 2 0

/-- Σ t^k / k! in fixed point. -/
def expSum (t : Nat) : Nat → Nat → Nat → Nat → Nat
  | 0, _, _, acc => acc
  | n + 1, k, p, acc => expSum t n (k + 1) (p * t / txOne / (k + 1)) (acc + p)

/-- ln(m × 2^e) as a signed fixed-point number, m nonzero. -/
def lnSigned (m : Nat) (e : Int) : Int :=
  let s := Nat.log2 m
  (e + s) * (ln2Fix : Int) + (lnFix m s : Int)

/-- log2 of a positive finite value: exact for a power of two, else a truncated value with a tail. -/
def log2Val (m : Nat) (e : Int) : FVal × Bool :=
  let s := Nat.log2 m
  if m = 2 ^ s then (ofDy (e + s) 0, false)
  else
    let l := lnSigned m e
    let k := (l.natAbs * txOne) / ln2Fix
    (.fin (decide (l < 0)) k (-(txBits : Int)), true)

/-- exp2 of a finite nonzero value. -/
def exp2Val (neg : Bool) (m : Nat) (e : Int) : FVal × Bool :=
  -- clamp far arguments: every result past 2^512 or below 2^-512 rounds alike
  if (Nat.log2 m : Int) + e ≥ 9 then (.fin false 1 (if neg then -600 else 600), true)
  else
    let q : Int := if e < 0 then e else 0
    let k := dyAt neg m e q
    let unit : Int := 2 ^ (-q).toNat
    let n := k / unit
    let f := (k % unit).toNat
    if f = 0 then (.fin false 1 n, false)
    else
      let t := f * ln2Fix / unit.toNat
      (.fin false (expSum t 80 0 txOne 0) (n - txBits), true)

/-- 1 / (m × 2^e) truncated, with a tail when inexact. -/
def rcpVal (neg : Bool) (m : Nat) (e : Int) : FVal × Bool :=
  let k := Nat.log2 m + 64
  (.fin neg (2 ^ k / m) (-(k : Int) - e), 2 ^ k % m != 0)

/-- 1 / sqrt(m × 2^e) truncated, with a tail when inexact. -/
def rsqVal (m : Nat) (e : Int) : FVal × Bool :=
  let (m, e) := if e % 2 = 0 then (m, e) else (2 * m, e - 1)
  let k := Nat.log2 m + 64
  let r := isqrtBits (2 ^ (2 * k) / m) (k + 1) 0
  (.fin false r (-(k : Int) - e / 2), r * r * m != 2 ^ (2 * k))

/-- The FP32 results of R72 on a read operand, delivered in the mode of RND with stochastic as RNE. -/
def fRcp (mode : Rnd) (flush : Bool) (a : FVal) : Nat × FFlags :=
  match a with
  | .nan => (NumFmt.fp32.nanBits, {})
  | .inf s => deliver .fp32 mode flush (.fin s 0 0)
  | .fin s 0 _ => deliver .fp32 mode flush (.inf s)
  | .fin s m e => let (v, t) := rcpVal s m e; deliver .fp32 mode flush v t

def fRsq (mode : Rnd) (flush : Bool) (a : FVal) : Nat × FFlags :=
  match a with
  | .nan => (NumFmt.fp32.nanBits, {})
  | .inf s => if s then (NumFmt.fp32.nanBits, { nv := true }) else (0, {})
  | .fin s 0 _ => deliver .fp32 mode flush (.inf s)
  | .fin s m e =>
    if s then (NumFmt.fp32.nanBits, { nv := true })
    else let (v, t) := rsqVal m e; deliver .fp32 mode flush v t

def fExp2 (mode : Rnd) (flush : Bool) (a : FVal) : Nat × FFlags :=
  match a with
  | .nan => (NumFmt.fp32.nanBits, {})
  | .inf s => if s then (0, {}) else deliver .fp32 mode flush (.inf false)
  | .fin _ 0 _ => (0x3F800000, {})
  | .fin s m e => let (v, t) := exp2Val s m e; deliver .fp32 mode flush v t

def fLog2 (mode : Rnd) (flush : Bool) (a : FVal) : Nat × FFlags :=
  match a with
  | .nan => (NumFmt.fp32.nanBits, {})
  | .inf s => if s then (NumFmt.fp32.nanBits, { nv := true }) else deliver .fp32 mode flush (.inf false)
  | .fin _ 0 _ => deliver .fp32 mode flush (.inf true)
  | .fin s m e =>
    if s then (NumFmt.fp32.nanBits, { nv := true })
    else let (v, t) := log2Val m e; deliver .fp32 mode flush v t

/-- GUMBEL(K, C) of R71: two correctly rounded logarithms, no FLUSH. DEDUCED (log entry 81): where v rounds to −1.0, the
second logarithm is +0, so that its negation is −0; the spec does not say the sign of that zero. -/
def gumbelBits (k c : Nat) : Nat :=
  let u := hash64 k c / 2 ^ 40
  let l1 := lnSigned (2 * u + 1) (-25)
  let v := (deliver .fp32 .rne false (.fin true l1.natAbs (-(txBits : Int))) true).1
  match NumFmt.fp32.decode v with
  | .fin _ m e =>
    if m = 2 ^ Nat.log2 m ∧ e + Nat.log2 m = 0 then 0x80000000
    else
      let l2 := lnSigned m e
      let r := (deliver .fp32 .rne false (.fin (decide (l2 < 0)) l2.natAbs (-(txBits : Int))) true).1
      Nat.xor r 0x80000000
  | _ => NumFmt.fp32.nanBits

/-! ## Quantisation (R70) -/

/-- The magnitude m × 2^e read as at most MAXF × 2^E. -/
def leScaled (m : Nat) (e : Int) (mx : Nat) (mxe ex : Int) : Bool :=
  let r := mxe + ex
  let q := if e < r then e else r
  m * 2 ^ (e - q).toNat ≤ mx * 2 ^ (r - q).toNat

/-- MAXF of a target as magnitude and exponent (R70). -/
def NumFmt.quantMax : NumFmt → Option (Nat × Int)
  | .l6 => some (l6Mag 31, -22) | .e4m3 => some (448, 0) | .e5m2 => some (57344, 0)
  | .int8 => some (127, 0) | .uint8 => some (255, 0)
  | _ => none

/-- The least E with M × 2^-E ≤ MAXF, by descending from an upper bound (R70). -/
def leastExp (m : Nat) (e : Int) (mx : Nat) (mxe : Int) : Nat → Int → Int
  | 0, ex => ex
  | fuel + 1, ex => if leScaled m e mx mxe (ex - 1) then leastExp m e mx mxe fuel (ex - 1) else ex

/-- The block maximum's E for a nonzero M = m × 2^e. -/
def quantExp (f : NumFmt) (m : Nat) (e : Int) : Int :=
  match f.quantMax with
  | none => 0
  | some (mx, mxe) =>
    let guess : Int := (Nat.log2 m : Int) + e - ((Nat.log2 mx : Int) + mxe) + 1
    leastExp m e mx mxe 3 guess

/-- QROUND of x × 2^-E for one element (R70): every zero produced is plus 0. -/
def qround (f : NumFmt) (flush : Bool) (x : FVal) (ex : Int) : Nat × FFlags :=
  match x with
  | .fin neg m e =>
    if m = 0 then (0, {})
    else if f.isInt then
      let k := (roundAt .rne neg m (e - ex) 0 false).1
      if f = .uint8 ∧ neg then (0, { sat := true })
      else (wrapN 8 (if neg then -(k : Int) else k), {})
    else if f = .l6 then roundL6 .rne neg m (e - ex) false
    else
      let (w, fl) := roundBin f .rne true flush neg m (e - ex) false
      (if w = f.signBit then 0 else w, fl)
  | _ => (0, {})

/-- The scale and exponent for a block maximum (R70): scale 0xFF marks the block. -/
def quantScale (f : NumFmt) (mx : FVal) : Nat × Int × FFlags × Bool :=
  match mx with
  | .nan => (0xFF, 0, { nv := true }, false)
  | .inf _ => (0xFF, 0, { of_ := true }, false)
  | .fin _ m e =>
    let ex : Int := if m = 0 then -127 else quantExp f m e
    if ex > 127 then (0xFF, 0, { of_ := true }, false)
    else
      let ex := if ex < -127 then -127 else ex
      ((ex + 127).toNat, ex, {}, true)

/-- The larger magnitude of a block, NaN over infinity over finite; for UINT8 negatives count as 0. -/
def quantMaxVal (f : NumFmt) (xs : List FVal) : FVal :=
  if xs.any FVal.isNan then .nan
  else if xs.any FVal.isInf then .inf false
  else xs.foldl (fun acc x =>
    let x := if f = .uint8 ∧ x.isNeg then .fin false 0 0 else x.abs
    if fLt acc x then x else acc) (.fin false 0 0)

/-- A whole block quantised: codes, scale, flags (R70). -/
def quantBlock (f : NumFmt) (flush : Bool) (xs : List FVal) : List Nat × Nat × FFlags :=
  let (sc, ex, fl, ok) := quantScale f (quantMaxVal f xs)
  if ok then
    let rs := xs.map (fun x => qround f flush x ex)
    (rs.map Prod.fst, sc, rs.foldl (fun a r => a.or r.2) fl)
  else (xs.map (fun _ => 0), sc, fl)

end Sys2Proof
end

