-- ==== Sys2Proof/Config.lean ====
section
/-! DEFINITION. The free values of the Syolo model: what the spec leaves open. Each is an opaque constant,
so that nothing can be proved of its value and every claim holds whatever it is. The first argument of
most is the point of the run (log entry 2): the state's draw counter, or under determinism PSTEP. -/

namespace Sys2Proof

/-- A choice the spec leaves to the device, by draw and by the point that asks (log entry 2): a weak load's
copy (R85), a TLB entry or a new walk (R300), old or new bytes (R76, R129), an eviction (R81). -/
opaque Config.choice : Nat → Nat → Bool

/-- What a byte of HBM reads as after a change of PART and before it is written (R24), by epoch and stack byte. -/
opaque Config.unpredictable : Nat → Nat → Byte

/-- Scratchpad bytes at the start of a launch (R77), by draw and offset (log entry 9). -/
opaque Config.scratch : Nat → Nat → Byte

/-- A result that the spec calls undefined or does not state, by draw and by point (log entry 3). -/
opaque Config.freeNat : Nat → Nat → Nat

/-- The layout of a boot configuration block in the flash (R345, R354), which the spec does not give:
the block's bytes to the numbers of the stored configuration (log entry 11). -/
opaque Config.bootParse : List Byte → List Nat

/-- SHAKE256 of a byte string, first n bytes (R315, R349). The spec names the function and does not restate it. -/
opaque Config.shake256 : Nat → List Byte → List Byte

/-- OWNER of a boot configuration block (R352), whose place the spec does not give (log entry 11). -/
opaque Config.bootOwner : List Byte → Nat

/-- A byte of the configuration space of a PCIe function (R353), by function and offset; the spec does not give them. -/
opaque Config.pciConfig : Nat → Nat → Byte

/-- What stands before and after the fields that R350 names in the answer to an SPDM message (log entry 78). -/
opaque Config.spdmHead : List Byte → List Byte
opaque Config.spdmTail : List Byte → List Byte

/-- SHA-384 of a byte string (R350), which the spec names and does not restate. -/
opaque Config.sha384 : List Byte → List Byte

/-- The key derived from the device secret and measurements 1 to 3, by those (R350). -/
opaque Config.aliasKey : List Byte → List Byte → List Byte

/-- The certificate of slot 0, by the alias key (R350). -/
opaque Config.certificate : List Byte → List Byte

/-- The ECDSA P-384 signature of a message under a key (R350), which the spec names and does not restate. -/
opaque Config.ecdsa384 : List Byte → List Byte → List Byte

/-- Bytes of a saved state whose layout inside a field of the shadow region the spec does not give (R306 to R308). -/
opaque Config.shadowByte : Nat → Nat → Byte

/-- The 256-byte flit of an inbound packet (R315), whose layout the spec does not give: its numbers and payload. -/
opaque Config.flit : List Nat → List Byte → List Byte

/-- The numbers and payload that a recorded flit stands for (R315). -/
opaque Config.unflit : List Byte → List Nat × List Byte

end Sys2Proof
end

