-- ==== Sys2Proof/Machine/SMap.lean ====
section
/-! DEFINITION. Sparse maps from numbers: lists of pairs with rising keys that list no entry equal
to what an unlisted key reads as. Register files, scratchpads and memories are held so. -/

namespace Sys2Proof

/-- A sparse map as plain data. -/
abbrev SMap (α : Type) := List (Nat × α)

/-- The value at key k; an unlisted key reads d. -/
def SMap.get {α : Type} (d : α) : SMap α → Nat → α
  | [], _ => d
  | (k', v) :: t, k => if k = k' then v else if k < k' then d else SMap.get d t k

/-- The map with v at key k, in canonical form: an entry equal to d is removed. -/
def SMap.set {α : Type} [DecidableEq α] (d : α) : SMap α → Nat → α → SMap α
  | [], k, v => if v = d then [] else [(k, v)]
  | (k', v') :: t, k, v =>
    if k < k' then (if v = d then (k', v') :: t else (k, v) :: (k', v') :: t)
    else if k = k' then (if v = d then t else (k, v) :: t)
    else (k', v') :: SMap.set d t k v

/-- Whether every key of the list is above k. -/
def SMap.above {α : Type} (k : Nat) : SMap α → Bool
  | [] => true
  | (k', _) :: t => k < k' && SMap.above k t

/-- The canonical form: keys strictly rising, no entry equal to the default. -/
def SMap.wf {α : Type} [DecidableEq α] (d : α) : SMap α → Bool
  | [] => true
  | (k, v) :: t => v != d && SMap.above k t && SMap.wf d t

/-- Values at keys k, k + 1, ... (n of them). -/
def SMap.getN {α : Type} (d : α) (m : SMap α) (k n : Nat) : List α := (span k n).map (SMap.get d m)

/-- The map with the list written at keys k, k + 1, .... -/
def SMap.setN {α : Type} [DecidableEq α] (d : α) (m : SMap α) (k : Nat) : List α → SMap α
  | [] => m
  | v :: t => SMap.setN d (SMap.set d m k v) (k + 1) t

/-- The map with the value at key k changed by f. -/
def SMap.upd {α : Type} [DecidableEq α] (d : α) (m : SMap α) (k : Nat) (f : α → α) : SMap α :=
  SMap.set d m k (f (SMap.get d m k))

/-! Association lists: keys in order of entry, each at most once. -/

def alGet {α : Type} : List (Nat × α) → Nat → Option α
  | [], _ => none
  | (k', v) :: t, k => if k = k' then some v else alGet t k

/-- Replace the value at a key, or add it at its place in rising order. -/
def alPut {α : Type} : List (Nat × α) → Nat → α → List (Nat × α)
  | [], k, v => [(k, v)]
  | (k', v') :: t, k, v =>
    if k < k' then (k, v) :: (k', v') :: t else if k = k' then (k, v) :: t else (k', v') :: alPut t k v

def alDel {α : Type} (l : List (Nat × α)) (k : Nat) : List (Nat × α) := l.filter (fun e => e.1 != k)

def alHas {α : Type} (l : List (Nat × α)) (k : Nat) : Bool := (alGet l k).isSome

/-- The least key not in use from k up. -/
def alFresh {α : Type} (l : List (Nat × α)) : Nat := l.foldl (fun m e => if e.1 < m then m else e.1 + 1) 0

end Sys2Proof
end

