-- ==== Sys2Proof/Machine/State.lean ====
section
/-! DEFINITION. The state of the Syolo device as plain data: every register, memory, queue and status the
spec names, the model's own fields (agenda, draws), and the machine at reset. -/

namespace Sys2Proof.Machine

/-! ## Launches and engine queues -/

/-- A box dimension entry (R33). -/
structure BoxDim where
  sel : Nat := 0
  hlo : Nat := 0
  hhi : Nat := 0
  coef : Int := 0
  off : Int := 0
  ext : Nat := 0
  deriving DecidableEq, Repr

/-- A launch descriptor's fields (R30 to R33). -/
structure Desc where
  rank : Nat := 1
  inplace : Bool := false
  grouped : Bool := false
  persist : Bool := false
  bwait : Bool := false
  legacy : Bool := false
  queue : Nat := 0
  qrank : Nat := 0
  fallback : Nat := 0
  curve : Nat := 0
  bandw : Nat := 0
  mask : Nat := 0
  mi : Nat := 0
  mj : Nat := 0
  moff : Int := 0
  mband : Nat := 0
  ltag : Nat := 0
  msaddr : Nat := 0
  bounds : List (Nat × Nat) := []      -- BVAL, BSRC
  tile : List Nat := []
  egangs : Nat := 0
  eslices : Nat := 0
  ecmem : Nat := 0
  pte : Nat := 0
  pec : Nat := 0
  iaddr : Nat := 0
  ilen : Nat := 0
  iform : Nat := 0
  esaddr : Nat := 0
  eslen : Nat := 0
  eladdr : Nat := 0
  ellen : Nat := 0
  pwin : List (Nat × Nat) := []        -- base, size in bytes
  lref : List Nat := []
  rtag : Nat := 0
  wtag : Nat := 0
  rrank : Nat := 0
  wrank : Nat := 0
  rbox : List BoxDim := []
  wbox : List BoxDim := []
  link : List Nat := []
  role : List Nat := []
  goaddr : Nat := 0
  gcount : Nat := 0
  gdim : Nat := 0
  deriving DecidableEq, Repr

/-- An entry of an engine queue, or a command that enters none (R96): the command, its captured operands
and where it was issued. A lane instruction of the matrix queue is named by its uid. -/
structure QEntry where
  seq : Nat
  cmd : Instr
  a : W64 := 0
  b : W64 := 0
  c : W64 := 0
  /-- the scalar PC or the bundle index of the command -/
  pc : Nat := 0
  /-- the command word (TIW0 of a failure, R228) -/
  word : W32 := 0
  /-- the issuing sub-gang: gang number × 8 + sub-gang number -/
  sg : Nat := 0
  /-- captured fmt, rounding key and counter, and captured vector or coefficient operands -/
  fmt : W32 := 0
  srkey : W64 := 0
  srctr : W64 := 0
  vals : List Nat := []
  uid : Nat := 0
  /-- the coordinate block read at issue (R231); empty when it could not be read -/
  blk : List Byte := []
  /-- the local memory at issue, for the source of cp.st (R236), and its epoch -/
  snap : SMap Byte := []
  snapEpoch : Nat := 0
  /-- the uncorrectable granules of the scratchpad at issue, for the source of cp.st (R108) -/
  snapBad : List Nat := []
  /-- the entry has done all but await the replies to its writes on other devices (R97) -/
  wrote : Bool := false
  /-- bytes of the box already delivered, and the extent fixed when the copy began (R105, R234) -/
  sent : Nat := 0
  ext0 : Option Nat := none
  /-- roundabout progress: the sub-step and the iterations done (R271) -/
  sub : Nat := 7
  iter : Nat := 0
  /-- sticky bits that the iterations done have raised, set when the roundabout performs (R251) -/
  sticky : Nat := 0
  /-- the record and descriptor read when the copy began (R105, R230), and the elements of its box already read (R237) -/
  recd : List Byte := []
  box : List Nat := []
  /-- the management core failed the entry's translation of an address (R301) -/
  failed : Bool := false
  failVa : Nat := 0
  deriving DecidableEq, Repr

/-- The engine queues of an issuer (R96): copy 0 to 3, 4 multicast, 5 fabric, 6 matrix, 8 + 1024 d + n the
Cairn context n of physical die d; and the commands that enter no queue, in issue order. -/
structure Queues where
  qs : List (Nat × List QEntry) := []
  ordered : List QEntry := []
  deriving DecidableEq, Repr

/-- A slot of a stage ring (R100). -/
structure RingSlot where
  ph : Bool := false
  arm : Bool := false
  full : Bool := false
  err : Bool := false
  exp : Nat := 0
  cnt : Nat := 0
  deriving DecidableEq, Repr

/-- A stage ring (R100): base, slot size, count, pointers with their lap bit, slots. Count 0 is no ring. -/
structure Ring where
  base : Nat := 0
  size : Nat := 0
  count : Nat := 0
  rp : Nat := 0
  wp : Nat := 0
  slots : SMap RingSlot := []
  deriving DecidableEq, Repr

/-- A named barrier generation (R181): its count, and the gangs that have arrived. -/
structure Barrier where
  count : Nat := 0
  arrived : List Nat := []
  deriving DecidableEq, Repr

/-- A region lock an issuer holds (R93): the record's address, and the crew's gang that owns it. -/
structure HeldLock where
  va : Nat
  gang : Nat := 0
  /-- the place of its rlk.acq in issue order -/
  seq : Nat := 0
  deriving DecidableEq, Repr

/-! ## Edge cores -/

/-- A lane instruction in a lane queue or saved by a trap, with its copies (R173, R183). -/
structure LaneEntry where
  word : BitVec 96
  mask : W32
  fmt : BitVec 17
  xop : W64
  srctr : W64
  pc : W32
  uid : Nat
  /-- when it was enqueued, in the order of State.seq (R42, R94) -/
  ord : Nat := 0
  deriving DecidableEq, Repr

/-- A failure posted by an engine entry for a later scalar instruction (R228). -/
structure Posted where
  cause : Nat
  status : W32
  word : W32
  addr : W64
  deriving DecidableEq, Repr

/-- What a thread is held by between issues. -/
inductive Wait where
  | none
  | bar (n : Nat)
  | regang
  | acq                   -- rlk.acq, until it has performed
  | acqErr (cause : Nat)  -- rlk.acq met an error
  | issued                -- cairn.open or cairn.rst, until the handle is written
  | ring                  -- ring.await, until its slot is full
  | inval                 -- tlbinv under determinism, until the epoch boundary has performed it
  deriving DecidableEq, Repr

/-- The spin detector's memory of the last backward branch taken (R52). -/
structure Spin where
  pc : W32 := 0
  x : SMap W64 := []
  m : W32 := 0
  fmt : W32 := 0
  taken : Bool := false
  marked : Bool := false
  since : Nat := 0
  deriving DecidableEq, Repr

/-- A scalar thread: a sub-gang of a gang, or a management core (R167, R186, R193). -/
structure Thread where
  x : SMap W64 := []
  pc : W32 := 0
  lpc : W32 := 0
  m : W32 := 0
  mstack : List (W32 × BitVec 17) := []
  rstack : List (W32 × W32) := []
  lq : List LaneEntry := []
  /-- the sides taken at each part, newest first; its length is PDEPTH (R176) -/
  path : List Bool := []
  slices : BitVec 8 := 0
  fmt : W32 := 0
  msts : W32 := 0
  srkey : W64 := 0
  srctr : W64 := 0
  tmode : Bool := false
  tvec : W32 := 0
  tcause : W32 := 0
  tepc : W32 := 0
  tlpc : W32 := 0
  tiss : Nat := 0
  taddr : W64 := 0
  tmaskr : W32 := 0
  tenq : W32 := 0
  tsaved : List LaneEntry := []
  tiw : List W32 := [0, 0, 0]
  tsave : W64 := 0
  parked : Bool := false
  /-- instructions that the lane.iss at the PC still has to enqueue; 0 when none is under way -/
  issRem : Nat := 0
  /-- what holds the thread between issues, and the word of the instruction it waits in -/
  wait : Wait := .none
  waitWord : W32 := 0
  posted : List Posted := []
  spin : Spin := {}
  deriving DecidableEq, Repr

/-- A gang in a gang slot (R167, R169). -/
structure Gang where
  num : Nat := 0
  crew : Nat := 0
  role : Nat := 0
  w : SMap W32 := []        -- lane × 128 + register
  lp : SMap W32 := []       -- predicate masks
  h : SMap W32 := []        -- 32 × register + lane
  subs : List (Nat × Thread) := []
  deriving DecidableEq, Repr

/-- A work item's record of a crew: index in its launch, the 64-byte record, the ring-0 slot holding it. -/
structure HeldItem where
  item : Nat
  slot : Nat := 0
  deriving DecidableEq, Repr

/-- A crew resident on an edge core (R27, R41, R42). -/
structure Crew where
  launch : Nat := 0
  items : List HeldItem := []
  egangs : Nat := 0
  cmemKiB : Nat := 0
  cmem : SMap Byte := []
  rings : SMap Ring := []
  bars : SMap Barrier := []
  locks : List HeldLock := []
  q : Queues := {}
  /-- the splitter has dealt the end record (R42) -/
  ended : Bool := false
  /-- a stop has been requested (R296) -/
  stopReq : Bool := false
  /-- every gang has exited; the item retires once its entries have performed (R41) -/
  finished : Bool := false
  /-- other devices written since each gang's last release, keyed gang × 8192 + device: the ports used, and bit 18
  for writes held in L1 (R103) -/
  remote : SMap Nat := []
  /-- the time from which the crew is resident (R284) -/
  since : Nat := 0
  /-- items whose ring-0 slot is released, with the entries placed before that (R42, R94) -/
  retiring : List (Nat × Nat) := []
  deriving DecidableEq, Repr

/-- A line of an edge core's L1 (R81 to R83): bytes with their valid and dirty marks, the re-reference
position, the reads left before self-invalidation, and the load-block that holds it. -/
structure L1Line where
  vals : SMap Byte := []
  valid : Nat := 0
  dirty : Nat := 0
  pos : Nat := 3
  reads : Nat := 0
  blk : Nat := 0
  /-- its uncorrectable 32-byte granules, 0 to 3 (R108) -/
  bad : List Nat := []
  deriving DecidableEq, Repr

/-- A load-block (R82): its lines, the completion flag, the lines its fill found uncorrectable, age. -/
structure LoadBlock where
  lines : List Nat := []
  done : Bool := false
  bad : List Nat := []
  /-- lines whose fill got an error reply: 0 from a die in reset, 1 from the fabric (R104, R357) -/
  lost : List (Nat × Nat) := []
  /-- reads left before the block invalidates itself; 0 when its hint counts none (R83) -/
  reads : Nat := 0
  pos : Nat := 3
  used : Nat := 0
  deriving DecidableEq, Repr

/-- An edge core (R11, R21). -/
structure EdgeCore where
  l1 : SMap L1Line := []
  blocks : List (Nat × LoadBlock) := []
  crews : List (Nat × Crew) := []
  gangs : List (Nat × Gang) := []
  /-- start of the current slice, in cycles (R284) -/
  sliceStart : Nat := 0
  /-- single gangs swapped out of crews that stay resident (R53), with the time each left -/
  out : List (Nat × Gang) := []
  deriving DecidableEq, Repr

/-- A crew swapped out whole (R284), with its gangs. -/
structure Swapped where
  core : Nat
  launch : Nat
  crew : Crew
  gangs : List Gang
  since : Nat
  deriving DecidableEq, Repr

/-! ## Tile engines -/

/-- A result in flight (R139): the step at which it lands, the issue order, and what it writes. -/
inductive Land where
  | s (d : Nat) (v : W64)
  | p (d : Nat) (v : Bool)
  | v (d : Nat) (lanes : List W32)
  | spr (n : Nat) (v : W64)
  | flags (fmtBits mstsBits : Nat)
  | pwb (win : Nat)
  | k (vals : List W32)
  deriving DecidableEq, Repr

structure Flight where
  step : Nat
  order : Nat
  what : Land
  deriving DecidableEq, Repr

/-- An admitted bundle (R111, R112): slot operations by slot code 0 to 6, pops, signpost and stated run. -/
structure Bundle where
  ops : List (Nat × Instr) := []
  pop : Nat := 0
  sign : Bool := false
  run : Nat := 0
  deriving DecidableEq, Repr

/-- The top-k state of an accumulator (R249): KSEL, BASE, RPT, and each row's (value, index) pairs. -/
structure TopK where
  ksel : Nat := 0
  base : Nat := 0
  rpt : Nat := 0
  rows : SMap (List (Nat × Nat)) := []
  deriving DecidableEq, Repr

/-- An accumulator (R249): its committed and working buffers, row × 128 + column, and its top-k state.
The unwritten elements of the working buffer are zero, or free from the start of an instance (R250). -/
structure Acc where
  val : SMap W32 := []
  work : SMap W32 := []
  workFree : Nat := 0
  tk : TopK := {}
  deriving DecidableEq, Repr

/-- The tree state (R249, R264). -/
structure TreeState where
  present : Bool := false
  nnode : Nat := 0
  row0 : Nat := 0
  col0 : Nat := 0
  amask : List Nat := []
  deriving DecidableEq, Repr

/-- The stop state of a tile instance. -/
inductive TRun where
  | idle
  | ready        -- begun or resumed, awaiting its grant
  | running
  | stopped (kind : Nat)
  | halting      -- halt executed; retires when its entries have performed
  deriving DecidableEq, Repr

/-- A checked body that an engine keeps for the rest of its launch (R127). -/
structure Kept where
  launch : Nat
  form : Nat
  body : List Bundle
  rings : SMap Ring
  deriving DecidableEq, Repr

/-- A tile engine (R27, R135). -/
structure Tile where
  run : TRun := .idle
  launch : Nat := 0
  pad : SMap Byte := []
  /-- the epoch that names the free bytes of an unwritten scratchpad; 0 reads as zero -/
  padEpoch : Nat := 0
  /-- the uncorrectable 32-byte granules of the scratchpad (R108) -/
  padBad : List Nat := []
  s : SMap W64 := []
  p : SMap Bool := []
  v : SMap W32 := []          -- physical register × 32 + lane
  q0 : W64 := 0
  q0Valid : Bool := false
  q0Item : Nat := 0
  qmore : List (W64 × Nat) := []
  k : SMap W32 := []
  fmt : W32 := 0
  msts : W32 := 0
  srkey : W64 := 0
  srctr : W64 := 0
  lc : W32 := 0
  le : Nat := 0
  turn : Nat := 0
  fill : Nat := 0
  tail : Nat := 0
  drain : Bool := false
  act : Bool := false
  bodyStart : Nat := 0
  bodyLen : Nat := 0
  passes : Nat := 0
  ric : W32 := 0
  rcap : W32 := 0
  rthr : W32 := 0
  rdiv : W32 := 0
  rres : W32 := 0
  acc : SMap Acc := []
  tree : TreeState := {}
  rings : SMap Ring := []
  q : Queues := {}
  locks : List HeldLock := []
  remote : SMap Nat := []
  /-- the end entry of a persistent launch has been dealt to the engine (R39) -/
  ended : Bool := false
  /-- the checked body: form (1 P-form, 2 N-form) and bundles, for the launch -/
  form : Nat := 0
  body : List Bundle := []
  admitted : Bool := false
  b : Nat := 0
  t : Nat := 0
  rd : List (Nat × Nat) := []
  flights : List Flight := []
  stopReq : Bool := false
  /-- an engine error found when an entry performed, awaiting the next boundary (R255, R228) -/
  pendErr : Option (Nat × Nat × Nat) := none     -- bundle, engine code, status
  /-- rlk.acq and other commands held at issue in the bundle (R227) -/
  cmdWait : Bool := false
  cmdDone : Bool := false
  awaitVal : Option W64 := none
  resumeKind : Nat := 0
  savedLc : W32 := 0
  runStart : Nat := 0
  runStated : Nat := 0
  sliceLeft : Nat := 0
  /-- the last bundle of the active body has issued or been skipped; its pass is to end (R147) -/
  passDue : Bool := false
  /-- items popped off q0, with the entries placed before that (R39, R46) -/
  retiring : List (Nat × Nat) := []
  /-- the checked bodies of other launches that have run here (R127) -/
  kept : List Kept := []
  /-- the last queue granted on this engine (R279) -/
  lastQueue : Nat := 255
  /-- the fresh tile granted while the instance that has halted awaits its entries (R279): launch, queue, time -/
  nextGrant : Option (Nat × Nat × Nat) := none
  /-- the engine on which a stopped instance goes on once its last instance has retired (R279) -/
  resumeOn : Option Nat := none
  /-- sticky bits of fmt and MSTS that the device has set since the current step began: a program's write of them that lands in
  the step leaves them set (R3) -/
  hotFmt : Nat := 0
  hotMsts : Nat := 0
  /-- the item held since this time counts as overrun only when its run was not cut (R281) -/
  runOpen : Bool := false
  deriving DecidableEq, Repr

/-! ## The upper class: launches, queues, graphs -/

inductive ItemState where
  | todo
  | running
  | retired
  | aborted
  deriving DecidableEq, Repr

/-- A work item of a launch (R28, R39, R40). -/
structure Item where
  t : List Nat := []
  group : Nat := 0
  lo : List Nat := []
  vext : List Nat := []
  cls : Nat := 0              -- 0 full, 1 partial, 2 masked, 3 fallback
  onTile : Bool := false
  rbox : List (Int × Int) := []
  wbox : List (Int × Int) := []
  st : ItemState := .todo
  boarded : Bool := false
  die : Nat := 0
  unit : Nat := 0
  sstat : Nat := 0
  sbun : Nat := 0
  seng : Nat := 0
  /-- cycle from which it waited on the crossing board plus 1, and the LTAG awaited (R313) -/
  waitFrom : Nat := 0
  waitTag : Nat := 0
  deriving DecidableEq, Repr

inductive LState where
  | arrived       -- read by the front end, not yet begun
  | dispatching
  | dispatched    -- every item dispatched, some unretired
  | closed        -- milestone written
  deriving DecidableEq, Repr

/-- A launch (R28, R29): its descriptor copy and what the splitter holds of it. -/
structure Launch where
  part : Nat := 0
  queue : Nat := 0
  desc : Desc := {}
  arrival : Nat := 0
  st : LState := .arrived
  bounds : List Nat := []
  items : List Item := []
  nfull : Nat := 0
  npart : Nat := 0
  nmask : Nat := 0
  nvoid : Nat := 0
  nfall : Nat := 0
  nabort : Nat := 0
  /-- the first failure's cause, 0 while none -/
  cause : Nat := 0
  firstbad : Nat := 0xFFFFFFFF
  /-- (partition graph run, launch of the graph) -/
  run : Option (Nat × Nat) := none
  /-- persistent: joined tile engines and edge cores, and how many more are asked for -/
  tiles : List Nat := []
  cores : List Nat := []
  askTiles : Nat := 0
  askCores : Nat := 0
  /-- cause of the descriptor's own fields, 0 when they are good (R34, step 1) -/
  bad : Nat := 0
  /-- arrival numbers of the launches that LINK names (R45) -/
  links : List Nat := []
  /-- the next device engine index for its items (R283) -/
  cursor : Nat := 0
  /-- its dispatch has begun (R34, R281), and the bounds and bytes of the offsets vector read so far -/
  began : Bool := false
  reads : List Nat := []
  vec : List Byte := []
  deriving DecidableEq, Repr

/-- A hardware queue block (R275): the registers by name, and the launch that holds dispatch. -/
structure HwQueue where
  base : W64 := 0
  ctl : W32 := 0
  stat : W32 := 0
  head : W32 := 0
  tail : W32 := 0
  /-- launches read from the queue or appended to it and not yet wholly dispatched, oldest first -/
  fifo : List Nat := []
  /-- arrival numbers of the ring entries written and not yet read, oldest first (R45, R287) -/
  arrivals : List Nat := []
  /-- QRANK of the launch that is dispatching, or dispatched last (R277) -/
  qrank : Nat := 0
  deriving DecidableEq, Repr

/-- A graph executable (R288): reentrancy, and each launch's queue, descriptor and predecessors. -/
structure Graph where
  handle : Nat := 0
  part : Nat := 0
  reent : Bool := false
  descs : List (List Byte) := []
  preds : List (List Nat) := []
  deriving DecidableEq, Repr

/-- A graph run in progress or queued (R290, R291). -/
structure GraphRun where
  graph : Nat := 0
  queue : Nat := 0
  record : Nat := 0
  started : Bool := false
  done : List (Nat × Nat) := []       -- launch index, outcome and cause word
  sent : List Nat := []
  deriving DecidableEq, Repr

/-- A device launch queue (R286, R287): its control and the descriptors it holds, oldest first. -/
structure Dlq where
  ctl : W32 := 0
  entries : List (List Byte) := []
  deriving DecidableEq, Repr

/-- An external input kept for the next epoch (R314, R315): kind, address, value, data; for an action of a
management core, the action (0 register write, 1 state word, 2 resume, 3 tlbinv, 4 page-table write)
and its operand. -/
structure ExtInput where
  kind : Nat := 0
  addr : Nat := 0
  val : W64 := 0
  data : List Byte := []
  op : Nat := 0
  arg : Nat := 0
  deriving DecidableEq, Repr

/-- A partition's block of the device register window and what its units hold (R272 to R317, R341). -/
structure Part where
  queues : SMap HwQueue := []
  psched : W32 := 0x00100080#32
  dmap : W32 := 0b11100100#32
  ptroot : W64 := 0
  pshad : W64 := 0
  pcmd : W32 := 0x00001000#32
  pcst : W32 := 4
  slbase : W64 := 0
  slctl : W32 := 4
  slcnt : W32 := 0
  /-- records written to the stop log: SLCNT once they have performed at their homes (R295) -/
  slSent : W32 := 0
  wptctl : W64 := 0
  rctl : W32 := 0x00000080#32
  rbase : W64 := 0
  rwp : W64 := 0
  rrp : W64 := 0
  pstep : W64 := 0
  inputs : List ExtInput := []
  /-- cycle at which the save in progress times out; 0 none (R305) -/
  saveBy : Nat := 0
  /-- saves of the resident context, modulo 2^32 (R306) -/
  gen : Nat := 0
  /-- the device engine index past the last tile engine granted (R279) -/
  cursor : Nat := 0
  graphs : List Graph := []
  runs : List (Nat × GraphRun) := []
  nextHandle : Nat := 1
  deriving DecidableEq, Repr

/-! ## Generation and expert units -/

/-- A Cairn context (R243, R318). -/
structure CairnCtx where
  isOpen : Bool := false
  gen : Nat := 0
  part : Nat := 0
  haddr : Nat := 0
  hcap : Nat := 0
  quota : Nat := 0
  ntok : Nat := 0
  old : Nat := 0
  cm : Nat := 0
  cml : Nat := 0
  cmv : Bool := false
  ckey : Nat := 0
  /-- index entries: key hash to positions, newest first (R319, R320) -/
  index : List (Nat × List Nat) := []
  deriving DecidableEq, Repr

/-- An entry of a waypost row: successor expert and counter, when in use (R335). -/
structure WpEntry where
  set : Bool := false
  succ : Nat := 0
  count : Nat := 0
  deriving DecidableEq, Repr

structure WpRow where
  owned : Bool := false
  owner : Nat := 0
  es : List WpEntry := []
  deriving DecidableEq, Repr

/-! ## The device -/

/-- A TLB entry (R300). -/
structure TlbEntry where
  part : Nat
  va : Nat
  size : Nat           -- log2 of the page size
  pa : Nat             -- translated base, a window or global address
  w : Bool
  die : Nat
  deriving DecidableEq, Repr

/-- A walk-cache entry (R300): the table that the walk of an address prefix reaches at a level. -/
structure WcEntry where
  part : Nat
  lvl : Nat            -- the level of the table, 0 to 3
  pre : Nat            -- VA[56:12] down to the bits above this level's index
  table : Nat
  deriving DecidableEq, Repr

/-- Who waits for a walker slot (R301): an entry or command of an issuer, by queue key (100,000 for a command
that enters no queue) or at issue; the splitter's launch; the front end's queue; a tile instance or the admission
of its body. -/
inductive Consumer where
  | entry (who : Issuer) (key : Nat)
  | issue (who : Issuer) (sg : Nat)
  | splitter (launch : Nat)
  | front (part queue : Nat)
  | dlq (n : Nat)
  | none
  deriving DecidableEq, Repr

/-- A walker slot held by a translation fault (R301). -/
structure Walker where
  va : Nat := 0
  src : Nat := 0
  wr : Bool := false
  why : Nat := 0
  part : Nat := 0
  who : Consumer := .none
  deriving DecidableEq, Repr

/-- A trace block and the packet bookkeeping of R311 and R312. -/
structure Trace where
  base : W64 := 0
  ctl : W32 := 0x0000000C#32
  wp : W32 := 0
  rp : W32 := 0
  /-- bytes placed, of which those past wp await replies of another device -/
  sent : W32 := 0
  last : Nat := 0
  sinceSync : Nat := 0
  lost : Nat := 0
  needSync : Bool := true
  /-- the pending run of units: how many, its kind (2 executed, 4 skipped), its gang slot × 8 + sub-gang, its first place -/
  run : Nat := 0
  runKind : Nat := 2
  runWho : Nat := 0
  runPos : Nat := 0
  runLpc : Nat := 0
  deriving DecidableEq, Repr

/-- A management core and its hub's event list (R20, R193, R194, R196). -/
structure Mgmt where
  th : Thread := {}
  masid : W32 := 0
  events : List W64 := []
  /-- the firmware region that boot firmware assigns (R168): its bytes and length -/
  fw : SMap Byte := []
  fwLen : Nat := 0
  /-- service requests posted and not yet served, oldest first, whether the oldest is under way (R345), and the bytes of a
  host copy that have moved (R346) -/
  svc : List Nat := []
  svcOn : Bool := false
  svcPos : Nat := 0
  halted : Bool := false
  q : Queues := {}
  remote : SMap Nat := []
  deriving DecidableEq, Repr

/-- A function's mailbox, aperture and interrupts (R344, R345). -/
structure PcieFn where
  mbox : SMap Byte := []
  abase : W64 := 0
  msix : List Nat := []
  posted : Bool := false
  deriving DecidableEq, Repr

/-- An outstanding remote access (R103, R104): the issuer, its kind and what its reply completes. -/
structure RemoteOp where
  id : Nat
  dev : Nat
  ga : Nat
  write : Bool
  acq : Bool := false
  atomic : Bool := false
  len : Nat := 8
  who : Issuer := .mgmt 0
  sg : Nat := 0
  data : List Byte := []
  answered : Bool := false
  ok : Bool := true
  /-- a posted write, held until its reply (R348), and the virtual address it wrote -/
  posted : Bool := false
  va : Nat := 0
  /-- a read whose line this device has written since it was sent: its reply fills no L1 (R86) -/
  stale : Bool := false
  deriving DecidableEq, Repr

/-- A flush-marker sequence this device has sent, or gathers (R103). -/
structure Flush where
  seq : Nat
  dev : Nat
  need : Nat
  got : Nat := 0
  who : Issuer := .mgmt 0
  /-- the number by which the releasing operation is known, and the mask of the ports the markers took -/
  sg : Nat := 0
  ports : Nat := 0
  acked : Bool := false
  failed : Bool := false
  deriving DecidableEq, Repr

/-- An automatic release of a lock record on another device, awaiting its flush markers (R93, R103). -/
structure AutoRel where
  tag : Nat
  part : Nat
  dev : Nat
  pa : Nat
  deriving DecidableEq, Repr

/-- An image of the boot flash (R349): its bytes, the SHAKE256 digest of the public key that comes with it, whether its
signature verifies under that key, and its security version. -/
structure Image where
  bytes : List Byte := []
  digest : List Byte := List.replicate 32 0
  signed : Bool := true
  version : BitVec 16 := 0
  deriving DecidableEq, Repr

/-- What the boot flash holds beside the boot configuration: the manifest and the images it names (R349). -/
structure Images where
  manifest : Image := {}
  firmware : Image := {}
  hub : Image := {}
  deriving DecidableEq, Repr

/-- What is fixed in the device: the boot ROM and the fuses, with the digests of four verifying keys, the mask of the revoked
ones, the least security version and the device secret (R349, R350). -/
structure Fuses where
  rom : List Byte := []
  digests : List (List Byte) := List.replicate 4 (List.replicate 32 0)
  revoked : Nat := 0
  minVersion : BitVec 16 := 0
  secret : List Byte := []
  deriving DecidableEq, Repr

/-- The stored boot configuration (R349, R352, R354). -/
structure BootCfg where
  devid : Nat := 0
  pclass : Nat := 0
  part : Nat := 0
  fabric : Nat := 0
  determ : Nat := 0
  vfmap : Nat := 0
  fabctl : Nat := 0
  owner : BitVec 256 := 0
  dmaps : List Nat := []
  /-- (device id, mask of ports) of RTAB -/
  rtab : List (Nat × Nat) := []
  deriving DecidableEq, Repr

/-- What a save keeps of a partition's context, units by logical index (R305 to R308). -/
structure Snap where
  queues : SMap HwQueue := []
  launches : List (Nat × Launch) := []
  stopped : List (Nat × Tile) := []
  cores : List (Nat × EdgeCore) := []
  swapped : List Swapped := []
  runs : List (Nat × GraphRun) := []
  dlqs : List (Nat × List (List Byte)) := []
  deriving DecidableEq, Repr

/-- Who acts in a step. -/
inductive Act where
  | scalar (r : SgRef)
  | lane (r : SgRef)
  | mgmt (h : Nat)
  | tile (e : Nat)
  | event (i : Instr)
  deriving DecidableEq, Repr

/-- The inputs of a step: the unit or entry it names and the value written. -/
structure Input where
  iss : Issuer := .mgmt 0
  a : Nat := 0
  b : Nat := 0
  c : Nat := 0
  v : W64 := 0
  flag : Bool := false
  nums : List Nat := []
  data : List Byte := []
  deriving DecidableEq, Repr

/-- A turn of the agenda or the rota (log entry 1): the cycles that pass before it, who acts, the inputs. -/
structure Turn where
  dt : Nat := 1
  act : Act
  inp : Input := {}
  deriving DecidableEq, Repr

/-- The state of the device. -/
structure State where
  -- the model's own fields
  agenda : List Turn := []
  rota : List Turn := []
  cur : Act := .event .coldStart
  inp : Input := {}
  draws : Nat := 0
  seq : Nat := 1
  memEpoch : Nat := 0
  /-- the station whose TLBs serve the translations of this step (R300): 0 to 511, or 512 + hub -/
  via : Nat := 512
  /-- bits of write-one-to-clear registers that the device has set in this cycle, keyed by `hotKey` (R3) -/
  hot : SMap Nat := []
  /-- the number by which the fabric knows the operation that performs in this step (R103) -/
  opTag : Nat := 10000
  -- memory: one point of coherence for each stack byte (R17, R18), keyed stack × 2^40 + offset
  mem : List Host.Cell := []
  bad : List Nat := []
  l2 : SMap (Nat × Nat) := []
  -- units
  cores : SMap EdgeCore := []
  swapped : List Swapped := []
  tiles : SMap Tile := []
  /-- tile instances stopped at a signpost or a quiet point, oldest first (R278) -/
  stopped : List (Nat × Tile) := []
  mgmts : SMap Mgmt := []
  parts : SMap Part := []
  launches : List (Nat × Launch) := []
  dlqs : SMap Dlq := []
  cairns : SMap CairnCtx := []       -- die × 1024 + context
  wayposts : SMap WpRow := []        -- hub × 65,536 + row
  tlb : List TlbEntry := []
  mtlb : SMap (List TlbEntry) := []  -- the micro-TLB of each station
  /-- bytes of parameter windows and of edge code read earlier: the window cache of each die and the instruction
  cache of each edge core (R79, R129), keyed by `State.roKey` -/
  roCache : SMap L1Line := []
  wcache : List WcEntry := []
  walkers : SMap Walker := []        -- die × 64 + slot
  /-- commands whose translation at issue of an address the management core failed (R301) -/
  issueFail : List (Issuer × Nat × Nat) := []
  traces : SMap Trace := []          -- station number, or 512 + hub
  -- device registers
  time : BitVec 48 := 0
  dmode : W32 := 0
  bstat : W64 := 0
  hfstat : W32 := 0
  devid : BitVec 13 := 0
  vfmap : W64 := 0
  fabctl : W32 := 0
  drst : W32 := 0
  drcnt : W64 := 0
  /-- the die that the reset under way resets (R356) -/
  rstDie : Nat := 0
  rtab : SMap W32 := []
  deadDies : List Nat := []
  fabOrdered : Bool := false         -- the fabric mode in force (R26)
  keyGen : Nat := 0
  -- host, fabric and boot
  fns : SMap PcieFn := []
  flash : BootCfg := {}
  flashBlock : List Byte := []
  images : Images := {}
  fuses : Fuses := {}
  /-- OWNER of the previous start, as hub 0 keeps it (R352) -/
  owner : BitVec 256 := 0
  measures : List (List Byte) := []
  doe : List Byte := []
  portsDown : List Nat := []
  outFabric : List (Nat × List Byte) := []
  remoteOps : List RemoteOp := []
  flushOut : List Flush := []
  /-- packets sent whose reply or acknowledgement has not come, and the first number after a write that changed FABRIC (R26) -/
  inFlight : List Nat := []
  fabSeq : Nat := 0
  flushIn : List Flush := []
  autoRels : List AutoRel := []
  /-- what each save wrote, newest first, by its number (R305) -/
  snaps : List (Nat × Snap) := []
  rdata : List Byte := []            -- the last aperture or inbound read's bytes
  deriving DecidableEq, Repr

/-- Why a step of the model stops. -/
inductive Fault where
  /-- Raised by exec of a scalar, lane or tile instruction when the acting agent of the state is no thread,
  lane queue or engine that could run it. No step raises it on a running agent. Safe: nothing runs. -/
  | noThread
  deriving DecidableEq, Repr

/-- Why a step refuses. -/
inductive Refusal where
  /-- Raised by exec for an instruction that has no meaning yet. Safe: nothing runs. -/
  | notModelled (mnemonic : String)
  deriving DecidableEq, Repr

/-- The machine right after reset: power has come on and nothing has run; the step that is due is the
cold start (R352). Registers hold their reset values; those of a dash hold the values of log entry 7. -/
def State.reset : State := {}

end Sys2Proof.Machine
end

