-- ==== Sys2Proof/Machine/Mem.lean ====
section
/-! DEFINITION. Partitions, windows and homes (R11 to R18, R272, R273), the bytes of device memory at their
homes (R107), address translation (R297 to R300), remote accesses (R103, R347) and the edge L1 (R81 to R88). -/

namespace Sys2Proof.Machine

/-! ## Records of the state -/

def State.core (s : State) (c : Nat) : EdgeCore := SMap.get {} s.cores c
def State.setCore (s : State) (c : Nat) (e : EdgeCore) : State := { s with cores := SMap.set {} s.cores c e }
def State.tile (s : State) (e : Nat) : Tile := SMap.get {} s.tiles e
def State.setTile (s : State) (e : Nat) (t : Tile) : State := { s with tiles := SMap.set {} s.tiles e t }
def State.mgmt (s : State) (h : Nat) : Mgmt := SMap.get {} s.mgmts h
def State.setMgmt (s : State) (h : Nat) (m : Mgmt) : State := { s with mgmts := SMap.set {} s.mgmts h m }
def State.part (s : State) (p : Nat) : Part := SMap.get {} s.parts p
def State.setPart (s : State) (p : Nat) (b : Part) : State := { s with parts := SMap.set {} s.parts p b }
def State.hwq (s : State) (p q : Nat) : HwQueue := SMap.get {} (s.part p).queues q
def State.setHwq (s : State) (p q : Nat) (h : HwQueue) : State :=
  s.setPart p { s.part p with queues := SMap.set {} (s.part p).queues q h }
def State.launch (s : State) (l : Nat) : Option Launch := alGet s.launches l
def State.setLaunch (s : State) (l : Nat) (x : Launch) : State := { s with launches := alPut s.launches l x }
def State.fn (s : State) (f : Nat) : PcieFn := SMap.get {} s.fns f
def State.setFn (s : State) (f : Nat) (x : PcieFn) : State := { s with fns := SMap.set {} s.fns f x }
def State.dlq (s : State) (n : Nat) : Dlq := SMap.get {} s.dlqs n
def State.setDlq (s : State) (n : Nat) (x : Dlq) : State := { s with dlqs := SMap.set {} s.dlqs n x }
def State.cairn (s : State) (k : Nat) : CairnCtx := SMap.get {} s.cairns k
def State.setCairn (s : State) (k : Nat) (x : CairnCtx) : State := { s with cairns := SMap.set {} s.cairns k x }

/-- DETERM_ACT (R22). -/
def State.determ (s : State) : Bool := bitAt s.dmode.toNat 1

/-- The point of the run at which a free value is drawn: the draw counter, or under determinism PSTEP, so that equal
inputs at equal steps draw equal values (R25, R314, R317; log entry 2). -/
def State.point (s : State) : Nat := if s.determ then (s.part 0).pstep.toNat else 2 ^ 64 + s.draws

/-- The point of the run for a unit. -/
def State.pointOf (s : State) (unit : Nat) : Nat := s.point * 1024 + unit

/-- The free choice of point x of a kind in this step (log entry 2): kind 1 a TLB entry, 2 a weak load's copy, 3 the
eviction of a stored line, 4 a walk-cache entry, 5 a word of a window or code cache. -/
def State.choose (s : State) (kind x : Nat) : Bool := Config.choice s.point (16 * x + kind)

/-! ## Partitions (R15, R272) -/

/-- Partitions of the mode in force: 1, 2, 4 or 8. -/
def State.mode (s : State) : Nat := 2 ^ fld s.dmode.toNat 5 4

/-- The physical die of a device engine index (R11). -/
def unitDie (e : Nat) : Nat := e / 48
/-- The half of its die: 1 for stations with x from 6 (R15). -/
def unitHalf (e : Nat) : Nat := 2 * (e % 48) % 12 / 6

/-- The partition of a physical die and half (R272). -/
def State.partOf (s : State) (die half : Nat) : Nat :=
  match s.mode with
  | 1 => 0
  | 2 => die / 2
  | 4 => die
  | _ => 2 * die + half

def State.unitPart (s : State) (e : Nat) : Nat := s.partOf (unitDie e) (unitHalf e)

/-- Dies of a partition (R272). -/
def State.dies (s : State) : Nat := match s.mode with | 1 => 4 | 2 => 2 | _ => 1

/-- The physical die that holds logical die k of partition p (R272, R273). -/
def State.physDie (s : State) (p k : Nat) : Nat := (s.part p).dmap.toNat / 2 ^ (2 * k) % 4

/-- The logical die of a physical die in partition p. -/
def State.logDie (s : State) (p d : Nat) : Nat :=
  ((span 0 s.dies).find? (fun k => s.physDie p k == d)).getD 0

/-- The physical dies a partition names. -/
def State.partDies (s : State) (p : Nat) : List Nat := (span 0 s.dies).map (s.physDie p)

/-- The hub whose management core serves a partition (R272). -/
def State.shub (s : State) (p : Nat) : Nat := fld (s.part p).dmap.toNat 8 8

/-- The partition is resident: it reads its queues and dispatches (R304, R305). -/
def State.partLive (s : State) (p : Nat) : Bool := fld (s.part p).pcst.toNat 2 0 == 4

/-- A 57-bit virtual address of a register, in the form R74 gives. -/
def canonVa (v : Nat) : Nat := wrapN 64 (sx 57 (v % 2 ^ 57))

/-- Device engine indices of a partition's units, in rising order. -/
def State.partUnits (s : State) (p : Nat) : List Nat :=
  (span 0 192).filter (fun e => (s.partDies p).contains (unitDie e) && s.unitPart e == p)

/-- The logical device engine index of a unit (R273). -/
def State.logUnit (s : State) (p e : Nat) : Nat := 48 * s.logDie p (unitDie e) + e % 48

/-- A partition's units in device-engine-index order (R273). -/
def State.unitOrder (s : State) (p : Nat) : List Nat := sortBy (s.logUnit p) (s.partUnits p)

/-- Station number of a tile engine or edge core (R11). -/
def station (e : Nat) (edge : Bool) : Nat :=
  let i := e % 48
  let y := 2 * i / 12
  let x0 := 2 * i % 12
  let x := if (y % 2 = 0) = edge then x0 + 1 else x0
  unitDie e * 128 + y * 16 + x

/-- The station of an issuer, or 512 + hub. -/
def whoStation (who : Issuer) : Nat :=
  match who with
  | .crew c _ => station c true
  | .tile e => station e false
  | .mgmt h => 512 + h

/-! ## Windows and homes (R13 to R17) -/

/-- Where an access performs: a stack byte, the register window, or another device. -/
inductive Loc where
  | hbm (k : Nat)
  | reg (off : Nat)
  | remote (dev pa : Nat)
  deriving DecidableEq, Repr

/-- One number for a location, the key of L1 lines. -/
def Loc.key : Loc → Nat
  | .hbm k => k
  | .reg off => 2 ^ 60 + off
  | .remote dev pa => 2 ^ 63 + dev * 2 ^ 48 + pa

def stackKey (stack soff : Nat) : Nat := stack * 2 ^ 40 + soff
/-- Granules of a whole stack: 64 GB / 4,096. -/
def stackGranules : Nat := 15625000

/-- Interleaving of 4 KiB granules over a list of stacks (R15). -/
def interleave (u : List Nat) (o : Nat) : Option Nat :=
  let g := o / 4096
  let n := u.length
  if n = 0 then none
  else if n * stackGranules ≤ g then none
  else some (stackKey (u.getD (g % n) 0) (g / n * 4096 + o % 4096))

/-- Half-die interleaving (R15): OUTER is stack 3d or 3d + 2, MIDDLE is stack 3d + 1. -/
def interleaveHalf (d half o : Nat) : Option Nat :=
  let g := o / 4096
  let b := o % 4096
  if 23437500 ≤ g then none
  else if g % 3 < 2 then some (stackKey (3 * d + 2 * half) ((g / 3 * 2 + g % 3) * 4096 + b))
  else some (stackKey (3 * d + 1) (half * 32000000000 + g / 3 * 4096 + b))

/-- The physical stacks of logical die k of partition p (R273). -/
def State.dieStacks (s : State) (p k : Nat) : List Nat :=
  let d := s.physDie p k
  [3 * d, 3 * d + 1, 3 * d + 2]

/-- The location of a local physical address in the windows of partition p (R13, R15, R16); none beyond a
window's populated size or in a reserved window. -/
def State.physLoc (s : State) (p pa : Nat) : Option Loc :=
  let w := pa / 2 ^ 44 % 16
  let o := pa % 2 ^ 44
  if w = 15 then some (.reg o)
  else if w = 0 then
    if s.mode = 8 then (interleaveHalf (s.physDie p 0) (p % 2) o).map Loc.hbm
    else (interleave ((span 0 s.dies).flatMap (s.dieStacks p)) o).map Loc.hbm
  else if w ≤ 4 ∧ w - 1 < s.dies then
    if s.mode = 8 then (interleaveHalf (s.physDie p 0) (p % 2) o).map Loc.hbm
    else (interleave (s.dieStacks p (w - 1)) o).map Loc.hbm
  else none

/-- The die of a stack byte. -/
def keyDie (k : Nat) : Nat := k / 2 ^ 40 / 3

/-- The home station of a stack byte (R17). -/
def State.home (s : State) (k : Nat) : Nat :=
  let stack := k / 2 ^ 40
  let soff := k % 2 ^ 40
  let d := stack / 3
  let j := stack % 3
  if s.mode = 8 ∧ j = 1 then
    let half := if soff < 32000000000 then 0 else 1
    let h := soff / 128 % 16
    d * 128 + h / 2 * 16 + 4 + 2 * half + h % 2
  else
    let h := soff / 128 % 32
    d * 128 + h / 4 * 16 + 4 * j + h % 4

/-- Whether requests homed on a die get error replies (R357): the die is in reset, training or out. -/
def State.dieDown (s : State) (d : Nat) : Bool :=
  s.deadDies.contains d ||
  (s.rstDie == d && 2 ≤ fld s.drst.toNat 7 4)

/-- A die that takes no new work: down, or being quiesced for a reset (R356). -/
def State.dieBusy (s : State) (d : Nat) : Bool :=
  s.dieDown d || (s.rstDie == d && fld s.drst.toNat 7 4 != 0)

/-! ## Bytes at their homes -/

/-- What an unlisted byte reads as: zero after a scrub (R352), unpredictable after a change of PART (R24). -/
def State.memDefault (s : State) (k : Nat) : Byte :=
  if s.memEpoch = 0 then 0 else Config.unpredictable s.memEpoch k

/-- One byte of device memory at its home. -/
def State.byte (s : State) (k : Nat) : Byte := SMap.get (s.memDefault k) s.mem k

/-- A byte stored at its home. -/
def State.putByte (s : State) (k : Nat) (v : Byte) : State :=
  { s with mem := SMap.set (s.memDefault k) s.mem k v }

def State.readBytes (s : State) (k n : Nat) : List Byte := (span k n).map s.byte

def State.putBytes (s : State) (k : Nat) : List Byte → State
  | [] => s
  | b :: t => (s.putByte k b).putBytes (k + 1) t

/-- The position and read count of the home's lines that a write covers: position 3, no count (R83). -/
def l2Written (l2 : SMap (Nat × Nat)) (k n : Nat) : SMap (Nat × Nat) :=
  l2.map (fun x => if k / 128 ≤ x.1 && x.1 * 128 < k + n then (x.1, (3, 0)) else x)

/-- A write of bytes: it clears the mark of each 32-byte granule it covers whole (R107). -/
def State.writeBytes (s : State) (k : Nat) (bs : List Byte) : State :=
  let s' := s.putBytes k bs
  { s' with
    bad := s'.bad.filter (fun g => !(k ≤ g * 32 && g * 32 + 32 ≤ k + bs.length))
    l2 := l2Written s'.l2 k bs.length }

/-- Whether some granule of the range is marked (R107). -/
def State.marked (s : State) (k n : Nat) : Bool :=
  s.bad.any (fun g => g * 32 < k + n && k < g * 32 + 32)

/-- Memory in canonical form: rising addresses, and no entry equal to what an unlisted address reads as. -/
def memWf (dflt : Nat → Byte) : List Host.Cell → Bool
  | [] => true
  | (k, v) :: t => v != dflt k && SMap.above k t && memWf dflt t

def State.memOk (s : State) : Bool := memWf s.memDefault s.mem

/-- A change of the request counter for an error reply of a die in reset (R355, R357). -/
def State.stray (s : State) : State :=
  let lo := s.drcnt.toNat % 2 ^ 32
  { s with drcnt := BitVec.ofNat 64 (s.drcnt.toNat / 2 ^ 32 * 2 ^ 32 + (lo + 1) % 2 ^ 32) }

/-! ## Translation (R297 to R300) -/

/-- Why an access does not perform. -/
inductive MErr where
  | access
  | stray                 -- homed on a die in reset: an access error that counts (R357)
  | fault (why : Nat)     -- translation fault, with its reason (R299)
  | uncorr                -- uncorrectable granule (R108)
  | fabric                -- an error reply or a failed link (R104)
  | wait                  -- a remote reply is outstanding
  deriving DecidableEq, Repr

/-- A page-table entry that breaks R298 at its level. -/
def pteBad (e lvl : Nat) : Bool :=
  let leaf := bitAt e 1
  let cont := bitAt e 3
  let near := bitAt e 4
  let remote := bitAt e 50
  fld e 49 48 != 0 || fld e 11 7 != 0 || (!remote && fld e 63 51 != 0) ||
  (if leaf then
     lvl == 4 || (lvl == 3 && cont) || (lvl != 0 && fld e (11 + 9 * lvl) 12 != 0)
   else
     lvl == 0 || bitAt e 2 || cont || near || fld e 6 5 != 0 || remote || fld e 63 51 != 0)

/-- The outcome of a walk: a local physical or global address with the page's log2 size and W, or a fault. -/
inductive Walk where
  | ok (dev : Option Nat) (pa : Nat) (size : Nat) (w : Bool)
  | fault (why : Nat)
  | access
  deriving DecidableEq, Repr

/-- Leaf entry to address (R299). -/
def leafWalk (e lvl va : Nat) (wr : Bool) : Walk :=
  let sz := 12 + 9 * lvl + (if bitAt e 3 then 4 else 0)
  if wr && !bitAt e 2 then .fault 3
  else
    let frame := fld e 47 12 * 4096
    let pa := frame / 2 ^ sz * 2 ^ sz + va % 2 ^ sz
    let near := bitAt e 4
    if near && pa / 2 ^ 44 % 16 != 0 then .fault 2
    else
      let pa := if near then (1 + fld e 6 5) * 2 ^ 44 + pa else pa
      .ok (if bitAt e 50 then some (fld e 63 51) else none) pa sz (bitAt e 2)

/-- FAULT 4 of a read that got an error reply of a die in reset, which counts in STRAY (R357). -/
def strayWalk : Nat := 12

/-- The walk below a table at local physical address t; the number is the level plus one. -/
def State.walkAt (s : State) (p va : Nat) (wr : Bool) : Nat → Nat → Walk
  | 0, _ => .fault 2
  | lvl + 1, t =>
    let ea := t + 8 * fld va (20 + 9 * lvl) (12 + 9 * lvl)
    match s.physLoc p ea with
    | some (.hbm k) =>
      if s.dieDown (keyDie k) then .fault strayWalk
      else if s.marked k 8 then .fault 4
      else
        let e := leNat (s.readBytes k 8)
        if !bitAt e 0 then .fault 1
        else if pteBad e lvl then .fault 2
        else if bitAt e 1 then leafWalk e lvl va wr
        else s.walkAt p va wr lvl (fld e 47 12 * 4096)
    | _ => .access

/-- Whether bits [63:57] of an address repeat bit 56 (R74). -/
def vaCanonical (va : Nat) : Bool := va / 2 ^ 56 == 0 || va / 2 ^ 56 == 255

/-- WALK of R299, which may start at a walk-cache entry (R300). An address that is not canonical is
untranslatable (R74). -/
def State.walk (s : State) (p va : Nat) (wr : Bool) : Walk :=
  let root := (s.part p).ptroot.toNat
  if !vaCanonical va then .fault 1
  else if !bitAt root 0 then .fault 5
  else
    let v := va % 2 ^ 57
    let hit := (s.wcache.find? (fun w => w.part == p && w.pre == v / 2 ^ (21 + 9 * w.lvl))).bind
        (fun w => if s.choose 4 va then some w else none)
    match hit with
    | some w => s.walkAt p v wr (w.lvl + 1) w.table
    | none => s.walkAt p v wr 5 (fld root 47 12 * 4096)

/-- A TLB entry that maps an address. An entry without W serves a write too: it faults (R300). -/
def tlbHit (p va : Nat) (t : TlbEntry) : Bool :=
  vaCanonical va && t.part == p && t.va == va % 2 ^ 57 / 2 ^ t.size * 2 ^ t.size

/-- The global part of a translated address held in a TLB entry: device + 1 above bit 48, or local. -/
def tlbPa (dev : Option Nat) (pa : Nat) : Nat :=
  match dev with
  | none => pa
  | some d => (d + 1) * 2 ^ 48 + pa

/-- The location of a translated address: local, or on the device it names (R14, R299, R347). -/
def State.finalLoc (s : State) (p : Nat) (dev : Option Nat) (pa : Nat) : Except MErr Loc :=
  let here := match s.physLoc p pa with
    | some (.hbm k) => .ok (.hbm k)
    | _ => .error .access
  match dev with
  | some d =>
    if d = s.devid.toNat then here
    else if 4608 ≤ d then .error .access
    else if (SMap.get 0 s.rtab d).toNat % 2 ^ 18 = 0 then .error .access
    else .ok (.remote d pa)
  | none => here

/-- A request to a home on a die in reset gets an error reply (R357). The path between dies holds no state (R10); where both
common neighbours of two dies are out, for which the spec names no path, the model lets the traffic go on: DESIGN CHOICE
(log entry 87). -/
def State.homeUp (s : State) (r : Except MErr Loc) : Except MErr Loc :=
  match r with
  | .ok (.hbm k) => if s.dieDown (keyDie k) then .error .stray else r
  | r => r

/-- The entries that may serve the step: those of the acting station's micro-TLB and of its die's TLB (R19, R300); a
hub may use any die's, which is the model's choice (log entry 83). -/
def State.tlbsOf (s : State) : List TlbEntry :=
  SMap.get [] s.mtlb s.via ++ s.tlb.filter (fun t => t.die == s.via / 128 || 512 ≤ s.via)

/-- The TLB entry that the device uses for an address, if it uses one and not a new walk (R300); none while EN is 0, when
every translation faults (R297). -/
def State.tlbUse (s : State) (p va : Nat) : Option TlbEntry :=
  if bitAt (s.part p).ptroot.toNat 0 then s.tlbsOf.find? (fun t => tlbHit p va t && s.choose 1 (va + t.pa)) else none

/-- The key of a walker slot. -/
def walkerKey (d n : Nat) : Nat := d * 64 + n
def State.walker (s : State) (d n : Nat) : Walker := SMap.get {} s.walkers (walkerKey d n)

/-- A walker of a die is free (R300). -/
def State.walkerFree (s : State) (d : Nat) : Bool :=
  (span 0 64).any (fun n => s.walker d n == ({} : Walker))

/-- By this number of State.via the device writes for itself. -/
def viaOwn : Nat := 1024

/-- A walker is free for the step: one of the station's die, of any die for a hub; the device's own writes wait for none
(log entry 83). -/
def State.canWalk (s : State) : Bool :=
  if s.via < 512 then s.walkerFree (s.via / 128) else s.via == viaOwn || (span 0 4).any s.walkerFree

/-- The location of a virtual address of partition p, as an access served in L1 needs it: a TLB entry may serve
it, or a new walk, which waits while no walker is free (R300). -/
def State.translateL1 (s : State) (p va : Nat) (wr : Bool) : Except MErr Loc :=
  match s.tlbUse p va with
  | some t =>
    let off := va % 2 ^ t.size
    if wr && !t.w then .error (.fault 3)
    else if t.pa / 2 ^ 48 = 0 then s.finalLoc p none (t.pa + off)
    else s.finalLoc p (some (t.pa / 2 ^ 48 - 1)) (t.pa % 2 ^ 48 + off)
  | none =>
    if !s.canWalk then .error .wait
    else
      match s.walk p va wr with
      | .ok dev pa _ _ => s.finalLoc p dev pa
      | .fault why => .error (.fault why)
      | .access => .error .access

/-- The location of a virtual address for an access at its home. -/
def State.translate (s : State) (p va : Nat) (wr : Bool) : Except MErr Loc := s.homeUp (s.translateL1 p va wr)

/-! ## Remote accesses (R103, R104, R347) -/

/-- The device itself as a writer for partition p: the trace ring of unit n, or 600 for its records. It releases nothing. -/
def deviceIss (n p : Nat) : Issuer := .mgmt (2 + 16 * n + p)

/-- The partition of an issuer. -/
def State.whoPart (s : State) (who : Issuer) : Nat :=
  match who with
  | .crew c _ => s.unitPart c
  | .tile e => s.unitPart e
  | .mgmt h => if h < 2 then (s.mgmt h).masid.toNat % 16 else (h - 2) % 16

/-- The partition takes its inputs from a record (R316). -/
def State.playing (s : State) (p : Nat) : Bool := s.determ && bitAt (s.part p).rctl.toNat 1

/-- A packet of partition p sent to another device, as its address and bytes; a replay drops it (R317). -/
def State.sendPacket (s : State) (p dev : Nat) (bytes : List Byte) : State :=
  if s.playing p then s else { s with outFabric := s.outFabric ++ [(dev, bytes)] }

/-! Each operation that reaches another device is known by a number: the issuing sub-gang's for a scalar
instruction, one past 20,000 for a fetch, past 30,000 for a lane instruction, and these past 100,000. -/

/-- The number of an engine queue's entry: its place in issue order and its sub-gang. -/
def QEntry.tag (e : QEntry) : Nat := 100000 + 4 * (e.seq * 256 + e.sg)

/-- The gang whose writes an operation makes: that of its sub-gang. -/
def tagGang (tag : Nat) : Nat :=
  (if tag < 100000 then tag % 10000 % 128 else (tag - 100000) / 4 % 256) / 8

/-- The ports by which packets go to a device: the lowest of its mask in ordered mode and under determinism, else up to
four of it (R103, R347; log entry 67). -/
def State.portsTo (s : State) (dev : Nat) : List Nat :=
  ((span 0 18).filter (fun p => bitAt (SMap.get 0 s.rtab dev).toNat p)).take (if s.fabOrdered || s.determ then 1 else 4)

/-- The port that a packet takes: the packets of one line take one port, in order (R86; log entry 67). -/
def State.portFor (s : State) (dev pa : Nat) : Nat :=
  match s.portsTo dev with
  | [] => 0
  | [p] => p
  | p :: t => (p :: t).getD (Config.freeNat dev (60000 + pa / 128) % (t.length + 1)) p

/-- A packet whose reply or acknowledgement the device awaits (R26), with the number State.seq. -/
def State.sendNoted (s : State) (p dev : Nat) (bytes : List Byte) : State :=
  let s := s.sendPacket p dev bytes
  { s with inFlight := s.inFlight ++ [s.seq], seq := s.seq + 1 }

/-- A write sent to a line of another device: the replies to reads of it sent before fill no L1 (R86). -/
def State.staleReads (s : State) (dev pa : Nat) : State :=
  { s with remoteOps := s.remoteOps.map (fun r =>
      if !r.write && r.dev == dev && r.ga / 128 == pa / 128 then { r with stale := true } else r) }

/-- Whether a record stands for an access. -/
def RemoteOp.matches (r : RemoteOp) (who : Issuer) (sg dev pa n : Nat) (write : Bool) : Bool :=
  r.who == who && r.sg == sg && r.dev == dev && r.ga == pa && r.write == write && r.len == n && !r.posted

/-- An access that awaits its reply: sent once, with the packet given. -/
def State.remoteAccess (s : State) (op : RemoteOp) (packet : List Byte) : State × Except MErr (List Byte) :=
  match s.remoteOps.find? (fun r => r.matches op.who op.sg op.dev op.ga op.len op.write) with
  | some r =>
    if r.answered then (s, if r.ok then .ok r.data else .error .fabric) else (s, .error .wait)
  | none =>
    let s := if op.write then s.staleReads op.dev op.ga else s
    let op := { op with id := s.seq }
    ({ s with remoteOps := s.remoteOps ++ [op] }.sendNoted (s.whoPart op.who) op.dev packet, .error .wait)

/-- A remote read: outstanding until its reply arrives. -/
def State.remoteRead (s : State) (who : Issuer) (sg dev pa n : Nat) (acq : Bool) : State × Except MErr (List Byte) :=
  s.remoteAccess { id := 0, dev := dev, ga := pa, write := false, acq := acq, len := n, who := who, sg := sg } (leBytes 8 pa)

/-- A remote atomic: sent once, and outstanding until its reply brings the old value. -/
def State.remoteAtomic (s : State) (who : Issuer) (sg dev pa n : Nat) (payload : List Byte) :
    State × Except MErr (List Byte) :=
  s.remoteAccess { id := 0, dev := dev, ga := pa, write := true, atomic := true, len := n, who := who, sg := sg, data := payload }
    (leBytes 8 pa ++ payload)

/-- Whether an operation has this access outstanding. -/
def State.remoteDue (s : State) (who : Issuer) (sg dev pa n : Nat) : Bool :=
  s.remoteOps.any (fun r => r.matches who sg dev pa n false)

/-- The records of an issuer's operation are dropped when it completes, traps or fails: a reply that comes later finds
none, and the operation executed again makes its accesses anew (R185, R228). -/
def State.clearRemote (s : State) (who : Issuer) (sg : Nat) : State :=
  { s with remoteOps := s.remoteOps.filter (fun r => !(r.who == who && r.sg == sg && !r.posted)) }

/-- The devices an issuer has written, by gang. -/
def State.remoteMap (s : State) (who : Issuer) : SMap Nat :=
  match who with
  | .crew c k => ((alGet (s.core c).crews k).map Crew.remote).getD []
  | .tile e => (s.tile e).remote
  | .mgmt h => (s.mgmt h).remote

def State.setRemoteMap (s : State) (who : Issuer) (m : SMap Nat) : State :=
  match who with
  | .crew c k =>
    let e := s.core c
    (match alGet e.crews k with
     | some cr => s.setCore c { e with crews := alPut e.crews k { cr with remote := m } }
     | none => s)
  | .tile e => s.setTile e { s.tile e with remote := m }
  | .mgmt h => s.setMgmt h { s.mgmt h with remote := m }

/-- The key of a gang and a device in the map of written devices. -/
def remoteKey (gang dev : Nat) : Nat := gang * 8192 + dev

/-- Note a device that an issuer's gang has written since its last release, and how: by a port, or in L1, bit 18 (R103). -/
def State.noteRemote (s : State) (who : Issuer) (gang dev bit : Nat) : State :=
  s.setRemoteMap who (SMap.upd 0 (s.remoteMap who) (remoteKey gang dev) (fun m => Nat.lor m (2 ^ bit)))

/-- A posted write sent to another device: its record stays until its reply (R348). -/
def State.remotePost (s : State) (who : Issuer) (sg dev pa : Nat) (bs : List Byte) (va : Nat) (marked : Bool) : State :=
  let s := s.staleReads dev pa
  let op : RemoteOp := { id := s.seq, dev := dev, ga := pa, write := true, len := bs.length, who := who, sg := sg, posted := true, va := va }
  { s with remoteOps := s.remoteOps ++ [op] }.sendNoted (s.whoPart who) dev (leBytes 8 pa ++ bs ++ (if marked then [1] else []))

/-- A posted write to another device by an operation: its gang's next release covers the path it took, and reports its
failure (R103, R104). -/
def State.remoteWrite (s : State) (who : Issuer) (sg dev pa : Nat) (bs : List Byte) (va : Nat := 0) (marked : Bool := false) :
    State :=
  (s.remotePost who sg dev pa bs va marked).noteRemote who (tagGang sg) dev (s.portFor dev pa)

/-- The granules of a range are marked (R107). -/
def State.markRange (s : State) (k n : Nat) : State :=
  { s with bad := (span (k / 32) ((k + n + 31) / 32 - k / 32)).foldl (fun b g => insKey g b) s.bad }

/-- The gangs of a core, as crew and number, that have written a device in its L1. -/
def State.backers (s : State) (c dev : Nat) : List (Nat × Nat) :=
  (s.core c).crews.flatMap (fun x =>
    (x.2.remote.filter (fun y => y.1 % 8192 == dev && bitAt y.2 18)).map (fun y => (x.1, y.1 / 8192)))

/-- The bytes of a line that an L1 writes back to another device. The port counts for the gangs that wrote the device in this
L1, and an error reply is theirs at their next release (R348). -/
def State.remoteBack (s : State) (c dev pa : Nat) (bs : List Byte) (marked : Bool) : State :=
  let port := s.portFor dev pa
  let gs := s.backers c dev
  let s := s.staleReads dev pa
  let ops : List RemoteOp := gs.map (fun g =>
    { id := s.seq, dev := dev, ga := pa, write := true, len := bs.length, who := .crew c g.1, sg := 8 * g.2, posted := true })
  let s := { s with remoteOps := s.remoteOps ++ ops }.sendNoted (s.unitPart c) dev (leBytes 8 pa ++ bs ++ (if marked then [1] else []))
  gs.foldl (fun (s : State) g => s.noteRemote (.crew c g.1) g.2 dev port) s

/-- A posted write of an issuer has not been answered: it has not performed (R85). -/
def State.unperformed (s : State) (who : Issuer) : Bool := s.remoteOps.any (fun r => r.who == who && r.posted && !r.answered)

/-! ## Inputs of an epoch (R314) -/

/-- Partitions of the mode in force. -/
def State.isPart (s : State) (p : Nat) : Bool := p < s.mode

/-- An input kept until the next epoch boundary of its partition. -/
def State.deferInput (s : State) (p : Nat) (x : ExtInput) : State :=
  s.setPart p { s.part p with inputs := (s.part p).inputs ++ [x] }

/-- Byte k is in an entry of the tables at or below the one at local physical address t of partition p; the number is
the level plus one. -/
def State.inTables (s : State) (p k : Nat) : Nat → Nat → Bool
  | 0, _ => false
  | lvl + 1, t => (span 0 512).any (fun i =>
    match s.physLoc p (t + 8 * i) with
    | some (.hbm h) =>
      let e := leNat (s.readBytes h 8)
      (h ≤ k && k < h + 8) ||
        (lvl != 0 && bitAt e 0 && !bitAt e 1 && !pteBad e lvl && s.inTables p k lvl (fld e 47 12 * 4096))
    | _ => false)

/-- The partition whose page tables in force hold byte k. -/
def State.tablePart (s : State) (k : Nat) : Option Nat :=
  (span 0 16).find? (fun p => s.isPart p && bitAt (s.part p).ptroot.toNat 0 &&
    s.inTables p k 5 (fld (s.part p).ptroot.toNat 47 12 * 4096))

/-- The partition of which a write is an input: under determinism a page-table write of a management core, by a store, an atomic
or an engine command (R314; log entry 23). -/
def State.tableInput (s : State) (who : Issuer) (k : Nat) : Option Nat :=
  match who with
  | .mgmt h => if s.determ && h < 2 then s.tablePart k else none
  | _ => none

/-- Bytes at stack byte k as inputs of partition p, eight at a time. -/
def State.deferTable (s : State) (p k : Nat) (bs : List Byte) : State :=
  ((chunks 8 bs.length bs).zip (span 0 bs.length)).foldl (fun s x =>
    s.deferInput p { kind := 4, op := 4, addr := k + 8 * x.2, val := BitVec.ofNat 64 (leNat x.1), arg := x.1.length }) s

/-! ## Home accesses by location -/

/-- Read n bytes (within a granule line) at a location's home. -/
def State.readLoc (s : State) (who : Issuer) (sg : Nat) (l : Loc) (n : Nat) : State × Except MErr (List Byte) :=
  match l with
  | .hbm k => (s, if s.marked k n then .error .uncorr else .ok (s.readBytes k n))
  | .remote dev pa => s.remoteRead who sg dev pa n false
  | .reg _ => (s, .error .access)

/-- Write bytes at a location's home; data of a bad granule mark theirs (R108). -/
def State.writeLoc (s : State) (who : Issuer) (l : Loc) (bs : List Byte) (sg : Nat := 10000) (va : Nat := 0)
    (marked : Bool := false) : State :=
  match l with
  | .hbm k =>
    (match s.tableInput who k with
     | some p => s.deferTable p k bs
     | none => if marked then (s.writeBytes k bs).markRange k bs.length else s.writeBytes k bs)
  | .remote dev pa => s.remoteWrite who sg dev pa bs va marked
  | .reg _ => s

/-- The pieces of a virtual range that stay within 128-byte lines. -/
def pieces : Nat → Nat → Nat → List (Nat × Nat)
  | 0, _, _ => []
  | fuel + 1, va, n =>
    if n = 0 then []
    else
      let k := min n (128 - va % 128)
      (va, k) :: pieces fuel (va + k) (n - k)

def piecesOf (va n : Nat) : List (Nat × Nat) := pieces (n / 128 + 2) va n

/-- Translate the pieces of a range: the locations, or the first failing address. -/
def State.locs (s : State) (p : Nat) (wr : Bool) : List (Nat × Nat) → Except (MErr × Nat) (List (Loc × Nat))
  | [] => .ok []
  | (va, n) :: t =>
    match s.translate p va wr with
    | .error e => .error (e, va)
    | .ok l =>
      match s.locs p wr t with
      | .error e => .error e
      | .ok r => .ok ((l, n) :: r)

/-- The first byte of a failed read: of an uncorrectable one the first in a marked granule. -/
def State.failByte (s : State) (l : Loc) (n va : Nat) (e : MErr) : Nat :=
  match l, e with
  | .hbm k, .uncorr => va + ((span 0 n).find? (fun i => s.marked (k + i) 1)).getD 0
  | _, _ => va

/-- Read the homes of a list of locations. -/
def State.readLocs (s : State) (who : Issuer) (sg : Nat) (va : Nat) :
    List (Loc × Nat) → State × Except (MErr × Nat) (List Byte)
  | [] => (s, .ok [])
  | (l, n) :: t =>
    match s.readLoc who sg l n with
    | (s', .error e) => (s', .error (e, s.failByte l n va e))
    | (s', .ok bs) =>
      match s'.readLocs who sg (va + n) t with
      | (s'', .error e) => (s'', .error e)
      | (s'', .ok r) => (s'', .ok (bs ++ r))

/-- Read n bytes at a virtual address at their homes, as an engine does (R99). A remote reply is known by the
number sg, which is past every sub-gang's. -/
def State.readVa (s : State) (who : Issuer) (p va n : Nat) (sg : Nat := 10000) : State × Except (MErr × Nat) (List Byte) :=
  match s.locs p false (piecesOf va n) with
  | .error e => (s, .error e)
  | .ok ls => s.readLocs who sg va ls

def State.writeLocs (s : State) (who : Issuer) (sg : Nat) (marked : Bool) : Nat → List (Loc × Nat) → List Byte → State
  | _, [], _ => s
  | va, (l, n) :: t, bs => (s.writeLoc who l (bs.take n) sg va marked).writeLocs who sg marked (va + n) t (bs.drop n)

/-- Write bytes at a virtual address at their homes: nothing is written when some piece fails. -/
def State.writeVa (s : State) (who : Issuer) (p va : Nat) (bs : List Byte) (sg : Nat := 10000) (marked : Bool := false) :
    Except (MErr × Nat) State :=
  match s.locs p true (piecesOf va bs.length) with
  | .error e => .error e
  | .ok ls => .ok (s.writeLocs who sg marked va ls bs)

/-- A write that the device itself made to another device for a partition awaits its reply. -/
def State.ownOut (s : State) (n p : Nat) : Bool := s.remoteOps.any (fun r => r.who == deviceIss n p)

/-- Bytes that the device itself writes for a partition: no agent's release covers them. -/
def State.writeOwn (s : State) (n p va : Nat) (bs : List Byte) : Except (MErr × Nat) State :=
  match { s with via := viaOwn }.locs p true (piecesOf va bs.length) with
  | .error e => .error e
  | .ok ls =>
    .ok (ls.foldl (fun (a : State × List Byte) x =>
      (match x.1 with
       | .remote dev pa => a.1.remotePost (deviceIss n p) 10000 dev pa (a.2.take x.2) 0 false
       | l => a.1.writeLoc (deviceIss n p) l (a.2.take x.2), a.2.drop x.2)) (s, bs)).1

/-! ## Read-only caches (R79, R129) -/

/-- The key of a line of a cache for one launch: the cache of edge core c is unit c, the window cache of die d unit
256 + d. Nothing is kept past the launch. -/
def roKey (unit launch line : Nat) : Nat := (launch * 1024 + unit) * 2 ^ 57 + line

/-- Byte x of a request of n bytes at va, when the cache holds every byte that it asks of that 32-bit word and serves the word:
the values they had when they were read before. -/
def State.roHit (s : State) (unit launch va n x : Nat) : Option Byte :=
  let ln := SMap.get {} s.roCache (roKey unit launch (x / 128))
  let asked := (span (x / 4 * 4) 4).filter (fun y => va ≤ y && y < va + n)
  if asked.all (fun y => bitAt ln.valid (y % 128)) && s.choose 5 (x / 4) then some (SMap.get 0 ln.vals (x % 128)) else none

/-- A byte read at the home enters the cache; of its word the cache keeps none that was not read with it. -/
def roFill (unit launch va n : Nat) (m : SMap L1Line) (x : Nat × Byte) : SMap L1Line :=
  SMap.upd {} m (roKey unit launch (x.1 / 128)) (fun ln =>
    let old := ((span (x.1 / 4 * 4) 4).filter (fun y => !(va ≤ y && y < va + n) && bitAt ln.valid (y % 128)))
    let kept := old.foldl (fun v y => v - 2 ^ (y % 128)) ln.valid
    { ln with
      vals := SMap.set 0 ln.vals (x.1 % 128) x.2
      valid := if bitAt kept (x.1 % 128) then kept else kept + 2 ^ (x.1 % 128) })

/-- Bytes read through a read-only cache: each 32-bit word is its value at an earlier read of the launch, or its present one at
the home (R79, R129). -/
def State.roRead (s : State) (who : Issuer) (p va n sg unit launch : Nat) : State × Except (MErr × Nat) (List Byte) :=
  let hits := (span va n).map (s.roHit unit launch va n)
  if hits.all Option.isSome then (s, .ok (hits.filterMap id))
  else
    match s.readVa who p va n sg with
    | (s, .ok bs) =>
      let got := ((span va n).zip (bs.zip hits)).filter (fun x => x.2.2.isNone)
      ({ s with roCache := got.foldl (fun m x => roFill unit launch va n m (x.1, x.2.1)) s.roCache },
       .ok ((bs.zip hits).map (fun x => x.2.getD x.1)))
    | r => r

/-- The caches forget a launch. -/
def State.roDrop (s : State) (launch : Nat) : State :=
  { s with roCache := s.roCache.filter (fun x => x.1 / 2 ^ 57 / 1024 != launch) }

/-- An error reply of a die in reset, to an access or to a walker's read for it, counts in STRAY where it is reported (R357). -/
def State.countErr (s : State) (e : MErr) : State := if e = .stray ∨ e = .fault strayWalk then s.stray else s

/-! ## Reuse hints (R83) -/

/-- The insertion of a hint: position and read count (R83). -/
def hintPos (h : Nat) : Nat := if h < 8 then h else 3
def hintReads (h : Nat) : Nat := if h < 8 then 0 else h - 7

/-- Lines of one L2 slice (R12, R21). -/
def sliceLines : Nat := 8192

/-- Room in the home slice of a line: a full one loses a line of its highest re-reference position (R83; log entry 13). -/
def State.l2Room (s : State) (lk : Nat) : State :=
  let h := s.home (lk * 128)
  match s.l2.filter (fun x => s.home (x.1 * 128) == h) with
  | [] => s
  | x :: t =>
    if t.length + 1 < sliceLines then s
    else { s with l2 := alDel s.l2 (t.foldl (fun b y => if b.2.1 < y.2.1 then y else b) x).1 }

/-- A line enters its home slice at a position, with a read count or none. -/
def State.l2Fill (s : State) (lk pos n : Nat) : State :=
  let s := s.l2Room lk
  { s with l2 := alPut s.l2 lk (pos, n) }

/-- One read of a line of the home slice: a line not held is filled at its hint, and a counted one at its last read
invalidates itself. The read that fills a counted line is its first (log entry 68). -/
def State.l2Touch (s : State) (hint lk : Nat) : State :=
  match alGet s.l2 lk with
  | none => if hintReads hint = 1 then s else s.l2Fill lk (hintPos hint) (hintReads hint - 1)
  | some (pos, n) => { s with l2 := if n = 1 then alDel s.l2 lk else alPut s.l2 lk (pos, n - 1) }

/-- The home lines of a list of virtual ranges, each once. -/
def State.linesOf (s : State) (p : Nat) (rs : List (Nat × Nat)) : List Nat :=
  (rs.flatMap (fun r => piecesOf r.1 r.2)).foldl (fun a x =>
    match s.translate p x.1 false with
    | .ok (.hbm k) => insKey (k / 128) a
    | _ => a) []

/-- One copy or tile fetch reads each line of the ranges once. -/
def State.l2Reads (s : State) (p hint : Nat) (rs : List (Nat × Nat)) : State :=
  (s.linesOf p rs).foldl (fun s lk => s.l2Touch hint lk) s

/-! ## The edge L1 (R81 to R83, R85) -/

def lineDefault : L1Line := {}
def EdgeCore.line (c : EdgeCore) (lk : Nat) : L1Line := SMap.get {} c.l1 lk

/-- The location of an L1 line's key. -/
def keyLoc (k : Nat) : Loc :=
  if k < 2 ^ 60 then .hbm k
  else .remote ((k - 2 ^ 63) / 2 ^ 48) ((k - 2 ^ 63) % 2 ^ 48)

/-- The maximal runs of set bits of a mask below n, as (start, length). -/
def dirtyRuns (m : Nat) : Nat → List (Nat × Nat)
  | 0 => []
  | n + 1 =>
    let r := dirtyRuns m n
    if bitAt m n = false then r
    else
      match r.getLast? with
      | some (a, k) => if a + k = n then r.dropLast ++ [(a, k + 1)] else r ++ [(n, 1)]
      | none => [(n, 1)]

/-- The granules of a line that are bad in L1 and hold dirty bytes. -/
def L1Line.badDirty (ln : L1Line) : List Nat := ln.bad.filter (fun g => fld ln.dirty (32 * g + 31) (32 * g) != 0)

/-- The runs of dirty bytes of a line; those of a line with a bad granule stay within granules, so that no good one is marked
(R108). -/
def L1Line.runs (ln : L1Line) : List (Nat × Nat) :=
  if ln.badDirty = [] then dirtyRuns ln.dirty 128
  else (span 0 4).flatMap (fun g => (dirtyRuns (ln.dirty / 2 ^ (32 * g)) 32).map (fun r => (32 * g + r.1, r.2)))

/-- The dirty bytes of a line reach their home, and no others (R81); a home on a die in reset loses them (R357). -/
def State.writeDirty (s : State) (c lk : Nat) (ln : L1Line) : State :=
  ln.runs.foldl (fun s r =>
    let bs := SMap.getN 0 ln.vals r.1 r.2
    match keyLoc (lk * 128 + r.1) with
    | .hbm k => if s.dieDown (keyDie k) then s else s.putBytes k bs
    | .remote dev pa => s.remoteBack c dev pa bs (ln.badDirty.contains (r.1 / 32))
    | .reg _ => s) s

/-- A line written back: a granule all of whose bytes are dirty loses its mark, one whose dirty bytes are bad in L1 is
marked (R107, R108); the home line takes position 3 without a count (R83); a lost line counts (R357). -/
def State.writeBackLine (s : State) (c lk : Nat) (ln : L1Line) : State :=
  if ln.dirty = 0 then s
  else
    let s := s.writeDirty c lk ln
    match keyLoc (lk * 128) with
    | .hbm k =>
      if s.dieDown (keyDie k) then s.stray
      else
        let bad := s.bad.filter (fun g =>
          !(lk * 4 ≤ g && g < lk * 4 + 4 && fld ln.dirty ((g - lk * 4) * 32 + 31) ((g - lk * 4) * 32) == 2 ^ 32 - 1))
        { s with bad := ln.badDirty.foldl (fun b g => insKey (lk * 4 + g) b) bad, l2 := l2Written s.l2 k 128 }
    | _ => s

/-- Remove a line from L1, writing back its dirty bytes. -/
def State.evict (s : State) (c lk : Nat) : State :=
  let e := s.core c
  let s := s.writeBackLine c lk (e.line lk)
  s.setCore c { s.core c with l1 := SMap.set {} (s.core c).l1 lk {} }

/-- Drop a load-block: its lines leave L1, dirty bytes first written back (R81, R82). -/
def State.dropBlock (s : State) (c b : Nat) : State :=
  match alGet (s.core c).blocks b with
  | none => s
  | some blk =>
    let s := blk.lines.foldl (fun s lk => s.evict c lk) s
    s.setCore c { s.core c with blocks := alDel (s.core c).blocks b }

/-- Write back every dirty byte of a core's L1; the lines stay, clean (R88). -/
def State.writeBackAll (s : State) (c : Nat) : State :=
  let ls := (s.core c).l1
  let s := ls.foldl (fun s e => s.writeBackLine c e.1 e.2) s
  s.setCore c { s.core c with
    l1 := ls.foldl (fun m e => SMap.set {} m e.1 { e.2 with dirty := 0 }) ls }

/-- The clean data of a set of lines are invalidated byte by byte (R81): load-blocks that meet the set are
dropped, and a line keeps only its dirty bytes. -/
def State.invalClean (s : State) (c : Nat) (inSet : Nat → Bool) : State :=
  let bs := (s.core c).blocks.filter (fun b => b.2.lines.any inSet)
  let s := bs.foldl (fun s b => s.dropBlock c b.1) s
  let ls := (s.core c).l1
  s.setCore c { s.core c with
    l1 := ls.foldl (fun m e => if inSet e.1 then
      SMap.set {} m e.1 (if e.2.dirty = 0 then {} else { e.2 with valid := e.2.dirty, bad := e.2.badDirty }) else m) ls }

/-- Write back the dirty bytes of a set of lines. -/
def State.writeBackSet (s : State) (c : Nat) (inSet : Nat → Bool) : State :=
  let ls := (s.core c).l1.filter (fun e => inSet e.1)
  let s := ls.foldl (fun s e => s.writeBackLine c e.1 e.2) s
  s.setCore c { s.core c with
    l1 := ls.foldl (fun m e => SMap.set {} m e.1 { e.2 with dirty := 0 }) (s.core c).l1 }

/-- Room for a line: when 1,024 lines are held, one of the highest re-reference position leaves (R81, R83). -/
def State.makeRoom (s : State) (c : Nat) : State :=
  let ls := ((s.core c).l1).filter (fun e => e.2.blk == 0)
  if (s.core c).l1.length < 1024 then s
  else
    match ls with
    | [] => s
    | h :: t => s.evict c ((t.foldl (fun b e => if b.2.pos < e.2.pos then e else b) h).1)

/-- A line after the fill of some of its bytes, in order from an offset, under its dirty bytes. A new line takes the
access's hint (R83). -/
def fillBytes (ln : L1Line) (hint off : Nat) (bs : List Byte) : L1Line :=
  let r := (bs.zip (span off bs.length)).foldl
    (fun (m : SMap Byte × Nat) x => if bitAt m.2 x.2 then m else (SMap.set 0 m.1 x.2 x.1, m.2 + 2 ^ x.2)) (ln.vals, ln.valid)
  { ln with vals := r.1, valid := r.2, pos := if ln.valid = 0 then hintPos hint else ln.pos,
            reads := if ln.valid = 0 then hintReads hint else ln.reads }

/-- One read of a line: its expected count goes down, and at the last it leaves L1 (R83). -/
def countRead (ln : L1Line) : L1Line :=
  if ln.reads = 0 then ln
  else if ln.reads = 1 ∧ ln.dirty = 0 then {}
  else { ln with reads := ln.reads - 1 }

/-- The line is read once by an instruction: a counted line or load-block at its last read leaves L1 (R83). -/
def State.countTouch (s : State) (c lk : Nat) : State :=
  let ln := (s.core c).line lk
  match alGet (s.core c).blocks ln.blk with
  | some b =>
    if b.reads = 1 then s.dropBlock c ln.blk
    else s.setCore c { s.core c with
      blocks := alPut (s.core c).blocks ln.blk { b with used := s.draws, reads := b.reads - 1 } }
  | none => s.setCore c { s.core c with l1 := SMap.set {} (s.core c).l1 lk (countRead ln) }

/-- The bytes of a range that L1 holds dirty stand over those of the home. -/
def L1Line.over (ln : L1Line) (off : Nat) (bs : List Byte) : List Byte :=
  (bs.zip (span off bs.length)).map (fun x => if bitAt ln.dirty x.2 then SMap.get 0 ln.vals x.2 else x.1)

/-- A line with bytes of a fill put into L1. -/
def State.fillL1 (s : State) (c lk : Nat) (hint off : Nat) (bs : List Byte) : State :=
  let s := if ((s.core c).line lk).valid = 0 then s.makeRoom c else s
  s.setCore c { s.core c with l1 := SMap.set {} (s.core c).l1 lk (fillBytes ((s.core c).line lk) hint off bs) }

/-- A granule of the range is bad in L1 (R108). -/
def L1Line.badAt (ln : L1Line) (off n : Nat) : Bool := ln.bad.any (fun g => g * 32 < off + n && off < g * 32 + 32)

/-- A dirty byte of the range lies in a granule that is bad in L1. -/
def L1Line.dirtyBadAt (ln : L1Line) (off n : Nat) : Bool := (span off n).any (fun i => bitAt ln.dirty i && ln.bad.contains (i / 32))

/-- Bytes of a load from the copies present (R85): dirty bytes from L1; clean ones from L1 when the access must
be served there, else from L1 or the home as the core chooses. The line, or of another device's line the bytes
fetched, are filled. A load-block serves its lines once its flag is set (R82). -/
def State.weakPeek (s : State) (who : Issuer) (sg c : Nat) (l : Loc) (n hint : Nat) (must : Bool) :
    State × Except MErr (List Byte) :=
  let lk := l.key / 128
  let off := l.key % 128
  let ln := (s.core c).line lk
  let fromL1 := must || s.choose 2 l.key
  let ix := span off n
  let held := ix.map (SMap.get 0 ln.vals)
  match alGet (s.core c).blocks ln.blk with
  | some b =>
    if !b.done then (s, .error .wait)
    else if b.bad.contains lk || ln.badAt off n then (s, .error .uncorr)
    else if b.lost.any (fun x => x.1 == lk) then (s, .error (if b.lost.contains (lk, 1) then .fabric else .access))
    else (s, .ok held)
  | none =>
    let due := match l with | .remote dev pa => s.remoteDue who sg dev pa n | _ => false
    if due = false ∧ ix.all (fun i => bitAt ln.valid i) = true ∧ (fromL1 = true ∨ ix.all (fun i => bitAt ln.dirty i) = true) then
      (s, if ln.badAt off n then .error .uncorr else .ok held)
    else
      match l with
      | .hbm k =>
        if s.dieDown (keyDie k) then (s, .error .stray)
        else if s.marked k n || ln.dirtyBadAt off n then (s, .error .uncorr)
        else
          let bs := ln.over off (s.readBytes k n)
          (if !fromL1 || s.marked (lk * 128) 128 then s else s.fillL1 c lk hint 0 (s.readBytes (lk * 128) 128), .ok bs)
      | .remote dev pa =>
        let stale := s.remoteOps.any (fun r => r.matches who sg dev pa n false && r.stale)
        if ln.dirtyBadAt off n then (s, .error .uncorr)
        else
          (match s.remoteRead who sg dev pa n false with
           | (s, .ok bs) => (if fromL1 && !stale then s.fillL1 c lk hint off bs else s, .ok (ln.over off bs))
           | r => r)
      | .reg _ => (s, .error .access)

/-- A load by one instruction from one line: its bytes, and one read of the line (R83). -/
def State.weakRead (s : State) (who : Issuer) (sg c : Nat) (l : Loc) (n hint : Nat) (must : Bool) :
    State × Except MErr (List Byte) :=
  match s.weakPeek who sg c l n hint must with
  | (s, .ok bs) => (s.countTouch c (l.key / 128), .ok bs)
  | r => r

/-- A weak store into L1: each byte becomes valid and dirty, a granule it covers whole is good again, the line loses its
count (R81, R83); the line may leave L1 at any time after. A store to another device's line is noted for the gang's
releases (R103). -/
def State.weakWrite (s : State) (who : Issuer) (sg c : Nat) (l : Loc) (bs : List Byte) : State :=
  let lk := l.key / 128
  let off := l.key % 128
  let s : State := match l with | .remote dev pa => (s.noteRemote who (tagGang sg) dev 18).staleReads dev pa | _ => s
  let s := if ((s.core c).line lk).valid = 0 then s.makeRoom c else s
  let ln := (s.core c).line lk
  let ix := span off bs.length
  let vals := (ix.zip bs).foldl (fun m e => SMap.set 0 m e.1 e.2) ln.vals
  let mark := ix.foldl (fun (a : Nat) i => if bitAt a i then a else a + 2 ^ i)
  let ln' : L1Line := { ln with
    vals := vals, valid := mark ln.valid, dirty := mark ln.dirty, pos := 3, reads := 0
    bad := ln.bad.filter (fun g => !(off ≤ 32 * g && 32 * g + 32 ≤ off + bs.length)) }
  let blocks := match alGet (s.core c).blocks ln'.blk with
    | some b => alPut (s.core c).blocks ln'.blk { b with reads := 0, used := s.draws }
    | none => (s.core c).blocks
  let s := s.setCore c { s.core c with l1 := SMap.set {} (s.core c).l1 lk ln', blocks := blocks }
  if ln'.blk = 0 ∧ s.choose 3 l.key then s.evict c lk else s

/-- Before a strong access at die scope or wider, a line's dirty bytes are written back, and no copy stays in
L1 (R85); a load-block that holds the line is dropped whole (R82). -/
def State.flushLine (s : State) (c lk : Nat) : State :=
  let ln := (s.core c).line lk
  if ln.blk = 0 then (if ln.valid = 0 then s else s.evict c lk) else s.dropBlock c ln.blk

end Sys2Proof.Machine
end

