-- ==== Sys2Proof/Machine/Trace.lean ====
section
/-! DEFINITION. Time, interrupts to the host, management events, and the per-core trace (R194, R311 to R314, R343). -/

namespace Sys2Proof.Machine

/-- What TIME reads for an agent of partition p: the cycle counter, or PSTEP under determinism (R314). -/
def State.timeOf (s : State) (p : Nat) : Nat :=
  if s.determ then (s.part p).pstep.toNat % 2 ^ 48 else s.time.toNat

/-- MSI-X vector v of function f is raised (R344). -/
def State.raiseMsi (s : State) (f v : Nat) : State :=
  s.setFn f { s.fn f with msix := insKey v (s.fn f).msix }

/-! ## Write-one-to-clear bits set in the same cycle (R3) -/

/-- The registers whose W1C bits the device sets. -/
inductive Hot where
  | hfstat
  | qerr (p q : Nat)
  | tplerr (p : Nat)
  | ovf (p : Nat)
  | rerr
  | modeErr
  | mapErr (p : Nat)
  | fmt (thread : Nat)
  | msts (thread : Nat)
  deriving DecidableEq, Repr

def hotKey : Hot → Nat
  | .hfstat => 0
  | .rerr => 1
  | .modeErr => 2
  | .qerr p q => 2 ^ 32 + p * 256 + q
  | .tplerr p => 2 * 2 ^ 32 + p
  | .ovf p => 3 * 2 ^ 32 + p
  | .fmt t => 4 * 2 ^ 32 + t
  | .msts t => 5 * 2 ^ 32 + t
  | .mapErr p => 6 * 2 ^ 32 + p

/-- The device sets bits in this cycle. -/
def State.heat (s : State) (h : Hot) (mask : Nat) : State := { s with hot := SMap.upd 0 s.hot (hotKey h) (Nat.lor mask) }

/-- The bits that the device has set in this cycle: a write that clears them leaves them set. -/
def State.hotBits (s : State) (h : Hot) : Nat := SMap.get 0 s.hot (hotKey h)

/-- Set a bit of HFSTAT; a bit that becomes set raises vector 1 of the PF (R343, R344). -/
def State.raiseHf (s : State) (b : Nat) : State :=
  let s := s.heat .hfstat (2 ^ b)
  if bitAt s.hfstat.toNat b then s
  else { s with hfstat := BitVec.ofNat 32 (s.hfstat.toNat + 2 ^ b) }.raiseMsi 0 1

/-- An event word appended to a hub's event list (R194). -/
def State.pushEvent (s : State) (h : Nat) (w : Nat) : State :=
  s.setMgmt h { s.mgmt h with events := (s.mgmt h).events ++ [BitVec.ofNat 64 w] }

def eventWord (kind payload : Nat) : Nat := kind * 2 ^ 56 + payload

/-! ## Trace (R311 to R313) -/

def State.trc (s : State) (n : Nat) : Trace := SMap.get {} s.traces n
def State.setTrc (s : State) (n : Nat) (t : Trace) : State := { s with traces := SMap.set {} s.traces n t }

/-- Word 0 of a packet (R312). -/
def packet0 (kind gs sub len payload dt : Nat) : Nat :=
  payload % 2 ^ 32 * 2 ^ 32 + dt % 2 ^ 16 * 2 ^ 16 + sub % 8 * 2 ^ 12 + gs % 16 * 2 ^ 8 + len % 8 * 2 ^ 5 + kind

/-- Write the words of one packet to the ring of unit n, or drop it (R311, R312); the second result tells that it is
written. Words on another device await their replies, and WP with them. -/
def State.putPacket (s : State) (n p : Nat) (words : List Nat) : State × Bool :=
  let t := s.trc n
  let size := 2 ^ fld t.ctl.toNat 4 0
  let bytes := words.flatMap (leBytes 8)
  let full := !bitAt t.ctl.toNat 30 && size < (t.sent.toNat + 2 ^ 32 - t.rp.toNat) % 2 ^ 32 + bytes.length
  let lost := fun (s : State) => (s.setTrc n { s.trc n with lost := (s.trc n).lost + 1, needSync := true }, false)
  if full then lost s
  else
    let base := canonVa (fld t.base.toNat 56 12 * 4096)
    let va := base + t.sent.toNat % size
    let first := min bytes.length (size - t.sent.toNat % size)
    match s.writeOwn n p va (bytes.take first) with
    | .error e => lost (s.countErr e.1)
    | .ok s1 =>
      match s1.writeOwn n p base (bytes.drop first) with
      | .error e => lost (s.countErr e.1)
      | .ok s2 =>
        let sent := BitVec.ofNat 32 (t.sent.toNat + bytes.length)
        (s2.setTrc n { t with
          sent := sent, wp := if s2.ownOut n p then t.wp else sent
          last := s.timeOf p, sinceSync := t.sinceSync + 1 }, true)

/-- Packets written one after another, up to the first that is dropped. -/
def State.putPackets (s : State) (n p : Nat) : List (List Nat) → State × Bool
  | [] => (s, true)
  | w :: ws =>
    match s.putPacket n p w with
    | (s, true) => s.putPackets n p ws
    | r => r

/-- The replies to a trace ring's words have come: WP takes them in (R311). -/
def State.traceReplied (s : State) : State :=
  { s with traces := s.traces.map (fun x =>
      if (span 0 9).any (s.ownOut x.1) then x else (x.1, { x.2 with wp := x.2.sent })) }

/-- The replies to a stop log's records have come: SLCNT takes them in (R295). -/
def State.logReplied (s : State) : State :=
  (span 0 8).foldl (fun (s : State) p =>
    let b := s.part p
    if b.slcnt = b.slSent ∨ s.ownOut 600 p = true then s else s.setPart p { b with slcnt := b.slSent }) s

/-- A packet, of an edge core or not, with the packets that must precede it, LOST and SYNC where R312 asks for them: it is written after all of
them, or is dropped. -/
def State.traceRaw (s : State) (n p gs sub kind payload : Nat) (more : List Nat) (pos lpc : Nat) (edge : Bool)
    (forceSync : Bool) : State :=
  let t := s.trc n
  let edge : Bool := edge && n < 512
  if !bitAt t.ctl.toNat 31 then s
  else
    let now := s.timeOf p
    let dt := now - t.last
    let d := min dt 65535
    let lost := if t.lost = 0 then [] else [[packet0 0x10 gs sub 0 (min t.lost (2 ^ 32 - 1)) d]]
    let due := t.needSync || forceSync || 65535 < dt || 1024 ≤ t.sinceSync || t.lost != 0
    let sync := if due then
        [[packet0 1 gs sub (if edge then 2 else 1) pos (if t.lost = 0 then d else 0), now % 2 ^ 48] ++ (if edge then [lpc] else [])]
      else []
    -- one packet is lost, whichever of those before it does not fit
    match s.putPackets n p lost with
    | (s, false) => s.setTrc n { s.trc n with lost := t.lost + 1 }
    | (s, true) =>
    match s.putPackets n p sync with
    | (s, false) => s.setTrc n { s.trc n with lost := 1 }
    | (s, true) =>
      let s := if due then s.setTrc n { s.trc n with lost := 0, needSync := false, sinceSync := 0 } else s
      if kind = 1 then s
      else (s.putPacket n p ([packet0 kind gs sub more.length payload (if due then 0 else d)] ++ more)).1

/-- Write the pending run of units, SEQ or SKIP, as from its first place. -/
def State.flushRun (s : State) (n p : Nat) (edge : Bool) : State :=
  let t := s.trc n
  if t.run = 0 then s
  else
    let s := s.setTrc n { t with run := 0 }
    s.traceRaw n p (t.runWho / 8) (t.runWho % 8) t.runKind t.run [] t.runPos t.runLpc edge false

/-- A trace packet of unit n, when its tracing is on. Tracing changes nothing else (R311). -/
def State.trace (s : State) (n p gs sub kind payload : Nat) (more : List Nat) (pos lpc : Nat) (edge : Bool) : State :=
  if !bitAt (s.trc n).ctl.toNat 31 then s
  else (s.flushRun n p edge).traceRaw n p gs sub kind payload more pos lpc edge (kind == 0x11)

/-- Count a unit (bundle or scalar instruction) at a place, executed in sequence (kind 2) or skipped (kind 4). -/
def State.traceUnit (s : State) (n p kind who pos lpc : Nat) (edge : Bool) : State :=
  let t := s.trc n
  if !bitAt t.ctl.toNat 31 then s
  else
    let s := if t.runWho = who ∧ t.runKind = kind then s else s.flushRun n p edge
    let t := s.trc n
    s.setTrc n (if t.run = 0 then { t with runWho := who, runKind := kind, runPos := pos, runLpc := lpc, run := 1 }
      else { t with run := t.run + 1 })

end Sys2Proof.Machine
end

