-- ==== Sys2Proof/Machine/Ops.lean ====
section
/-! DEFINITION. The operations every scalar and lane meaning is made of: the acting thread and its registers,
waiting and advancing, taking a trap (R183, R184) and returning from one (R185), the posting of entry
failures (R228), and scalar accesses to memory (R84 to R88, R189). -/

namespace Sys2Proof.Machine

abbrev Out := Host.Outcome State Fault Refusal

/-! ## The acting thread -/

/-- What a scalar or lane instruction acts on: the thread, and for a sub-gang its place, gang, crew and launch. -/
structure Ctx where
  ref : SgRef
  th : Thread
  gang : Gang := {}
  crew : Crew := {}
  desc : Desc := {}
  part : Nat := 0
  isMgmt : Bool := false
  hub : Nat := 0
  deriving DecidableEq, Repr

/-- The sub-gang at a place. -/
def State.subGang (s : State) (r : SgRef) : Option Ctx :=
  match alGet (s.core r.core).gangs r.slot with
  | none => none
  | some g =>
    match alGet g.subs r.sub, alGet (s.core r.core).crews g.crew with
    | some th, some cr =>
      match s.launch cr.launch with
      | some l => some { ref := r, th := th, gang := g, crew := cr, desc := l.desc, part := s.unitPart r.core }
      | none => none
    | _, _ => none

/-- The management core of a hub as a thread. -/
def State.mgmtCtx (s : State) (h : Nat) : Option Ctx :=
  if 2 ≤ h ∨ (s.mgmt h).halted = true then none
  else some { ref := { core := 0, slot := 0, sub := 0 }, th := (s.mgmt h).th, isMgmt := true, hub := h,
              part := (s.mgmt h).masid.toNat % 16 }

/-- The thread of the acting agent. -/
def State.ctx (s : State) : Option Ctx :=
  match s.cur with
  | .scalar r => s.subGang r
  | .lane r => s.subGang r
  | .mgmt h => s.mgmtCtx h
  | _ => none

/-- The issuer of a context's engine commands (R96). -/
def Ctx.iss (c : Ctx) : Issuer := if c.isMgmt then .mgmt c.hub else .crew c.ref.core c.gang.crew
/-- A sub-gang's number among its issuer's: gang number × 8 + sub-gang number. -/
def Ctx.sg (c : Ctx) : Nat := c.gang.num * 8 + c.ref.sub
/-- The number by which the remote accesses of its lane instructions are known. -/
def Ctx.laneSg (c : Ctx) : Nat := 30000 + c.sg
def Ctx.unit (c : Ctx) : Nat := if c.isMgmt then 512 + c.hub else station c.ref.core true

/-- The thread at a place replaced. -/
def State.setSub (s : State) (r : SgRef) (th : Thread) : State :=
  let e := s.core r.core
  match alGet e.gangs r.slot with
  | none => s
  | some g => s.setCore r.core { e with gangs := alPut e.gangs r.slot { g with subs := alPut g.subs r.sub th } }

/-- The number of a thread: the handle of a sub-gang, or one past them for a management core. -/
def Ctx.thread (c : Ctx) : Nat :=
  if c.isMgmt then 2 ^ 16 + c.hub else c.ref.core * 256 + c.ref.slot * 16 + c.ref.sub

/-- A thread that a program has written fmt and MSTS of: a bit set in this cycle ends set (R3). -/
def State.keepHot (s : State) (c : Ctx) (th : Thread) : Thread :=
  { th with
    fmt := th.fmt ||| BitVec.ofNat 32 (s.hotBits (.fmt c.thread))
    msts := th.msts ||| BitVec.ofNat 32 (s.hotBits (.msts c.thread)) }

/-- The thread of a context replaced. -/
def State.setTh (s : State) (c : Ctx) (th : Thread) : State :=
  if c.isMgmt then s.setMgmt c.hub { s.mgmt c.hub with th := th } else s.setSub c.ref th

/-- The gang's registers replaced; its threads stand. -/
def State.setGang (s : State) (c : Ctx) (f : Gang → Gang) : State :=
  let e := s.core c.ref.core
  match alGet e.gangs c.ref.slot with
  | none => s
  | some g => s.setCore c.ref.core { e with gangs := alPut e.gangs c.ref.slot (f g) }

/-- The crew of a context changed. -/
def State.updCrew (s : State) (core k : Nat) (f : Crew → Crew) : State :=
  let e := s.core core
  match alGet e.crews k with
  | none => s
  | some cr => s.setCore core { e with crews := alPut e.crews k (f cr) }

/-- x0 reads zero (R167). -/
def Thread.getX (th : Thread) (n : Nat) : W64 := if n = 0 then 0 else SMap.get 0 th.x n
/-- A write to x0 is discarded (R167). -/
def Thread.setX (th : Thread) (n : Nat) (v : W64) : Thread :=
  if n = 0 then th else { th with x := SMap.set 0 th.x n v }

def Ctx.x (c : Ctx) (n : B5) : W64 := c.th.getX n.toNat

/-- PC + 4 (R190). -/
def Thread.advance (th : Thread) : Thread := { th with pc := th.pc + 4 }


/-- The instruction waits: it is executed again at its next turn (R170, R172, R227). -/
def State.wait (s : State) : Out := .next s

/-- Bytes of the scalar section of a context: ESLEN, or the firmware region (R168). -/
def State.codeLen (s : State) (c : Ctx) : Nat :=
  if c.isMgmt then (s.mgmt c.hub).fwLen else c.desc.eslen

/-! ## fmt and MSTS (R59, R80) -/

/-- The RW bits of fmt. -/
def fmtMask : Nat := 0x0001FFFF
/-- A program write of fmt: RW fields as written, sticky bits cleared where a 1 is written (R59). -/
def fmtWrite (old v : Nat) : Nat :=
  let st := fld old 27 24
  let cl := fld v 27 24
  v % 2 ^ 17 + (Nat.land st (Nat.xor cl 15)) * 2 ^ 24
/-- fmt written as an image: reserved bits ignored (R196). -/
def fmtImage (v : Nat) : Nat := v % 2 ^ 17 + fld v 27 24 * 2 ^ 24
/-- Sticky bits set by results (R59). -/
def fmtSet (old bits : Nat) : Nat := Nat.lor old bits
/-- A program write of MSTS: PWB, RNGE and LABN cleared where a 1 is written (R80). -/
def mstsWrite (old v : Nat) : Nat :=
  fld old 7 5 * 32 + Nat.land (fld old 4 2) (Nat.xor (fld v 4 2) 7) * 4
def mstsImage (v : Nat) : Nat := fld v 7 5 * 32 + fld v 4 2 * 4
/-- A beyond-size window read sets PWB, and PWIN when PWB was clear (R79, R80). -/
def mstsPwb (old win : Nat) : Nat :=
  if bitAt old 4 then old else win % 8 * 32 + 16 + fld old 3 2 * 4
def mstsRnge (old : Nat) : Nat := Nat.lor old 8
def mstsLabn (old : Nat) : Nat := Nat.lor old 4

/-- A sticky bit of a tile engine's MSTS is set (R3, R80). -/
def Tile.setMsts (t : Tile) (bit : Nat) : Tile :=
  { t with msts := BitVec.ofNat 32 (Nat.lor t.msts.toNat (2 ^ bit)), hotMsts := Nat.lor t.hotMsts (2 ^ bit) }

/-! ## Spin marks (R52) -/

def Thread.clearSpin (th : Thread) : Thread := { th with spin := {} }
/-- A mark clears when x1 to x31, the mask or the format register changes (R52). -/
def Thread.checkSpin (th : Thread) : Thread :=
  if th.spin.marked && !(th.x == th.spin.x && th.m == th.spin.m && th.fmt == th.spin.fmt) then th.clearSpin else th

/-! ## Barriers (R181) -/

/-- The gang is counted as not arrived (R228). -/
def Crew.unarrive (cr : Crew) (n num : Nat) : Crew :=
  let b := SMap.get {} cr.bars n
  let arr := b.arrived.filter (· != num)
  { cr with bars := SMap.set {} cr.bars n (if arr = [] then {} else { b with arrived := arr }) }

/-- A thread that leaves a barrier wait by a trap has not arrived. -/
def State.leaveBar (s : State) (c : Ctx) : State :=
  match c.th.wait with
  | .bar n => s.updCrew c.ref.core c.gang.crew (fun cr => cr.unarrive n c.gang.num)
  | _ => s

/-- Whether a command is rlk.acq. -/
def isAcq (i : Instr) : Bool :=
  match i with
  | .rlkAcq _ => true
  | _ => false

/-- The queues without the rlk.acq that a sub-gang waits in. -/
def Queues.dropAcq (q : Queues) (sg : Nat) : Queues :=
  let keep := fun (e : QEntry) => !(isAcq e.cmd && e.sg == sg)
  { q with ordered := q.ordered.filter keep
           qs := (q.qs.map (fun x => (x.1, x.2.filter keep))).filter (fun x => x.2 != []) }

/-- A thread that leaves its wait in rlk.acq has not executed it (R228). -/
def State.dropAcq (s : State) (c : Ctx) : State :=
  if c.th.wait ≠ .acq then s
  else if c.isMgmt then s.setMgmt c.hub { s.mgmt c.hub with q := (s.mgmt c.hub).q.dropAcq c.sg }
  else s.updCrew c.ref.core c.gang.crew (fun cr => { cr with q := cr.q.dropAcq c.sg })

/-- The update of a lock record on another device is on its way for an rlk.acq of a sub-gang. -/
def State.swapSent (s : State) (who : Issuer) (sg : Nat) : Bool :=
  s.remoteOps.any (fun r => r.who == who && r.atomic && 100000 ≤ r.sg && (r.sg - 100000) / 4 % 256 == sg)

/-- The instruction ends: the destination written and the counter past it. -/
def State.finish (s : State) (c : Ctx) (th : Thread) : Out := .next (s.setTh c th.advance.checkSpin)

/-! ## Traps (R182 to R187) -/

/-- What a trap records (R183, R187). A word to which the trap's rule gives no value is zero: DESIGN CHOICE (log entry 98). -/
structure TrapInfo where
  cause : Nat
  lane : Nat := 0xFF
  enq : Bool := false
  lq : Bool := false
  tepc : W32 := 0
  tlpc : W32 := 0
  tiss : Nat := 0
  taddr : W64 := 0
  tmaskr : W32 := 0
  tenq : W32 := 0
  saved : List LaneEntry := []
  tiw : List W32 := [0, 0, 0]
  deriving DecidableEq, Repr

/-- Causes delivered to the management core whatever TVEC holds (R182). -/
def toMgmt (cause : Nat) : Bool := cause == 4 || cause == 0x14 || cause == 0x17

/-- The cause recorded: any trap while TMODE is 1 is 0x17 (R182). -/
def trapCause (th : Thread) (cause : Nat) : Nat := if th.tmode then 0x17 else cause

def tcauseWord (t : TrapInfo) (cause : Nat) : Nat :=
  t.lane % 256 * 2 ^ 16 + b2n t.enq * 2 ^ 15 + b2n t.lq * 2 ^ 14 + cause

/-- The trap registers of a trap; the lane queue empties into the saved entries (R183). -/
def Thread.trapRegs (th : Thread) (t : TrapInfo) : Thread :=
  { th with
    tcause := BitVec.ofNat 32 (tcauseWord t (trapCause th t.cause))
    tepc := t.tepc, tlpc := t.tlpc, tiss := t.tiss, taddr := t.taddr, tmaskr := t.tmaskr
    tenq := t.tenq, tsaved := t.saved, tiw := t.tiw, lq := [], issRem := 0, wait := .none
    spin := {} }

/-- The handle of a sub-gang (R194). -/
def handleOf (r : SgRef) : Nat := r.core * 256 + r.slot * 16 + r.sub

/-- Words 1 to 3 of a TRAP packet, and its payload (R313). -/
def State.traceTrap (s : State) (c : Ctx) (t : TrapInfo) (cause : Nat) : State :=
  s.trace c.unit c.part c.ref.slot c.ref.sub 8
    (cause + t.lane % 256 * 2 ^ 8 + b2n t.enq * 2 ^ 16 + b2n t.lq * 2 ^ 17 + t.saved.length % 32 * 2 ^ 18 + t.tiss % 32 * 2 ^ 23)
    [t.tepc.toNat + t.tlpc.toNat * 2 ^ 32, t.taddr.toNat, t.tmaskr.toNat + t.tenq.toNat * 2 ^ 32]
    t.tepc.toNat t.tlpc.toNat true

/-- A trap abandons the thread's remote accesses and the translation of its command at issue: an instruction executed
again makes them anew (R185, R301). -/
def State.dropRemotes (s : State) (c : Ctx) : State :=
  { s with
    remoteOps := s.remoteOps.filter (fun r =>
      !(r.who == c.iss && !r.posted && (r.sg < (if c.isMgmt then 40000 else 50000) || r.sg / 10000 == 8) &&
        r.sg % 10000 % 128 == c.sg))
    issueFail := s.issueFail.filter (fun x => !(x.1 == c.iss && x.2.1 == c.sg))
    walkers := s.walkers.map (fun x => if x.2.who = .issue c.iss c.sg then (x.1, { x.2 with who := .none }) else x) }

/-- TAKING A TRAP (R183, R184): the trap registers are written; the thread enters its handler with TMODE 1 and
an empty lane queue, or parks and tells the management core that serves its partition; a management core
with no handler, or in its handler, halts (R193). -/
def State.takeTrap (s : State) (c : Ctx) (t : TrapInfo) : State :=
  let cause := trapCause c.th t.cause
  let th := c.th.trapRegs t
  let s := (((s.leaveBar c).dropAcq c).dropRemotes c).traceTrap c t cause
  if c.isMgmt then
    if c.th.tvec = 0 ∨ c.th.tmode = true then
      (s.setMgmt c.hub { s.mgmt c.hub with th := th, halted := true }).raiseHf c.hub
    else s.setTh c { th with tmode := true, pc := c.th.tvec }
  else if toMgmt cause || c.th.tvec == 0 then
    let s := s.setTh c { th with parked := true }
    let s := s.setTrc c.unit { s.trc c.unit with needSync := true }
    s.pushEvent (s.shub c.part) (eventWord 1 (handleOf c.ref))
  else s.setTh c { th with tmode := true, pc := c.th.tvec }

/-- The word of the instruction at the PC for TIW0 (R186): the encoding of the instruction. -/
def tiwOf (i : Instr) : List W32 :=
  match i with
  | .illegalInstruction w => [w, 0, 0]
  | i =>
    match scalarWord i with
    | some w => [BitVec.ofNat 32 w, 0, 0]
    | none => [0, 0, 0]

/-- A scalar fault at the PC (R183): older lane entries complete first; then the trap is taken with TEPC the
instruction, TLPC the LPC, TISS and TQCNT zero, LANE the lowest lane involved. -/
def State.scalarTrap (s : State) (c : Ctx) (i : Instr) (cause : Nat) (addr : W64 := 0) (mask : W32 := 0) : Out :=
  if c.th.lq ≠ [] then s.wait
  else .next (s.takeTrap c { cause := cause, tepc := c.th.pc, tlpc := c.th.lpc, taddr := addr, tmaskr := mask, lane := ((span 0 32).find? (fun l => mask.getLsbD l)).getD 0xFF, tiw := tiwOf i })

/-- The posted failure is taken at the PC, with the lane entries given saved. -/
def State.takePosted (s : State) (c : Ctx) (p : Posted) (rest : List Posted) (saved : List LaneEntry) : State :=
  let c := { c with th := { c.th with posted := rest } }
  s.takeTrap c {
    cause := p.cause, tepc := c.th.pc, tlpc := c.th.lpc, taddr := p.addr, saved := saved, tiw := [p.word, 0, 0] }

/-- The trap of an entry failure posted to the thread (R228): older lane entries complete first; one of them that faults
gives way to it (R292; log entry 63). A lock update on its way to another device is answered first. -/
def State.postedTrap (s : State) (c : Ctx) (p : Posted) (rest : List Posted) : Out :=
  if c.th.lq ≠ [] ∨ (c.th.wait = .acq ∧ s.swapSent c.iss c.sg = true) then s.wait else .next (s.takePosted c p rest [])

/-- The failures that a scalar instruction meets: none while a lane.iss that has issued still enqueues its batch. -/
def Ctx.dueFailures (c : Ctx) : List Posted := if c.th.issRem = 0 then c.th.posted else []

/-! ## The prologue of a scalar instruction (R292) -/

/-- The groups that roles allow (R50). -/
inductive RoleClass where
  | common | copy | lane | commit | general
  deriving DecidableEq, Repr

/-- Whether a role may issue a group (R50). -/
def roleAllows (role : Nat) (k : RoleClass) : Bool :=
  match k with
  | .common => true
  | .copy => role == 0 || role == 1
  | .lane => role != 1
  | .commit => role == 0 || role == 4
  | .general => role == 0

/-- How an instruction stands to management cores: allowed, illegal there (R193), or illegal elsewhere (R122). -/
inductive Place where
  | both | edge | system
  deriving DecidableEq, Repr

def placeOk (c : Ctx) (k : Place) : Bool :=
  match k with
  | .both => true
  | .edge => !c.isMgmt
  | .system => c.isMgmt

/-- A scalar instruction: a parked thread does not run, and a crew of which a stop is requested stops
at an issue boundary with its lane queue drained (R296); a posted failure is
taken first, then the illegal and role traps, then the drain where the instruction has one (R172, R292). The test bad
tells operand values that are illegal. -/
def scalarOpIf (bad : Ctx → State → Bool) (i : Instr) (k : RoleClass) (pl : Place) (drain : Bool) (body : Ctx → State → Out)
    (s : State) : Out :=
  match s.ctx with
  | none => .fault .noThread
  | some c =>
    if c.th.parked || (c.crew.stopReq && c.th.lq == [] && c.th.issRem == 0) then s.wait
    else if c.th.wait = .issued then s.wait
    else
      match c.dueFailures with
      | p :: rest => s.postedTrap c p rest
      | [] =>
        if !placeOk c pl || bad c s then s.scalarTrap c i 0x01
        else if !roleAllows c.gang.role k then s.scalarTrap c i 0x02
        else if drain ∧ c.th.lq ≠ [] then s.wait
        else body c s

/-- A scalar instruction none of whose operand values is illegal. -/
def scalarOp (i : Instr) (k : RoleClass) (pl : Place) (drain : Bool) (body : Ctx → State → Out) (s : State) : Out :=
  scalarOpIf (fun _ _ => false) i k pl drain body s

/-! ## Control targets (R168, R179) -/

/-- A jump's target is a multiple of 4 below the section length. -/
def State.targetOk (s : State) (c : Ctx) (t : Nat) : Bool := t % 4 == 0 && t < s.codeLen c

/-- PC + 4 × displacement as a 64-bit number (out of the section when it leaves it). -/
def relTarget (pc : W32) (bits disp : Nat) : Nat := wrapN 64 ((pc.toNat : Int) + 4 * sx bits disp)

/-! ## Posting a failure (R228) -/

/-- The edge trap cause of an entry cause (R228). -/
def entryTrap (cause : Nat) : Nat :=
  match cause with
  | 0x32 => 0x06 | 0x34 => 0x07 | 0x35 => 0x10 | 0x37 => 0x12 | 0x3A => 0x11
  | _ => 0x05

/-! ## Scalar memory access (R84 to R88, R189, R191) -/

/-- Whether a strong access of a scope performs at the home: at die scope or wider, or on another device (R85). -/
def atHome (sc : Nat) (l : Loc) : Bool :=
  3 ≤ sc || (match l with | .remote _ _ => true | _ => false)

/-- The key of the L1 line that holds a location. -/
def Loc.line (l : Loc) : Nat := l.key / 128

/-- The cache action of an acquire at die scope or wider (R87, R88). -/
def State.acquire (s : State) (core sc : Nat) : State :=
  if 3 ≤ sc then s.invalClean core (fun _ => true) else s

/-- The cache action of a release at die scope or wider (R87, R88). -/
def State.releaseWb (s : State) (core sc : Nat) : State :=
  if 3 ≤ sc then s.writeBackAll core else s

/-- A strong load at the home (R85): no copy stays in L1. -/
def State.homeLoad (s : State) (who : Issuer) (core sg : Nat) (l : Loc) (n : Nat) (acq : Bool) : State × Except MErr (List Byte) :=
  let s := s.flushLine core l.line
  match l with
  | .hbm k => (s, if s.marked k n then .error .uncorr else .ok (s.readBytes k n))
  | .remote dev pa => s.remoteRead who sg dev pa n acq
  | .reg _ => (s, .error .access)

/-- A load of n bytes by a sub-gang at a virtual address, weak or strong (R85 to R87). DESIGN CHOICE (log entry 82): strong
relaxed accesses of one gang to different locations perform in program order, each in one step, so that the weak outcomes
that R89 allows them are not shown. -/
def State.edgeLoad (s : State) (c : Ctx) (sg : Nat) (va n : Nat) (strong : Bool) (ord sc hint : Nat) :
    State × Except MErr (List Byte) :=
  match if strong ∧ 3 ≤ sc then s.translate c.part va false else s.translateL1 c.part va false with
  | .error e => (s, .error e)
  | .ok l =>
    if !strong || !atHome sc l then s.weakRead c.iss sg c.ref.core l n hint strong
    else
      let acq : Bool := ord == 1 || ord == 3
      match s.homeLoad c.iss c.ref.core sg l n acq with
      | (s, .ok r) => (if acq then s.acquire c.ref.core sc else s, .ok r)
      | r => r

/-- A store of bytes by a sub-gang at a virtual address, weak or strong (R81, R85). A release has written L1 back before. -/
def State.edgeStore (s : State) (c : Ctx) (va : Nat) (bs : List Byte) (strong : Bool) (sc : Nat) : Except MErr State :=
  match if strong ∧ 3 ≤ sc then s.translate c.part va true else s.translateL1 c.part va true with
  | .error e => .error e
  | .ok (.reg _) => .error .access
  | .ok l =>
    if !strong || !atHome sc l then .ok (s.weakWrite c.iss c.sg c.ref.core l bs)
    else .ok ((s.flushLine c.ref.core l.line).writeLoc c.iss l bs c.sg)

/-- The trap cause of a failed access (R182). -/
def merrCause (e : MErr) : Nat :=
  match e with
  | .access => 0x05 | .stray => 0x05 | .fault _ => 0x04 | .uncorr => 0x07 | .fabric => 0x12 | .wait => 0

/-- The end of an access that failed: a wait for a remote reply, or the scalar trap of its cause. -/
def State.memTrap (s : State) (c : Ctx) (i : Instr) (e : MErr) (va : W64) : Out :=
  match e with
  | .wait => s.wait
  | e => if c.th.lq ≠ [] then s.wait else (s.countErr e).scalarTrap c i (merrCause e) va

/-- A management core's address: a local physical address of MASID's windows, or a global address (R342). -/
def State.mgmtLoc (s : State) (h : Nat) (a : Nat) : Except MErr Loc :=
  let dev := a / 2 ^ 51
  if dev ≠ 0 ∧ dev ≠ s.devid.toNat then
    if fld a 50 48 ≠ 0 then .error .access else s.finalLoc (s.mgmt h).masid.toNat (some dev) (a % 2 ^ 48)
  else if fld a 50 48 ≠ 0 then .error .access
  else
    match s.physLoc ((s.mgmt h).masid.toNat % 16) (a % 2 ^ 48) with
    | some l => s.homeUp (.ok l)
    | none => .error .access

/-! ## Fabric release (R103, R104) -/

/-- How a release stands: gone, waiting for acknowledgements, or ended with an error. -/
inductive Gate where
  | done | wait | error
  deriving DecidableEq, Repr

/-- The bits of a mask of n ports. -/
def portsIn (m : Nat) : List Nat := (span 0 18).filter (bitAt m)

/-- One marker down every path used to a device, each with their count and one sequence number (R103); a single one where one
path is in use (R26). -/
def State.sendMarkers (s : State) (who : Issuer) (sg dev mask : Nat) : State :=
  let mask := if s.fabOrdered || s.determ then 2 ^ (s.portsTo dev).headD 0 else mask
  let n := (portsIn mask).length
  let s' := (portsIn mask).foldl (fun (s' : State) _ => s'.sendPacket (s.whoPart who) dev (leBytes 8 s.seq ++ leBytes 1 n)) s
  { s' with flushOut := s'.flushOut ++ [{ seq := s.seq, dev := dev, need := n, who := who, sg := sg, ports := mask % 2 ^ 18 }], inFlight := s'.inFlight ++ [s.seq], seq := s.seq + 1 }

/-- Posted writes of the gang to a device came back with an error (R348). -/
def State.writesLost (s : State) (who : Issuer) (gang : Nat) (devs : List Nat) : List RemoteOp :=
  s.remoteOps.filter (fun r => r.posted && r.answered && !r.ok && r.who == who && r.sg < 100000 && tagGang r.sg == gang && devs.contains r.dev)

/-- The release of an operation of an issuer at a scope whose stores target the given devices (R103, R104). Markers go to
each device that its gang has written since the last such release; it goes on when every marker of the gang has been
acknowledged. A marker that fails, or a write that came back with an error, ends it with an error. -/
def State.flushGate (s : State) (who : Issuer) (sc : Nat) (target : List Nat) (sg : Nat := 10000) : State × Gate :=
  let g := tagGang sg
  let m := s.remoteMap who
  let due := m.filter (fun x => x.1 / 8192 == g && (sc == 5 || (sc == 4 && target.contains (x.1 % 8192))))
  let s := if due = [] then s else
    (due.foldl (fun s x => if x.2 % 2 ^ 18 = 0 then s else s.sendMarkers who sg (x.1 % 8192) x.2) s).setRemoteMap who
      (m.filter (fun x => !due.contains x))
  if sc < 4 then (s, .done)
  else
    let mine := s.flushOut.filter (fun f => f.who == who && tagGang f.sg == g && (sc == 5 || target.contains f.dev))
    let lost := s.writesLost who g (if sc = 5 then s.remoteOps.map RemoteOp.dev else target)
    if mine.any (fun f => f.failed && f.sg == sg) || lost != [] then
      ({ s with flushOut := s.flushOut.filter (fun f => !(f.who == who && f.sg == sg))
                remoteOps := s.remoteOps.filter (fun r => !lost.contains r) }, .error)
    else if mine.all (fun f => f.acked || f.failed) then
      ({ s with flushOut := s.flushOut.filter (fun f => !(f.who == who && f.sg == sg && f.acked)) }, .done)
    else (s, .wait)

/-- What a release does before its store: L1 is written back, then the markers are gathered (R87, R88, R103). -/
def State.releaseGate (s : State) (c : Ctx) (sc : Nat) (target : List Nat) (sg : Nat) : State × Gate :=
  (if c.isMgmt then s else s.releaseWb c.ref.core sc).flushGate c.iss sc target sg

/-- A release that met a failed link: a trap at the instruction (R104), which keeps the failure until it is taken. -/
def State.releaseTrap (s t : State) (c : Ctx) (i : Instr) (a : W64) : Out :=
  if c.th.lq ≠ [] then s.wait else t.scalarTrap c i 0x12 a

/-- The device a location lies on, when another. -/
def Loc.dev : Loc → Option Nat
  | .remote d _ => some d
  | _ => none

/-! ## The scalar fetch (R168, R173) -/

/-- The 32-bit word at the PC of a thread. -/
def State.fetchWord (s : State) (c : Ctx) : State × Except (MErr × Nat) Nat :=
  if c.isMgmt then
    (s, .ok (leNat (SMap.getN 0 (s.mgmt c.hub).fw c.th.pc.toNat 4)))
  else
    let va := c.desc.esaddr + c.th.pc.toNat
    match s.roRead c.iss c.part va 4 (20000 + c.sg) c.ref.core c.crew.launch with
    | (s, .ok bs) => (s.clearRemote c.iss (20000 + c.sg), .ok (leNat bs))
    | (s, .error e) => (s, .error e)

end Sys2Proof.Machine
end

