-- ==== Sys2Proof/Machine/Operands.lean ====
section
/-! DEFINITION. Operand forms: scalar effective addresses (R189), the lanes, masks and registers of lane
instructions (R198 to R200, R213), and elements packed in lanes (R135). -/

namespace Sys2Proof.Machine

/-- x[A] + sign-extend(IMM8) × z (R189). -/
def emAddr (c : Ctx) (f : EM) (z : Nat) : W64 := c.x f.a + f.i.signExtend 64 * BitVec.ofNat 64 z

/-- The z bytes of a value, sign-extended to 64 bits (R189, R191). -/
def signBytes (z : Nat) (bs : List Byte) : W64 := BitVec.ofInt 64 (sx (8 * z) (leNat bs))

/-! ## Lanes -/

/-- The lanes of a 32-bit mask, lowest first. -/
def lanesOf (m : W32) : List Nat := (span 0 32).filter (fun l => m.getLsbD l)

/-- The mask of a list of lanes, each counted once however often it is listed. -/
def maskOf (ls : List Nat) : W32 := BitVec.ofNat 32 (ls.foldl (fun a l => if bitAt a l then a else a + 2 ^ l) 0)

/-- The lanes of a sub-gang's slices (R176). -/
def sliceMask (sl : BitVec 8) : W32 := maskOf ((span 0 32).filter (fun l => sl.getLsbD (l / 4)))

def Gang.getW (g : Gang) (l n : Nat) : W32 := SMap.get 0 g.w (l * 128 + n)
def Gang.setW (g : Gang) (l n : Nat) (v : W32) : Gang := { g with w := SMap.set 0 g.w (l * 128 + n) v }
def Gang.getLp (g : Gang) (n : Nat) : W32 := SMap.get 0 g.lp n
def Gang.setLp (g : Gang) (n : Nat) (v : W32) : Gang := { g with lp := SMap.set 0 g.lp n v }
def Gang.getH (g : Gang) (j l : Nat) : W32 := SMap.get 0 g.h (32 * j + l)
def Gang.setH (g : Gang) (j l : Nat) (v : W32) : Gang := { g with h := SMap.set 0 g.h (32 * j + l) v }

/-- The effective mask E of R200: the copied mask and the guard, read at execution. -/
def effMask (g : Gang) (f : LaneF) (m : W32) : W32 :=
  if f.ge = 0 then m
  else if f.gn = 1 then m &&& ~~~(g.getLp f.g.toNat) else m &&& g.getLp f.g.toNat

/-- The B operand of lane l: w[B], or IMM when I is 1 (R199). -/
def opB (g : Gang) (f : LaneF) (l : Nat) : W32 := if f.i = 1 then f.imm else g.getW l f.b.toNat

/-- The address of lane l: x[C] + sign-extend(w[A]) + sign-extend(IMM) (R213). -/
def laneAddr (g : Gang) (f : LaneF) (xop : W64) (l : Nat) : W64 :=
  xop + (g.getW l f.a.toNat).signExtend 64 + f.imm.signExtend 64

/-- A run of 32-bit registers of lane l from n as z bytes, lowest first (R213). -/
def laneData (g : Gang) (l n z : Nat) : List Byte :=
  ((span n ((z + 3) / 4)).flatMap (fun r => leBytes 4 (g.getW l r).toNat)).take z

/-- Bytes written to a run of registers of lane l from n (z a multiple of 4). -/
def putLane (g : Gang) (l n : Nat) : List (List Byte) → Gang
  | [] => g
  | ws :: t => putLane (g.setW l n (BitVec.ofNat 32 (leNat ws))) l (n + 1) t

/-- A loaded value in its destination: 1 and 2 bytes are zero- or sign-extended (R214). -/
def loadLane (g : Gang) (f : LaneF) (l : Nat) (bs : List Byte) : Gang :=
  let z := bs.length
  if z < 4 then
    g.setW l f.d.toNat (if memSx f then BitVec.ofInt 32 (sx (8 * z) (leNat bs)) else BitVec.ofNat 32 (leNat bs))
  else putLane g l f.d.toNat (chunks 4 z bs)

/-! ## Elements packed in lanes (R135) -/

/-- Bits of one element when n stand in a lane. -/
def elemBits (n : Nat) : Nat := 32 / n

/-- Element k of a vector of lanes, n to a lane. -/
def getElem (n : Nat) (lane : Nat → W32) (k : Nat) : Nat :=
  fld (lane (k / n)).toNat (elemBits n * (k % n + 1) - 1) (elemBits n * (k % n))

/-- A lane with its part j (of n) replaced. -/
def setPart (n : Nat) (w : W32) (j v : Nat) : W32 :=
  BitVec.ofNat 32 (setFld w.toNat (elemBits n * (j + 1) - 1) (elemBits n * j) v)

end Sys2Proof.Machine
end

