-- ==== Sys2Proof/Machine/Flags.lean ====
section
/-! DEFINITION. Rounding control and sticky flags: the fields of fmt an operation reads, its format errors,
and the elementwise floating operations with the flags each raises (R59 to R65, R161, R203 to R206). -/

namespace Sys2Proof.Machine

/-- RND, SATF and FLUSH of a format word (R59). -/
def fmtRnd (fmt : Nat) : Nat := fld fmt 12 10
def fmtSatf (fmt : Nat) : Bool := bitAt fmt 15
def fmtFlush (fmt : Nat) : Bool := bitAt fmt 16
def fmtScale (fmt : Nat) : Nat := fld fmt 14 13
def fmtAcc (fmt : Nat) : Nat := fld fmt 9 8
def fmtB (fmt : Nat) : Nat := fld fmt 7 4
def fmtA (fmt : Nat) : Nat := fld fmt 3 0

/-- The rounding mode of RND for element e; stochastic draws the hash of key and counter (R62, R63). -/
def rndOf (fmt : Nat) (key ctr : W64) (e : Nat) : Rnd :=
  match fmtRnd fmt with
  | 0 => .rne | 1 => .rz | 2 => .ru | 3 => .rd
  | _ => .sr (srSample key.toNat ctr.toNat e)

/-- A reserved RND (R60). -/
def rndBad (fmt : Nat) : Bool := 5 ≤ fmtRnd fmt

/-- The operand classes a matrix instruction accepts (R61), as elements of K per operand row. -/
def matClass (fmt : Nat) : Option Nat :=
  let a := fmtA fmt
  let b := fmtB fmt
  let acc := fmtAcc fmt
  if a = 5 ∧ b = 5 ∧ acc = 0 then some 384
  else if (a = 3 ∨ a = 4) ∧ (b = 3 ∨ b = 4) ∧ acc = 0 then some 288
  else if (a = 6 ∨ a = 7) ∧ (b = 6 ∨ b = 7) ∧ (acc = 0 ∨ (acc = 1 ∧ fmtScale fmt = 0)) then some 288
  else if (a = 1 ∨ a = 2) ∧ (b = 1 ∨ b = 2) ∧ acc = 0 then some 144
  else none

/-- Whether a lane instruction reads RND (R204, R206): arithmetic that rounds, the transcendentals, cvt. -/
def readsRnd (i : Instr) : Bool :=
  match i with
  | .fadd _ | .fsub _ | .fmul _ | .ffma _ | .ffms _ | .frcp _ | .frsq _ | .fexp2 _ | .flog2 _ | .cvt _ => true
  | _ => false

/-- The fmt fields that a lane instruction reads make a format error (R60, R173, R222). -/
def laneFmtBad (i : Instr) (fmt : Nat) : Bool :=
  match i with
  | .lmma _ => matClass fmt == none
  | i => readsRnd i && rndBad fmt

/-- The format of type T of a lane instruction, or TY of a vector one: FP32, BF16 or FP16. -/
def tyFmt (t : Nat) : NumFmt := match t with | 0 => .fp32 | 1 => .bf16 | _ => .fp16

/-! ## Element operations: bits in, bits and flags out -/

def eAdd (f : NumFmt) (m : Rnd) (fl : Bool) (a b : Nat) : Nat × FFlags :=
  let (v, g) := fAdd m (f.read fl a) (f.read fl b)
  let (r, g2) := deliver f m fl v
  (r, g.or g2)

def eSub (f : NumFmt) (m : Rnd) (fl : Bool) (a b : Nat) : Nat × FFlags :=
  let (v, g) := fAdd m (f.read fl a) (f.read fl b).neg
  let (r, g2) := deliver f m fl v
  (r, g.or g2)

def eMul (f : NumFmt) (m : Rnd) (fl : Bool) (a b : Nat) : Nat × FFlags :=
  let (v, g) := fMul (f.read fl a) (f.read fl b)
  let (r, g2) := deliver f m fl v
  (r, g.or g2)

def eFma (f : NumFmt) (m : Rnd) (fl sub : Bool) (a b c : Nat) : Nat × FFlags :=
  let cv := f.read fl c
  let (v, g) := fFma m (f.read fl a) (f.read fl b) (if sub then cv.neg else cv)
  let (r, g2) := deliver f m fl v
  (r, g.or g2)

/-- A value that is not rounded: a subnormal is flushed under FLUSH and sets UF when nonzero (R65). -/
def eKeep (f : NumFmt) (v : FVal) : Nat := (deliver f .rne false v).1

/-- vmax, vmin (R161): plus 0 counts above minus 0; one NaN gives the other; two the canonical NaN. -/
def eMinMax (f : NumFmt) (fl mx : Bool) (a b : Nat) : Nat :=
  let va := f.read fl a
  let vb := f.read fl b
  if va.isNan && vb.isNan then f.nanBits
  else if va.isNan then eKeep f vb
  else if vb.isNan then eKeep f va
  else
    let aLess := fLt va vb || (fEq va vb && va.isNeg && !vb.isNeg)
    eKeep f (if aLess = mx then vb else va)

def eAbs (f : NumFmt) (fl : Bool) (a : Nat) : Nat := eKeep f (f.read fl a).abs
def eNeg (f : NumFmt) (fl : Bool) (a : Nat) : Nat := eKeep f (f.read fl a).neg

/-- The condition codes eq, ne, lt, le, gt, ge, unordered on FP32 (R162, R205). -/
def eCmp (cc : Nat) (fl : Bool) (a b : Nat) : Bool :=
  let va := NumFmt.fp32.read fl a
  let vb := NumFmt.fp32.read fl b
  let nan := va.isNan || vb.isNan
  match cc with
  | 0 => fEq va vb
  | 1 => nan || !fEq va vb
  | 2 => fLt va vb
  | 3 => fLt va vb || fEq va vb
  | 4 => fLt vb va
  | 5 => fLt vb va || fEq va vb
  | _ => nan

/-- The same codes on integers (R162, R207). -/
def iCmp (cc : Nat) (a b : Int) : Bool :=
  match cc with
  | 0 => a == b | 1 => a != b | 2 => a < b | 3 => a ≤ b | 4 => b < a | 5 => b ≤ a
  | _ => false

/-- CONV of R163: the exact source value rounded to the destination. -/
def eConv (src dst : NumFmt) (m : Rnd) (satf fl : Bool) (a : Nat) : Nat × FFlags :=
  convertTo dst m satf fl (src.read fl a)

/-- A binary element operation on each part of a lane of n parts. -/
def perPart (n : Nat) (op : Nat → Nat → Nat × FFlags) (a b : W32) : W32 × FFlags :=
  (span 0 n).foldl (fun acc j =>
    let hi := elemBits n * (j + 1) - 1
    let lo := elemBits n * j
    let r := op (fld a.toNat hi lo) (fld b.toNat hi lo)
    (setPart n acc.1 j r.1, acc.2.or r.2)) (0, {})

/-- A ternary element operation on each part. -/
def perPart3 (n : Nat) (op : Nat → Nat → Nat → Nat × FFlags) (a b c : W32) : W32 × FFlags :=
  (span 0 n).foldl (fun acc j =>
    let hi := elemBits n * (j + 1) - 1
    let lo := elemBits n * j
    let r := op (fld a.toNat hi lo) (fld b.toNat hi lo) (fld c.toNat hi lo)
    (setPart n acc.1 j r.1, acc.2.or r.2)) (0, {})

/-- One conversion of packed elements by lane (R163): the elements of a destination lane, the source lanes
given by a function; other elements of D keep their values. The lane count is 32, or 16 for a gang of legacy width, whatever
slices the gang has (R206): DESIGN CHOICE (log entry 99). -/
def cvtLane (src dst : NumFmt) (ns nd part : Nat) (mode : Nat → Rnd) (satf fl : Bool)
    (a : Nat → W32) (d : W32) (l : Nat) (lanes : Nat := 32) : W32 × FFlags :=
  let total := lanes * min ns nd
  (span 0 nd).foldl (fun acc j =>
    let e := l * nd + j
    -- destination element e takes source element k
    let k : Option Nat :=
      if ns > nd then some (total * part + e)
      else if ns < nd then (if total * part ≤ e ∧ e < total * part + total then some (e - total * part) else none)
      else some e
    match k with
    | none => acc
    | some k =>
      let r := eConv src dst (mode l) satf fl (getElem ns a k)
      (setPart nd acc.1 j r.1, acc.2.or r.2)) (d, {})

end Sys2Proof.Machine
end

