-- ==== Sys2Proof/Machine/Block.lean ====
section
/-! DEFINITION. Matrix sums: operand elements, the exact block sum, its scaling and rounding, and the
accumulator update (R58, R66 to R69). -/

namespace Sys2Proof.Machine

/-- An operand element: its bits and value; an annihilating zero (R68) is none. -/
structure Elem where
  bits : Nat
  v : FVal
  deriving DecidableEq, Repr

/-- An element's bits in a format, under FLUSH (R65). -/
def elemOf (code : Nat) (fl : Bool) (bits : Nat) : Option Elem :=
  (NumFmt.ofCode code).map (fun k => { bits := bits, v := k.read fl bits })

/-- The elements of an operand row's 288 bytes (R55, R257). -/
def rowElems (code : Nat) (fl : Bool) (bs : List Byte) : List (Option Elem) :=
  let raw :=
    if code = 5 then (chunks 3 bs.length bs).flatMap (fun q =>
      let w := leNat q
      [w % 64, w / 64 % 64, w / 4096 % 64, w / 262144])
    else if code = 1 ∨ code = 2 then (chunks 2 bs.length bs).map leNat
    else bs.map (fun b => b.toNat)
  raw.map (elemOf code fl)

/-- The pairs of a block with neither element an annihilating zero (R66). -/
def livePairs (a b : List (Option Elem)) : List (Elem × Elem) :=
  (a.zip b).filterMap (fun x =>
    match x with
    | (some p, some q) => some (p, q)
    | _ => none)

/-- The exact product of two elements (R57, R67). -/
def elemMul (l6 : Bool) (x : Elem × Elem) : FVal := if l6 then prod6 x.1.bits x.2.bits else (fMul x.1.v x.2.v).1

/-- The signed integer of |v| in units of 2^u, truncated toward zero. -/
def truncAt (u : Int) (v : FVal) : Int :=
  match v with
  | .fin neg m e =>
    let k : Nat := if u ≤ e then m * 2 ^ (e - u).toNat else m / 2 ^ (u - e).toNat
    if neg then -(k : Int) else k
  | _ => 0

/-- The exponent of a value's leading bit. -/
def topBit (v : FVal) : Option Int :=
  match v with
  | .fin _ m e => if m = 0 then none else some (e + Nat.log2 m)
  | _ => none

/-- EXACTSUM of the 16-bit class: products truncated to multiples of 2^(e − 40) (R67). -/
def truncSum (ps : List FVal) : FVal :=
  match ps.filterMap topBit with
  | [] => .fin false 0 0
  | h :: t =>
    let u := t.foldl (fun a b => if a < b then b else a) h - 40
    ofDy (ps.foldl (fun a v => a + truncAt u v) 0) u

/-- The exact sum of finite values at their least exponent. -/
def sumFin (xs : List FVal) : FVal :=
  let q := xs.foldl (fun m x => match x with | .fin _ _ e => (if e < m then e else m) | _ => m) (0 : Int)
  let k := xs.foldl (fun a x => match x with | .fin n m e => a + dyAt n m e q | _ => a) (0 : Int)
  ofDy k q

/-- EXACTSUM (R67) for the class of a format code. -/
def exactSum (code : Nat) (ps : List FVal) : FVal := if code = 1 ∨ code = 2 then truncSum ps else sumFin ps

/-- The unscaled block sum with its specials (R66); the flag is NV. -/
def blockSum (code : Nat) (live : List (Elem × Elem)) : FVal × FFlags :=
  let ps := live.map (elemMul (code == 5))
  let bad := live.any (fun x => (x.1.v.isInf && x.2.v.isZero) || (x.1.v.isZero && x.2.v.isInf))
  let pos := ps.any (fun p => p.isInf && !p.isNeg)
  let neg := ps.any (fun p => p.isInf && p.isNeg)
  if live.any (fun x => x.1.v.isNan || x.2.v.isNan) then (.nan, {})
  else if bad || (pos && neg) then (.nan, { nv := true })
  else if pos || neg then (.inf neg, {})
  else (exactSum code ps, {})

def scaleA (fmt : Nat) : Bool := fmtScale fmt == 1 || fmtScale fmt == 3
def scaleB (fmt : Nat) : Bool := 2 ≤ fmtScale fmt

/-- A finite value times a power of two. -/
def scaled (v : FVal) (k : Int) : FVal :=
  match v with
  | .fin n m e => .fin n m (e + k)
  | x => x

/-- BLOCK(a, b, sa, sb) with ACC 0: FP32 bits (R66). -/
def blockVal (fmt : Nat) (a b : List (Option Elem)) (sa sb : Nat) : Nat × FFlags :=
  let live := livePairs a b
  if live.isEmpty then (0, {})
  else if (scaleA fmt && sa == 0xFF) || (scaleB fmt && sb == 0xFF) then (NumFmt.fp32.nanBits, {})
  else
    let r := blockSum (fmtA fmt) live
    let k : Int := (if scaleA fmt then (sa : Int) - 127 else 0) + (if scaleB fmt then (sb : Int) - 127 else 0)
    let d := deliver .fp32 .rne (fmtFlush fmt) (scaled r.1 k)
    (d.1, r.2.or d.2)

/-- BLOCK with ACC 1: the integer sum (R66, R69). -/
def blockInt (fmt : Nat) (a b : List (Option Elem)) : Int :=
  truncAt 0 (sumFin ((livePairs a b).map (elemMul (fmtA fmt == 5))))

/-- acc + S clamped to INT32 (R69). -/
def satAdd (x : W32) (v : Int) : W32 × FFlags :=
  let r := x.toInt + v
  if 2 ^ 31 - 1 < r then (0x7FFFFFFF#32, { sat := true })
  else if r < -(2 ^ 31) then (0x80000000#32, { sat := true })
  else (BitVec.ofInt 32 r, {})

/-- The accumulator update by one block (R66, R69). -/
def accumulate (fmt : Nat) (x : W32) (a b : List (Option Elem)) (sa sb : Nat) : W32 × FFlags :=
  if fmtAcc fmt = 1 then satAdd x (blockInt fmt a b)
  else
    let r := blockVal fmt a b sa sb
    let v := fAdd .rne (NumFmt.fp32.read (fmtFlush fmt) x.toNat) (NumFmt.fp32.decode r.1)
    let d := deliver .fp32 .rne (fmtFlush fmt) v.1
    (BitVec.ofNat 32 d.1, (r.2.or v.2).or d.2)

/-- An element over the blocks of a row of A and a row of B, each with its scale. -/
def accumulateRow (fmt : Nat) (x : W32) (as bs : List (List (Option Elem) × Nat)) : W32 × FFlags :=
  (as.zip bs).foldl (fun r ab =>
    let y := accumulate fmt r.1 ab.1.1 ab.2.1 ab.1.2 ab.2.2
    (y.1, r.2.or y.2)) (x, {})

/-- A row of elements cut into blocks of 48, with their scale bytes (R58). -/
def rowBlocks (es : List (Option Elem)) (scales : List Nat) : List (List (Option Elem) × Nat) :=
  let bl := chunks 48 es.length es
  bl.zip (scales ++ List.replicate bl.length 0)

end Sys2Proof.Machine
end

