-- ==== Sys2Proof/Machine/Items.lean ====
section
/-! DEFINITION. The ends of work items: locks released by the device (R93), milestones (R47), graph run
records (R290), termination of a crew (R302), and the barrier check of a gang that ends (R181). -/

namespace Sys2Proof.Machine

/-! ## Region-lock records (R90) -/

def lockHeld (w : Nat) : Bool := bitAt w 0
def lockCount (w : Nat) : Nat := fld w 62 32
def lockAband (w : Nat) : Bool := bitAt w 63

/-- LSTATE released: held cleared, the count increased modulo 2^31, ABANDONED as given (R91, R93). -/
def lockReleased (w : Nat) (aband : Bool) : Nat :=
  fld w 31 1 * 2 + (lockCount w + 1) % 2 ^ 31 * 2 ^ 32 + b2n aband * 2 ^ 63

/-- The owner word of an issuer (R90): index, gang slot, kind, device id. -/
def State.ownerBits (s : State) (who : Issuer) (slot : Nat) : Nat :=
  let (ix, sl, kind) := match who with
    | .crew c _ => (s.logUnit (s.unitPart c) c, slot, 0)
    | .tile e => (s.logUnit (s.unitPart e) e, 0, 1)
    | .mgmt h => (192 + h, 0, 2)
  ix * 2 + sl * 2 ^ 13 + kind * 2 ^ 17 + s.devid.toNat * 2 ^ 19

/-- The packet of an automatic release to another device: the home releases the record as ABANDONED in one atomic access. -/
def State.sendAutoRel (s : State) (r : AutoRel) : State := s.sendNoted r.part r.dev (leBytes 8 r.pa ++ [14])

/-- The automatic releases whose markers have all been acknowledged are sent; one whose link failed is not retried (R93). -/
def State.autoRelDue (s : State) : State :=
  let fs := fun (r : AutoRel) => s.flushOut.filter (fun f => f.sg == r.tag)
  let ready := s.autoRels.filter (fun r => (fs r).all Flush.acked)
  let gone := s.autoRels.filter (fun r => (fs r).all Flush.acked || (fs r).any Flush.failed)
  let s := ready.foldl (fun s r => s.sendAutoRel r) s
  { s with autoRels := s.autoRels.filter (fun r => !gone.contains r)
           flushOut := s.flushOut.filter (fun f => !gone.any (fun r => r.tag == f.sg)) }

/-- The device releases a lock an ended item still holds: ABANDONED is set; a release that cannot perform is
not retried (R93). One on another device is a release at domain scope: the markers go first, to every device that the
item's issuer has written. -/
def State.autoRelease (s : State) (who : Issuer) (remote : SMap Nat) (p : Nat) (va : Nat) : State :=
  match { s with via := viaOwn }.translate p va true with
  | .ok (.hbm k) =>
    if s.marked k 8 then s
    else s.writeBytes k (leBytes 8 (lockReleased (leNat (s.readBytes k 8)) true))
  | .ok (.remote d pa) =>
    let tag := 100000 + 4 * s.seq + 3
    let s : State := { s with seq := s.seq + 1, autoRels := s.autoRels ++ [{ tag := tag, part := p, dev := d, pa := pa }] }
    (remote.foldl (fun (s : State) x => if x.2 % 2 ^ 18 = 0 then s else s.sendMarkers who tag (x.1 % 8192) x.2) s).autoRelDue
  | .error e => s.countErr e
  | _ => s

def State.autoReleaseAll (s : State) (who : Issuer) (remote : SMap Nat) (p : Nat) (ls : List HeldLock) : State :=
  ls.foldl (fun s l => s.autoRelease who remote p l.va) s

/-! ## Milestones (R47) -/

/-- The 64 bytes of a milestone record. -/
def milestoneBytes (l : Launch) (outcome cause tstamp : Nat) : List Byte :=
  leBytes 4 (outcome + cause * 256) ++ leBytes 4 l.firstbad ++ leBytes 8 l.nfull ++ leBytes 8 l.npart ++
  leBytes 8 l.nmask ++ leBytes 8 l.nvoid ++ leBytes 4 l.nfall ++ leBytes 4 l.nabort ++ leBytes 8 tstamp ++
  leBytes 4 l.desc.ltag ++ leBytes 4 0

/-- A record at a virtual address, its first word last; one that cannot be translated is lost and the
management core is told (R47, R301). -/
def State.writeRecord (s : State) (p q va : Nat) (bytes : List Byte) (isRun : Bool) : State :=
  match s.writeOwn 600 p va bytes with
  | .ok s' => s'
  | .error e => (s.countErr e.1).pushEvent (s.shub p) (eventWord 3 (p * 2 ^ 12 + q * 2 ^ 4 + b2n isRun))

/-- Where a launch's milestone goes: MSADDR, or its slot behind the run record (R290). -/
def State.msAddr (s : State) (l : Launch) : Nat :=
  match l.run with
  | none => l.desc.msaddr
  | some (r, i) => (((alGet (s.part l.part).runs r).map GraphRun.record).getD 0) + 64 + 64 * i

/-- A run whose dispatched launches have all written their milestones, and which dispatches no more, writes
its record (R290). Outcome and cause of launch i are held as outcome + 256 × cause. -/
def State.runDone (s : State) (p r : Nat) : State :=
  match alGet (s.part p).runs r with
  | none => s
  | some g =>
    let nl := (((s.part p).graphs.find? (fun x => x.handle == g.graph)).map (fun x => x.descs.length)).getD 0
    let bad := g.done.filter (fun d => d.2 % 16 != 1)
    if g.started && g.done.length == g.sent.length && (g.done.length == nl || bad ≠ []) then
      let rstat := match bad with
        | [] => 1
        | (i, w) :: _ => 3 + w / 256 % 256 * 256 + i * 65536
      let ndone := (g.done.filter (fun d => d.2 % 16 == 1)).length
      let bytes := leBytes 4 rstat ++ leBytes 4 ndone ++ leBytes 8 (s.timeOf p) ++ zeros 48
      let s := s.writeRecord p g.queue g.record bytes true
      s.setPart p { s.part p with runs := alDel (s.part p).runs r }
    else s

/-- No further launch of a run that failed dispatches: those that wait in the queue are dropped (R290). -/
def State.dropSent (s : State) (p r : Nat) : State :=
  match alGet (s.part p).runs r with
  | none => s
  | some g =>
    let gone := s.launches.filterMap (fun x =>
      if x.2.part = p ∧ x.2.st = .arrived then x.2.run.bind (fun y => if y.1 = r then some (x.1, y.2) else none) else none)
    let h := s.hwq p g.queue
    let s := s.setHwq p g.queue { h with fifo := h.fifo.filter (fun k => !gone.any (fun x => x.1 == k)) }
    let s := s.setPart p { s.part p with
      runs := alPut (s.part p).runs r { g with sent := g.sent.filter (fun i => !gone.any (fun x => x.2 == i)) } }
    { s with launches := s.launches.filter (fun x => !gone.any (fun y => y.1 == x.1)) }

/-- The engines forget the checked body of a launch that has ended. -/
def State.dropBodies (s : State) (k : Nat) : State :=
  { s with tiles := s.tiles.map (fun x => (x.1, { x.2 with kept := x.2.kept.filter (fun b => b.launch != k) })) }

/-- The launch writes its milestone and ends (R47). -/
def State.closeLaunch (s : State) (k outcome cause : Nat) : State :=
  match s.launch k with
  | none => s
  | some l =>
    let s := s.writeRecord l.part l.queue (s.msAddr l) (milestoneBytes l outcome cause (s.timeOf l.part)) false
    let q := s.hwq l.part l.queue
    let s := s.setHwq l.part l.queue { q with fifo := q.fifo.filter (· != k) }
    let s := ({ s with launches := alDel s.launches k }.roDrop k).dropBodies k
    match l.run with
    | none => s
    | some (r, i) =>
      match alGet (s.part l.part).runs r with
      | none => s
      | some g =>
        let s := s.setPart l.part { s.part l.part with
          runs := alPut (s.part l.part).runs r { g with done := g.done ++ [(i, outcome + cause * 256)] } }
        (if outcome = 1 then s else s.dropSent l.part r).runDone l.part r

/-- A refused launch dispatches nothing, and its counts are zero (R47). -/
def State.refuseLaunch (s : State) (k cause firstbad : Nat) : State :=
  match s.launch k with
  | none => s
  | some l =>
    (s.setLaunch k { l with nfull := 0, npart := 0, nmask := 0, nvoid := 0, nfall := 0, nabort := 0, firstbad := firstbad }).closeLaunch k 2 cause

/-- Nothing of the launch is running, and nothing more will be dispatched. -/
def Launch.finished (l : Launch) : Bool :=
  (l.st == .dispatched || (l.st == .dispatching && l.cause != 0)) &&
  l.items.all (fun i => i.st == .retired || i.st == .aborted || (l.cause != 0 && i.st == .todo)) &&
  l.tiles == [] && l.cores == []

/-- The milestone is written after the last item has ended (R47). -/
def State.tryClose (s : State) (k : Nat) : State :=
  match s.launch k with
  | none => s
  | some l => if l.finished then s.closeLaunch k (if l.cause = 0 then 1 else 3) l.cause else s

/-- The first failure's cause stands; a failure stops dispatch of further items (R47). -/
def State.failLaunch (s : State) (k cause : Nat) : State :=
  match s.launch k with
  | none => s
  | some l =>
    let q := s.hwq l.part l.queue
    let s := s.setLaunch k { l with
      cause := if l.cause = 0 then cause else l.cause
      items := l.items.map (fun i => if i.st = .todo then { i with boarded := false } else i) }
    let s := s.setHwq l.part l.queue { q with fifo := q.fifo.filter (· != k) }
    match l.run with
    | some (r, _) => s.dropSent l.part r
    | none => s

def State.updItem (s : State) (k i : Nat) (f : Item → Item) : State :=
  match s.launch k with
  | none => s
  | some l => s.setLaunch k { l with items := updAt l.items i f }

/-! ## Crews -/

/-- A crew leaves its core: its gangs' slots and its core memory become free. -/
def State.removeCrew (s : State) (core k : Nat) : State :=
  let e := s.core core
  s.setCore core { e with crews := alDel e.crews k, gangs := e.gangs.filter (fun g => g.2.crew != k),
                          out := e.out.filter (fun g => g.2.crew != k) }

/-- The crew's work is terminated (R184, R228, R302): its gangs stop at once, its engine entries are
abandoned, each held item ends without retiring, its locks are released without write-back, and the launch
fails with cause 0x12. -/
def State.terminateCrew (s : State) (core k : Nat) : State :=
  match alGet (s.core core).crews k with
  | none => s
  | some cr =>
    let p := s.unitPart core
    let s := s.removeCrew core k
    let s := s.autoReleaseAll (.crew core k) cr.remote p cr.locks
    let held := cr.retiring.map Prod.fst ++ cr.items.map HeldItem.item
    let s := held.foldl (fun s i => s.updItem cr.launch i (fun it => { it with st := .aborted, boarded := false })) s
    let s := match s.launch cr.launch with
      | some l => s.setLaunch cr.launch { l with cores := l.cores.erase core }
      | none => s
    (s.failLaunch cr.launch 0x12).tryClose cr.launch

/-! ## Barriers of a crew when a gang ends (R181) -/

/-- Gangs of a crew that have not ended, by slot. -/
def EdgeCore.crewGangs (e : EdgeCore) (k : Nat) : List (Nat × Gang) := e.gangs.filter (fun g => g.2.crew == k)

/-- The only sub-gang of an unparted gang waiting at barrier n takes a barrier trap. -/
def State.barTrap (s : State) (core n : Nat) (slot : Nat) : State :=
  match alGet (s.core core).gangs slot with
  | none => s
  | some g =>
    g.subs.foldl (fun s t =>
      if t.2.wait = .bar n then
        match s.subGang { core := core, slot := slot, sub := t.1 } with
        | none => s
        | some c => s.takeTrap c { cause := 0x0F, tepc := c.th.pc, tlpc := c.th.lpc, tiw := [c.th.waitWord, 0, 0] }
      else s) s

/-- The sub-gangs of a crew that wait at barrier n while their gang is swapped out (R53) leave the wait. -/
def State.outLeave (s : State) (core k n : Nat) (f : Thread → Thread) : State :=
  let e := s.core core
  s.setCore core { e with out := e.out.map (fun x =>
    if x.2.crew = k then (x.1, { x.2 with subs := x.2.subs.map (fun t =>
      if t.2.wait = .bar n then (t.1, { f t.2 with wait := .none, spin := {} }) else t) }) else x) }

/-- When arrived gangs plus live gangs not yet arrived fall below a generation's count, every waiting gang traps; one that is
swapped out arrives again on its return, and traps then. -/
def State.barCheck (s : State) (core k n : Nat) : State :=
  match alGet (s.core core).crews k with
  | none => s
  | some cr =>
    let b := SMap.get {} cr.bars n
    let live := ((s.core core).crewGangs k).filter (fun g => !b.arrived.contains g.2.num)
    let out := ((s.core core).out.filter (fun g => g.2.crew == k && !b.arrived.contains g.2.num)).length
    if b.arrived ≠ [] ∧ b.arrived.length + live.length + out < b.count then
      let slots := ((s.core core).crewGangs k).filter (fun g => b.arrived.contains g.2.num)
      let s := slots.foldl (fun s g => s.barTrap core n g.1) s
      (s.updCrew core k (fun cr => { cr with bars := SMap.set {} cr.bars n {} })).outLeave core k n id
    else s

/-- A sub-gang ends: its gang ends with its last sub-gang, and its crew with its last gang (R41, R177, R192). -/
def State.endSub (s : State) (c : Ctx) : State :=
  let e := s.core c.ref.core
  match alGet e.gangs c.ref.slot with
  | none => s
  | some g =>
    let subs := alDel g.subs c.ref.sub
    if subs ≠ [] then s.setCore c.ref.core { e with gangs := alPut e.gangs c.ref.slot { g with subs := subs } }
    else
      let s := s.setCore c.ref.core { e with gangs := alDel e.gangs c.ref.slot }
      let s := (span 0 16).foldl (fun s n => s.barCheck c.ref.core g.crew n) s
      let left := (s.core c.ref.core).crewGangs g.crew
      let out := (s.core c.ref.core).out.filter (fun x => x.2.crew == g.crew)
      if left = [] ∧ out = [] then s.updCrew c.ref.core g.crew (fun cr => { cr with finished := true }) else s

/-- The sub-gang of a gang that now holds a slice: merged sub-gangs are the issuer (R228). -/
def Gang.subOf (g : Gang) (slice : Nat) : Option (Nat × Thread) := g.subs.find? (fun t => t.2.slices.getLsbD slice)

/-- The issuing sub-gang as it stands now: the one of the crew's gang that holds the issuer's slice. -/
def State.issuingSub (s : State) (core crew sg : Nat) : Option Ctx :=
  match (s.core core).gangs.find? (fun g => g.2.crew == crew && g.2.num == sg / 8) with
  | none => none
  | some (slot, g) =>
    match g.subOf (sg % 8) with
    | none => none
    | some t => s.subGang { core := core, slot := slot, sub := t.1 }

/-- A posting to a thread, which leaves a barrier that it waits at. -/
def Thread.post (th : Thread) (p : Posted) : Thread :=
  { th with
    posted := th.posted ++ [p]
    wait := match th.wait with
      | .bar _ => .none
      | w => w }

/-- A posting to a gang that is swapped out of its resident crew (R53). -/
def Gang.postAt (g : Gang) (slice : Nat) (p : Posted) : Option Gang :=
  match g.subOf slice with
  | none => none
  | some (k, t) => some { g with subs := alPut g.subs k (t.post p) }

/-- The crew counts a gang as not arrived at the barrier that its sub-gang of a slice waits at (R228). -/
def Crew.leaveAt (cr : Crew) (g : Gang) (slice : Nat) : Crew :=
  match g.subOf slice with
  | none => cr
  | some (_, t) => match t.wait with
    | .bar n => cr.unarrive n g.num
    | _ => cr

/-- A failure of an entry is posted to the issuing sub-gang, or ends the crew when it has exited (R228). -/
def State.postFailure (s : State) (who : Issuer) (sg : Nat) (p : Posted) : State :=
  match who with
  | .crew core k =>
    (match s.issuingSub core k sg with
     | some c => (s.leaveBar c).setTh c (c.th.post p)
     | none =>
       let e := s.core core
       match e.out.find? (fun x => x.2.crew == k && x.2.num == sg / 8) with
       | some (t, g) =>
         (match g.postAt (sg % 8) p with
          | some g' =>
            (s.setCore core { e with out := e.out.map (fun x => if x = (t, g) then (t, g') else x) }).updCrew core k
              (fun cr => cr.leaveAt g (sg % 8))
          | none => s.terminateCrew core k)
       | none => s.terminateCrew core k)
  | .mgmt h => s.setMgmt h { s.mgmt h with th := (s.mgmt h).th.post p }
  | .tile _ => s

end Sys2Proof.Machine
end

