-- ==== Sys2Proof/Machine/Queue.lean ====
section
/-! DEFINITION. Engine queues (R96 to R98, R227): entries in issue order, at most sixteen to a queue, and the
commands that enter no queue. -/

namespace Sys2Proof.Machine

def State.queues (s : State) (who : Issuer) : Queues :=
  match who with
  | .crew c k => ((alGet (s.core c).crews k).map Crew.q).getD {}
  | .tile e => (s.tile e).q
  | .mgmt h => (s.mgmt h).q

def State.setQueues (s : State) (who : Issuer) (q : Queues) : State :=
  match who with
  | .crew c k => s.updCrew c k (fun cr => { cr with q := q })
  | .tile e => s.setTile e { s.tile e with q := q }
  | .mgmt h => s.setMgmt h { s.mgmt h with q := q }

def Queues.get (qs : Queues) (n : Nat) : List QEntry := (alGet qs.qs n).getD []
/-- A queue replaced; an empty one is not listed. -/
def Queues.put (qs : Queues) (n : Nat) (l : List QEntry) : Queues :=
  { qs with qs := if l = [] then alDel qs.qs n else alPut qs.qs n l }

/-- Sixteen entries in each queue (R227). -/
def State.qFull (s : State) (who : Issuer) (n : Nat) : Bool := 16 ≤ ((s.queues who).get n).length

/-- An entry placed at the end of a queue, stamped with its place in issue order. -/
def State.qPush (s : State) (who : Issuer) (n : Nat) (e : QEntry) : State :=
  let qs := s.queues who
  { s.setQueues who (qs.put n (qs.get n ++ [{ e with seq := s.seq }])) with seq := s.seq + 1 }

/-- A command that enters no queue (R96). -/
def State.ordPush (s : State) (who : Issuer) (e : QEntry) : State :=
  let qs := s.queues who
  { s.setQueues who { qs with ordered := qs.ordered ++ [{ e with seq := s.seq }] } with seq := s.seq + 1 }

def State.ordFull (s : State) (who : Issuer) : Bool := 16 ≤ (s.queues who).ordered.length

/-- The first entry of a queue leaves it. -/
def State.qPop (s : State) (who : Issuer) (n : Nat) : State :=
  let qs := s.queues who
  s.setQueues who (qs.put n ((qs.get n).drop 1))

/-- The first entry of a queue is replaced. -/
def State.qHead (s : State) (who : Issuer) (n : Nat) (e : QEntry) : State :=
  let qs := s.queues who
  s.setQueues who (qs.put n (e :: (qs.get n).drop 1))

/-- Every entry of a queue is discarded (R228). -/
def State.qDiscard (s : State) (who : Issuer) (n : Nat) : State :=
  let qs := s.queues who
  s.setQueues who (qs.put n [])

/-- Every entry of every queue of the issuer placed before a point has performed (R96). -/
def Queues.clearBefore (qs : Queues) (seq : Nat) : Bool := qs.qs.all (fun q => q.2.all (fun e => seq ≤ e.seq))

/-- The entries of one queue placed before a point have performed. -/
def Queues.clearIn (qs : Queues) (n seq : Nat) : Bool := (qs.get n).all (fun e => seq ≤ e.seq)

/-- No entry is left in any queue, nor any command. -/
def Queues.idle (qs : Queues) : Bool := qs.qs == [] && qs.ordered == []

/-- Remove a matrix-queue entry by uid. -/
def State.qRemoveUid (s : State) (who : Issuer) (uid : Nat) : State :=
  let qs := s.queues who
  s.setQueues who (qs.put 6 ((qs.get 6).filter (fun e => e.uid != uid)))

/-- The failing issuer's entry posts its status word; later entries of its queue are discarded (R228). -/
def statusWord (cause q addr : Nat) : Nat := addr % 2 ^ 20 * 2 ^ 12 + q * 2 ^ 8 + cause

end Sys2Proof.Machine
end

