-- ==== Sys2Proof/Machine/ScalarAlu.lean ====
section
/-! DEFINITION. The scalar arithmetic of edge and management cores (R188): x[D] := f(x[A], x[B] or imm) modulo 2^64. -/

namespace Sys2Proof.Machine

/-- High 64 bits of the signed 128-bit product (R155, R188). -/
def mulHigh (a b : W64) : W64 := BitVec.ofInt 64 (a.toInt * b.toInt / 2 ^ 64)

/-- A register operation writes its result and goes on (R188). -/
def aluOp (i : Instr) (d : B5) (value : Ctx → W64) (s : State) : Out :=
  scalarOp i .common .both false (fun c s => s.finish c (c.th.setX d.toNat (value c))) s

/-- add xD, xA, xB: the sum (R188). -/
def execAdd (f : ER) (s : State) : Out :=
  aluOp (.add f) f.d (fun c => let a := c.x f.a; let b := c.x f.b; a + b) s

/-- sub xD, xA, xB: the difference (R188). -/
def execSub (f : ER) (s : State) : Out :=
  aluOp (.sub f) f.d (fun c => let a := c.x f.a; let b := c.x f.b; a - b) s

/-- and xD, xA, xB: bitwise and (R188). -/
def execAnd (f : ER) (s : State) : Out :=
  aluOp (.and f) f.d (fun c => let a := c.x f.a; let b := c.x f.b; a &&& b) s

/-- or xD, xA, xB: bitwise or (R188). -/
def execOr (f : ER) (s : State) : Out :=
  aluOp (.or f) f.d (fun c => let a := c.x f.a; let b := c.x f.b; a ||| b) s

/-- xor xD, xA, xB: bitwise exclusive or (R188). -/
def execXor (f : ER) (s : State) : Out :=
  aluOp (.xor f) f.d (fun c => let a := c.x f.a; let b := c.x f.b; a ^^^ b) s

/-- andn xD, xA, xB: a and not b (R188). -/
def execAndn (f : ER) (s : State) : Out :=
  aluOp (.andn f) f.d (fun c => let a := c.x f.a; let b := c.x f.b; a &&& ~~~b) s

/-- shl xD, xA, xB: left by b[5:0] (R188). -/
def execShl (f : ER) (s : State) : Out :=
  aluOp (.shl f) f.d (fun c => let a := c.x f.a; let b := c.x f.b; a <<< (b.toNat % 64)) s

/-- shr xD, xA, xB: right by b[5:0], zero fill (R188). -/
def execShr (f : ER) (s : State) : Out :=
  aluOp (.shr f) f.d (fun c => let a := c.x f.a; let b := c.x f.b; a >>> (b.toNat % 64)) s

/-- sra xD, xA, xB: right by b[5:0], sign fill (R188). -/
def execSra (f : ER) (s : State) : Out :=
  aluOp (.sra f) f.d (fun c => let a := c.x f.a; let b := c.x f.b; a.sshiftRight (b.toNat % 64)) s

/-- mul xD, xA, xB: low 64 bits of the product (R188). -/
def execMul (f : ER) (s : State) : Out :=
  aluOp (.mul f) f.d (fun c => let a := c.x f.a; let b := c.x f.b; a * b) s

/-- mulh xD, xA, xB: high 64 bits of the signed product (R188). -/
def execMulh (f : ER) (s : State) : Out :=
  aluOp (.mulh f) f.d (fun c => let a := c.x f.a; let b := c.x f.b; mulHigh a b) s

/-- slt xD, xA, xB: signed less than (R188). -/
def execSlt (f : ER) (s : State) : Out :=
  aluOp (.slt f) f.d (fun c => let a := c.x f.a; let b := c.x f.b; if a.slt b then 1 else 0) s

/-- sltu xD, xA, xB: unsigned less than (R188). -/
def execSltu (f : ER) (s : State) : Out :=
  aluOp (.sltu f) f.d (fun c => let a := c.x f.a; let b := c.x f.b; if a.ult b then 1 else 0) s

/-- min xD, xA, xB: signed minimum (R188). -/
def execMin (f : ER) (s : State) : Out :=
  aluOp (.min f) f.d (fun c => let a := c.x f.a; let b := c.x f.b; if a.slt b then a else b) s

/-- max xD, xA, xB: signed maximum (R188). -/
def execMax (f : ER) (s : State) : Out :=
  aluOp (.max f) f.d (fun c => let a := c.x f.a; let b := c.x f.b; if a.slt b then b else a) s

/-- addi xD, xA, imm, with imm sign-extended (R188). -/
def execAddi (f : EI) (s : State) : Out :=
  aluOp (.addi f) f.d (fun c => let a := c.x f.a; let i := f.i.signExtend 64; a + i) s

/-- andi xD, xA, imm, with imm sign-extended (R188). -/
def execAndi (f : EI) (s : State) : Out :=
  aluOp (.andi f) f.d (fun c => let a := c.x f.a; let i := f.i.signExtend 64; a &&& i) s

/-- ori xD, xA, imm, with imm sign-extended (R188). -/
def execOri (f : EI) (s : State) : Out :=
  aluOp (.ori f) f.d (fun c => let a := c.x f.a; let i := f.i.signExtend 64; a ||| i) s

/-- xori xD, xA, imm, with imm sign-extended (R188). -/
def execXori (f : EI) (s : State) : Out :=
  aluOp (.xori f) f.d (fun c => let a := c.x f.a; let i := f.i.signExtend 64; a ^^^ i) s

/-- shli xD, xA, imm, with imm sign-extended (R188). -/
def execShli (f : EI) (s : State) : Out :=
  aluOp (.shli f) f.d (fun c => let a := c.x f.a; let i := f.i.signExtend 64; a <<< (i.toNat % 64)) s

/-- shri xD, xA, imm, with imm sign-extended (R188). -/
def execShri (f : EI) (s : State) : Out :=
  aluOp (.shri f) f.d (fun c => let a := c.x f.a; let i := f.i.signExtend 64; a >>> (i.toNat % 64)) s

/-- srai xD, xA, imm, with imm sign-extended (R188). -/
def execSrai (f : EI) (s : State) : Out :=
  aluOp (.srai f) f.d (fun c => let a := c.x f.a; let i := f.i.signExtend 64; a.sshiftRight (i.toNat % 64)) s

/-- slti xD, xA, imm, with imm sign-extended (R188). -/
def execSlti (f : EI) (s : State) : Out :=
  aluOp (.slti f) f.d (fun c => let a := c.x f.a; let i := f.i.signExtend 64; if a.slt i then 1 else 0) s

/-- lui xD, imm: sign-extend(IMM20) × 4,096 (R188). -/
def execLui (d : B5) (i : BitVec 20) (s : State) : Out :=
  aluOp (.lui d i) d (fun _ => i.signExtend 64 * 4096) s

end Sys2Proof.Machine
end

