-- ==== Sys2Proof/Machine/Swap.lean ====
section
/-! DEFINITION. Gang slots, swapped-out gangs and crews that return, and the swap of single spinning gangs (R53, R283, R284). -/

namespace Sys2Proof.Machine

/-! ## Slots (R283) -/

/-- Gangs of a crew in a SIMD partition of the core, by its slots so far. -/
def inSimd (mine : List Nat) (m : Nat) : Nat := (mine.filter (fun x => x % 4 == m)).length

/-- The slot of the next gang: the lowest free one among the SIMD partitions with the fewest gangs of the crew. -/
def pickSlot (used mine : List Nat) : Option Nat :=
  let free := (span 0 16).filter (fun x => !used.contains x)
  let least := free.foldl (fun m x => min m (inSimd mine (x % 4))) 17
  free.find? (fun x => inSimd mine (x % 4) == least)

/-! ## Gangs that return to a slot -/

/-- A sub-gang that was parked takes its new handle to the management core once it is placed (R194). -/
def State.reraise (s : State) (core slot : Nat) (g : Gang) : State :=
  g.subs.foldl (fun s t => if t.2.parked then
    s.pushEvent (s.shub (s.unitPart core)) (eventWord 1 (handleOf { core := core, slot := slot, sub := t.1 })) else s) s

/-- Board entries of items move to the board of the die that takes their engine or crew (R356). -/
def State.moveBoard (s : State) (k : Nat) (items : List Nat) (unit : Nat) : State :=
  items.foldl (fun s i => s.updItem k i (fun it => { it with die := unitDie unit, unit := unit })) s

/-- A gang that was swapped out of a resident crew stands in a slot. -/
def State.placeOut (s : State) (core slot : Nat) (x : Nat × Gang) : State :=
  let e := s.core core
  (s.setCore core { e with gangs := alPut e.gangs slot x.2, out := e.out.erase x }).reraise core slot x.2

/-- A crew swapped out whole is resident on a core again, its gangs as yet in no slot. On another core than the one it left the
copies that L1 holds may be older than its stores, and are invalidated (R86). -/
def State.returnCrew (s : State) (core : Nat) (w : Swapped) : State :=
  let s := if core = w.core then s else s.invalClean core (fun _ => true)
  let e := s.core core
  let key := s.seq
  let s := { s.setCore core { e with
      crews := alPut e.crews key { w.crew with since := s.timeOf (s.unitPart core) }
      out := e.out ++ w.gangs.map (fun g => (w.since, { g with crew := key })) } with
    seq := key + 1, swapped := s.swapped.erase w }
  let s := match s.launch w.launch with
    | some l => if l.desc.persist then s.setLaunch w.launch { l with cores := l.cores.map (fun x => if x = w.core then core else x) } else s
    | none => s
  s.moveBoard w.launch (w.crew.retiring.map Prod.fst ++ w.crew.items.map HeldItem.item) core

/-! ## Spinning gangs (R52, R53) -/

/-- Every sub-gang of a gang is marked spinning (R52). -/
def Gang.spinning (g : Gang) : Bool := g.subs.all (fun t => t.2.spin.marked)

/-- When a gang was marked: the earliest of its sub-gangs. -/
def Gang.markedAt (g : Gang) : Nat := g.subs.foldl (fun m t => if t.2.spin.since < m then t.2.spin.since else m) (2 ^ 64)

/-- A gang that is ready: a sub-gang of it waits for nothing. -/
def Gang.ready (g : Gang) : Bool := g.subs.any (fun t => !t.2.parked && t.2.wait == .none)

/-- The element of least key, the first on a tie. -/
def leastBy {α : Type} (key : α → Nat) : List α → Option α
  | [] => none
  | h :: t => some (t.foldl (fun b x => if key x < key b then x else b) h)

/-- The ready gangs swapped out that could stand on a core, with the time each left: gangs of its resident crews, and gangs of
swapped-out crews of its partition whose core memory it has room for (Example 4-4; log entry 75). -/
def State.readyOut (s : State) (core : Nat) : List (Nat × Nat × Option Swapped) :=
  let e := s.core core
  let used := e.crews.foldl (fun n c => n + c.2.cmemKiB) 0
  (e.out.filter (fun x => x.2.ready)).map (fun x => (x.1, x.2.crew * 16 + x.2.num, none)) ++
  (s.swapped.filter (fun w => s.unitPart w.core == s.unitPart core && used + w.crew.cmemKiB ≤ 256)).flatMap (fun w =>
    (w.gangs.filter Gang.ready).map (fun g => (w.since, s.seq * 16 + g.num, some w)))

/-- R53: when every resident gang is marked spinning and a ready gang of the partition is swapped out, the gang marked longest
(ties to the lower slot) changes places with the one that has waited longest. No work is placed on a die under reset (R356). -/
def State.spinSwap (s : State) (core : Nat) : State :=
  if (s.core core).gangs.all (fun g => g.2.spinning) && !s.dieBusy (unitDie core) then
    match leastBy Prod.fst (s.readyOut core), leastBy (fun (x : Nat × Gang) => x.2.markedAt) (s.core core).gangs with
    | some (_, id, w), some (slot, g) =>
      let s := match w with
        | some w => s.returnCrew core w
        | none => s
      match (s.core core).out.find? (fun x => x.2.crew * 16 + x.2.num == id) with
      | none => s
      | some x =>
        let s := s.placeOut core slot x
        s.setCore core { s.core core with out := (s.core core).out ++ [(s.timeOf (s.unitPart core), g)] }
    | _, _ => s
  else s

end Sys2Proof.Machine
end

