-- ==== Sys2Proof/Machine/ScalarCtl.lean ====
section
/-! DEFINITION. Branches, jumps, calls and returns, the format instructions, and the mask stack
(R52, R175, R179, R180, R190). -/

namespace Sys2Proof.Machine

/-! ## Branches (R190) and the switchback detector (R52) -/

/-- The thread after a taken conditional branch: a backward branch of at most 15 instructions taken twice with
equal registers, mask and format marks the gang as spinning; any other taking clears the mark. -/
def Thread.branchTaken (th : Thread) (target : Nat) (now : Nat) : Thread :=
  let back := target ≤ th.pc.toNat && th.pc.toNat - target ≤ 60
  if back then
    let same := th.spin.taken && th.spin.pc == th.pc && th.spin.x == th.x && th.spin.m == th.m && th.spin.fmt == th.fmt
    { th with
      pc := BitVec.ofNat 32 target
      spin := { pc := th.pc, x := th.x, m := th.m, fmt := th.fmt, taken := true,
                marked := same, since := if same && th.spin.marked then th.spin.since else now } }
  else { th with pc := BitVec.ofNat 32 target, spin := {} }

/-- The thread after a branch that falls through: the mark of the loop that it closes clears; one within a loop is no taking. -/
def Thread.fellThrough (th : Thread) : Thread := { th.advance with spin := if th.spin.pc = th.pc then {} else th.spin }

/-- A branch that falls through counts as executed in sequence (R313). -/
def State.traceNext (s : State) (c : Ctx) : State :=
  s.traceUnit c.unit c.part 2 (8 * c.ref.slot + c.ref.sub) c.th.pc.toNat c.th.lpc.toNat true

/-- A conditional branch is taken to a target (R52, R53, R313). -/
def State.takeBranch (s : State) (c : Ctx) (t : Nat) : State :=
  let s := s.setTh c (c.th.branchTaken t (s.timeOf c.part))
  let s := s.trace c.unit c.part c.ref.slot c.ref.sub 3 t [] c.th.pc.toNat c.th.lpc.toNat true
  if c.isMgmt then s else s.spinSwap c.ref.core

/-- A conditional branch: the target is checked when it is taken. -/
def branchOp (i : Instr) (f : EB) (cond : W64 → W64 → Bool) (s : State) : Out :=
  scalarOp i .common .both false (fun c s =>
    if cond (c.x f.a) (c.x f.b) then
      let t := relTarget c.th.pc 15 f.i.toNat
      if s.targetOk c t then .next (s.takeBranch c t) else s.scalarTrap c i 0x13
    else .next ((s.setTh c c.th.fellThrough).traceNext c)) s

/-- beq: equal. -/
def execBeq (f : EB) (s : State) : Out := branchOp (.beq f) f (fun a b => a == b) s
/-- bne: not equal. -/
def execBne (f : EB) (s : State) : Out := branchOp (.bne f) f (fun a b => a != b) s
/-- blt: signed below. -/
def execBlt (f : EB) (s : State) : Out := branchOp (.blt f) f (fun a b => a.slt b) s
/-- bge: signed at or above. -/
def execBge (f : EB) (s : State) : Out := branchOp (.bge f) f (fun a b => !a.slt b) s
/-- bltu: unsigned below. -/
def execBltu (f : EB) (s : State) : Out := branchOp (.bltu f) f (fun a b => a.ult b) s
/-- bgeu: unsigned at or above. -/
def execBgeu (f : EB) (s : State) : Out := branchOp (.bgeu f) f (fun a b => !a.ult b) s

/-! ## Jumps and the return stack (R179, R180) -/

/-- The rest of a jump once its target is read: the check, the push, the link, the counter (R179). -/
def State.jumpTo (s : State) (c : Ctx) (i : Instr) (d : Nat) (call : Bool) (target : Nat) : Out :=
  if !s.targetOk c target then s.scalarTrap c i 0x13
  else if call ∧ 16 ≤ c.th.rstack.length then s.scalarTrap c i 0x0A
  else
    let th := if call then { c.th with rstack := (c.th.pc + 4, c.th.lpc) :: c.th.rstack } else c.th
    let th := (th.setX d (BitVec.ofNat 64 (c.th.pc.toNat + 4))).clearSpin
    let s := s.setTh c { th with pc := BitVec.ofNat 32 target }
    .next (s.trace c.unit c.part c.ref.slot c.ref.sub 3 target [] c.th.pc.toNat c.th.lpc.toNat true)

/-- jal: PC + 4 × DISP19. -/
def execJal (d : B5) (cl : B1) (i : BitVec 19) (s : State) : Out :=
  scalarOp (.jal d cl i) .common .both false
    (fun c s => s.jumpTo c (.jal d cl i) d.toNat (cl == 1) (relTarget c.th.pc 19 i.toNat)) s

/-- jr: x[A], read before the link is written. -/
def execJr (d a : B5) (cl : B1) (s : State) : Out :=
  scalarOp (.jr d a cl) .common .both false
    (fun c s => s.jumpTo c (.jr d a cl) d.toNat (cl == 1) (c.x a).toNat) s

/-- jr.w: the uniform value of w[N] over the active lanes (R180); a full return stack ranks before a value that is not
uniform (R292). -/
def execJrW (d : B5) (cl : B1) (n : B7) (s : State) : Out :=
  scalarOp (.jrW d cl n) .common .edge true (fun c s =>
    let cause := if cl = 1 ∧ 16 ≤ c.th.rstack.length then 0x0A else 0x09
    match lanesOf c.th.m with
    | [] => s.scalarTrap c (.jrW d cl n) cause
    | l0 :: rest =>
      let v := c.gang.getW l0 n.toNat
      let bad := rest.filter (fun l => c.gang.getW l n.toNat != v)
      if bad ≠ [] then s.scalarTrap c (.jrW d cl n) cause 0 (if cause = 0x09 then maskOf bad else 0)
      else s.jumpTo c (.jrW d cl n) d.toNat (cl == 1) v.toNat) s

/-- ret: pop PC and LPC. -/
def execRet (s : State) : Out :=
  scalarOp .ret .common .both false (fun c s =>
    match c.th.rstack with
    | [] => s.scalarTrap c .ret 0x0B
    | (p, l) :: t =>
      let s := s.setTh c { c.th with pc := p, lpc := l, rstack := t, spin := {} }
      .next (s.trace c.unit c.part c.ref.slot c.ref.sub 3 p.toNat [] c.th.pc.toNat c.th.lpc.toNat true)) s

/-! ## fmt (R190) -/

/-- fmt xA: RW fields as written, sticky bits cleared where 1. -/
def execFmt (a : B5) (s : State) : Out :=
  scalarOp (.fmt a) .common .both false (fun c s =>
    s.finish c (s.keepHot c { c.th with fmt := BitVec.ofNat 32 (fmtWrite c.th.fmt.toNat (c.x a).toNat) })) s

/-- fmt imm: fmt[16:0] := IMM17. -/
def execFmtImm (i : BitVec 17) (s : State) : Out :=
  scalarOp (.fmtImm i) .common .both false (fun c s =>
    s.finish c { c.th with fmt := BitVec.ofNat 32 (c.th.fmt.toNat / 2 ^ 17 * 2 ^ 17 + i.toNat) }) s

/-! ## The mask stack (R175) -/

/-- fmt with the saved control fields; the sticky bits stand (R61). -/
def fmtRestore (fmt : W32) (saved : BitVec 17) : W32 :=
  BitVec.ofNat 32 (fmt.toNat / 2 ^ 17 * 2 ^ 17 + saved.toNat)

/-- mpush lpN: drain, push (M, fmt[16:0]), narrow the mask. -/
def execMpush (p : B3) (s : State) : Out :=
  scalarOp (.mpush p) .common .edge true (fun c s =>
    if 16 ≤ c.th.mstack.length then s.scalarTrap c (.mpush p) 0x0C
    else s.finish c { c.th with
      mstack := (c.th.m, BitVec.ofNat 17 c.th.fmt.toNat) :: c.th.mstack, m := c.th.m &&& c.gang.getLp p.toNat }) s

/-- minv: the other side of the top mask, with its format. -/
def execMinv (s : State) : Out :=
  scalarOp .minv .common .edge false (fun c s =>
    match c.th.mstack with
    | [] => s.scalarTrap c .minv 0x0D
    | (m, f) :: _ => s.finish c { c.th with m := m &&& ~~~c.th.m, fmt := fmtRestore c.th.fmt f }) s

/-- mpop: the top mask and format, popped. -/
def execMpop (s : State) : Out :=
  scalarOp .mpop .common .edge false (fun c s =>
    match c.th.mstack with
    | [] => s.scalarTrap c .mpop 0x0D
    | (m, f) :: t => s.finish c { c.th with m := m, fmt := fmtRestore c.th.fmt f, mstack := t }) s

/-- bz.m: branch when no lane is active. -/
def execBzM (i : BitVec 19) (s : State) : Out :=
  scalarOp (.bzM i) .common .edge false (fun c s =>
    if c.th.m = 0 then
      let t := relTarget c.th.pc 19 i.toNat
      if s.targetOk c t then .next (s.takeBranch c t) else s.scalarTrap c (.bzM i) 0x13
    else .next ((s.setTh c c.th.fellThrough).traceNext c)) s

/-! ## The trap instruction and what the fetch meets (R168, R126, R192) -/

/-- trap code: cause 0x15 with TADDR the code. -/
def execTrap (code : BitVec 16) (s : State) : Out :=
  scalarOp (.trap code) .common .both false (fun c s => s.scalarTrap c (.trap code) 0x15 (code.zeroExtend 64)) s

/-- An unassigned or ill-formed scalar word: the illegal-instruction trap at its PC (R126). -/
def execIllegalInstruction (w : W32) (s : State) : Out :=
  scalarOp (.illegalInstruction w) .common .both false (fun c s => s.scalarTrap c (.illegalInstruction w) 0x01) s

/-- A fetch at or beyond the section's end: cause 0x13 at that PC (R168). -/
def execScalarFetchOutOfRange (s : State) : Out :=
  scalarOp .scalarFetchOutOfRange .common .both false (fun c s => s.scalarTrap c .scalarFetchOutOfRange 0x13) s

end Sys2Proof.Machine
end

