-- ==== Sys2Proof/Machine/Gang.lean ====
section
/-! DEFINITION. The lane queue's entry, parting and regaining, barriers, fences, and the end of a sub-gang
(R173, R174, R176 to R178, R181, R185, R190, R192). -/

namespace Sys2Proof.Machine

/-! ## lane.iss and lane.jmp (R173, R174) -/

/-- Whether a lane instruction is a matrix one, which also enters the matrix queue (R224). -/
def isMatrixLane (i : Instr) : Bool :=
  match i with
  | .lmma _ | .laccRd _ | .laccWr _ => true
  | _ => false

def isRetired (i : Instr) : Bool :=
  match i with
  | .hdot2 _ | .lerp _ | .isad _ => true
  | _ => false

/-- Whether a lane instruction names a scalar operand in C (R213, R217, R218, R221, R222). -/
def namesX (i : Instr) : Bool :=
  match i with
  | .lld _ | .lst _ | .lldc _ | .lstc _ | .lldp _ | .lblk _ | .aadd _ | .amin _ | .amax _ | .aand _ | .aor _
  | .axor _ | .axchg _ | .acas _ | .amaxvi _ | .gumbel _ | .nhash _ | .lmma _ => true
  | _ => false

/-- The lane instructions that a role may enqueue (R50). -/
def laneRole (role : Nat) (i : Instr) : Bool :=
  match role with
  | 0 => true
  | 2 => isMatrixLane i
  | 3 => !isMatrixLane i
  | 4 =>
    match i with
    | .lst _ | .lstc _ | .aadd _ | .amin _ | .amax _ | .aand _ | .aor _ | .axor _ | .axchg _ | .acas _ | .amaxvi _ => true
    | _ => false
  | _ => false

/-- The outcome of taking one lane instruction at LPC. -/
inductive Enq where
  | full                                  -- wait for a free entry
  | fetch (e : MErr × Nat)                -- the fetch met a fault
  | trap (cause : Nat) (w : Nat)          -- an enqueue trap on the instruction's word
  | skip                                  -- retired with an empty mask
  | take (i : Instr) (w : Nat)
  deriving DecidableEq, Repr

/-- The checks of R173 in their order. -/
def State.enqOne (s : State) (c : Ctx) : State × Enq :=
  let th := c.th
  if c.desc.ellen < th.lpc.toNat + 12 then (s, .trap 0x13 0)
  else if 16 ≤ th.lq.length then (s, .full)
  else
    match s.roRead c.iss c.part (c.desc.eladdr + th.lpc.toNat) 12 (20000 + c.sg) c.ref.core c.crew.launch with
    | (s, .error e) => (s, .fetch e)
    | (s, .ok bs) =>
      let s := s.clearRemote c.iss (20000 + c.sg)
      let w := leNat bs
      match decodeLane w with
      | none => (s, .trap 0x01 w)
      | some i =>
        if !laneRole c.gang.role i then (s, .trap 0x02 w)
        else if laneFmtBad i th.fmt.toNat then (s, .trap 0x03 w)
        else if isRetired i then (if th.m ≠ 0 then (s, .trap 0x14 w) else (s, .skip))
        else if isMatrixLane i ∧ s.qFull c.iss 6 = true then (s, .full)
        else (s, .take i w)

/-- The thread with an instruction enqueued: its copies of M, fmt[16:0], x[C] and SRCTR (R173, R203). -/
def Thread.enqueue (th : Thread) (i : Instr) (w uid ord : Nat) (issPc : W32) : Thread :=
  let e : LaneEntry := {
    word := BitVec.ofNat 96 w, mask := th.m, fmt := BitVec.ofNat 17 th.fmt.toNat
    xop := if namesX i then th.getX (fld w 30 26) else 0
    srctr := th.srctr, pc := issPc, uid := uid, ord := ord }
  let sr := readsRnd i && fmtRnd th.fmt.toNat == 4
  { th with lq := th.lq ++ [e], lpc := th.lpc + 12, srctr := if sr then th.srctr + 32 else th.srctr }

/-- The place of a matrix lane instruction in the crew's matrix queue, fixed by its enqueue (R224). -/
def State.pushLane (s : State) (c : Ctx) (i : Instr) (uid : Nat) : State :=
  if isMatrixLane i then
    s.qPush c.iss 6 { seq := 0, cmd := i, pc := c.th.pc.toNat, sg := c.sg, uid := uid }
  else s

/-- An enqueue trap (R183): entries enqueued before complete first. -/
def State.enqTrap (s : State) (c : Ctx) (rem cause : Nat) (words : List W32) (addr : W64) : Out :=
  if c.th.lq ≠ [] then .next (s.setTh c { c.th with issRem := rem })
  else .next (s.takeTrap c { cause := cause, enq := true, tepc := c.th.pc, tlpc := c.th.lpc, tiss := rem, taddr := addr, tenq := c.th.pc, tiw := words })

def laneWords (w : Nat) : List W32 := [BitVec.ofNat 32 w, BitVec.ofNat 32 (w / 2 ^ 32), BitVec.ofNat 32 (w / 2 ^ 64)]

/-- Enqueue up to n instructions from LPC (R173); a full queue leaves the rest for later turns. -/
def State.issue : Nat → State → Ctx → Out
  | 0, s, c => .next (s.setTh c { c.th.advance with issRem := 0 })
  | n + 1, s, c =>
    match s.enqOne c with
    | (s, .full) => .next (s.setTh c { c.th with issRem := n + 1 })
    | (s, .fetch (e, va)) =>
      (match e with
       | .wait => .next (s.setTh c { c.th with issRem := n + 1 })
       | e => (s.countErr e).enqTrap c (n + 1) (merrCause e) [0, 0, 0] (BitVec.ofNat 64 va))
    | (s, .trap cause w) => s.enqTrap c (n + 1) cause (laneWords w) 0
    | (s, .skip) => State.issue n s { c with th := { c.th with lpc := c.th.lpc + 12 } }
    | (s, .take i w) =>
      let s := s.pushLane c i s.seq
      State.issue n s { c with th := c.th.enqueue i w (if isMatrixLane i then s.seq - 1 else 0) s.seq c.th.pc }

/-- lane.iss n: moves n lane instructions into the queue, or the rest of a batch under way (R173, R185). -/
def execLaneIss (n : B4) (s : State) : Out :=
  scalarOp (.laneIss n) .lane .edge false (fun c s =>
    let rem := if c.th.issRem = 0 then n.toNat + 1 else c.th.issRem
    let s := if c.th.issRem = 0 then
        s.trace c.unit c.part c.ref.slot c.ref.sub 9 c.th.lpc.toNat [] c.th.pc.toNat c.th.lpc.toNat true else s
    s.issue rem { c with th := c.th.clearSpin }) s

/-- A new LPC is a multiple of 12 and does not exceed ELLEN (R174). -/
def State.laneJump (s : State) (c : Ctx) (i : Instr) (t : Nat) : Out :=
  if t % 12 ≠ 0 ∨ c.desc.ellen < t then s.scalarTrap c i 0x13
  else s.finish c { c.th.clearSpin with lpc := BitVec.ofNat 32 t }

/-- lane.jmp label: LPC + 12 × DISP19. -/
def execLaneJmp (i : BitVec 19) (s : State) : Out :=
  scalarOp (.laneJmp i) .lane .edge false
    (fun c s => s.laneJump c (.laneJmp i) (wrapN 64 ((c.th.lpc.toNat : Int) + 12 * sx 19 i.toNat))) s

/-- lane.jmp xA: LPC := x[A]. -/
def execLaneJmpInd (a : B5) (s : State) : Out :=
  scalarOp (.laneJmpInd a) .lane .edge false (fun c s => s.laneJump c (.laneJmpInd a) (c.x a).toNat) s

/-! ## part and regang (R176 to R178) -/

/-- The lowest slice of a set: the sub-gang number (R176). -/
def lowSlice (sl : BitVec 8) : Nat := ((span 0 8).find? (fun i => sl.getLsbD i)).getD 0

/-- The slices of a sub-gang with a lane active and set in lp[N]. -/
def takenSlices (th : Thread) (lp : W32) : BitVec 8 :=
  BitVec.ofNat 8 ((span 0 8).foldl (fun a i =>
    if th.slices.getLsbD i && (span (4 * i) 4).any (fun l => th.m.getLsbD l && lp.getLsbD l) then a + 2 ^ i else a) 0)

/-- One side of a part: its own slices' bits of M and the mask stack, an empty lane queue. -/
def Thread.side (th : Thread) (sl : BitVec 8) (taken : Bool) (pc : W32) : Thread :=
  let k := sliceMask sl
  { th with
    path := taken :: th.path, slices := sl, m := th.m &&& k
    mstack := th.mstack.map (fun e => (e.1 &&& k, e.2)), lq := [], pc := pc, spin := {}, issRem := 0 }

/-- part lpN, label (R176). -/
def execPart (p : B3) (i : BitVec 19) (s : State) : Out :=
  scalarOp (.part p i) .common .edge true (fun c s =>
    let t := relTarget c.th.pc 19 i.toNat
    if 8 ≤ c.th.path.length then s.scalarTrap c (.part p i) 0x16
    else if !s.targetOk c t then s.scalarTrap c (.part p i) 0x13
    else
      let tk := takenSlices c.th (c.gang.getLp p.toNat)
      let fl := c.th.slices &&& ~~~tk
      let s := s.setGang c (fun g =>
        let subs := alDel g.subs c.ref.sub
        let subs := if tk = 0 then subs else alPut subs (lowSlice tk) (c.th.side tk true (BitVec.ofNat 32 t))
        let subs := if fl = 0 then subs else alPut subs (lowSlice fl) (c.th.side fl false (c.th.pc + 4))
        { g with subs := subs })
      .next (s.trace c.unit c.part c.ref.slot c.ref.sub 0x0A (tk.toNat + fl.toNat * 256) [] c.th.pc.toNat c.th.lpc.toNat true)) s

/-- The sub-gangs of the other side of this sub-gang's deepest part. -/
def siblings (g : Gang) (path : List Bool) : List (Nat × Thread) :=
  match path with
  | [] => []
  | b :: rest => g.subs.filter (fun t => t.2.path.drop (t.2.path.length - (rest.length + 1)) == (!b) :: rest)

/-- Two sub-gangs merged at PC + 4 (R177): S is the one that holds the lower-numbered slice. -/
def mergeThreads (x y : Thread) : Thread :=
  let (lo, hi) := if lowSlice x.slices < lowSlice y.slices then (x, y) else (y, x)
  let st := Nat.lor (fld lo.fmt.toNat 27 24) (fld hi.fmt.toNat 27 24) * 2 ^ 24
  let pw := if bitAt lo.msts.toNat 4 then fld lo.msts.toNat 7 5 else if bitAt hi.msts.toNat 4 then fld hi.msts.toNat 7 5 else fld lo.msts.toNat 7 5
  { lo with
    pc := lo.pc + 4, path := lo.path.drop 1, slices := lo.slices ||| hi.slices, m := lo.m ||| hi.m
    mstack := (lo.mstack.zip hi.mstack).map (fun e => (e.1.1 ||| e.2.1, e.1.2))
    fmt := BitVec.ofNat 32 (lo.fmt.toNat % 2 ^ 17 + st)
    msts := BitVec.ofNat 32 (pw * 32 + Nat.lor (fld lo.msts.toNat 4 2) (fld hi.msts.toNat 4 2) * 4)
    posted := lo.posted ++ hi.posted, wait := .none, spin := {} }

/-- regang (R177). -/
def execRegang (s : State) : Out :=
  scalarOp .regang .common .edge true (fun c s =>
    match c.th.path with
    | [] => s.finish c c.th
    | _ :: rest =>
      let note := fun (s : State) (sl : Nat) (gone : Bool) =>
        s.trace c.unit c.part c.ref.slot c.ref.sub 0x0B (sl + b2n gone * 256) [] c.th.pc.toNat c.th.lpc.toNat true
      match siblings c.gang c.th.path with
      | [] => .next (note (s.setTh c { c.th.advance with path := rest, wait := .none }) c.th.slices.toNat true)
      | (k, o) :: _ =>
        if o.wait = .regang ∧ o.path.length = c.th.path.length then
          if o.pc = c.th.pc ∧ o.lpc = c.th.lpc ∧ o.mstack.length = c.th.mstack.length then
            let m := mergeThreads c.th o
            let s := s.setGang c (fun g =>
              { g with subs := alPut (alDel (alDel g.subs k) c.ref.sub) (lowSlice m.slices) m })
            .next (note s m.slices.toNat false)
          else
            let s := s.takeTrap c { cause := 0x0E, tepc := c.th.pc, tlpc := c.th.lpc, tiw := tiwOf .regang }
            match s.subGang { c.ref with sub := k } with
            | none => .next s
            | some oc => .next (s.takeTrap oc { cause := 0x0E, tepc := oc.th.pc, tlpc := oc.th.lpc, tiw := tiwOf .regang })
        else .next (s.setTh c { c.th with wait := .regang })) s

/-! ## Named barriers (R181) -/

/-- Every arrived gang leaves barrier n: past the instruction, its spin mark cleared (R52). -/
def State.barRelease (s : State) (core k n : Nat) : State :=
  let gs := (s.core core).crewGangs k
  gs.foldl (fun s g =>
    g.2.subs.foldl (fun s t =>
      if t.2.wait = .bar n then
        s.setSub { core := core, slot := g.1, sub := t.1 } { t.2.advance with wait := .none, spin := {} }
      else s) s) (s.outLeave core k n Thread.advance)

/-- bar n, xA: drain, then arrive. -/
def execBar (a : B5) (n : B4) (s : State) : Out :=
  scalarOp (.bar a n) .common .edge true (fun c s =>
    if c.th.wait = .bar n.toNat then s.wait
    else if c.th.path ≠ [] then s.scalarTrap c (.bar a n) 0x0F
    else
      let cnt := if a = 0 then c.crew.egangs else (c.x a).toNat
      if cnt = 0 ∨ c.crew.egangs < cnt then s.scalarTrap c (.bar a n) 0x0F
      else
        let b := SMap.get {} c.crew.bars n.toNat
        if b.arrived ≠ [] ∧ b.count ≠ cnt then s.scalarTrap c (.bar a n) 0x0F
        else
          let arr := insKey c.gang.num b.arrived
          if cnt ≤ arr.length then
            let s := s.updCrew c.ref.core c.gang.crew (fun cr => { cr with bars := SMap.set {} cr.bars n.toNat {} })
            let s := s.barRelease c.ref.core c.gang.crew n.toNat
            .next (s.setTh c c.th.advance.clearSpin)
          else
            let s := s.updCrew c.ref.core c.gang.crew (fun cr =>
              { cr with bars := SMap.set {} cr.bars n.toNat { count := cnt, arrived := arr } })
            let s := s.setTh c { c.th with wait := .bar n.toNat, waitWord := (tiwOf (.bar a n)).headD 0 }
            .next (s.barCheck c.ref.core c.gang.crew n.toNat)) s

/-! ## exit and eret (R184, R185, R192) -/

/-- exit: drain and end the sub-gang; in a handler it terminates the crew's work. -/
def execExit (s : State) : Out :=
  scalarOp .exit .common .edge true (fun c s =>
    if c.th.tmode then .next (s.terminateCrew c.ref.core c.gang.crew)
    else .next (s.endSub c)) s

/-- The saved matrix entries take their places in the matrix queue again (R185, R224). -/
def State.requeue (s : State) (c : Ctx) : List LaneEntry → State × List LaneEntry
  | [] => (s, [])
  | e :: t =>
    match decodeLane e.word.toNat with
    | some i =>
      if isMatrixLane i then
        let u := s.seq
        let (s, r) := State.requeue (s.pushLane c i u) c t
        (s, { e with uid := u } :: r)
      else
        let (s, r) := State.requeue s c t
        (s, e :: r)
    | none => State.requeue s c t

/-- Resumption from a trap (R185): TMODE and LPC, the saved entries re-enqueued as saved, then the rest of an
interrupted lane.iss at TEPC, which the trace tells (R313), or TEPC itself. A TLPC that is no multiple of 12, or beyond ELLEN, is
loaded as it stands: DESIGN CHOICE (log entry 97). -/
def State.resume (s : State) (c : Ctx) : State :=
  let (s, q) := s.requeue c c.th.tsaved
  let s := if c.th.tiss = 0 then s
    else s.trace c.unit c.part c.ref.slot c.ref.sub 9 c.th.tlpc.toNat [] c.th.tepc.toNat c.th.tlpc.toNat true
  s.setTh c { c.th with
    tmode := false, lpc := c.th.tlpc, lq := q, pc := c.th.tepc, issRem := c.th.tiss, tsaved := [], tiss := 0
    parked := false, wait := .none, spin := {} }

/-- eret: illegal outside a handler. -/
def execEret (s : State) : Out :=
  scalarOp .eret .common .both true (fun c s =>
    if !c.th.tmode then s.scalarTrap c .eret 0x01 else .next (s.resume c)) s

/-! ## fence (R88, R103, R190) -/

/-- The markers a fence with release must gather: at domain scope, of every device written (R103). -/
def fenceReleases (k : B2) : Bool := k != 0
def fenceAcquires (k : B2) : Bool := k != 1

/-- fence.k.s: drain, then the orders and cache actions of R88. -/
def execFence (sc : B3) (k : B2) (s : State) : Out :=
  scalarOp (.fence sc k) .common .both true (fun c s =>
    match if fenceReleases k then s.releaseGate c sc.toNat [] c.sg else (s, .done) with
    | (s, .wait) => .next s
    | (s, .error) => s.scalarTrap c (.fence sc k) 0x12
    | (s, .done) => (if fenceAcquires k && !c.isMgmt then s.acquire c.ref.core sc.toNat else s).finish c c.th) s

end Sys2Proof.Machine
end

