-- ==== Sys2Proof/Machine/Lane.lean ====
section
/-! DEFINITION. Execution of lane instructions from the head of the lane queue (R200, R202, R203), lane
arithmetic, bit and cross-lane instructions, noise, and the accumulator moves (R204 to R212, R221, R225). -/

namespace Sys2Proof.Machine

/-! ## The head of a lane queue -/

/-- The sub-gang whose lane stream acts. -/
def State.laneCtx (s : State) : Option Ctx :=
  match s.cur with
  | .lane r => s.subGang r
  | _ => none

/-- A lane instruction acts on the head of its sub-gang's lane queue, with the copies taken at enqueue; one
that is also a matrix-queue entry waits until it is the first there (R224). -/
def laneOp (mat : Bool) (body : Ctx → LaneEntry → State → Out) (s : State) : Out :=
  match s.laneCtx with
  | none => .fault .noThread
  | some c =>
    match c.th.lq with
    | [] => .fault .noThread
    | e :: _ =>
      if mat ∧ ((s.queues c.iss).get 6).head?.map QEntry.uid ≠ some e.uid then s.wait else body c e s

/-- The instruction completes: its entry is freed, its registers and sticky bits are set (R200, R203). -/
def State.laneDone (s : State) (c : Ctx) (e : LaneEntry) (g : Gang → Gang) (fl : FFlags) : Out :=
  let s := if e.uid = 0 then s else s.qRemoveUid c.iss e.uid
  let th := { c.th with lq := c.th.lq.drop 1, fmt := BitVec.ofNat 32 (fmtSet c.th.fmt.toNat fl.bits) }
  .next (((s.heat (.fmt c.thread) fl.bits).setTh c th.checkSpin).setGang c g)

/-- The active lanes of the instruction (R200). -/
def activeLanes (c : Ctx) (f : LaneF) (e : LaneEntry) : List Nat := lanesOf (effMask c.gang f e.mask)

/-- Register n of each listed lane set. -/
def Gang.setLanes (g : Gang) (ls : List Nat) (n : Nat) (v : Nat → W32) : Gang :=
  ls.foldl (fun a l => a.setW l n (v l)) g

/-- Bits of predicate n set for the listed lanes. -/
def Gang.setPred (g : Gang) (ls : List Nat) (n : Nat) (v : Nat → Bool) : Gang :=
  let on := maskOf (ls.filter v)
  g.setLp n ((g.getLp n &&& ~~~maskOf ls) ||| on)

/-- An instruction that computes w[D] lane by lane. -/
def laneMap (f : LaneF) (val : Ctx → LaneEntry → Nat → W32 × FFlags) (s : State) : Out :=
  laneOp false (fun c e s =>
    let rs := (activeLanes c f e).map (fun l => (l, val c e l))
    let g := fun (g : Gang) => rs.foldl (fun a r => a.setW r.1 f.d.toNat r.2.1) g
    s.laneDone c e g (rs.foldl (fun a r => a.or r.2.2) {})) s

/-- One that sets no flag. -/
def laneMapI (f : LaneF) (val : Ctx → LaneEntry → Nat → W32) (s : State) : Out :=
  laneMap f (fun c e l => (val c e l, {})) s

/-! ## Floating arithmetic (R204) -/

def lanePartsT (f : LaneF) : Nat := if f.t = 0 then 1 else 2
def laneRnd (c : Ctx) (e : LaneEntry) (l : Nat) : Rnd := rndOf e.fmt.toNat c.th.srkey e.srctr l
def laneFlush (e : LaneEntry) : Bool := fmtFlush e.fmt.toNat

/-- A binary operation on each element of the lane, in the copied format. -/
def laneBin (f : LaneF) (op : NumFmt → Rnd → Bool → Nat → Nat → Nat × FFlags) (s : State) : Out :=
  laneMap f (fun c e l =>
    perPart (lanePartsT f) (op (tyFmt f.t.toNat) (laneRnd c e l) (laneFlush e)) (c.gang.getW l f.a.toNat) (opB c.gang f l)) s

/-- fadd (R204). -/
def execFadd (f : LaneF) (s : State) : Out := laneBin f (fun k m fl a b => eAdd k m fl a b) s
/-- fsub (R204). -/
def execFsub (f : LaneF) (s : State) : Out := laneBin f (fun k m fl a b => eSub k m fl a b) s
/-- fmul (R204). -/
def execFmul (f : LaneF) (s : State) : Out := laneBin f (fun k m fl a b => eMul k m fl a b) s
/-- fmin, as vmin (R161). -/
def execFmin (f : LaneF) (s : State) : Out := laneBin f (fun k _ fl a b => (eMinMax k fl false a b, {})) s
/-- fmax, as vmax (R161). -/
def execFmax (f : LaneF) (s : State) : Out := laneBin f (fun k _ fl a b => (eMinMax k fl true a b, {})) s

/-- Multiply and add or subtract with one rounding. -/
def laneFmaOp (f : LaneF) (sub : Bool) (s : State) : Out :=
  laneMap f (fun c e l =>
    perPart3 (lanePartsT f) (eFma (tyFmt f.t.toNat) (laneRnd c e l) (laneFlush e) sub)
      (c.gang.getW l f.a.toNat) (opB c.gang f l) (c.gang.getW l f.c.toNat)) s

/-- ffma (R204). -/
def execFfma (f : LaneF) (s : State) : Out := laneFmaOp f false s
/-- ffms (R204). -/
def execFfms (f : LaneF) (s : State) : Out := laneFmaOp f true s
/-- fabs (R204). -/
def execFabs (f : LaneF) (s : State) : Out := laneBin f (fun k _ fl a _ => (eAbs k fl a, {})) s
/-- fneg (R204). -/
def execFneg (f : LaneF) (s : State) : Out := laneBin f (fun k _ fl a _ => (eNeg k fl a, {})) s

/-- A transcendental of R72 on the FP32 operand; stochastic rounding counts as RNE there. -/
def laneTrans (f : LaneF) (op : Rnd → Bool → FVal → Nat × FFlags) (s : State) : Out :=
  laneMap f (fun c e l =>
    let r := op (laneRnd c e l).noSr (laneFlush e) (NumFmt.fp32.read (laneFlush e) (c.gang.getW l f.a.toNat).toNat)
    (BitVec.ofNat 32 r.1, r.2)) s

/-- frcp (R72). -/
def execFrcp (f : LaneF) (s : State) : Out := laneTrans f fRcp s
/-- frsq (R72). -/
def execFrsq (f : LaneF) (s : State) : Out := laneTrans f fRsq s
/-- fexp2 (R72). -/
def execFexp2 (f : LaneF) (s : State) : Out := laneTrans f fExp2 s
/-- flog2 (R72). -/
def execFlog2 (f : LaneF) (s : State) : Out := laneTrans f fLog2 s

/-! ## Compare, select, convert (R205, R206) -/

/-- A comparison's destination: all ones or zero in w[D], or the predicate lp[D] (R205). -/
def laneCmp (f : LaneF) (hold : Ctx → LaneEntry → Nat → Bool) (s : State) : Out :=
  laneOp false (fun c e s =>
    let ls := activeLanes c f e
    let g := fun (g : Gang) =>
      if f.pw = 1 then g.setPred ls (f.d.toNat % 8) (hold c e)
      else g.setLanes ls f.d.toNat (fun l => if hold c e l then 0xFFFFFFFF else 0)
    s.laneDone c e g {}) s

/-- fcmp.cc (R205). -/
def execFcmp (f : LaneF) (s : State) : Out :=
  laneCmp f (fun c e l => eCmp f.f0.toNat (laneFlush e) (c.gang.getW l f.a.toNat).toNat (opB c.gang f l).toNat) s

/-- fsel: A where lp[N] is set, else B (R205). -/
def execFsel (f : LaneF) (s : State) : Out :=
  laneMapI f (fun c _ l =>
    if (c.gang.getLp (f.f0.toNat % 8)).getLsbD l then c.gang.getW l f.a.toNat else opB c.gang f l) s

/-- cvt.src.dst (R206, R163). -/
def execCvt (f : LaneF) (s : State) : Out :=
  laneMap f (fun c e l =>
    match NumFmt.ofCode (f.f8.toNat % 16), NumFmt.ofCode f.f0.toNat with
    | some src, some dst =>
      cvtLane src dst (perLane (f.f8.toNat % 16)) (perLane f.f0.toNat) (f.f8.toNat / 16) (laneRnd c e)
        (fmtSatf e.fmt.toNat) (laneFlush e) (fun k => c.gang.getW k f.a.toNat) (c.gang.getW l f.d.toNat) l
        (if c.desc.legacy then 16 else 32)
    | _, _ => (c.gang.getW l f.d.toNat, {})) s

/-! ## Integers and bits (R207 to R209) -/

/-- The integer of a lane value by T: signed for 3, unsigned for 4. -/
def tInt (f : LaneF) (v : W32) : Int := if f.t = 3 then v.toInt else (v.toNat : Int)

/-- A sum or difference clamped to the range of T, with SAT, or wrapped. -/
def satResult (f : LaneF) (x : Int) : W32 × FFlags :=
  let lo : Int := if f.t = 3 then -(2 ^ 31) else 0
  let hi : Int := if f.t = 3 then 2 ^ 31 - 1 else 2 ^ 32 - 1
  if f.f0 = 1 then
    if x < lo then (BitVec.ofInt 32 lo, { sat := true })
    else if hi < x then (BitVec.ofInt 32 hi, { sat := true })
    else (BitVec.ofInt 32 x, {})
  else (BitVec.ofInt 32 x, {})

/-- A binary integer operation on lanes. -/
def laneInt2 (f : LaneF) (op : W32 → W32 → W32) (s : State) : Out :=
  laneMapI f (fun c _ l => op (c.gang.getW l f.a.toNat) (opB c.gang f l)) s

/-- iadd (R207). -/
def execIadd (f : LaneF) (s : State) : Out :=
  laneMap f (fun c _ l => satResult f (tInt f (c.gang.getW l f.a.toNat) + tInt f (opB c.gang f l))) s
/-- isub (R207). -/
def execIsub (f : LaneF) (s : State) : Out :=
  laneMap f (fun c _ l => satResult f (tInt f (c.gang.getW l f.a.toNat) - tInt f (opB c.gang f l))) s
/-- imul: low 32 bits (R207). -/
def execImul (f : LaneF) (s : State) : Out := laneInt2 f (fun a b => a * b) s
/-- imulh: high 32 bits by T (R207). -/
def execImulh (f : LaneF) (s : State) : Out :=
  laneInt2 f (fun a b => BitVec.ofInt 32 (tInt f a * tInt f b / 2 ^ 32)) s
/-- imin by T (R207). -/
def execImin (f : LaneF) (s : State) : Out := laneInt2 f (fun a b => if tInt f b < tInt f a then b else a) s
/-- imax by T (R207). -/
def execImax (f : LaneF) (s : State) : Out := laneInt2 f (fun a b => if tInt f a < tInt f b then b else a) s
/-- iand (R207). -/
def execIand (f : LaneF) (s : State) : Out := laneInt2 f (fun a b => a &&& b) s
/-- ior (R207). -/
def execIor (f : LaneF) (s : State) : Out := laneInt2 f (fun a b => a ||| b) s
/-- ixor (R207). -/
def execIxor (f : LaneF) (s : State) : Out := laneInt2 f (fun a b => a ^^^ b) s
/-- ishl by B[4:0] (R207). -/
def execIshl (f : LaneF) (s : State) : Out := laneInt2 f (fun a b => a <<< (b.toNat % 32)) s
/-- ishr by B[4:0], zero fill (R207). -/
def execIshr (f : LaneF) (s : State) : Out := laneInt2 f (fun a b => a >>> (b.toNat % 32)) s
/-- isra by B[4:0], sign fill (R207). -/
def execIsra (f : LaneF) (s : State) : Out := laneInt2 f (fun a b => a.sshiftRight (b.toNat % 32)) s
/-- icmp.cc (R207). -/
def execIcmp (f : LaneF) (s : State) : Out :=
  laneCmp f (fun c _ l => iCmp f.f0.toNat (tInt f (c.gang.getW l f.a.toNat)) (tInt f (opB c.gang f l))) s
/-- popc (R207). -/
def execPopc (f : LaneF) (s : State) : Out :=
  laneMapI f (fun c _ l => BitVec.ofNat 32 (popcount 32 (c.gang.getW l f.a.toNat).toNat)) s

/-- Leading zero bits of a 32-bit value. -/
def clz32 (v : W32) : Nat := ((span 0 32).find? (fun i => v.getLsbD (31 - i))).getD 32

/-- clz: 32 for zero (R207). -/
def execClz (f : LaneF) (s : State) : Out :=
  laneMapI f (fun c _ l => BitVec.ofNat 32 (clz32 (c.gang.getW l f.a.toNat))) s

/-- Byte selection of R208 from the eight bytes of A and B. -/
def bpermVal (a b : W32) (sel : Nat) : W32 :=
  let p := a.toNat + b.toNat * 2 ^ 32
  BitVec.ofNat 32 (leNat ((span 0 4).map (fun j =>
    let n := fld sel (4 * j + 3) (4 * j)
    if 8 ≤ n then 0 else BitVec.ofNat 8 (p / 2 ^ (8 * n)))))

/-- bperm (R208). -/
def execBperm (f : LaneF) (s : State) : Out :=
  laneMapI f (fun c _ l =>
    bpermVal (c.gang.getW l f.a.toNat) (c.gang.getW l f.b.toNat)
      (if f.f0 = 1 then f.imm.toNat else (c.gang.getW l f.c.toNat).toNat)) s

/-- Position and length of a bit field (R209). -/
def bfPos (v : W32) : Nat := v.toNat % 32
def bfLen (v : W32) : Nat := min (fld v.toNat 13 8) (32 - bfPos v)

/-- The extracted field. -/
def bfxVal (signed : Bool) (a v : W32) : W32 :=
  let len := bfLen v
  if len = 0 then 0
  else
    let x := fld a.toNat (bfPos v + len - 1) (bfPos v)
    if signed then BitVec.ofInt 32 (sx len x) else BitVec.ofNat 32 x

/-- The inserted field. -/
def bfiVal (d a v : W32) : W32 :=
  let len := bfLen v
  if len = 0 then d else BitVec.ofNat 32 (setFld d.toNat (bfPos v + len - 1) (bfPos v) a.toNat)

/-- bfx (R209). -/
def execBfx (f : LaneF) (s : State) : Out :=
  laneMapI f (fun c _ l => bfxVal (f.t == 3) (c.gang.getW l f.a.toNat) (opB c.gang f l)) s

/-- bfi (R209). -/
def execBfi (f : LaneF) (s : State) : Out :=
  laneMapI f (fun c _ l => bfiVal (c.gang.getW l f.d.toNat) (c.gang.getW l f.a.toNat) (opB c.gang f l)) s

/-! ## Cross-lane (R210 to R212) -/

/-- The source lane of shfl; none where the lane keeps its own value (R210). -/
def shflSrc (legacy : Bool) (sl : W32) (mode l n : Nat) : Option Nat :=
  let src : Int := match mode with
    | 0 => n
    | 1 => (l : Int) - n
    | 2 => l + n
    | _ => Nat.xor l n
  let src := if legacy ∧ 16 ≤ src ∧ src ≤ 31 then src - 16 else src
  if src < 0 ∨ 31 < src ∨ sl.getLsbD src.toNat = false then none else some src.toNat

/-- shfl.mode (R210). -/
def execShfl (f : LaneF) (s : State) : Out :=
  laneMapI f (fun c _ l =>
    c.gang.getW ((shflSrc c.desc.legacy (sliceMask c.th.slices) f.f0.toNat l ((opB c.gang f l).toNat % 32)).getD l)
      f.a.toNat) s

/-- bcast and bcast.lead (R211). -/
def execBcast (f : LaneF) (s : State) : Out :=
  laneMapI f (fun c e l =>
    let k := if f.f0 = 1 then (activeLanes c f e).headD 0 else f.imm.toNat % 32
    let k := if c.desc.legacy ∧ 16 ≤ k then k - 16 else k
    c.gang.getW (if (sliceMask c.th.slices).getLsbD k then k else l) f.a.toNat) s

/-- vote.mode (R212). -/
def execVote (f : LaneF) (s : State) : Out :=
  laneOp false (fun c e s =>
    let ls := activeLanes c f e
    let v := ls.filter (fun l => (c.gang.getLp (f.a.toNat % 8)).getLsbD l)
    let d := f.d.toNat
    let g := fun (g : Gang) =>
      match f.f0.toNat with
      | 0 => g.setPred ls (d % 8) (fun _ => v != [])
      | 1 => g.setPred ls (d % 8) (fun _ => v == ls)
      | 2 => g.setLanes ls d (fun _ => maskOf v)
      | _ => g.setPred ls (d % 8) (fun l => v.head? == some l)
    s.laneDone c e g {}) s

/-! ## Noise (R221) -/

/-- The counter of lane l: w[B] above w[A]. -/
def noiseCtr (c : Ctx) (f : LaneF) (l : Nat) : Nat :=
  (c.gang.getW l f.b.toNat).toNat * 2 ^ 32 + (c.gang.getW l f.a.toNat).toNat

/-- gumbel (R71, R221). -/
def execGumbel (f : LaneF) (s : State) : Out :=
  laneMapI f (fun c e l => BitVec.ofNat 32 (gumbelBits e.xop.toNat (noiseCtr c f l))) s

/-- nhash: the two halves of the hash in w[D] and w[D + 1]. -/
def execNhash (f : LaneF) (s : State) : Out :=
  laneOp false (fun c e s =>
    let ls := activeLanes c f e
    let h := fun l => hash64 e.xop.toNat (noiseCtr c f l)
    let g := fun (g : Gang) =>
      (g.setLanes ls f.d.toNat (fun l => BitVec.ofNat 32 (h l))).setLanes ls (f.d.toNat + 1)
        (fun l => BitVec.ofNat 32 (h l / 2 ^ 32))
    s.laneDone c e g {}) s

/-! ## Accumulator moves (R225) -/

/-- lacc.rd wD, hN. -/
def execLaccRd (f : LaneF) (s : State) : Out :=
  laneOp true (fun c e s =>
    s.laneDone c e (fun g => g.setLanes (activeLanes c f e) f.d.toNat (fun l => c.gang.getH (f.f0.toNat % 2) l)) {}) s

/-- lacc.wr hN, wA. -/
def execLaccWr (f : LaneF) (s : State) : Out :=
  laneOp true (fun c e s =>
    s.laneDone c e (fun g =>
      (activeLanes c f e).foldl (fun a l => a.setH (f.f0.toNat % 2) l (c.gang.getW l f.a.toNat)) g) {}) s

/-! ## Retired opcodes (R125)

The enqueue never lets one into a lane queue (R173): with a live lane the sub-gang parks and management firmware
emulates it through the state words (R303). These are the effects it emulates, on the lanes of an entry. -/

/-- A retired instruction's effect on w[D], lane by lane. -/
def retiredOp (f : LaneF) (val : Bool → Nat → Nat → Nat → Nat → FVal × FFlags) (s : State) : Out :=
  laneMap f (fun c e l =>
    let w := fun n => (c.gang.getW l n).toNat
    let r := val (laneFlush e) (w f.d.toNat) (w f.a.toNat) (w f.b.toNat) (w f.c.toNat)
    let q := deliver .fp32 .rne (laneFlush e) r.1
    (BitVec.ofNat 32 q.1, r.2.or q.2)) s

/-- The exact value of hdot2: the two FP16 products and D. -/
def hdot2Val (fl : Bool) (d a b _c : Nat) : FVal × FFlags :=
  let h := fun v => NumFmt.fp16.read fl v
  let p := fMul (h (fld a 15 0)) (h (fld b 15 0))
  let q := fMul (h (fld a 31 16)) (h (fld b 31 16))
  let x := fAdd .rne p.1 q.1
  let y := fAdd .rne x.1 (NumFmt.fp32.read fl d)
  (y.1, p.2.or (q.2.or (x.2.or y.2)))

/-- The exact value of lerp: A + C × (B - A). -/
def lerpVal (fl : Bool) (_d a b c : Nat) : FVal × FFlags :=
  let x := NumFmt.fp32.read fl a
  let t := fAdd .rne (NumFmt.fp32.read fl b) x.neg
  let r := fFma .rne (NumFmt.fp32.read fl c) t.1 x
  (r.1, t.2.or r.2)

/-- hdot2 (R125). -/
def execHdot2 (f : LaneF) (s : State) : Out := retiredOp f hdot2Val s
/-- lerp (R125). -/
def execLerp (f : LaneF) (s : State) : Out := retiredOp f lerpVal s
/-- isad: D + |A - B| modulo 2^32 (R125). -/
def execIsad (f : LaneF) (s : State) : Out :=
  laneMapI f (fun c _ l =>
    let w := fun n => c.gang.getW l n
    BitVec.ofInt 32 ((w f.d.toNat).toInt + ((w f.a.toNat).toInt - (w f.b.toNat).toInt).natAbs)) s

end Sys2Proof.Machine
end

