-- ==== Sys2Proof/Machine/LaneMem.lean ====
section
/-! DEFINITION. Lane faults (R183, R202), lane loads and stores, load-blocks and lane atomics (R213 to R220). -/

namespace Sys2Proof.Machine

/-! ## Lane faults -/

/-- Why a lane's access fails. -/
inductive LErr where
  | misaligned
  | unbound
  | mem (e : MErr)
  deriving DecidableEq, Repr

/-- The place in the order of R202: misaligned, access or unbound, translation, uncorrectable; a failed fabric
read stands after them. -/
def LErr.rank : LErr → Nat
  | .misaligned => 1
  | .unbound => 2
  | .mem .access => 2
  | .mem .stray => 2
  | .mem (.fault _) => 3
  | .mem .uncorr => 4
  | _ => 5

/-- The failed access of a lane, as it counts (R357). -/
def LErr.err : LErr → MErr
  | .mem e => e
  | _ => .access

def LErr.cause : LErr → Nat
  | .misaligned => 0x06
  | .unbound => 0x08
  | .mem e => merrCause e

/-- A scalar command that has issued and not completed, which a lane fault lets complete first (R183): a wait for a handle,
or an atomic sent to another device. -/
def State.scalarBusy (s : State) (c : Ctx) : Bool :=
  c.th.wait == .issued || (c.th.wait == .acq && s.swapSent c.iss c.sg) || s.remoteOps.any (fun r => r.who == c.iss && r.sg == c.sg && r.atomic && (!r.answered || r.ok))

/-- A lane fault in the head entry (R183): it and every younger entry are saved; their places in the matrix
queue are given up; a scalar command already issued completes first; TEPC is the scalar position, within an unfinished
lane.iss when one is under way. A posted entry failure comes before it (R292; log entry 63). -/
def State.laneTrap (s : State) (c : Ctx) (e : LaneEntry) (cause lane : Nat) (mask : W32) (addr : W64) : Out :=
  if s.scalarBusy c then s.wait
  else
  let s := c.th.lq.foldl (fun s x => if x.uid = 0 then s else s.qRemoveUid c.iss x.uid) s
  match c.dueFailures with
  | p :: rest => .next (s.takePosted c p rest c.th.lq)
  | [] =>
    .next (s.takeTrap c {
      cause := cause, lane := lane, lq := true, tepc := c.th.pc, tlpc := c.th.lpc, tiss := c.th.issRem
      taddr := addr, tmaskr := mask, tenq := e.pc, saved := c.th.lq
      tiw := [BitVec.ofNat 32 e.word.toNat, BitVec.ofNat 32 (e.word.toNat / 2 ^ 32), BitVec.ofNat 32 (e.word.toNat / 2 ^ 64)] })

/-- The fault taken among failing lanes (lane, address, reason): the earliest in R202's order; TMASKR holds the
lanes with that cause, TADDR the lowest one's address. -/
def State.laneFault (s : State) (c : Ctx) (e : LaneEntry) (errs : List (Nat × W64 × LErr)) : Out :=
  match errs with
  | [] => s.wait
  | h :: t =>
    let first := t.foldl (fun b x => if x.2.2.rank < b.2.2.rank then x else b) h
    let same := errs.filter (fun x => x.2.2.rank == first.2.2.rank)
    let low := same.headD first
    let s := if s.scalarBusy c then s else same.foldl (fun s x => s.countErr x.2.2.err) s
    s.laneTrap c e low.2.2.cause low.1 (maskOf (same.map Prod.fst)) low.2.1

/-- The access performs at the home: strong, at die scope or wider (R85). -/
def laneWide (f : LaneF) : Bool := memStrong f = 1 && 3 ≤ memSc f

/-- The lanes of an instruction with the place each names, or why it names none (R213). -/
def State.laneLocs (s : State) (c : Ctx) (f : LaneF) (e : LaneEntry) (z : Nat) (wr wide : Bool) :
    List (Nat × W64 × Except LErr Loc) :=
  (activeLanes c f e).map (fun l =>
    let a := laneAddr c.gang f e.xop l
    (l, a,
      if a.toNat % z ≠ 0 then .error .misaligned
      else match if wide then s.translate c.part a.toNat wr else s.translateL1 c.part a.toNat wr with
        | .ok (.reg _) => .error (.mem .access)
        | .ok x => .ok x
        | .error x => .error (.mem x)))

/-- The failures among lane results. -/
def laneErrs {α : Type} (rs : List (Nat × W64 × Except LErr α)) : List (Nat × W64 × LErr) :=
  rs.filterMap (fun r => match r.2.2 with | .error x => some (r.1, r.2.1, x) | .ok _ => none)

/-- The values of lanes that succeeded. -/
def laneVals {α : Type} (rs : List (Nat × W64 × Except LErr α)) : List (Nat × α) :=
  rs.filterMap (fun r => match r.2.2 with | .ok x => some (r.1, x) | .error _ => none)

def laneWaits {α : Type} (rs : List (Nat × W64 × Except LErr α)) : Bool :=
  rs.any (fun r => match r.2.2 with | .error (.mem .wait) => true | _ => false)

/-! ## lld and lst (R214) -/

/-- A strong access that performs at the home (R85). -/
def laneHome (f : LaneF) (l : Loc) : Bool := memStrong f == 1 && atHome (memSc f) l

/-- One lane's bytes: at the home for a strong access at die scope or wider or on another device, else from the copies
present (R85). -/
def State.laneRead (s : State) (c : Ctx) (f : LaneF) (l : Loc) (z : Nat) : State × Except MErr (List Byte) :=
  if laneHome f l then s.homeLoad c.iss c.ref.core c.laneSg l z (memOrd f == 1)
  else s.weakPeek c.iss c.laneSg c.ref.core l z (memHint f) (memStrong f == 1)

/-- Every lane's bytes, in increasing lane order; the state carries what the reads did to L1. -/
def State.laneReads (s : State) (c : Ctx) (f : LaneF) (z : Nat) :
    List (Nat × W64 × Loc) → State × List (Nat × W64 × Except LErr (List Byte))
  | [] => (s, [])
  | (l, a, loc) :: t =>
    let r := s.laneRead c f loc z
    let r2 := r.1.laneReads c f z t
    (r2.1, (l, a, match r.2 with | .ok b => .ok b | .error x => .error (.mem x)) :: r2.2)

/-- The failures of lanes, waits for replies and fills apart. -/
def laneFails {α : Type} (rs : List (Nat × W64 × Except LErr α)) : List (Nat × W64 × LErr) :=
  (laneErrs rs).filter (fun x => x.2.2 != .mem .wait)

/-- The failures of every lane of a load (R202): a lane that names a place is read, the state as it was, since an error of its
home may come before the others' in the order. -/
def loadErrs (locs : List (Nat × W64 × Except LErr Loc)) (rs : List (Nat × W64 × Except LErr (List Byte))) :
    List (Nat × W64 × LErr) :=
  sortBy Prod.fst (laneFails locs ++ laneFails rs)

/-- The lanes and places, when no lane fails. -/
def lanePlaces (rs : List (Nat × W64 × Except LErr Loc)) : List (Nat × W64 × Loc) :=
  rs.filterMap (fun r => match r.2.2 with | .ok x => some (r.1, r.2.1, x) | .error _ => none)

/-- lld: each active lane's bytes into w[D] (R214). -/
def execLld (f : LaneF) (s : State) : Out :=
  laneOp false (fun c e s =>
    let z := szBytes (memSz f)
    let locs := s.laneLocs c f e z false (laneWide f)
    let ps := lanePlaces locs
    let r := s.laneReads c f z ps
    if laneFails locs ≠ [] then s.laneFault c e (loadErrs locs r.2)
    else if laneWaits locs then s.wait
    else if laneWaits r.2 then .next r.1
    else if laneErrs r.2 ≠ [] then s.laneFault c e (laneErrs r.2)
    else
      let lines := ps.foldl (fun a p => if laneHome f p.2.2 then a else insKey p.2.2.line a) []
      let s := lines.foldl (fun s k => s.countTouch c.ref.core k) r.1
      let s := if memStrong f = 1 ∧ memOrd f = 1 then s.acquire c.ref.core (memSc f) else s
      let s := s.clearRemote c.iss c.laneSg
      s.laneDone c e (fun g => (laneVals r.2).foldl (fun g x => loadLane g f x.1 x.2) g) {}) s

/-- One lane's store: at the home, or into L1 (R81, R85). -/
def State.laneWrite (s : State) (c : Ctx) (f : LaneF) (l : Loc) (bs : List Byte) : State :=
  match l with
  | .reg _ => s
  | l =>
    if laneHome f l then (s.flushLine c.ref.core l.line).writeLoc c.iss l bs c.laneSg
    else s.weakWrite c.iss c.laneSg c.ref.core l bs

/-- The other devices that a list of places names. -/
def placeDevs (ps : List (Nat × W64 × Loc)) : List Nat := ps.filterMap (fun p => p.2.2.dev)

/-- A lane release that met a failed link traps with cause 0x12 at the lanes given; the failure stands until then (R104). -/
def State.laneRelTrap (s t : State) (c : Ctx) (e : LaneEntry) (ps : List (Nat × W64 × Loc)) : Out :=
  if s.scalarBusy c then s.wait
  else t.laneTrap c e 0x12 (ps.map Prod.fst |>.headD 0xFF) (maskOf (ps.map Prod.fst)) ((ps.map (fun p => p.2.1)).headD 0)

/-- lst: each active lane's bytes, the highest lane last (R214); a release first writes back L1 and gathers its flush
markers (R87, R103). -/
def execLst (f : LaneF) (s : State) : Out :=
  laneOp false (fun c e s =>
    let z := szBytes (memSz f)
    let locs := s.laneLocs c f e z true (laneWide f)
    if laneFails locs ≠ [] then s.laneFault c e (laneFails locs)
    else if laneWaits locs then s.wait
    else
      let ps := lanePlaces locs
      match if memStrong f = 1 ∧ memOrd f = 2 then s.releaseGate c (memSc f) (placeDevs ps) c.laneSg else (s, .done) with
      | (t, .wait) => .next t
      | (t, .error) => s.laneRelTrap t c e ps
      | (t, .done) =>
        let u := ps.foldl (fun s p => s.laneWrite c f p.2.2 (laneData c.gang p.1 f.b.toNat z)) t
        u.laneDone c e id {}) s

/-! ## Core memory (R78, R215) -/

def Crew.cmemBytes (cr : Crew) : Nat := cr.cmemKiB * 1024
/-- Wholly inside core memory (R74). -/
def Crew.cmemOk (cr : Crew) (a n : Nat) : Bool := a + n ≤ cr.cmemBytes
def Crew.cmemRead (cr : Crew) (a n : Nat) : List Byte := SMap.getN 0 cr.cmem a n
def Crew.cmemWrite (cr : Crew) (a : Nat) (bs : List Byte) : Crew := { cr with cmem := SMap.setN 0 cr.cmem a bs }

/-- Lanes with their core-memory addresses, or why they fail. -/
def cmemLanes (c : Ctx) (f : LaneF) (e : LaneEntry) (z : Nat) : List (Nat × W64 × Except LErr Loc) :=
  (activeLanes c f e).map (fun l =>
    let a := laneAddr c.gang f e.xop l
    (l, a, if a.toNat % z ≠ 0 then .error .misaligned
      else if c.crew.cmemOk a.toNat z then .ok (.hbm a.toNat) else .error (.mem .access)))

/-- lldc (R215). -/
def execLldc (f : LaneF) (s : State) : Out :=
  laneOp false (fun c e s =>
    let z := szBytes (memSz f)
    let rs := cmemLanes c f e z
    if laneErrs rs ≠ [] then s.laneFault c e (laneErrs rs)
    else s.laneDone c e (fun g =>
      (lanePlaces rs).foldl (fun g p => loadLane g f p.1 (c.crew.cmemRead p.2.1.toNat z)) g) {}) s

/-- lstc (R215). -/
def execLstc (f : LaneF) (s : State) : Out :=
  laneOp false (fun c e s =>
    let z := szBytes (memSz f)
    let rs := cmemLanes c f e z
    if laneErrs rs ≠ [] then s.laneFault c e (laneErrs rs)
    else
      let s := s.updCrew c.ref.core c.gang.crew (fun cr =>
        (lanePlaces rs).foldl (fun cr p => cr.cmemWrite p.2.1.toNat (laneData c.gang p.1 f.b.toNat z)) cr)
      s.laneDone c e id {}) s

/-! ## Parameter windows (R79, R216) -/

/-- Bytes of window (base, size) at an offset for a launch, through the window cache of the die: those below the size from
device memory, as they were or are, zeros above (R79). -/
def State.windowRead (s : State) (who : Issuer) (p : Nat) (w : Nat × Nat) (a z sg die launch : Nat) :
    State × Except (MErr × Nat) (List Byte) :=
  let n := if w.2 ≤ a then 0 else min z (w.2 - a)
  if n = 0 then (s, .ok (zeros z))
  else
    match s.roRead who p (w.1 + a) n sg (256 + die) launch with
    | (s, .ok bs) => (s, .ok (bs ++ zeros (z - n)))
    | r => r

def State.winReads (s : State) (c : Ctx) (w : Nat × Nat) (z : Nat) :
    List (Nat × W64) → State × List (Nat × W64 × Except LErr (List Byte))
  | [] => (s, [])
  | (l, a) :: t =>
    let r : State × Except LErr (List Byte) :=
      if a.toNat % z ≠ 0 then (s, .error .misaligned)
      else match s.windowRead c.iss c.part w a.toNat z c.laneSg (unitDie c.ref.core) c.crew.launch with
        | (s, .ok bs) => (s, .ok bs)
        | (s, .error x) => (s, .error (.mem x.1))
    let r2 := r.1.winReads c w z t
    (r2.1, (l, a, r.2) :: r2.2)

/-- lldp wD, n: a window read; one beyond the size sets PWB and PWIN (R79, R80, R216). -/
def execLldp (f : LaneF) (s : State) : Out :=
  laneOp false (fun c e s =>
    let z := szBytes (memSz f)
    let win := f.f8.toNat % 8
    let w := c.desc.pwin.getD win (0, 0)
    let ls := (activeLanes c f e).map (fun l => (l, laneAddr c.gang f e.xop l))
    if w.2 = 0 then
      (if ls = [] then s.laneDone c e id {}
       else s.laneFault c e (ls.map (fun x => (x.1, x.2, if x.2.toNat % z ≠ 0 then .misaligned else .unbound))))
    else
      let r := s.winReads c w z ls
      if laneWaits r.2 then .next r.1
      else if laneErrs r.2 ≠ [] then s.laneFault c e (laneErrs r.2)
      else
        let beyond := ls.any (fun x => w.2 < x.2.toNat + z)
        let c' := if beyond then { c with th := { c.th with msts := BitVec.ofNat 32 (mstsPwb c.th.msts.toNat win) } } else c
        let s := if beyond then r.1.heat (.msts c.thread) 16 else r.1
        (s.clearRemote c.iss c.laneSg).laneDone c' e (fun g => (laneVals r.2).foldl (fun g x => loadLane g f x.1 x.2) g) {}) s

/-! ## Load-blocks (R82, R217) -/

/-- The least recently used blocks leave until n more lines fit in 768 (R82). -/
def State.blockRoom (s : State) (c n : Nat) : Nat → State
  | 0 => s
  | fuel + 1 =>
    let bs := (s.core c).blocks
    if bs.foldl (fun a b => a + b.2.lines.length) 0 + n ≤ 768 then s
    else
      match bs with
      | [] => s
      | h :: t => (s.dropBlock c (t.foldl (fun b x => if x.2.used < b.2.used then x else b) h).1).blockRoom c n fuel

/-- Plain lines leave until n more lines fit in L1 (R81). -/
def State.lineRoom (s : State) (c n : Nat) : Nat → State
  | 0 => s
  | fuel + 1 =>
    if (s.core c).l1.length + n ≤ 1024 then s
    else
      match (s.core c).l1.filter (fun e => e.2.blk == 0) with
      | [] => s
      | h :: t => (s.evict c (t.foldl (fun b e => if b.2.pos < e.2.pos then e else b) h).1).lineRoom c n fuel

/-- A block of lines under one tag, its fill outstanding; lines and blocks it overlaps leave first (R82). -/
def State.addBlock (s : State) (c : Nat) (lines : List Nat) (hint : Nat) : State :=
  let s := lines.foldl (fun s k => s.flushLine c k) s
  let s := (s.blockRoom c lines.length 65).lineRoom c lines.length 1025
  let key := s.seq
  let e := s.core c
  { s.setCore c { e with
      blocks := alPut e.blocks key { lines := lines, reads := hintReads hint, pos := hintPos hint, used := s.draws }
      l1 := lines.foldl (fun m k => SMap.set {} m k { blk := key, pos := hintPos hint }) e.l1 } with seq := s.seq + 1 }

/-- The locations of n lines from a virtual address, or the first failing address with its own cause, where the lines fail with
different causes (R217): DESIGN CHOICE (log entry 100). -/
def State.blockLocs (s : State) (p : Nat) : Nat → Nat → Except (LErr × Nat) (List Nat)
  | _, 0 => .ok []
  | va, n + 1 =>
    match s.translateL1 p va false with
    | .error x => .error (.mem x, va)
    | .ok (.reg _) => .error (.mem .access, va)
    | .ok l =>
      match s.blockLocs p (va + 128) n with
      | .error x => .error x
      | .ok r => .ok (l.line :: r)

/-- lblk n, [xC + off]: one load-block, when any lane is active. -/
def execLblk (f : LaneF) (s : State) : Out :=
  laneOp false (fun c e s =>
    let ls := activeLanes c f e
    let b := e.xop + f.imm.signExtend 64
    if ls = [] then s.laneDone c e id {}
    else if b.toNat % 128 ≠ 0 then s.laneFault c e (ls.map (fun l => (l, b, .misaligned)))
    else
      match s.blockLocs c.part b.toNat (f.f8.toNat % 64 + 1) with
      | .error x => if x.1 = .mem .wait then s.wait else s.laneFault c e (ls.map (fun l => (l, BitVec.ofNat 64 x.2, x.1)))
      | .ok lines => (s.addBlock c.ref.core lines (memHint f)).laneDone c e id {}) s

/-! ## Atomics (R218 to R220) -/

inductive AtomOp where
  | add | min | max | and | or | xor | xchg | cas | maxvi
  deriving DecidableEq, Repr

/-- The key of a value and index pair (R220). -/
def viKey (v i : Nat) : Nat :=
  let nan := 0x7F800000 < v % 2 ^ 31
  let hi := if nan then 0 else if 2 ^ 31 ≤ v then 2 ^ 32 - 1 - v else v + 2 ^ 31
  hi * 2 ^ 32 + (2 ^ 32 - 1 - i)

/-- The new value, or none where nothing is written (R219). T is 0 for FP32, 3 signed, 4 unsigned. -/
def atomNew (op : AtomOp) (t z old b d : Nat) : Option Nat :=
  let m := 2 ^ (8 * z)
  let lt := fun x y => if t = 3 then decide (sx (8 * z) x < sx (8 * z) y) else decide (x < y)
  match op with
  | .add => some (if t = 0 then (eAdd .fp32 .rne false old b).1 else (old + b) % m)
  | .min => some (if t = 0 then eMinMax .fp32 false false old b else if lt b old then b else old)
  | .max => some (if t = 0 then eMinMax .fp32 false true old b else if lt old b then b else old)
  | .and => some (Nat.land old b)
  | .or => some (Nat.lor old b)
  | .xor => some (Nat.xor old b)
  | .xchg => some b
  | .cas => if old = d then some b else none
  | .maxvi => let k := viKey (b % 2 ^ 32) (b / 2 ^ 32); if old < k then some k else none

/-- A lane's operand of z bytes from register n. -/
def laneNum (g : Gang) (l n z : Nat) : Nat := leNat (laneData g l n z)

/-- The old value at a local location and the state with the new one, at the access's point (R85). -/
def State.atomLocal (s : State) (c : Ctx) (sg sc k z : Nat) (nw : Nat → Option Nat) : State × Except MErr (List Byte) :=
  if 3 ≤ sc then
    let s := s.flushLine c.ref.core (k / 128)
    if s.marked k z then (s, .error .uncorr)
    else
      let old := s.readBytes k z
      (match nw (leNat old) with
       | some v => (s.writeBytes k (leBytes z v), .ok old)
       | none => (s, .ok old))
  else
    match s.weakRead c.iss sg c.ref.core (.hbm k) z 0 true with
    | (s, .ok old) =>
      (match nw (leNat old) with
       | some v => (s.weakWrite c.iss sg c.ref.core (.hbm k) (leBytes z v), .ok old)
       | none => (s, .ok old))
    | r => r

/-- The tag that keeps the remote atomics of one instruction's lanes apart. -/
def laneTag (c : Ctx) (l : Nat) : Nat := c.sg + 128 * (l + 1)

/-- Remote atomics of the lanes, one after another in lane order: each is sent when those before it have been
answered. -/
def State.atomRemote (s : State) (c : Ctx) (z : Nat) (payload : Nat → List Byte) :
    List (Nat × W64 × Loc) → State × List (Nat × W64 × Except LErr (List Byte))
  | [] => (s, [])
  | (l, a, .remote dev pa) :: t =>
    match (s.flushLine c.ref.core (Loc.remote dev pa).line).remoteAtomic c.iss (laneTag c l) dev pa z (payload l) with
    | (s, .error .wait) => (s, [(l, a, .error (.mem .wait))])
    | (s, .error x) =>
      let r := s.atomRemote c z payload t
      (r.1, (l, a, .error (.mem x)) :: r.2)
    | (s, .ok b) =>
      let r := s.atomRemote c z payload t
      (r.1, (l, a, .ok b) :: r.2)
  | _ :: t => s.atomRemote c z payload t

/-- The local atomics of the lanes in increasing order. -/
def State.atomLocals (s : State) (c : Ctx) (f : LaneF) (z : Nat) (nw : Nat → Nat → Option Nat) :
    List (Nat × W64 × Loc) → State × List (Nat × W64 × Except LErr (List Byte))
  | [] => (s, [])
  | (l, a, .hbm k) :: t =>
    let r := s.atomLocal c c.laneSg (memSc f) k z (nw l)
    let r2 := r.1.atomLocals c f z nw t
    (r2.1, (l, a, match r.2 with | .ok b => .ok b | .error x => .error (.mem x)) :: r2.2)
  | _ :: t => s.atomLocals c f z nw t

/-- Which local lanes of an atomic fail, or wait for a load-block, before any lane performs (R202): nothing changes. -/
def State.atomCheck (s : State) (c : Ctx) (f : LaneF) (z : Nat) (ps : List (Nat × W64 × Loc)) :
    List (Nat × W64 × Except LErr (List Byte)) :=
  ps.filterMap (fun p =>
    match p.2.2 with
    | .hbm k => some (p.1, p.2.1, match (s.atomLocal c c.laneSg (memSc f) k z (fun _ => none)).2 with
        | .ok b => .ok b
        | .error x => .error (.mem x))
    | _ => none)

/-- Lanes on other devices read, each once and all together, before any lane's atomic is sent: one whose access fails is found by
its read (R183, R202; log entry 89). -/
def State.atomProbe (s : State) (c : Ctx) (z : Nat) : List (Nat × W64 × Loc) → State × List (Nat × W64 × Except LErr (List Byte))
  | [] => (s, [])
  | (l, a, .remote dev pa) :: t =>
    let r := s.remoteRead c.iss (laneTag c l) dev pa z false
    let r2 := r.1.atomProbe c z t
    (r2.1, (l, a, match r.2 with | .ok b => .ok b | .error x => .error (.mem x)) :: r2.2)
  | _ :: t => s.atomProbe c z t

/-- An atomic of the instruction has been sent to another device. -/
def State.atomBegun (s : State) (c : Ctx) (ls : List Nat) : Bool :=
  s.remoteOps.any (fun r => r.who == c.iss && r.atomic && ls.any (fun l => r.sg == laneTag c l))

/-- The atomics of the lanes in core memory. -/
def cmemAtoms (z : Nat) (nw : Nat → Nat → Option Nat) : Crew → List (Nat × W64 × Loc) → Crew × List (Nat × List Byte)
  | cr, [] => (cr, [])
  | cr, (l, a, _) :: t =>
    let old := cr.cmemRead a.toNat z
    let cr := match nw l (leNat old) with
      | some v => cr.cmemWrite a.toNat (leBytes z v)
      | none => cr
    let r := cmemAtoms z nw cr t
    (r.1, (l, old) :: r.2)

/-- Write the old values to D (R219). -/
def putOld (f : LaneF) (olds : List (Nat × List Byte)) (g : Gang) : Gang :=
  olds.foldl (fun g x => putLane g x.1 f.d.toNat (chunks 4 8 x.2)) g

/-- The records of a lane atomic are dropped. -/
def State.atomClear (s : State) (c : Ctx) (ls : List Nat) : State :=
  ls.foldl (fun s l => s.clearRemote c.iss (laneTag c l)) s

/-- The failures known of a lane atomic before any lane performs: no address, a local lane whose access fails, a lane on another
device whose read came back with an error. -/
def State.atomErrs (s : State) (c : Ctx) (f : LaneF) (z : Nat) (locs : List (Nat × W64 × Except LErr Loc)) : List (Nat × W64 × LErr) :=
  let ps := lanePlaces locs
  sortBy Prod.fst (laneFails locs ++ laneFails (s.atomCheck c f z ps) ++ laneFails (s.atomProbe c z ps).2)

/-- A lane atomic in device memory, its places good and its release gathered: no lane performs when one fails (R183, R202). The
lanes on other devices perform one after another, and the local lanes with the last reply. -/
def State.atomRun (s : State) (c : Ctx) (f : LaneF) (e : LaneEntry) (nw : Nat → Nat → Option Nat) (ps : List (Nat × W64 × Loc)) : Out :=
  let z := szBytes (memSz f)
  let ls := ps.map Prod.fst
  let pre := if s.atomBegun c ls then [] else s.atomCheck c f z ps
  let probe := if s.atomBegun c ls then (s, []) else s.atomProbe c z ps
  if laneFails pre ++ laneFails probe.2 ≠ [] then s.laneFault c e (sortBy Prod.fst (laneFails pre ++ laneFails probe.2))
  else if laneWaits pre || laneWaits probe.2 then .next probe.1
  else
    let rem := probe.1.atomRemote c z (fun l => laneData c.gang l f.b.toNat z ++ laneData c.gang l f.d.toNat z) ps
    if laneWaits rem.2 then .next rem.1
    else if laneErrs rem.2 ≠ [] then s.laneFault c e (laneErrs rem.2)
    else
      let loc := rem.1.atomLocals c f z nw ps
      if laneWaits loc.2 then .next rem.1
      else if laneErrs loc.2 ≠ [] then s.laneFault c e (laneErrs loc.2)
      else
        let u := if memOrd f = 1 ∨ memOrd f = 3 then loc.1.acquire c.ref.core (memSc f) else loc.1
        (u.atomClear c ls).laneDone c e (putOld f (laneVals loc.2 ++ laneVals rem.2)) {}

/-- A lane atomic (R218): the lanes that name one location perform in increasing lane order. -/
def laneAtomic (op : AtomOp) (f : LaneF) (s : State) : Out :=
  laneOp false (fun c e s =>
    let z := szBytes (memSz f)
    let nw := fun l old => atomNew op f.t.toNat z old (laneNum c.gang l f.b.toNat z) (laneNum c.gang l f.d.toNat z)
    if atomCm f then
      let rs := cmemLanes c f e z
      if laneErrs rs ≠ [] then s.laneFault c e (laneErrs rs)
      else
        let r := cmemAtoms z nw c.crew (lanePlaces rs)
        (s.updCrew c.ref.core c.gang.crew (fun _ => r.1)).laneDone c e (putOld f r.2) {}
    else
      let locs := s.laneLocs c f e z true (3 ≤ memSc f)
      if laneFails locs ≠ [] then s.laneFault c e (s.atomErrs c f z locs)
      else if laneWaits locs then s.wait
      else
        let ps := lanePlaces locs
        let rel := memOrd f = 2 ∨ memOrd f = 3
        match if rel ∧ s.atomBegun c (ps.map Prod.fst) = false then s.releaseGate c (memSc f) (placeDevs ps) c.laneSg else (s, .done) with
        | (t, .wait) => .next t
        | (t, .error) => s.laneRelTrap t c e ps
        | (t, .done) => t.atomRun c f e nw ps) s

/-! ## Scalar accesses behind queued lane accesses (R86, R89) -/

/-- What a lane instruction does in device memory: 1 a load, 2 a store or an atomic, 0 neither. -/
def laneAccess (i : Instr) : Nat :=
  match i with
  | .lld _ => 1
  | .lst _ => 2
  | .aadd f => if atomCm f then 0 else 2
  | .amin f => if atomCm f then 0 else 2
  | .amax f => if atomCm f then 0 else 2
  | .aand f => if atomCm f then 0 else 2
  | .aor f => if atomCm f then 0 else 2
  | .axor f => if atomCm f then 0 else 2
  | .axchg f => if atomCm f then 0 else 2
  | .acas f => if atomCm f then 0 else 2
  | .amaxvi f => if atomCm f then 0 else 2
  | _ => 0

/-- A lane access in device memory is queued before a scalar instruction of the thread, which waits for it: a store or an atomic, or
with loads also a load. A load then reads what the gang's earlier instructions stored, no earlier load sees a later store, and the
stores of both streams stay in program order (R86, R89; log entry 82). -/
def Thread.laneFirst (th : Thread) (loads : Bool) : Bool :=
  th.lq.any (fun e => match decodeLane e.word.toNat with
    | some i => laneAccess i == 2 || (loads && laneAccess i == 1)
    | none => false)

/-- aadd (R219). -/
def execAadd (f : LaneF) (s : State) : Out := laneAtomic .add f s
/-- amin (R219). -/
def execAmin (f : LaneF) (s : State) : Out := laneAtomic .min f s
/-- amax (R219). -/
def execAmax (f : LaneF) (s : State) : Out := laneAtomic .max f s
/-- aand (R219). -/
def execAand (f : LaneF) (s : State) : Out := laneAtomic .and f s
/-- aor (R219). -/
def execAor (f : LaneF) (s : State) : Out := laneAtomic .or f s
/-- axor (R219). -/
def execAxor (f : LaneF) (s : State) : Out := laneAtomic .xor f s
/-- axchg (R219). -/
def execAxchg (f : LaneF) (s : State) : Out := laneAtomic .xchg f s
/-- acas (R219). -/
def execAcas (f : LaneF) (s : State) : Out := laneAtomic .cas f s
/-- amaxvi (R220). -/
def execAmaxvi (f : LaneF) (s : State) : Out := laneAtomic .maxvi f s

end Sys2Proof.Machine
end

