-- ==== Sys2Proof/Machine/Engine.lean ====
section
/-! DEFINITION. Engine commands at issue (R226, R227, R231, R236, R239 to R241): what each reads, the queue it
enters, the ring commands, which perform at issue; and the failure of an entry (R228). -/

namespace Sys2Proof.Machine

/-! ## Ranges of sparse maps -/

/-- n values of a sparse map from key k up. -/
def denseFrom {α : Type} (dflt : Nat → α) : Nat → Nat → SMap α → List α
  | 0, _, _ => []
  | n + 1, k, [] => dflt k :: denseFrom dflt n (k + 1) []
  | n + 1, k, (k', v) :: t => if k' = k then v :: denseFrom dflt n (k + 1) t else dflt k :: denseFrom dflt n (k + 1) ((k', v) :: t)

/-- The sparse map of values at keys from k up. -/
def sparseFrom {α : Type} [DecidableEq α] (dflt : Nat → α) (k : Nat) (vs : List α) : SMap α :=
  ((span k vs.length).zip vs).filter (fun x => x.2 != dflt x.1)

/-! ## Local memory of an issuer: scratchpad or core memory (R73 to R78) -/

/-- An unwritten scratchpad byte: zero, or free since the start of a launch (R77). -/
def padDefault (epoch a : Nat) : Byte := if epoch = 0 then 0 else Config.scratch epoch a
def padSize : Nat := 0x100000
def Tile.padByte (t : Tile) (a : Nat) : Byte := SMap.get (padDefault t.padEpoch a) t.pad a
def Tile.padPut (t : Tile) (a : Nat) (v : Byte) : Tile :=
  { t with pad := SMap.set (padDefault t.padEpoch a) t.pad a v }
def Tile.padRead (t : Tile) (a n : Nat) : List Byte := (span a n).map t.padByte
def Tile.padBytes (t : Tile) (a : Nat) : List Byte → Tile
  | [] => t
  | b :: r => (t.padPut a b).padBytes (a + 1) r

/-- A write of bytes: a granule it covers whole is good again (R107). -/
def Tile.padWrite (t : Tile) (a : Nat) (bs : List Byte) : Tile :=
  { t.padBytes a bs with padBad := t.padBad.filter (fun g => !(a ≤ 32 * g && 32 * g + 32 ≤ a + bs.length)) }

/-- A range of a scratchpad's bytes written at once. -/
def padFill (epoch a : Nat) (bs : List Byte) (m : SMap Byte) : SMap Byte :=
  m.filter (fun x => x.1 < a) ++ sparseFrom (padDefault epoch) a bs ++ m.filter (fun x => a + bs.length ≤ x.1)

/-- The uncorrectable granules that a write leaves: those it does not cover whole (R107). -/
def goodAfter (a n : Nat) (bad : List Nat) : List Nat := bad.filter (fun g => !(a ≤ 32 * g && 32 * g + 32 ≤ a + n))

/-- A queued operation of the matrix queue writes the scratchpad when it performs (R252). A cp.st issued behind it copies
what it wrote, unless the copy has performed before: a junction with the matrix bit orders them (R98, R236). -/
def Tile.matWrite (t : Tile) (seq a : Nat) (bs : List Byte) : Tile :=
  let put := fun (e : QEntry) => match e.cmd with
    | .cpSt _ => if seq < e.seq then
        { e with snap := padFill e.snapEpoch a bs e.snap, snapBad := goodAfter a bs.length e.snapBad } else e
    | _ => e
  { t with
    pad := padFill t.padEpoch a bs t.pad
    padBad := goodAfter a bs.length t.padBad
    q := { t.q with qs := t.q.qs.map (fun x => (x.1, x.2.map put)) } }

/-- The crew of an issuer. -/
def State.crewOf (s : State) (core k : Nat) : Option Crew := alGet (s.core core).crews k

/-- Bytes of local memory; none when the range leaves it, even in part (R74). -/
def State.localRead (s : State) (who : Issuer) (a n : Nat) : Option (List Byte) :=
  match who with
  | .tile e => if a + n ≤ padSize then some ((s.tile e).padRead a n) else none
  | .crew c k =>
    match s.crewOf c k with
    | some cr => if cr.cmemOk a n then some (cr.cmemRead a n) else none
    | none => none
  | .mgmt _ => none

/-- A write of bytes inside local memory; none when the range leaves it. -/
def State.localWrite (s : State) (who : Issuer) (a : Nat) (bs : List Byte) : Option State :=
  match who with
  | .tile e => if a + bs.length ≤ padSize then some (s.setTile e ((s.tile e).padWrite a bs)) else none
  | .crew c k =>
    match s.crewOf c k with
    | some cr => if cr.cmemOk a bs.length then some (s.updCrew c k (fun cr => cr.cmemWrite a bs)) else none
    | none => none
  | .mgmt _ => none

/-- Bytes of local memory in all. -/
def State.localSize (s : State) (who : Issuer) : Nat :=
  match who with
  | .tile _ => padSize
  | .crew c k => ((s.crewOf c k).map Crew.cmemBytes).getD 0
  | .mgmt _ => 0

/-! ## Rings (R100 to R102) -/

def State.rings (s : State) (who : Issuer) : SMap Ring :=
  match who with
  | .tile e => (s.tile e).rings
  | .crew c k => ((s.crewOf c k).map Crew.rings).getD []
  | .mgmt _ => []

def State.setRings (s : State) (who : Issuer) (r : SMap Ring) : State :=
  match who with
  | .tile e => s.setTile e { s.tile e with rings := r }
  | .crew c k => s.updCrew c k (fun cr => { cr with rings := r })
  | .mgmt _ => s

def State.ring (s : State) (who : Issuer) (n : Nat) : Ring := SMap.get {} (s.rings who) n
def State.setRing (s : State) (who : Issuer) (n : Nat) (r : Ring) : State :=
  s.setRings who (SMap.set {} (s.rings who) n r)

/-- A ring's base, slot size and slot count. -/
def State.ringGeom (s : State) (who : Issuer) (n : Nat) : List Nat :=
  let r := s.ring who n
  [r.base, r.size, r.count]

def Ring.slot (r : Ring) (i : Nat) : RingSlot := SMap.get {} r.slots i
def Ring.setSlot (r : Ring) (i : Nat) (x : RingSlot) : Ring := { r with slots := SMap.set {} r.slots i x }

/-- A pointer's slot index, and the pointer one slot on: the lap bit flips at the wrap (R100). -/
def ptrSlot (p : Nat) : Nat := p % 16
def Ring.next (r : Ring) (p : Nat) : Nat := if p % 16 + 1 = r.count then (p / 16 + 1) % 2 * 16 else p + 1

/-- WP passes each full slot in order (R101), until it would lap RP. -/
def Ring.advanceWp (r : Ring) : Nat → Ring
  | 0 => r
  | n + 1 =>
    let w := ptrSlot r.wp
    if (r.slot w).full && !(w == ptrSlot r.rp && r.wp != r.rp) then { r with wp := r.next r.wp }.advanceWp n else r

/-- A slot that is armed with all its bytes becomes full, and its phase flips; more bytes are an error. -/
def RingSlot.settle (x : RingSlot) : RingSlot :=
  if x.cnt = x.exp then { x with full := true, ph := !x.ph } else if x.exp < x.cnt then { x with err := true } else x

/-- ring.arm of slot i with E (R101); none is a ring error. -/
def Ring.arm (r : Ring) (i e : Nat) : Option Ring :=
  let x := r.slot i
  if r.count ≤ i ∨ e = 0 ∨ r.size < e ∨ x.arm ∨ x.full ∨ x.err then none
  else some ((r.setSlot i ({ x with arm := true, exp := e }.settle)).advanceWp 16)

/-- Delivery of b bytes to slot i (R101): the ring after it, and whether it is a ring error. -/
def Ring.deliver (r : Ring) (i b : Nat) : Ring × Bool :=
  let x := r.slot i
  if x.full ∨ x.err then (r.setSlot i { x with err := true, full := false }, true)
  else
    let y := { x with cnt := x.cnt + b }
    let y := if x.arm then y.settle else if r.size < y.cnt then { y with err := true } else y
    ((r.setSlot i y).advanceWp 16, y.err)

/-- How ring.await stands. -/
inductive Await where
  | error | ready | waits
  deriving DecidableEq, Repr

def Ring.await (r : Ring) : Await :=
  let x := r.slot (ptrSlot r.rp)
  if r.count = 0 ∨ x.err then .error else if r.rp ≠ r.wp ∧ x.full then .ready else .waits

/-- ring.rel (R101); none is a ring error. -/
def Ring.rel (r : Ring) : Option Ring :=
  if r.count = 0 ∨ r.rp = r.wp then none
  else
    let i := ptrSlot r.rp
    let x := r.slot i
    some ({ (r.setSlot i { ph := x.ph }) with rp := r.next r.rp }.advanceWp 16)

/-- The geometry word of R110, its RING field apart: base, slot size in bytes, slot count less one; none when
malformed or past the local memory. -/
def ringGeometry (w limit : Nat) : Option Ring :=
  let base := fld w 19 0
  let size := fld w 38 20
  let count := fld w 43 39 + 1
  if fld w 63 48 ≠ 0 ∨ base % 64 ≠ 0 ∨ size % 64 ≠ 0 ∨ size = 0 ∨ 65536 < size ∨ 16 < count ∨ limit < base + size * count then none
  else some { base := base, size := size, count := count }

/-! ## Failure of an entry (R228) -/

/-- The key of a command that enters no queue. -/
def ordKey : Nat := 100000

/-- QUEUE of the status word. -/
def queueCode (key : Nat) : Nat := if key < 7 then key else if key < ordKey then 7 else 8

/-- The entry at the head of a queue, or of the commands that enter none. -/
def State.entryAt (s : State) (who : Issuer) (key : Nat) : Option QEntry :=
  if key = ordKey then (s.queues who).ordered.head? else ((s.queues who).get key).head?

/-- The head entry leaves. -/
def State.popEntry (s : State) (who : Issuer) (key : Nat) : State :=
  if key = ordKey then
    let q := s.queues who
    s.setQueues who { q with ordered := q.ordered.drop 1 }
  else s.qPop who key

def State.setEntry (s : State) (who : Issuer) (key : Nat) (e : QEntry) : State :=
  if key = ordKey then
    let q := s.queues who
    s.setQueues who { q with ordered := e :: q.ordered.drop 1 }
  else s.qHead who key e

/-- The register that cairn.open and cairn.rst write, whose issuer waits until it is written (R227). -/
def handleReg (i : Instr) : Option B5 :=
  match i with
  | .cairnOpen f => some f.a
  | .cairnRst f => some f.a
  | _ => none

/-- The instruction of the held sub-gang ends, with a value for its register when one is written. -/
def Thread.release (th : Thread) (r : Nat) (v : Option W64) : Thread :=
  { (match v with | some x => th.setX r x | none => th).advance with wait := .none, spin := {} }

/-- The issuer that waits for cairn.open or cairn.rst goes on; on a tile engine its bundle may issue. -/
def State.finishHeld (s : State) (who : Issuer) (e : QEntry) (v : Option W64) : State :=
  match handleReg e.cmd with
  | none => s
  | some r =>
    match who with
    | .tile t => s.setTile t { s.tile t with cmdDone := true, awaitVal := v }
    | .mgmt h => s.setMgmt h { s.mgmt h with th := (s.mgmt h).th.release r.toNat v }
    | .crew core k =>
      match s.issuingSub core k e.sg with
      | some c => s.setTh c (c.th.release r.toNat v)
      | none => s

/-- What an entry has outstanding on other devices is dropped: an entry that follows makes its accesses anew. -/
def State.dropEntry (s : State) (who : Issuer) (e : QEntry) : State :=
  { s with remoteOps := s.remoteOps.filter (fun r => !(r.who == who && r.sg == e.tag))
           flushOut := s.flushOut.filter (fun f => !(f.who == who && f.sg == e.tag)) }

/-- The entry fails: it posts its status; later entries of its queue are discarded; a tile engine stops at the
next bundle boundary; an issuer held by the command is let go. -/
def State.failEntry (s : State) (who : Issuer) (key : Nat) (e : QEntry) (cause qcode addr : Nat) : State :=
  let s := (if key = ordKey then s.popEntry who key else s.qDiscard who key).dropEntry who e
  let s := s.finishHeld who e (if cause = 0x39 then some 0 else none)
  let st := statusWord cause qcode addr
  match who with
  | .tile t =>
    let x := s.tile t
    s.setTile t { x with
      cmdDone := x.cmdDone || isAcq e.cmd
      pendErr := match x.pendErr with | some p => some p | none => some (e.pc, 8 + qcode, st) }
  | _ => s.postFailure who e.sg {
      cause := entryTrap cause, status := BitVec.ofNat 32 st, word := e.word, addr := BitVec.ofNat 64 addr }

/-- The entry cause of a failed access. -/
def entryCause (e : MErr) : Nat :=
  match e with
  | .access => 0x30 | .stray => 0x30 | .uncorr => 0x34 | .fabric => 0x37 | .fault _ => 0x33 | .wait => 0

/-! ## Walker slots (R300, R301) -/

/-- Whether a walker slot is held for a consumer. -/
def State.stalled (s : State) (w : Consumer) : Bool := s.walkers.any (fun x => x.2.who == w)

/-- The die whose walkers serve an issuer. -/
def State.issuerDie (s : State) (who : Issuer) : Nat :=
  match who with
  | .crew c _ => unitDie c
  | .tile e => unitDie e
  | .mgmt h => s.physDie ((s.mgmt h).masid.toNat % 16) 0

/-- A translation fault of a consumer that stalls: a walker of the die keeps its slot, and the management core
receives a kind-2 event. With no free walker the need waits. -/
def State.raiseFault (s : State) (d p va src : Nat) (wr : Bool) (why : Nat) (who : Consumer) : State :=
  if s.stalled who then s
  else
    match (span 0 64).find? (fun n => SMap.get {} s.walkers (walkerKey d n) == ({} : Walker)) with
    | none => s
    | some n =>
      let w : Walker := { va := va % 2 ^ 57, src := src, wr := wr, why := why, part := p, who := who }
      { s.countErr (.fault why) with walkers := SMap.set {} s.walkers (walkerKey d n) w }.pushEvent (s.shub p)
        (eventWord 2 (d * 64 + n))

/-- The end of an entry whose access failed: a translation fault stalls the queue, a remote read waits for its
reply, any other error fails the entry. -/
def State.entryErr (s : State) (who : Issuer) (p key : Nat) (e : QEntry) (qcode : Nat) (wr : Bool) (err : MErr) (va : Nat) : State :=
  match err with
  | .wait => s
  | .fault why => s.raiseFault (s.issuerDie who) p va (8 + qcode) wr why (.entry who key)
  | .stray => s.stray.failEntry who key e 0x30 qcode va
  | x => s.failEntry who key e (entryCause x) qcode va

/-! ## Commands at issue -/

/-- Who issues a command: the issuer, its partition, the sub-gang, the position and the command word. -/
structure Iss where
  who : Issuer
  part : Nat
  sg : Nat := 0
  pc : Nat := 0
  word : W32 := 0
  desc : Desc := {}
  gang : Nat := 0
  deriving DecidableEq, Repr

/-- What a command at issue comes to. -/
inductive IssueOut where
  | done (wr : Option W64)     -- issued; a value for register A
  | wait                       -- not yet issued
  | held (acq : Bool)          -- placed, and the issuer waits until it has performed
  | illegal
  | ring (slot : Nat)          -- a ring error in the issuer's own command
  deriving DecidableEq, Repr

/-- The queue key of a handle's context: physical die and context (R243); a die outside the partition has none. -/
def State.cairnKey (s : State) (p : Nat) (h : Nat) : Nat :=
  let k := fld h 11 10
  if k < s.dies then 8 + 1024 * s.physDie p k + fld h 9 0 else 8 + 1024 * 4 + fld h 9 0

def Iss.entry (k : Iss) (i : Instr) (a b c : W64) : QEntry :=
  { seq := 0, cmd := i, a := a, b := b, c := c, pc := k.pc, word := k.word, sg := k.sg }

/-- Place an entry in a queue, or wait for room (R227). -/
def State.enqueueCmd (s : State) (k : Iss) (key : Nat) (e : QEntry) : State × IssueOut :=
  if s.qFull k.who key then (s, .wait) else (s.qPush k.who key e, .done none)

/-- The number of the read that a copy makes at issue (R236). -/
def Iss.tag (k : Iss) : Nat := 80000 + k.sg

/-- Whether a virtual address lies on another device; an error when its translation faults. -/
def State.isRemote (s : State) (p va : Nat) (wr : Bool) : Except Nat Bool :=
  match s.translate p va wr with
  | .ok (.remote _ _) => .ok true
  | .error (.fault why) => .error why
  | _ => .ok false

/-- Whether a copy's device memory lies on another device (R236): the base of its record, or an address of
cp.g2g. A translation fault gives its address and reason; none waits for a record on another device. A record that cannot
be read is met by the entry. -/
def State.copyRemote (s : State) (k : Iss) (i : Instr) (a b : Nat) : State × Except (Option (Nat × Bool × Nat)) Bool :=
  match i with
  | .cpG2g _ =>
    (s, match s.isRemote k.part b false, s.isRemote k.part a true with
      | .error w, _ => .error (some (b, false, w))
      | _, .error w => .error (some (a, true, w))
      | .ok x, .ok y => .ok (x || y))
  | _ =>
    match s.readVa k.who k.part b 8 k.tag with
    | (s, .ok bs) =>
      (s, match s.isRemote k.part (leNat bs) false with
        | .error w => .error (some (leNat bs, false, w))
        | .ok x => .ok x)
    | (s, .error (.fault w, va)) => (s, .error (some (va, false, w)))
    | (s, .error (.wait, _)) => (s, .error none)
    | (s, .error _) => (s, .ok false)

/-- The address of a command at issue whose translation the management core failed (R301). -/
def State.issueFailed (s : State) (k : Iss) : Option Nat :=
  (s.issueFail.find? (fun x => x.1 == k.who && x.2.1 == k.sg)).map (fun x => x.2.2)

/-- The copies (R231, R236): the queue is chosen, the coordinate block is read, and for cp.st the source. A translation
fault holds the issue while its walker slot is held (R301). -/
def State.issueCopy (s : State) (k : Iss) (i : Instr) (f : EC) (a b c : W64) : State × IssueOut :=
  let n := f.m.toNat / 16
  let isSt : Bool := match i with | .cpSt _ => true | _ => false
  let isG : Bool := match i with | .cpG2g _ => true | _ => false
  let e := k.entry i a b c
  let e := if isG then e else { e with blk := (s.localRead k.who c.toNat 32).getD [] }
  let e := if isSt then
      match k.who with
      | .tile t => { e with snap := (s.tile t).pad, snapEpoch := (s.tile t).padEpoch, snapBad := (s.tile t).padBad
                            vals := s.ringGeom k.who (fld a.toNat 27 24) }
      | .crew cc ck => { e with snap := ((s.crewOf cc ck).map Crew.cmem).getD [], vals := s.ringGeom k.who (fld a.toNat 27 24) }
      | .mgmt _ => e
    else e
  if isG ∧ c = 0 then (s, .done none)
  else if s.stalled (.issue k.who k.sg) then (s, .wait)
  else
    match s.issueFailed k with
    | some va =>
      if s.qFull k.who n then (s, .wait)
      else
        let s := { s with issueFail := s.issueFail.filter (fun x => !(x.1 == k.who && x.2.1 == k.sg)) }
        s.enqueueCmd k n { e with failed := true, failVa := va }
    | none =>
      match s.copyRemote k i a.toNat b.toNat with
      | (s, .error none) => (s, .wait)
      | (s, .error (some (va, wr, why))) =>
        ((s.raiseFault (s.issuerDie k.who) k.part va (8 + n) wr why (.issue k.who k.sg)).clearRemote k.who k.tag, .wait)
      | (s, .ok remote) =>
        match s.enqueueCmd k (if remote then 5 else n) e with
        | (s, .done v) => (s.clearRemote k.who k.tag, .done v)
        | r => r

/-- Whether a ring has deliveries of the issuer's own earlier entries outstanding (R239). -/
def State.ringBusy (s : State) (who : Issuer) (n : Nat) : Bool :=
  (s.queues who).qs.any (fun q => q.2.any (fun e =>
    match e.cmd with
    | .cpLd _ => bitAt e.a.toNat 28 && fld e.a.toNat 27 24 == n
    | .cpMc _ => bitAt e.a.toNat 28 && fld e.a.toNat 27 24 == n
    | _ => false))

/-- The initialising form of ring.arm (R239): a malformed geometry is illegal; ring 0 of a persistent launch is a ring
error, as its producer is the splitter. -/
def State.issueRingInit (s : State) (k : Iss) (n : Nat) (a : W64) : State × IssueOut :=
  match k.who with
  | .tile _ =>
    if n = 0 ∧ k.desc.persist = true then (s, .ring 0)
    else if s.ringBusy k.who n then (s, .wait)
    else
      let r := s.ring k.who n
      (s.setRing k.who n { base := r.base, size := r.size, count := r.count }, .done none)
  | _ =>
    match ringGeometry a.toNat (s.localSize k.who) with
    | none => (s, .illegal)
    | some r =>
      if n = 0 ∧ k.desc.persist = true then (s, .ring 0)
      else if s.ringBusy k.who n then (s, .wait) else (s.setRing k.who n r, .done none)

/-- The geometry of an initialising ring.arm is malformed (R110). -/
def badGeometry (i : Instr) (x : Ctx) (s : State) : Bool :=
  match i with
  | .ringArmInit f => (ringGeometry (x.x f.a).toNat (s.localSize x.iss)).isNone
  | _ => false

/-- The release of a ring-0 slot retires the work item whose record it held (R42, R46), once the crew's engine entries and lane
instructions placed before it have performed. -/
def State.retireSlot (s : State) (core k slot : Nat) : State :=
  ({ s with seq := s.seq + 1 } : State).updCrew core k (fun cr => { cr with
    items := cr.items.filter (fun x => x.slot != slot)
    retiring := cr.retiring ++ (cr.items.filter (fun x => x.slot == slot)).map (fun x => (x.item, s.seq)) })

/-- The ring commands (R239), which perform at issue. -/
def State.issueRing (s : State) (k : Iss) (i : Instr) (f : EC) (a b : W64) : State × IssueOut :=
  let n := f.m.toNat % 16
  let r := s.ring k.who n
  match i with
  | .ringArm _ =>
    if r.count = 0 ∨ (n = 0 ∧ k.desc.persist = true) then (s, .ring (a.toNat % 16))
    else
      match if 16 ≤ a.toNat then none else r.arm a.toNat b.toNat with
      | none => (s, .ring (a.toNat % 16))
      | some r' => (s.setRing k.who n r', .done none)
  | .ringAwait _ =>
    (match r.await with
     | .error => (s, .ring (ptrSlot r.rp))
     | .waits => (s, .wait)
     | .ready => (s, .done (some (BitVec.ofNat 64 (r.base + ptrSlot r.rp * r.size)))))
  | _ =>
    match r.rel with
    | none => (s, .ring (ptrSlot r.rp))
    | some r' =>
      let s := s.setRing k.who n r'
      let s := match k.who with
        | .crew core ck => if n = 0 ∧ k.desc.persist = true then s.retireSlot core ck (ptrSlot r.rp) else s
        | _ => s
      (s, .done none)

/-- The lock commands (R91, R96, R227): rlk.acq holds its issuer; one whose record lies on another device takes
its place in the fabric queue. -/
def State.issueLock (s : State) (k : Iss) (i : Instr) (a b c : W64) : State × IssueOut :=
  let e := { k.entry i a b c with vals := [k.gang] }
  let remote : Bool := match s.isRemote k.part a.toNat true with | .ok x => x | .error _ => false
  if remote ∧ s.qFull k.who 5 = true then (s, .wait)
  else
    let s := if remote then s.qPush k.who 5 e else s.ordPush k.who e
    (s, if isAcq i then .held true else .done none)

/-- A command at issue, its registers read. -/
def State.issueCmd (s : State) (k : Iss) (i : Instr) (a b c : W64) : State × IssueOut :=
  match i with
  | .cpLd f => s.issueCopy k i f a b c
  | .cpSt f => s.issueCopy k i f a b c
  | .cpG2g f => s.issueCopy k i f a b c
  | .cpMc _ => s.enqueueCmd k 4 { k.entry i a b c with blk := (s.localRead k.who c.toNat 64).getD [] }
  | .ringArm f => s.issueRing k i f a b
  | .ringArmInit f => s.issueRingInit k (f.m.toNat % 16) a
  | .ringAwait f => s.issueRing k i f a b
  | .ringRel f => s.issueRing k i f a b
  | .jn f => s.enqueueCmd k (if jnQueue f = 7 then s.cairnKey k.part c.toNat else jnQueue f) (k.entry i a b c)
  | .rlkBind _ => s.issueLock k i a b c
  | .rlkAcq _ => s.issueLock k i a b c
  | .rlkRel _ => s.issueLock k i a b c
  | .cairnOpen _ => (s.ordPush k.who (k.entry i a b c), .held false)
  | .cairnRst _ => (s.ordPush k.who (k.entry i a b c), .held false)
  | .cairnApp _ => s.enqueueCmd k (s.cairnKey k.part a.toNat) (k.entry i a b c)
  | .cairnQry _ => s.enqueueCmd k (s.cairnKey k.part a.toNat) (k.entry i a b c)
  | .cairnSave _ => s.enqueueCmd k (s.cairnKey k.part a.toNat) (k.entry i a b c)
  | .cairnClose _ => s.enqueueCmd k (s.cairnKey k.part a.toNat) (k.entry i a b c)
  | .kvCmt _ => (s.ordPush k.who (k.entry i a b c), .done none)
  | .wpUpd _ => (s.ordPush k.who (k.entry i a b c), .done none)
  | .wpPre _ => s.enqueueCmd k 4 (k.entry i a b c)
  | .launch _ =>
    if b.toNat < 32 ∧ 64 ≤ (s.dlq b.toNat).entries.length then (s, .wait)
    else (s.ordPush k.who (k.entry i a b c), .done none)
  | _ => (s, .illegal)

/-! ## Commands of edge and management cores -/

def Ctx.issCtx (c : Ctx) (i : Instr) : Iss :=
  { who := c.iss, part := c.part, sg := c.sg, pc := c.th.pc.toNat, word := (tiwOf i).headD 0, desc := c.desc, gang := c.gang.num }

/-- A ring error of the gang's own command sets MSTS.RNGE (R102). -/
def Thread.ringError (th : Thread) : Thread := { th with msts := BitVec.ofNat 32 (mstsRnge th.msts.toNat) }

/-- A tile instance as the issuer of the command of its bundle. -/
def State.tileIss (s : State) (e : Nat) : Iss :=
  let t := s.tile e
  { who := .tile e, part := s.unitPart e, pc := t.b, desc := ((s.launch t.launch).map (fun l => l.desc)).getD {} }

/-- A value written to s[d] one step after issue (R141). -/
def Tile.later (t : Tile) (order d : Nat) (v : W64) : Tile :=
  { t with flights := t.flights ++ [{ step := t.t + 1, order := order, what := .s d v }] }

/-- A command of a C slot on its own (R113, R227, R242): it issues when its guard is true; a ring error stops the engine
at the next boundary. The sequencer's own step follows R145. -/
def tileCommand (i : Instr) (f : EC) (e : Nat) (s : State) : Out :=
  let t := s.tile e
  if t.run ≠ .running then .fault .noThread
  else if f.g ≠ 0 ∧ SMap.get false t.p f.g.toNat = false then .next s
  else
    let r := fun (n : B5) => SMap.get 0 t.s n.toNat
    match s.issueCmd (s.tileIss e) i (r f.a) (r f.b) (r f.c) with
    | (s, .done (some v)) => .next { s.setTile e ((s.tile e).later s.seq f.a.toNat v) with seq := s.seq + 1 }
    | (s, .held _) => .next (s.setTile e { s.tile e with cmdWait := true })
    | (s, .ring n) =>
      let x := s.tile e
      .next (s.setTile e { x with
        msts := BitVec.ofNat 32 (mstsRnge x.msts.toNat)
        pendErr := match x.pendErr with
          | some y => some y
          | none => some (t.b, 6, 0x3B + 6 * 2 ^ 8 + (f.m.toNat % 16 + n * 16) * 2 ^ 12) })
    | (s, _) => .next s

/-- Whether a command waits for a ring slot. -/
def isAwait (i : Instr) : Bool :=
  match i with
  | .ringAwait _ => true
  | _ => false

/-- An engine command of a scalar stream: its registers are read, then it issues, waits or traps (R226, R227); one of a
tile engine's C slot issues there. -/
def engineOp (i : Instr) (f : EC) (a b c : B5) (k : RoleClass) (pl : Place) (s : State) : Out :=
  match s.cur with
  | .tile e => tileCommand i f e s
  | _ => scalarOpIf (badGeometry i) i k pl false (fun x s =>
    match x.th.wait with
    | .acq => s.wait
    | .acqErr cause => s.scalarTrap x i cause (x.x f.a)
    | _ =>
      match s.issueCmd (x.issCtx i) i (x.x a) (x.x b) (x.x c) with
      | (s, .wait) => .next (if isAwait i then s.setTh x { x.th with wait := .ring } else s)
      | (s, .done none) => .next (s.setTh x { x.th.advance.clearSpin with wait := .none })
      | (s, .done (some v)) => .next (s.setTh x { (x.th.setX f.a.toNat v).advance.clearSpin with wait := .none })
      | (s, .held acq) => .next (s.setTh x { x.th.clearSpin with wait := if acq then .acq else .issued })
      | (s, .illegal) => s.scalarTrap x i 0x01
      | (s, .ring _) =>
        if x.th.lq ≠ [] then s.wait else s.scalarTrap { x with th := x.th.ringError } i 0x10) s

/-- cp.ld (R236). -/
def execCpLd (f : EC) (s : State) : Out := engineOp (.cpLd f) f f.a f.b f.c .copy .edge s
/-- cp.st (R236). -/
def execCpSt (f : EC) (s : State) : Out := engineOp (.cpSt f) f f.a f.b f.c .copy .edge s
/-- cp.g2g (R236). -/
def execCpG2g (f : EC) (s : State) : Out := engineOp (.cpG2g f) f f.a f.b f.c .copy .both s
/-- cp.mc (R238). -/
def execCpMc (f : EC) (s : State) : Out := engineOp (.cpMc f) f f.a f.b f.c .copy .edge s
/-- ring.arm (R239). -/
def execRingArm (f : EC) (s : State) : Out := engineOp (.ringArm f) f f.a f.b 0 .copy .edge s
/-- ring.arm.init (R239). -/
def execRingArmInit (f : EC) (s : State) : Out := engineOp (.ringArmInit f) f f.a 0 0 .copy .edge s
/-- ring.await (R239). -/
def execRingAwait (f : EC) (s : State) : Out := engineOp (.ringAwait f) f 0 0 0 .common .edge s
/-- ring.rel (R239). -/
def execRingRel (f : EC) (s : State) : Out := engineOp (.ringRel f) f 0 0 0 .common .edge s
/-- jn (R240). -/
def execJn (f : EC) (s : State) : Out := engineOp (.jn f) f 0 0 f.c .copy .edge s
/-- rlk.bind (R241). -/
def execRlkBind (f : EC) (s : State) : Out := engineOp (.rlkBind f) f f.a f.b f.c .commit .both s
/-- rlk.acq (R241). -/
def execRlkAcq (f : EC) (s : State) : Out := engineOp (.rlkAcq f) f f.a 0 0 .commit .both s
/-- rlk.rel (R241). -/
def execRlkRel (f : EC) (s : State) : Out := engineOp (.rlkRel f) f f.a 0 0 .commit .both s
/-- cairn.open (R244). -/
def execCairnOpen (f : EC) (s : State) : Out := engineOp (.cairnOpen f) f f.a f.b 0 .commit .both s
/-- cairn.app (R244). -/
def execCairnApp (f : EC) (s : State) : Out := engineOp (.cairnApp f) f f.a f.b f.c .commit .both s
/-- cairn.qry (R244). -/
def execCairnQry (f : EC) (s : State) : Out := engineOp (.cairnQry f) f f.a f.b 0 .commit .both s
/-- cairn.save (R244). -/
def execCairnSave (f : EC) (s : State) : Out := engineOp (.cairnSave f) f f.a f.b 0 .commit .both s
/-- cairn.rst (R244). -/
def execCairnRst (f : EC) (s : State) : Out := engineOp (.cairnRst f) f f.a f.b 0 .commit .both s
/-- cairn.close (R244). -/
def execCairnClose (f : EC) (s : State) : Out := engineOp (.cairnClose f) f f.a 0 0 .commit .both s
/-- kv.cmt (R246). -/
def execKvCmt (f : EC) (s : State) : Out := engineOp (.kvCmt f) f f.a f.b 0 .commit .both s
/-- wp.upd (R247). -/
def execWpUpd (f : EC) (s : State) : Out := engineOp (.wpUpd f) f f.a f.b f.c .commit .both s
/-- wp.pre (R247). -/
def execWpPre (f : EC) (s : State) : Out := engineOp (.wpPre f) f f.a f.b 0 .commit .both s
/-- launch (R248). -/
def execLaunch (f : EC) (s : State) : Out := engineOp (.launch f) f f.a f.b 0 .commit .both s

end Sys2Proof.Machine
end

