-- ==== Sys2Proof/Machine/Layout.lean ====
section
/-! DEFINITION. Layout records, coordinate blocks and boxes (R229 to R234), the packing of L6 elements (R55)
and the KV descriptor (R105, R329). -/

namespace Sys2Proof.Machine

/-! ## Layout records (R229, R230) -/

structure Layout where
  base : Nat := 0
  rank : Nat := 0
  fmt : Nat := 0
  oob : Nat := 0
  esrc : Nat := 0
  swz : Nat := 0
  kvaddr : Nat := 0
  ext : List Nat := []
  samp : List Nat := []
  win : List Nat := []
  stride : List Int := []
  deriving DecidableEq, Repr

/-- Bytes of an element of a format; 1 for L6, whose elements are 6 bits. -/
def elemBytes (fmt : Nat) : Nat :=
  match fmt with
  | 0 => 4 | 8 => 4 | 1 => 2 | 2 => 2 | _ => 1

/-- Bits of an element of a format. -/
def elemWidth (fmt : Nat) : Nat := if fmt = 5 then 6 else 8 * elemBytes fmt

/-- Bits [63:57] of a virtual address equal bit 56 (R74). -/
def canonical (va : Nat) : Bool := va / 2 ^ 56 % 256 == 0 || va / 2 ^ 56 % 256 == 255

/-- Entries of a list from index r up are all zero. -/
def zeroFrom (l : List Nat) (r : Nat) : Bool := (l.drop r).all (· == 0)

/-- The fields of a record's 128 bytes. -/
def layoutOf (bs : List Byte) : Layout :=
  { base := u64At bs 0, rank := u8At bs 8, fmt := u8At bs 9, oob := u8At bs 10, esrc := u8At bs 11, swz := u8At bs 12
    kvaddr := u64At bs 0x10
    ext := (span 0 7).map (fun d => u32At bs (0x18 + 4 * d))
    samp := (span 0 3).map (fun d => u16At bs (0x34 + 2 * d))
    win := (span 0 7).map (fun d => u16At bs (0x3A + 2 * d))
    stride := (span 0 7).map (fun d => sx 56 (u64At bs (0x48 + 8 * d) % 2 ^ 56)) }

/-- The rules of R229 that do not depend on the format. -/
def layoutOk (bs : List Byte) (l : Layout) : Bool :=
  let r := l.rank
  canonical l.base && 1 ≤ r && r ≤ 7 && l.oob ≤ 3 && l.esrc ≤ 1 && l.swz ≤ 3 && zeroAt bs 0x0D 0x10 &&
  l.kvaddr % 64 == 0 && (l.esrc == 0 || l.kvaddr != 0) &&
  (span 0 r).all (fun d => (l.esrc == 1 && d == 0) || 1 ≤ l.ext.getD d 0) && zeroFrom l.ext r &&
  (span 0 (min r 3)).all (fun d => 1 ≤ l.samp.getD d 0) && zeroFrom l.samp (min r 3) &&
  (span 0 r).all (fun d => 1 ≤ l.win.getD d 0) && zeroFrom l.win r &&
  (span 0 7).all (fun d => u8At bs (0x48 + 8 * d + 7) == 0) && (l.stride.drop r).all (· == 0)

/-- The rules of R229 that depend on the format. -/
def layoutFmtOk (l : Layout) : Bool :=
  l.fmt ≤ 8 && l.base % elemBytes l.fmt == 0 &&
  (if l.fmt = 5 then l.stride.getD 0 0 == 0 else l.stride.all (fun x => x % (elemBytes l.fmt : Int) == 0))

/-- The box's elements and bytes (R230). -/
def Layout.boxElems (l : Layout) : Nat := (l.win.take l.rank).foldl (· * ·) 1
def Layout.boxBytes (l : Layout) : Nat := l.boxElems * elemWidth l.fmt / 8

/-- What a copy asks of its record beyond R229 (R230). -/
def Layout.copyOk (l : Layout) : Bool :=
  (l.oob != 2 || l.fmt == 0 || l.fmt == 1 || l.fmt == 2 || l.fmt == 4) &&
  l.boxBytes ≤ 2 ^ 20 && (l.swz == 0 || l.boxBytes % 128 == 0)

/-! ## The KV descriptor (R329) -/

structure KvDesc where
  cap : Nat := 0
  win : Nat := 0
  spec : Nat := 0
  commit : Nat := 0
  oldest : Nat := 0
  deriving DecidableEq, Repr

def kvOf (bs : List Byte) : KvDesc :=
  { cap := u32At bs 8, win := u32At bs 0x0C, spec := u32At bs 0x10, commit := u32At bs 0x18, oldest := u32At bs 0x1C }

/-- A valid descriptor. The device does not read LREF. -/
def kvOk (bs : List Byte) : Bool :=
  let k := kvOf bs
  zeroAt bs 0x14 0x18 && zeroAt bs 0x20 0x40 && k.spec ≤ k.cap && (k.win == 0 || k.win + k.spec ≤ k.cap) &&
  k.commit ≤ k.cap && k.oldest ≤ k.commit

/-! ## Boxes (R232, R233) -/

/-- The coordinates of box element j, dimension 0 first. -/
def boxIndex : Nat → List Nat → List Nat
  | _, [] => []
  | j, w :: t => j % w :: boxIndex (j / w) t

/-- Extents with dimension 0 fixed by a commit pointer (R105). -/
def Layout.extents (l : Layout) (ext0 : Option Nat) : List Nat :=
  match ext0 with
  | some e => e :: (l.ext.take l.rank).drop 1
  | none => l.ext.take l.rank

/-- The position of box element j. -/
def Layout.position (l : Layout) (c : List Int) (j : Nat) : List Int :=
  ((boxIndex j (l.win.take l.rank)).zip (span 0 l.rank)).map (fun x =>
    c.getD x.2 0 + (x.1 : Int) * (if x.2 < 3 then (l.samp.getD x.2 1 : Int) else 1))

/-- A position inside the extents, clamped under rule 3; none when out of bounds. -/
def Layout.bound (l : Layout) (ext : List Nat) (p : List Int) : Option (List Int) :=
  let px := p.zip ext
  if px.all (fun x => 0 ≤ x.1 && x.1 < (x.2 : Int)) then some p
  else if l.oob = 3 ∧ ext.all (fun e => 1 ≤ e) = true then
    some (px.map (fun x => if x.1 < 0 then 0 else if (x.2 : Int) ≤ x.1 then (x.2 : Int) - 1 else x.1))
  else none

/-- The byte address of a position and its first bit in that byte (0 unless L6), with a format's width. -/
def Layout.addr (l : Layout) (fmt : Nat) (dense : Bool) (p : List Int) : Nat × Nat :=
  let outer := (((p.zip l.stride).drop 1).map (fun x => x.1 * x.2)).foldl (· + ·) (0 : Int)
  let p0 := p.headD 0
  let s0 := l.stride.headD 0
  if fmt = 5 then (wrapN 64 ((l.base : Int) + outer + 6 * p0 / 8), wrapN 3 (6 * p0))
  else if dense ∨ s0 = 0 then (wrapN 64 ((l.base : Int) + outer + p0 * (elemBytes fmt : Int)), 0)
  else (wrapN 64 ((l.base : Int) + outer + p0 * s0), 0)

/-- Bytes that an element at a bit of a byte touches. -/
def elemSpan (fmt bit : Nat) : Nat := if fmt = 5 then (if bit ≤ 2 then 1 else 2) else elemBytes fmt

/-- The element in the bytes it touches. -/
def elemGet (fmt bit : Nat) (bs : List Byte) : Nat := if fmt = 5 then leNat bs / 2 ^ bit % 64 else leNat bs

/-- The bytes with the element put in. -/
def elemPut (fmt bit v : Nat) (bs : List Byte) : List Byte :=
  if fmt = 5 then leBytes bs.length (setFld (leNat bs) (bit + 5) bit v) else leBytes bs.length v

/-- Pack elements: whole bytes, or 6 bits each from bit 0 up (R55). -/
def packElems (fmt : Nat) (vs : List Nat) : List Byte :=
  if fmt = 5 then
    (chunks 4 vs.length vs).flatMap (fun q =>
      leBytes 3 (q.getD 0 0 % 64 + q.getD 1 0 % 64 * 64 + q.getD 2 0 % 64 * 4096 + q.getD 3 0 % 64 * 262144))
  else vs.flatMap (leBytes (elemBytes fmt))

/-- Element j of packed bytes. -/
def packedElem (fmt : Nat) (bs : List Byte) (j : Nat) : Nat :=
  if fmt = 5 then
    let bit := 6 * j % 8
    elemGet 5 bit ((bs.drop (6 * j / 8)).take (elemSpan 5 bit))
  else leNat ((bs.drop (j * elemBytes fmt)).take (elemBytes fmt))

/-- The swizzle of a packed offset (R232), its own inverse. -/
def swzOff (swz o : Nat) : Nat := if swz = 0 then o else Nat.xor o (o / 128 % 2 ^ swz * 16)

def swizzle (swz : Nat) (bs : List Byte) : List Byte :=
  if swz = 0 then bs else (span 0 bs.length).map (fun o => bs.getD (swzOff swz o) 0)

/-- The bits of an element out of bounds (R233). -/
def oobFill (l : Layout) : Nat :=
  if l.oob = 2 then (match l.fmt with | 0 => 0xFF800000 | 1 => 0xFF80 | 2 => 0xFC00 | 4 => 0xFC | _ => 0) else 0

/-- The signed coordinates of a block. -/
def coordsOf (blk : List Byte) : List Int := (span 0 7).map (fun d => sx 32 (u32At blk (4 * d)))

/-- Coordinates at or beyond the rank, and bytes 28 to 31, are zero (R231). -/
def coordsOk (blk : List Byte) (rank : Nat) : Bool := zeroAt blk (4 * rank) 32

end Sys2Proof.Machine
end

