-- ==== Sys2Proof/Machine/Copy.lean ====
section
/-! DEFINITION. Copies, multicast, deliveries into ring slots and junctions, as their entries perform
(R98, R101, R105, R106, R228 to R240). -/

namespace Sys2Proof.Machine

/-- Why an entry does not perform: a failed access at an address, or a cause of R228. -/
inductive EErr where
  | mem (e : MErr) (va : Nat) (wr : Bool)
  | cause (c addr : Nat)
  deriving DecidableEq, Repr

/-- The end of an entry that does not perform. -/
def State.endEntry (s : State) (who : Issuer) (p key : Nat) (e : QEntry) (q : Nat) (x : EErr) : State :=
  match x with
  | .mem err va wr => s.entryErr who p key e q wr err va
  | .cause c addr => s.failEntry who key e c q addr

/-- The partition of an issuer. -/
def State.issPart (s : State) (who : Issuer) : Nat :=
  match who with
  | .crew c _ => s.unitPart c
  | .tile e => s.unitPart e
  | .mgmt h => (s.mgmt h).masid.toNat % 16

/-- The performing entry's read, with its failure as an EErr. -/
def State.readE (s : State) (who : Issuer) (p va n : Nat) : State × Except EErr (List Byte) :=
  match s.readVa who p va n s.opTag with
  | (s, .ok bs) => (s, .ok bs)
  | (s, .error (e, a)) => (s, .error (.mem e a false))

/-- What a copy has read when it begins. -/
structure Plan where
  /-- the record's bytes, and the descriptor's behind them -/
  raw : List Byte := []
  l : Layout
  co : List Int
  ext : List Nat
  kv : Option KvDesc
  deriving DecidableEq, Repr

/-- Bytes that an entry reads once, when it begins: those it holds from offset a of what it has read, or a new read. -/
def State.readOnce (s : State) (who : Issuer) (p key : Nat) (e : QEntry) (a va n : Nat) : State × Except EErr (List Byte) :=
  if a < e.recd.length then (s, .ok ((e.recd.drop a).take n))
  else
    match s.readE who p va n with
    | (s, .ok bs) => (s.setEntry who key { e with recd := e.recd ++ bs }, .ok bs)
    | r => r

/-- The record, the coordinates and the descriptor of a copy (R105, R106, R230, R231). The entry keeps the bytes it read. -/
def State.copyPlan (s : State) (who : Issuer) (p key : Nat) (e : QEntry) (blkSize : Nat) : State × Except EErr Plan :=
  let rec0 := e.b.toNat
  if rec0 % 128 ≠ 0 then (s, .error (.cause 0x32 rec0))
  else
    match s.readOnce who p key e 0 rec0 128 with
    | (s, .error x) => (s, .error x)
    | (s, .ok bs) =>
      let l := layoutOf bs
      if !(layoutOk bs l && layoutFmtOk l && l.copyOk) then (s, .error (.cause 0x31 rec0))
      else if e.c.toNat % blkSize ≠ 0 then (s, .error (.cause 0x32 e.c.toNat))
      else if e.blk = [] then (s, .error (.cause 0x30 e.c.toNat))
      else if !coordsOk e.blk l.rank then (s, .error (.cause 0x31 e.c.toNat))
      else if l.fmt = 5 ∧ (l.win.headD 0 % 4 ≠ 0 ∨ u32At e.blk 0 % 4 ≠ 0) then (s, .error (.cause 0x32 e.c.toNat))
      else if l.kvaddr = 0 then (s, .ok { raw := bs, l := l, co := coordsOf e.blk, ext := l.extents none, kv := none })
      else
        match s.readOnce who p key { e with recd := bs } 128 l.kvaddr 64 with
        | (s, .error x) => (s, .error x)
        | (s, .ok kb) =>
          if !kvOk kb then (s, .error (.cause 0x31 l.kvaddr))
          else
            let k := kvOf kb
            let e0 := if l.esrc = 1 then some (e.ext0.getD k.commit) else none
            (s, .ok { raw := bs ++ kb, l := l, co := coordsOf e.blk, ext := l.extents e0, kv := some k })

/-! ## Destination words (R234) -/

def dwRing (w : Nat) : Option (Nat × Nat) := if bitAt w 28 then some (fld w 27 24, fld w 23 20) else none

/-- The offset of a destination or source word in local memory; none breaks R234. -/
def dwOffset (w : Nat) (tile : Bool) (base size count : Nat) (l : Layout) : Option Nat :=
  let off := fld w 19 0
  if fld w 63 29 ≠ 0 ∨ off % elemBytes l.fmt ≠ 0 ∨ (l.swz ≠ 0 ∧ off % 128 ≠ 0) then none
  else
    match dwRing w with
    | none => some off
    | some (rg, slot) =>
      if count ≤ slot ∨ (tile ∧ rg = 0) ∨ size < off + l.boxBytes then none else some (base + slot * size + off)

def issIsTile (i : Issuer) : Bool :=
  match i with
  | .tile _ => true
  | _ => false

/-- The offset of a destination word with the consumer's ring. -/
def State.dest (s : State) (dst : Issuer) (w : Nat) (l : Layout) : Option Nat :=
  let r := s.ring dst (fld w 27 24)
  dwOffset w (issIsTile dst) r.base r.size r.count l

/-! ## The box's bytes -/

/-- The elements of a box from device memory, in order. -/
def State.boxRead (s : State) (who : Issuer) (p : Nat) (pl : Plan) : List Nat → State × Except EErr (List Nat)
  | [] => (s, .ok [])
  | j :: t =>
    match pl.l.bound pl.ext (pl.l.position pl.co j) with
    | none =>
      (match State.boxRead s who p pl t with
       | (s, .ok vs) => (s, .ok (oobFill pl.l :: vs))
       | r => r)
    | some x =>
      let (va, bit) := pl.l.addr pl.l.fmt false x
      match s.readE who p va (elemSpan pl.l.fmt bit) with
      | (s, .error err) => (s, .error err)
      | (s, .ok bs) =>
        match State.boxRead s who p pl t with
        | (s, .ok vs) => (s, .ok (elemGet pl.l.fmt bit bs :: vs))
        | r => r

/-- The ranges of device memory that a copy of the box reads. -/
def Plan.ranges (pl : Plan) : List (Nat × Nat) :=
  (span 0 pl.l.boxElems).filterMap (fun j =>
    (pl.l.bound pl.ext (pl.l.position pl.co j)).map (fun x =>
      let (va, bit) := pl.l.addr pl.l.fmt false x
      (va, elemSpan pl.l.fmt bit)))

/-- The reuse hint of a copy (R83, R236, R238). -/
def copyHint (i : Instr) : Nat :=
  match i with
  | .cpLd f => f.m.toNat % 16
  | .cpG2g f => f.m.toNat % 16
  | .cpMc f => f.m.toNat % 16
  | _ => 0

/-- The offset in the box of each byte of packed element j (R232). -/
def Layout.elemOffs (l : Layout) (j : Nat) : List Nat :=
  let a := if l.fmt = 5 then 6 * j / 8 else j * elemBytes l.fmt
  (span a (elemSpan l.fmt (if l.fmt = 5 then 6 * j % 8 else 0))).map (swzOff l.swz)

/-- Packed element j has been delivered, in part at least, with the first bytes of the box. -/
def Layout.moved (l : Layout) (sent j : Nat) : Bool := (l.elemOffs j).any (· < sent)

/-- The elements of a box: those that have been delivered with the values they were read with, the rest as read now (R237). -/
def keepElems : List Bool → List Nat → List Nat → List Nat
  | [], _, _ => []
  | true :: t, old, now => old.headD 0 :: keepElems t old.tail now
  | false :: t, old, now => now.headD 0 :: keepElems t old.tail now.tail

/-- The packed box as it stands in local memory. -/
def Layout.packed (l : Layout) (vs : List Nat) : List Byte := swizzle l.swz (packElems l.fmt vs)

/-! ## Delivery (R101, R102) -/

/-- A ring error on delivery sets RNGE of the delivering issuer (R102). -/
def State.setRnge (s : State) (who : Issuer) (sg : Nat) : State :=
  match who with
  | .tile e => s.setTile e ((s.tile e).setMsts 3)
  | .crew c k =>
    (match s.issuingSub c k sg with
     | some x => (s.heat (.msts x.thread) 8).setTh x x.th.ringError
     | none => s)
  | .mgmt _ => s

/-- Bytes delivered to local memory, and counted when the word names a slot; the flag is a ring error. -/
def State.deliver (s : State) (dst : Issuer) (w off : Nat) (bs : List Byte) : Option (State × Bool) :=
  match s.localWrite dst off bs with
  | none => none
  | some s =>
    match dwRing w with
    | none => some (s, false)
    | some (rg, slot) =>
      if bs = [] then some (s, false)
      else
        let (r, bad) := (s.ring dst rg).deliver slot bs.length
        some (s.setRing dst rg r, bad)

/-- A slot awaiting a copy that stops enters error (R108). -/
def State.slotError (s : State) (dst : Issuer) (w : Nat) : State :=
  match dwRing w with
  | none => s
  | some (rg, slot) =>
    let r := s.ring dst rg
    s.setRing dst rg (r.setSlot slot { r.slot slot with err := true, full := false })

/-- The end of a copy into local memory that met an error. -/
def State.endLoad (s : State) (who : Issuer) (p key : Nat) (e : QEntry) (q : Nat) (x : EErr) : State :=
  let s := match x with
    | .mem .uncorr _ _ => s.slotError who e.a.toNat
    | _ => s
  s.endEntry who p key e q x

/-- A write of an entry to another device awaits its reply, or came back with an error (R97, R348). -/
def State.entryWrites (s : State) (who : Issuer) (e : QEntry) : List RemoteOp :=
  s.remoteOps.filter (fun r => r.posted && r.who == who && r.sg == e.tag)

/-- The entry at the head has done all its work: it has performed when no write on another device is outstanding (R97). -/
def State.performed (s : State) (who : Issuer) (key : Nat) : State :=
  match s.entryAt who key with
  | none => s
  | some e =>
    let s := s.clearRemote who e.tag
    if s.entryWrites who e = [] then s.popEntry who key else s.setEntry who key { e with wrote := true }

/-- The rest of a load's box delivered, up to a number of bytes; the whole box ends the entry. An element that has been delivered
is not read again (R237). -/
def State.loadPerform (s : State) (who : Issuer) (p key : Nat) (e : QEntry) (q : Nat) (limit : Option Nat) : State :=
  match s.copyPlan who p key e 32 with
  | (s, .error x) => s.endLoad who p key e q x
  | (s, .ok pl) =>
    match s.dest who e.a.toNat pl.l with
    | none => s.failEntry who key e 0x31 q e.a.toNat
    | some off =>
      let js := span 0 pl.l.boxElems
      match s.boxRead who p pl (if e.sent = 0 then js else js.filter (fun j => !pl.l.moved e.sent j)) with
      | (s, .error x) => s.endLoad who p key e q x
      | (s, .ok now) =>
        let vs := if e.sent = 0 then now else keepElems (js.map (pl.l.moved e.sent)) e.box now
        let rest := (pl.l.packed vs).drop e.sent
        let piece := match limit with | some n => rest.take n | none => rest
        match s.deliver who e.a.toNat (off + e.sent) piece with
        | none => s.failEntry who key e 0x30 q (off + e.sent)
        | some (s, true) => (s.setRnge who e.sg).failEntry who key e 0x35 q (off + e.sent)
        | some (s, false) =>
          match limit with
          | none => (s.l2Reads p (copyHint e.cmd) pl.ranges).performed who key
          | some _ =>
            s.setEntry who key { e with
              sent := e.sent + piece.length, recd := pl.raw, box := vs, ext0 := if pl.l.esrc = 1 then pl.ext.head? else none }

/-! ## Stores and copies between global addresses (R232, R233, R236) -/

/-- One element written at its home; an L6 element replaces its six bits. One whose source is bad marks its granule
(R108). -/
def State.putElem (s : State) (who : Issuer) (p fmt va bit v : Nat) (marked : Bool) : State × Except EErr Unit :=
  let n := elemSpan fmt bit
  let put := fun (s : State) (bs : List Byte) =>
    match s.writeVa who p va bs s.opTag marked with
    | .ok s => (s, Except.ok ())
    | .error (e, a) => (s, .error (.mem e a true))
  if fmt = 5 then
    match s.locs p false (piecesOf va n) with
    | .error (e, a) => (s, .error (.mem e a true))
    | .ok ls =>
      -- the bits around the element keep their values, whatever mark their granule has
      let old := ls.foldl (fun b x => match x.1 with | .hbm k => b ++ s.readBytes k x.2 | _ => b ++ zeros x.2) []
      put s (elemPut 5 bit v old)
  else put s (leBytes n v)

/-- Where a store writes element j, when it is in bounds: rule 3 clamps no store (R233). -/
def Plan.place (pl : Plan) (j : Nat) : Option (Nat × Nat) :=
  ((if pl.l.oob = 3 then { pl.l with oob := 0 } else pl.l).bound pl.ext (pl.l.position pl.co j)).map
    (fun x => pl.l.addr pl.l.fmt false x)

/-- Whether every in-bounds element of a store translates for writing. -/
def State.storeCheck (s : State) (p : Nat) (pl : Plan) : List Nat → Except EErr Unit
  | [] => .ok ()
  | j :: t =>
    match pl.place j with
    | none => s.storeCheck p pl t
    | some (va, bit) =>
      match s.locs p true (piecesOf va (elemSpan pl.l.fmt bit)) with
      | .error (e, a) => .error (.mem e a true)
      | .ok _ => s.storeCheck p pl t

/-- The elements of a list written at their homes; bad tells which have a bad source granule. -/
def State.storeAll (s : State) (who : Issuer) (p : Nat) (pl : Plan) (src : List Byte) (bad : Nat → Bool) :
    List Nat → State × Except EErr Unit
  | [] => (s, .ok ())
  | j :: t =>
    match pl.place j with
    | none => State.storeAll s who p pl src bad t
    | some (va, bit) =>
      match s.putElem who p pl.l.fmt va bit (packedElem pl.l.fmt src j) (bad j) with
      | (s, .error err) => (s, .error err)
      | (s, .ok _) => State.storeAll s who p pl src bad t

/-- The stack bytes of an element at a bit of an address, with the bits it takes of each. -/
def State.elemMasks (s : State) (p fmt va bit : Nat) : List (Nat × Nat) :=
  (span 0 (elemSpan fmt bit)).filterMap (fun i =>
    match s.translate p ((va + i) % 2 ^ 64) true with
    | .ok (.hbm k) => some (k, 2 ^ (min (8 * i + 8) (bit + elemWidth fmt) - 8 * i) - 2 ^ (max (8 * i) bit - 8 * i))
    | _ => none)

/-- A marked granule all of whose bits the elements of one copy write is good again (R107). -/
def State.clearCovered (s : State) (ms : List (Nat × Nat)) : State :=
  { s with bad := s.bad.filter (fun g =>
      !(span (32 * g) 32).all (fun k => ms.foldl (fun (m : Nat) x => if x.1 = k then Nat.lor m x.2 else m) 0 == 255)) }

/-- Whether an in-bounds element of a speculative-write record lies beyond commit + S (R106, R233). -/
def specBad (pl : Plan) : Bool :=
  match pl.kv with
  | none => false
  | some k =>
    pl.l.esrc == 0 && (span 0 pl.l.boxElems).any (fun j =>
      match (if pl.l.oob = 3 then { pl.l with oob := 0 } else pl.l).bound pl.ext (pl.l.position pl.co j) with
      | some x => ((k.commit + k.spec : Nat) : Int) < x.headD 0
      | none => false)

/-- The captured source of cp.st: bytes of the local memory as they stood at issue; none past its end. -/
def State.snapRead (s : State) (who : Issuer) (e : QEntry) (off n : Nat) : Option (List Byte) :=
  if s.localSize who < off + n then none
  else some ((span off n).map (fun a => SMap.get (padDefault e.snapEpoch a) e.snap a))

def State.storePerform (s : State) (who : Issuer) (p key : Nat) (e : QEntry) (q : Nat) : State :=
  match s.copyPlan who p key e 32 with
  | (s, .error x) => s.endEntry who p key e q x
  | (s, .ok pl) =>
    match dwOffset e.a.toNat (issIsTile who) (e.vals.getD 0 0) (e.vals.getD 1 0) (e.vals.getD 2 0) pl.l with
    | none => s.failEntry who key e 0x31 q e.a.toNat
    | some off =>
      match s.snapRead who e off pl.l.boxBytes with
      | none => s.failEntry who key e 0x30 q off
      | some bs =>
        if specBad pl then s.failEntry who key e 0x36 q pl.l.kvaddr
        else
          match s.storeCheck p pl (span 0 pl.l.boxElems) with
          | .error x => s.endEntry who p key e q x
          | .ok _ =>
            let js := span 0 pl.l.boxElems
            let s := if s.bad = [] then s else s.clearCovered (js.flatMap (fun j =>
              match pl.place j with | some (va, bit) => s.elemMasks p pl.l.fmt va bit | none => []))
            let bad := fun j => (pl.l.elemOffs j).any (fun o => e.snapBad.contains ((off + o) / 32))
            match s.storeAll who p pl (swizzle pl.l.swz bs) bad js with
            | (s, .error x) => s.endEntry who p key e q x
            | (s, .ok _) => s.performed who key

/-- A write of the performing entry, with its failure as an EErr. -/
def State.writeE (s : State) (who : Issuer) (p va : Nat) (bs : List Byte) : State × Except EErr Unit :=
  match s.writeVa who p va bs s.opTag with
  | .ok s => (s, .ok ())
  | .error (er, a) => (s, .error (.mem er a true))

def State.g2gPerform (s : State) (who : Issuer) (p key : Nat) (e : QEntry) (q : Nat) : State :=
  if 2 ^ 40 < e.c.toNat then s.failEntry who key e 0x31 q e.a.toNat
  else
    match s.readE who p e.b.toNat e.c.toNat with
    | (s, .error x) => s.endEntry who p key e q x
    | (s, .ok bs) =>
      match s.writeE who p e.a.toNat bs with
      | (s, .error x) => s.endEntry who p key e q x
      | (s, .ok _) => (s.l2Reads p (copyHint e.cmd) [(e.b.toNat, e.c.toNat)]).performed who key

/-! ## Multicast (R238) -/

/-- The issuer's launch. -/
def State.issLaunch (s : State) (who : Issuer) : Option Nat :=
  match who with
  | .tile e => some (s.tile e).launch
  | .crew c k => (s.crewOf c k).map Crew.launch
  | .mgmt _ => none

/-- A consumer entry: whether it is an edge core, and its logical device engine index; none when not in use. -/
def consumers (blk : List Byte) : List (Bool × Nat) :=
  ((span 0 8).map (fun i => u32At blk (32 + 4 * i))).filterMap (fun w =>
    if bitAt w 9 then some (bitAt w 8, fld w 7 0) else none)

/-- A well-formed consumer list of partition p: reserved bits zero, one valid entry at least, engines inside. -/
def State.consumersOk (s : State) (p : Nat) (blk : List Byte) : Bool :=
  (span 0 8).all (fun i => fld (u32At blk (32 + 4 * i)) 31 10 == 0) && consumers blk != [] &&
  (consumers blk).all (fun x => x.2 / 48 < s.dies && s.unitPart (48 * s.physDie p (x.2 / 48) + x.2 % 48) == p)

/-- The issuer that a consumer stands for when it runs an item of the launch. Of several crews of the launch on one core (R238 speaks
of one) it is the first in the core's list: DESIGN CHOICE (log entry 101). -/
def State.consumer (s : State) (p launch : Nat) (x : Bool × Nat) : Option Issuer :=
  let u := 48 * s.physDie p (x.2 / 48) + x.2 % 48
  if x.1 then ((s.core u).crews.find? (fun c => c.2.launch == launch)).map (fun c => .crew u c.1)
  else if (s.tile u).run ≠ .idle ∧ (s.tile u).launch = launch then some (.tile u) else none

/-- Delivery to each consumer in turn; the first cause met stands. -/
def State.castAll (s : State) (who : Issuer) (sg w : Nat) (l : Layout) (bs : List Byte) :
    List (Option Issuer) → State × Nat
  | [] => (s, 0)
  | none :: t =>
    let (s, c) := State.castAll s who sg w l bs t
    (s, if c = 0 then 0x38 else c)
  | some dst :: t =>
    let (s, c) := match s.dest dst w l with
      | none => (s, 0x31)
      | some off =>
        match s.deliver dst w off bs with
        | none => (s, 0x30)
        | some (s, true) => (s.setRnge who sg, 0x35)
        | some (s, false) => (s, 0)
    let (s, c') := State.castAll s who sg w l bs t
    (s, if c = 0 then c' else c)

def State.castPerform (s : State) (who : Issuer) (p : Nat) (e : QEntry) : State :=
  match s.copyPlan who p 4 e 64 with
  | (s, .error x) => s.endEntry who p 4 e 4 x
  | (s, .ok pl) =>
    if !s.consumersOk p e.blk then s.failEntry who 4 e 0x31 4 e.c.toNat
    else
      let tos := (consumers e.blk).map (s.consumer p ((s.issLaunch who).getD 0))
      match s.boxRead who p pl (span 0 pl.l.boxElems) with
      | (s, .error x) =>
        let s := match x with
          | .mem .uncorr _ _ => tos.foldl (fun (s : State) t => match t with | some i => s.slotError i e.a.toNat | none => s) s
          | _ => s
        s.endEntry who p 4 e 4 x
      | (s, .ok vs) =>
        match s.castAll who e.sg e.a.toNat pl.l (pl.l.packed vs) tos with
        | (s, 0) => (s.l2Reads p (copyHint e.cmd) pl.ranges).performed who 4
        | (s, c) => s.failEntry who 4 e c 4 e.a.toNat

/-! ## The steps -/

/-- QUEUE of the status word of an entry at a key. -/
def entryQueue (key : Nat) (i : Instr) : Nat := if (handleReg i).isSome then 7 else queueCode key

/-- An entry whose writes on other devices are outstanding: it performs when all have been answered, and fails when one
came back with an error (R97, R348). -/
def State.awaitWrites (s : State) (who : Issuer) (key : Nat) (e : QEntry) : State :=
  match (s.entryWrites who e).find? (fun r => r.answered && !r.ok) with
  | some r => s.failEntry who key e 0x37 (entryQueue key e.cmd) r.va
  | none => if s.entryWrites who e = [] then s.popEntry who key else s

/-- The entry at the head of queue inp.a of issuer inp.iss, unless its queue is stalled by a translation fault;
an entry whose translation the management core failed fails instead (R228, R301). -/
def entryStep (key : Nat) (ok : Instr → Bool) (body : Issuer → Nat → QEntry → State → State) (s : State) : Out :=
  let who := s.inp.iss
  match s.entryAt who key with
  | none => .next s
  | some e =>
    if !ok e.cmd || s.stalled (.entry who key) then .next s
    else if e.failed then .next (s.failEntry who key e 0x33 (entryQueue key e.cmd) e.failVa)
    else if e.wrote then .next (s.awaitWrites who key e)
    else .next (body who (s.issPart who) e { s with opTag := e.tag })

def isCopy (i : Instr) : Bool :=
  match i with
  | .cpLd _ => true
  | .cpSt _ => true
  | .cpG2g _ => true
  | _ => false

/-- COPY_PERFORM (R236): the copy at the head of copy queue or fabric queue inp.a. -/
def execCopyPerform (s : State) : Out :=
  let key := s.inp.a
  if key < 4 ∨ key = 5 then
    entryStep key isCopy (fun who p e s =>
      match e.cmd with
      | .cpLd _ => s.loadPerform who p key e key none
      | .cpSt _ => s.storePerform who p key e key
      | _ => s.g2gPerform who p key e key) s
  else .next s

/-- RING_DELIVERY (R101, R234): a piece of inp.c bytes of the box of the load at the head of queue inp.a. -/
def execRingDelivery (s : State) : Out :=
  let key := s.inp.a
  if (key < 4 ∨ key = 5) ∧ s.inp.c ≠ 0 then
    entryStep key (fun i => match i with | .cpLd _ => true | _ => false) (fun who p e s =>
      if bitAt e.a.toNat 28 then s.loadPerform who p key e key (some s.inp.c) else s) s
  else .next s

/-- MULTICAST_PERFORM (R238). -/
def execMulticastPerform (s : State) : Out :=
  entryStep 4 (fun i => match i with | .cpMc _ => true | _ => false) (fun who p e s => s.castPerform who p e) s

/-- Every entry placed earlier in each queue the mask names has performed (R98). -/
def junctionReady (qs : Queues) (mask own seq : Nat) : Bool :=
  (span 0 7).all (fun n => !bitAt mask n || n == own || qs.clearIn n seq) &&
  (!bitAt mask 7 || qs.qs.all (fun q => q.1 < 8 || q.1 == own || q.2.all (fun e => seq ≤ e.seq)))

/-- A context's handle names it: open, in its generation, of the issuer's partition (R243). -/
def State.cairnOk (s : State) (p h : Nat) : Bool :=
  let k := s.cairnKey p h - 8
  fld h 63 32 == 0 && fld h 11 10 < s.dies && (s.cairn k).isOpen && (s.cairn k).gen == fld h 31 12 && (s.cairn k).part == p

/-- JUNCTION_PERFORM (R98, R240): the junction at the head of queue inp.a; a Cairn junction needs an open context. -/
def execJunctionPerform (s : State) : Out :=
  let key := s.inp.a
  entryStep key (fun i => match i with | .jn _ => true | _ => false) (fun who p e s =>
    match e.cmd with
    | .jn f =>
      if 8 ≤ key ∧ s.cairnOk p e.c.toNat = false then s.failEntry who key e 0x39 7 e.c.toNat
      else if junctionReady (s.queues who) (jnMask f) key e.seq then s.popEntry who key
      else s
    | _ => s) s

end Sys2Proof.Machine
end

