-- ==== Sys2Proof/Machine/Commit.lean ====
section
/-! DEFINITION. The performances of lock commands (R90 to R93, R241, R242), kv.cmt (R246), the waypost commands
(R247, R335 to R339) and launch (R248). -/

namespace Sys2Proof.Machine

/-- The entry of issuer inp.iss that is next among the commands that enter no queue, or the lock at the head of
the fabric queue, once every earlier entry of every queue has performed (R96). -/
def orderedStep (key : Nat) (ok : Instr → Bool) (body : Issuer → Nat → QEntry → State → State) (s : State) : Out :=
  entryStep key ok (fun who p e s =>
    let q := s.queues who
    if q.clearBefore e.seq && (key == ordKey || q.ordered.all (fun x => e.seq ≤ x.seq)) then body who p e s else s) s

/-! ## Region locks -/

/-- An issuer's sub-gang slot for the owner fields (R90). -/
def State.gangSlot (s : State) (who : Issuer) (num : Nat) : Nat :=
  match who with
  | .crew c k => (((s.core c).gangs.find? (fun g => g.2.crew == k && g.2.num == num)).map Prod.fst).getD 0
  | _ => 0

def State.heldLocks (s : State) (who : Issuer) : List HeldLock :=
  match who with
  | .crew c k => ((s.crewOf c k).map Crew.locks).getD []
  | .tile e => (s.tile e).locks
  | .mgmt _ => []

def State.setHeld (s : State) (who : Issuer) (l : List HeldLock) : State :=
  match who with
  | .crew c k => s.updCrew c k (fun cr => { cr with locks := l })
  | .tile e => s.setTile e { s.tile e with locks := l }
  | .mgmt _ => s

/-- A lock is among those held by a gang. -/
def holdsLock (held : List HeldLock) (va num : Nat) : Bool := held.any (fun h => h.va == va && h.gang == num)

/-- LABN of the acquirer (R93). -/
def State.setLabn (s : State) (who : Issuer) (sg : Nat) : State :=
  match who with
  | .tile e => s.setTile e ((s.tile e).setMsts 2)
  | .crew c k =>
    (match s.issuingSub c k sg with
     | some x => (s.heat (.msts x.thread) 4).setTh x { x.th with msts := BitVec.ofNat 32 (mstsLabn x.th.msts.toNat) }
     | none => s)
  | .mgmt _ => s

/-- The thread held by rlk.acq: past it, or with the error it traps on. -/
def Thread.endAcq (th : Thread) (err : Option Nat) : Thread :=
  match err with
  | none => { th.advance with wait := .none, spin := {} }
  | some c => { th with wait := .acqErr c }

def State.endAcq (s : State) (who : Issuer) (sg : Nat) (err : Option Nat) : State :=
  match who with
  | .tile t => s.setTile t { s.tile t with cmdDone := true }
  | .mgmt h => s.setMgmt h { s.mgmt h with th := (s.mgmt h).th.endAcq err }
  | .crew c k =>
    match s.issuingSub c k sg with
    | some x => s.setTh x (x.th.endAcq err)
    | none => s

/-- A lock error (R91, R242): a trap at the rlk.acq, a posting for the other commands, an engine error of the C
slot on a tile engine. Only this command ends. -/
def State.lockError (s : State) (who : Issuer) (key : Nat) (e : QEntry) : State :=
  let s := (s.popEntry who key).dropEntry who e
  match who with
  | .tile t =>
    let x := s.tile t
    let st := 0x3A + 6 * 2 ^ 8 + fld e.a.toNat 25 6 * 2 ^ 12
    s.setTile t { x with
      cmdDone := x.cmdDone || isAcq e.cmd
      pendErr := match x.pendErr with | some p => some p | none => some (e.pc, 6, st) }
  | _ =>
    if isAcq e.cmd then s.endAcq who e.sg (some 0x11)
    else s.postFailure who e.sg { cause := 0x11, status := 0, word := e.word, addr := e.a }

/-- The record's location, translated for writing. -/
def State.lockLoc (s : State) (p va : Nat) : Except EErr Loc :=
  match s.translate p va true with
  | .ok l => .ok l
  | .error er => .error (.mem er va true)

/-- Read n bytes of the record where it lies. -/
def State.lockRead (s : State) (who : Issuer) (l : Loc) (va n : Nat) : State × Except EErr (List Byte) :=
  match s.readLoc who s.opTag l n with
  | (s, .ok bs) => (s, .ok bs)
  | (s, .error er) => (s, .error (.mem er va true))

def lockQ (key : Nat) : Nat := if key = 5 then 5 else 8

/-- rlk.bind (R91). -/
def State.bindPerform (s : State) (who : Issuer) (p key : Nat) (e : QEntry) : State :=
  let va := e.a.toNat
  if va % 64 ≠ 0 then s.lockError who key e
  else
    match s.lockLoc p va with
    | .error x => s.endEntry who p key e (lockQ key) x
    | .ok l =>
      match s.lockRead who l va 64 with
      | (s, .error x) => s.endEntry who p key e (lockQ key) x
      | (s, .ok bs) =>
        let base := e.b.toNat
        let len := e.c.toNat
        if lockHeld (u64At bs 0) ∨ base % 128 ≠ 0 ∨ len % 128 ≠ 0 ∨ len = 0 ∨ 2 ^ 47 < len ∨ zeroAt bs 0x18 0x40 = false then
          s.lockError who key e
        else
          match s.writeE who p (va + 8) (leBytes 8 base ++ leBytes 8 len) with
          | (s, .error x) => s.endEntry who p key e (lockQ key) x
          | (s, .ok _) => s.performed who key

/-- LSTATE taken by an owner: held, the owner fields, the count kept, ABANDONED cleared (R90, R93). -/
def lockTaken (w owner : Nat) : Nat := 1 + owner + lockCount w * 2 ^ 32

/-- The owner fields of LSTATE. -/
def lockOwner (w : Nat) : Nat := fld w 31 1 * 2

/-- The update of a lock record: at its home, or by a compare and swap on another device, whose reply tells
whether the old state still stood. -/
def State.lockSwap (s : State) (who : Issuer) (l : Loc) (old new : Nat) : State × Except MErr Bool :=
  match l with
  | .hbm k => (s.writeBytes k (leBytes 8 new), .ok true)
  | .remote dev pa =>
    (match s.remoteAtomic who s.opTag dev pa 8 (leBytes 8 old ++ leBytes 8 new) with
     | (s, .ok bs) => (s, .ok (leNat bs == old))
     | (s, .error e) => (s, .error e))
  | .reg _ => (s, .error .access)

/-- rlk.acq takes the lock when it is free (R91 to R93); held, it waits. -/
def State.acquirePerform (s : State) (who : Issuer) (p key sc : Nat) (e : QEntry) : State :=
  let va := e.a.toNat
  let num := e.vals.getD 0 0
  if va % 64 ≠ 0 ∨ sc = 0 then s.lockError who key e
  else
    match s.lockLoc p va with
    | .error x => s.endEntry who p key e (lockQ key) x
    | .ok l =>
      match s.lockRead who l va 24 with
      | (s, .error x) => s.endEntry who p key e (lockQ key) x
      | (s, .ok bs) =>
        let w := u64At bs 0
        let owner := s.ownerBits who (s.gangSlot who num)
        let held := s.heldLocks who
        let own := match who with
          | .mgmt _ => lockHeld w && lockOwner w == owner
          | _ => holdsLock held va num
        if u64At bs 16 = 0 ∨ own = true ∨ 16 ≤ held.length then s.lockError who key e
        else if lockHeld w then s.clearRemote who e.tag
        else
          match s.lockSwap who l w (lockTaken w owner) with
          | (s, .error er) => s.endEntry who p key e (lockQ key) (.mem er va true)
          | (s, .ok false) => s.clearRemote who e.tag
          | (s, .ok true) =>
            let s := s.setHeld who (held ++ [{ va := va, gang := num, seq := e.seq }])
            let s := if lockAband w then s.setLabn who e.sg else s
            let s := match who with | .crew c _ => s.acquire c sc | _ => s
            (s.endAcq who e.sg none).performed who key

/-- rlk.rel (R91): the dirty data written back, the markers gathered, then the record freed. -/
def State.releasePerform (s : State) (who : Issuer) (p key sc : Nat) (e : QEntry) : State :=
  let va := e.a.toNat
  let num := e.vals.getD 0 0
  if va % 64 ≠ 0 then s.lockError who key e
  else
    match s.lockLoc p va with
    | .error x => s.endEntry who p key e (lockQ key) x
    | .ok l =>
      match s.lockRead who l va 24 with
      | (s, .error x) => s.endEntry who p key e (lockQ key) x
      | (s, .ok bs) =>
        let w := u64At bs 0
        let held := s.heldLocks who
        let own := match who with
          | .mgmt _ => lockOwner w == s.ownerBits who 0
          | _ => holdsLock held va num
        if u64At bs 16 = 0 ∨ lockHeld w = false ∨ own = false then s.lockError who key e
        else
          let s := match who with | .crew c _ => s.releaseWb c sc | _ => s
          match s.flushGate who sc (match l.dev with | some d => [d] | none => []) e.tag with
          | (s, .wait) => s
          | (s, .error) => s.failEntry who key e 0x37 5 va
          | (s, .done) =>
            match s.lockSwap who l w (lockReleased w (lockAband w)) with
            | (s, .error er) => s.endEntry who p key e (lockQ key) (.mem er va true)
            | (s, .ok _) => (s.setHeld who (held.filter (fun h => !(h.va == va && h.gang == num)))).performed who key

/-- Where the lock command of a step stands: the commands that enter no queue, or the fabric queue. -/
def lockKey (s : State) : Nat := if s.inp.a = 5 then 5 else ordKey

/-- The issuer of an rlk.acq does not acquire: a stop of its crew is requested (R296), or a failure is posted to it, at which it
leaves the wait (R228). -/
def State.acqBarred (s : State) (who : Issuer) (sg : Nat) : Bool :=
  match who with
  | .crew c k =>
    ((s.crewOf c k).map Crew.stopReq).getD true || ((s.issuingSub c k sg).map (fun x => x.th.posted != [])).getD true
  | .mgmt h => (s.mgmt h).th.posted != []
  | .tile _ => false

/-- LOCK_ACQUIRE_PERFORM (R91). One whose update is on its way to another device goes on. -/
def execLockAcquirePerform (s : State) : Out :=
  orderedStep (lockKey s) isAcq (fun who p e s =>
    if s.acqBarred who e.sg && !s.swapSent who e.sg then s
    else
      match e.cmd with
      | .rlkAcq f => s.acquirePerform who p (lockKey s) f.m.toNat e
      | _ => s) s

/-- LOCK_BIND_PERFORM (R91). -/
def execLockBindPerform (s : State) : Out :=
  orderedStep (lockKey s) (fun i => match i with | .rlkBind _ => true | _ => false)
    (fun who p e s => s.bindPerform who p (lockKey s) e) s

/-- LOCK_RELEASE_PERFORM (R91). -/
def execLockReleasePerform (s : State) : Out :=
  orderedStep (lockKey s) (fun i => match i with | .rlkRel _ => true | _ => false) (fun who p e s =>
    match e.cmd with
    | .rlkRel f => s.releasePerform who p (lockKey s) f.m.toNat e
    | _ => s) s

/-! ## Commit (R246) -/

/-- The release at device scope that a command performs of its issuer's writes (R246, R248). -/
def State.releaseDev (s : State) (who : Issuer) (target : List Nat) : State × Gate :=
  (match who with | .crew c _ => s.releaseWb c 4 | _ => s).flushGate who 4 target s.opTag

def State.commitPerform (s : State) (who : Issuer) (p : Nat) (e : QEntry) : State :=
  let va := e.a.toNat
  let n := e.b.toNat
  if va % 64 ≠ 0 then s.failEntry who ordKey e 0x32 8 va
  else
    match s.lockLoc p va with
    | .error x => s.endEntry who p ordKey e 8 x
    | .ok l =>
      match s.releaseDev who (match l.dev with | some d => [d] | none => []) with
      | (s, .wait) => s
      | (s, .error) => s.failEntry who ordKey e 0x37 8 va
      | (s, .done) =>
        match s.readE who p va 64 with
        | (s, .error x) => s.endEntry who p ordKey e 8 x
        | (s, .ok bs) =>
          let k := kvOf bs
          if kvOk bs = false ∨ n < k.commit ∨ k.commit + k.spec < n ∨ k.cap < n then s.failEntry who ordKey e 0x36 8 va
          else
            match s.writeE who p (va + 0x18) (leBytes 4 n) with
            | (s, .error x) => s.endEntry who p ordKey e 8 x
            | (s, .ok _) =>
              let old := if k.win = 0 then k.oldest else max k.oldest (n - k.win)
              match (if old = k.oldest then (s, Except.ok ()) else s.writeE who p (va + 0x1C) (leBytes 4 old)) with
              | (s, .error x) => s.endEntry who p ordKey e 8 x
              | (s, .ok _) => s.performed who ordKey

/-- KV_COMMIT_PERFORM (R246). -/
def execKvCommitPerform (s : State) : Out :=
  orderedStep ordKey (fun i => match i with | .kvCmt _ => true | _ => false)
    (fun who p e s => s.commitPerform who p e) s

/-! ## Wayposts (R247, R335 to R338) -/

def wpKey (hub c e : Nat) : Nat := hub * 65536 + c * 256 + e
def wpEmpty : List WpEntry := List.replicate 8 {}
def State.wpRow (s : State) (k : Nat) : WpRow := SMap.get {} s.wayposts k

/-- Index of the least counter, the lowest on a tie. -/
def leastIx (es : List WpEntry) : Nat :=
  (firstIdx (fun e => es.all (fun x => e.count ≤ x.count)) es).getD 0

/-- Training of a row with successor x (R247). -/
def wpTrain (es : List WpEntry) (x : Nat) : List WpEntry :=
  match firstIdx (fun e => e.set && e.succ == x) es with
  | some i =>
    if (es.getD i {}).count = 7 then
      (es.zip (span 0 8)).map (fun y => if y.2 = i then y.1 else { y.1 with count := y.1.count - 1 })
    else updAt es i (fun y => { y with count := y.count + 1 })
  | none => setAt es (leastIx es) { set := true, succ := x, count := 1 }

/-- A row as partition p finds it for an update: its own, or cleared and taken (R335). -/
def WpRow.take (r : WpRow) (p : Nat) : List WpEntry :=
  if r.owned && r.owner == p then (if r.es = [] then wpEmpty else r.es) else wpEmpty

/-- WAYPOST_UPDATE_PERFORM (R247). -/
def execWaypostUpdatePerform (s : State) : Out :=
  orderedStep ordKey (fun i => match i with | .wpUpd _ => true | _ => false) (fun who p e s =>
    if 256 ≤ e.a.toNat ∨ 256 ≤ e.b.toNat ∨ 256 ≤ e.c.toNat then s.failEntry who ordKey e 0x31 8 e.a.toNat
    else
      let k := wpKey (s.shub p) e.a.toNat e.b.toNat
      let r : WpRow := { owned := true, owner := p, es := wpTrain ((s.wpRow k).take p) e.c.toNat }
      { s with wayposts := SMap.set {} s.wayposts k r }.performed who ordKey) s

/-- A line prefetched into its home slice: a present one keeps its position and count; one on another device is read
there, and no one takes its reply (R338). -/
def State.prefetchLine (s : State) (p va : Nat) : State :=
  match s.translate p va false with
  | .ok (.hbm k) => if s.l2.any (fun x => x.1 == k / 128) then s else s.l2Fill (k / 128) 3 0
  | .ok (.remote dev pa) => s.sendNoted p dev (leBytes 8 pa)
  | .error e => s.countErr e
  | _ => s

/-- The lines of one successor's shards. -/
def shardLines (dies sbase slen : Nat) (estride dstride : Int) (x : Nat) : List Nat :=
  (span 0 dies).flatMap (fun (k : Nat) =>
    let a := wrapN 64 ((sbase : Int) + x * estride + k * dstride)
    (span 0 (slen / 128)).map (fun i => (a + 128 * i) % 2 ^ 64))

/-- WAYPOST_PREFETCH_PERFORM (R247, R338). -/
def execWaypostPrefetchPerform (s : State) : Out :=
  entryStep 4 (fun i => match i with | .wpPre _ => true | _ => false) (fun who p e s =>
    match e.cmd with
    | .wpPre f =>
      -- the hub takes this issuer's row updates in issue order with its row reads (R339)
      if (s.queues who).ordered.any (fun x => x.seq < e.seq && (match x.cmd with | .wpUpd _ => true | _ => false)) then s
      else if 256 ≤ e.a.toNat ∨ 256 ≤ e.b.toNat then s.popEntry who 4
      else
        let ctl := (s.part p).wptctl.toNat
        let r := s.wpRow (wpKey (s.shub p) e.a.toNat e.b.toNat)
        let t := max (f.m.toNat % 8) 1
        if !bitAt ctl 0 || !r.owned || r.owner != p then s.popEntry who 4
        else
          match s.readVa who p ((canonVa (fld ctl 56 13 * 8192) + 32 * e.a.toNat) % 2 ^ 64) 32 e.tag with
          | (s, .error (.wait, _)) => s
          | (s, .error (e, _)) => (s.countErr e).performed who 4
          | (s, .ok bs) =>
            let tf := u8At bs 0x1C
            let bad := u64At bs 0 % 128 ≠ 0 ∨ u64At bs 8 % 128 ≠ 0 ∨ u64At bs 0x10 % 128 ≠ 0 ∨
              u32At bs 0x18 % 128 ≠ 0 ∨ 2 ≤ tf ∨ zeroAt bs 0x1D 0x20 = false
            if !bitAt tf 0 && !decide bad then s.performed who 4
            else if bad then
              ((s.heat (.tplerr p) 2).setPart p { s.part p with wptctl := (s.part p).wptctl ||| 2 }).performed who 4
            else
              let es := r.es.filter (fun x => x.set && t ≤ x.count)
              let ls := es.flatMap (fun x =>
                shardLines s.dies (u64At bs 0) (u32At bs 0x18) (sx 64 (u64At bs 8)) (sx 64 (u64At bs 0x10)) x.succ)
              (ls.foldl (fun s a => s.prefetchLine p a) s).performed who 4
    | _ => s) s

/-! ## launch (R248) -/

def State.launchPerform (s : State) (who : Issuer) (p : Nat) (e : QEntry) : State :=
  let va := e.a.toNat
  let n := e.b.toNat
  if va % 64 ≠ 0 then s.failEntry who ordKey e 0x32 8 va
  else if 32 ≤ n then s.failEntry who ordKey e 0x30 8 va
  else
    let d := s.dlq n
    if !bitAt d.ctl.toNat 7 || fld d.ctl.toNat 2 0 != p then s.failEntry who ordKey e 0x30 8 va
    else if 64 ≤ d.entries.length then s
    else
      match s.releaseDev who [] with
      | (s, .wait) => s
      | (s, .error) => s.failEntry who ordKey e 0x37 8 va
      | (s, .done) =>
        match s.readE who p va 512 with
        | (s, .error x) => s.endEntry who p ordKey e 8 x
        | (s, .ok bs) =>
          (s.setDlq n { s.dlq n with entries := (s.dlq n).entries ++ [bs] }).performed who ordKey

/-- LAUNCH_PERFORM (R248). -/
def execLaunchPerform (s : State) : Out :=
  orderedStep ordKey (fun i => match i with | .launch _ => true | _ => false)
    (fun who p e s => s.launchPerform who p e) s

end Sys2Proof.Machine
end

