-- ==== Sys2Proof/Machine/Cairn.lean ====
section
/-! DEFINITION. Cairn memory: contexts and handles (R243, R318, R319), keys and the index (R320, R321), append
(R322), query (R323, R324), errors (R326) and images (R327, R328). -/

namespace Sys2Proof.Machine

/-! ## Contexts -/

/-- The parameters of R243 that an image must keep too. -/
def capsOk (hcap quota : Nat) : Bool :=
  hcap % 256 == 0 && 256 ≤ hcap && quota % 256 == 0 && 256 ≤ quota && quota ≤ hcap

/-- The physical die that a DIE or TDIE word names for partition p and an issuer; none outside the partition. -/
def State.cairnDie (s : State) (who : Issuer) (p w : Nat) : Option Nat :=
  if w = 0xFFFFFFFF then some (s.issuerDie who) else if w < s.dies then some (s.physDie p w) else none

/-- Index entries reserved on a die (R319). -/
def State.cairnReserved (s : State) (d : Nat) : Nat :=
  s.cairns.foldl (fun a c => if c.1 / 1024 = d ∧ c.2.isOpen = true then a + 3 * c.2.quota else a) 0

/-- The lowest free context of a die that can reserve a quota; none when no context can be taken (R319), as on a die under
reset, whose unit starts empty (R356; log entry 90). -/
def State.cairnFree (s : State) (d quota : Nat) : Option Nat :=
  if s.dieBusy d = true ∨ 2097152 < s.cairnReserved d + 3 * quota then none
  else (span 0 1024).find? (fun n => !(s.cairn (d * 1024 + n)).isOpen)

/-- The generation after g: from 1, wrapping from 2^20 − 1 to 1 (R243). -/
def nextGen (g : Nat) : Nat := if g = 2 ^ 20 - 1 then 1 else g + 1

/-- A handle (R243), by the logical die. -/
def State.cairnHandle (s : State) (p d n gen : Nat) : Nat := gen * 2 ^ 12 + s.logDie p d * 2 ^ 10 + n

/-- CAIRN_OPEN_PERFORM (R244, R319). -/
def State.openPerform (s : State) (who : Issuer) (p : Nat) (e : QEntry) : State :=
  let va := e.b.toNat
  if va % 32 ≠ 0 then s.failEntry who ordKey e 0x32 7 va
  else
    match s.readE who p va 32 with
    | (s, .error x) => s.endEntry who p ordKey e 7 x
    | (s, .ok bs) =>
      let hcap := u32At bs 8
      let quota := u32At bs 0x0C
      match s.cairnDie who p (u32At bs 0x10) with
      | none => s.failEntry who ordKey e 0x39 7 0
      | some d =>
        if u64At bs 0 % 64 ≠ 0 ∨ capsOk hcap quota = false ∨ zeroAt bs 0x14 0x20 = false then s.failEntry who ordKey e 0x39 7 0
        else
          match s.cairnFree d quota with
          | none => (s.finishHeld who e (some 0)).performed who ordKey
          | some n =>
            let k := d * 1024 + n
            let g := nextGen (s.cairn k).gen
            let s := s.setCairn k { isOpen := true, gen := g, part := p, haddr := u64At bs 0, hcap := hcap, quota := quota }
            (s.finishHeld who e (some (BitVec.ofNat 64 (s.cairnHandle p d n g)))).performed who ordKey

def execCairnOpenPerform (s : State) : Out :=
  orderedStep ordKey (fun i => match i with | .cairnOpen _ => true | _ => false)
    (fun who p e s => s.openPerform who p e) s

/-- The state of a context that is free keeps only its generation. -/
def CairnCtx.closed (c : CairnCtx) : CairnCtx := { gen := c.gen }

/-! ## History words -/

/-- Words that an entry has written but not yet stored, newest first, by their slot in the history. -/
abbrev Overlay := List (Nat × Nat)

/-- The token at a position (R318). -/
def State.token (s : State) (who : Issuer) (p : Nat) (c : CairnCtx) (ov : Overlay) (pos : Nat) : State × Except EErr Nat :=
  match ov.find? (fun x => x.1 == pos % c.hcap) with
  | some (_, v) => (s, .ok v)
  | none =>
    match s.readE who p ((c.haddr + 4 * (pos % c.hcap)) % 2 ^ 64) 4 with
    | (s, .ok bs) => (s, .ok (leNat bs))
    | (s, .error x) => (s, .error x)

/-- Tokens at several positions. -/
def State.tokens (s : State) (who : Issuer) (p : Nat) (c : CairnCtx) (ov : Overlay) : List Nat → State × Except EErr (List Nat)
  | [] => (s, .ok [])
  | q :: t =>
    match s.token who p c ov q with
    | (s, .error x) => (s, .error x)
    | (s, .ok v) =>
      match State.tokens s who p c ov t with
      | (s, .ok vs) => (s, .ok (v :: vs))
      | r => r

/-! ## Keys and the index (R320, R321) -/

/-- The token count of a key kind's code. -/
def kindLen (kind : Nat) : Nat := match kind with | 3 => 4 | 2 => 2 | _ => 1

/-- The index key of a kind and its tokens: kind, and bits [63:34] of the hash. -/
def keyOf (kind : Nat) (ts : List Nat) : Nat :=
  let t := fun i => ts.getD i 0
  let h := match kind with
    | 3 => hash64 (hash64 4 (t 0 * 2 ^ 32 + t 1)) (t 2 * 2 ^ 32 + t 3)
    | 2 => hash64 2 (t 0 * 2 ^ 32 + t 1)
    | _ => hash64 1 (t 0)
  kind * 2 ^ 30 + h / 2 ^ 34

/-- The kinds whose key ends at a position, four-token first. -/
def kindsAt (old pos : Nat) : List Nat :=
  (if old + 3 ≤ pos then [3] else []) ++ (if old + 1 ≤ pos then [2] else []) ++ [1]

/-- The key of a kind that ends at a position. -/
def State.keyAt (s : State) (who : Issuer) (p : Nat) (c : CairnCtx) (ov : Overlay) (kind pos : Nat) : State × Except EErr Nat :=
  let n := kindLen kind
  match s.tokens who p c ov (span (pos + 1 - n) n) with
  | (s, .ok ts) => (s, .ok (keyOf kind ts))
  | (s, .error x) => (s, .error x)

def ixSize (ix : List (Nat × List Nat)) : Nat := ix.foldl (fun a e => a + e.2.length) 0

/-- Remove a position from a key's set; an empty set is not listed. -/
def ixDel (ix : List (Nat × List Nat)) (key pos : Nat) : List (Nat × List Nat) :=
  let l := ((alGet ix key).getD []).filter (· != pos)
  if l = [] then alDel ix key else alPut ix key l

/-- The least position of a list. -/
def leastOf (l : List Nat) : Nat := l.foldl (fun m x => if x < m then x else m) (2 ^ 32)

/-- The context's entry with the least position, the lowest code on a tie (R321). -/
def ixLeast (ix : List (Nat × List Nat)) : Option (Nat × Nat) :=
  (ix.flatMap (fun e => e.2.map (fun q => (e.1, q)))).foldl (fun b x =>
    match b with
    | none => some x
    | some y => if x.2 < y.2 ∨ (x.2 = y.2 ∧ x.1 / 2 ^ 30 < y.1 / 2 ^ 30) then some x else some y) none

/-- Insertion of a position in a key's set (R321). -/
def ixInsert (ix : List (Nat × List Nat)) (cap key pos : Nat) : List (Nat × List Nat) :=
  let ix := if cap ≤ ixSize ix then (match ixLeast ix with | some (k, q) => ixDel ix k q | none => ix) else ix
  let l := (alGet ix key).getD []
  let l := if 4 ≤ l.length then l.filter (· != leastOf l) else l
  alPut ix key (pos :: l)

/-- Insert a position in the set of each key that ends at it. -/
def State.indexAt (s : State) (who : Issuer) (p : Nat) (c : CairnCtx) (ov : Overlay) (pos : Nat) :
    List Nat → State × Except EErr CairnCtx
  | [] => (s, .ok c)
  | kind :: t =>
    match s.keyAt who p c ov kind pos with
    | (s, .error x) => (s, .error x)
    | (s, .ok k) => State.indexAt s who p { c with index := ixInsert c.index (3 * c.quota) k pos } ov pos t

/-! ## Append (R322) -/

/-- Eviction of whole blocks of 256 positions. -/
def evictTo (ntok quota : Nat) : Nat → Nat → Nat
  | 0, old => old
  | n + 1, old => if quota < ntok + 1 - old then evictTo ntok quota n (old + 256) else old

/-- One token taken: its word in the overlay, its keys in the index, the current match continued or lost. -/
def State.takeToken (s : State) (who : Issuer) (p : Nat) (c : CairnCtx) (ov : Overlay) (u : Nat) :
    State × Except EErr (CairnCtx × Overlay) :=
  let pos := c.ntok
  let c := { c with old := evictTo pos c.quota (pos / 256 + 1) c.old, ntok := pos + 1 }
  let ov := (pos % c.hcap, u) :: ov
  match s.indexAt who p c ov pos (kindsAt c.old pos) with
  | (s, .error x) => (s, .error x)
  | (s, .ok c) =>
    if c.cmv && c.cm < pos then
      match s.token who p c ov c.cm with
      | (s, .error x) => (s, .error x)
      | (s, .ok v) =>
        (s, .ok ((if v = u then { c with cm := c.cm + 1, cml := min (c.cml + 1) 255 } else { c with cmv := false }), ov))
    else (s, .ok ({ c with cmv := false }, ov))

/-- The tokens of an append in order; a cause that ends it keeps what was taken. -/
def State.takeAll (s : State) (who : Issuer) (p : Nat) (c : CairnCtx) (ov : Overlay) :
    List Nat → State × Except EErr (CairnCtx × Overlay × Nat)
  | [] => (s, .ok (c, ov, 0))
  | u :: t =>
    if c.ntok = 2 ^ 32 - 1 then (s, .ok (c, ov, 0x39))
    else
      match s.takeToken who p c ov u with
      | (s, .error x) => (s, .error x)
      | (s, .ok (c, ov)) => State.takeAll s who p c ov t

/-- The tokens of a buffer up to the first uncorrectable one, and whether there is one. -/
def State.bufTokens (s : State) (who : Issuer) (p : Nat) : Nat → Nat → State × Except EErr (List Nat × Bool)
  | _, 0 => (s, .ok ([], false))
  | va, n + 1 =>
    match s.readE who p va 4 with
    | (s, .error (.mem .uncorr _ _)) => (s, .ok ([], true))
    | (s, .error x) => (s, .error x)
    | (s, .ok bs) =>
      match State.bufTokens s who p ((va + 4) % 2 ^ 64) n with
      | (s, .ok (ts, b)) => (s, .ok (leNat bs :: ts, b))
      | r => r

/-- Whether the history words an append writes translate for writing. -/
def State.histCheck (s : State) (p : Nat) (c : CairnCtx) : List Nat → Except EErr Unit
  | [] => .ok ()
  | pos :: t =>
    match s.locs p true (piecesOf ((c.haddr + 4 * (pos % c.hcap)) % 2 ^ 64) 4) with
    | .error (e, a) => .error (.mem e a true)
    | .ok _ => s.histCheck p c t

/-- The overlay stored, the oldest word first. -/
def State.storeHist (s : State) (who : Issuer) (p : Nat) (c : CairnCtx) (ov : Overlay) : State :=
  ov.reverse.foldl (fun (s : State) x => (s.writeE who p ((c.haddr + 4 * x.1) % 2 ^ 64) (leBytes 4 x.2)).1) s

def State.appendPerform (s : State) (who : Issuer) (p key : Nat) (e : QEntry) : State :=
  let h := e.a.toNat
  let n := e.c.toNat
  if s.cairnOk p h = false ∨ n = 0 ∨ 4096 < n then s.failEntry who key e 0x39 7 h
  else if e.b.toNat % 4 ≠ 0 then s.failEntry who key e 0x32 7 e.b.toNat
  else
    let c := s.cairn (key - 8)
    match s.bufTokens who p e.b.toNat n with
    | (s, .error x) => s.endEntry who p key e 7 x
    | (s, .ok (ts, bad)) =>
      match s.histCheck p c (span c.ntok ts.length) with
      | .error x => s.endEntry who p key e 7 x
      | .ok _ =>
        match s.takeAll who p c [] ts with
        | (s, .error x) => s.endEntry who p key e 7 x
        | (s, .ok (c', ov, cause)) =>
          let s := (s.storeHist who p c ov).setCairn (key - 8) c'
          if cause ≠ 0 then s.failEntry who key e cause 7 h
          else if bad then s.failEntry who key e 0x34 7 (e.b.toNat + 4 * ts.length)
          else s.performed who key

/-- Another issuer's entry of the context has begun: its accesses on another device are outstanding (R325). -/
def State.contextBusy (s : State) (who : Issuer) (key : Nat) : Bool :=
  s.remoteOps.any (fun r => r.who != who && (s.entryAt r.who key).any (fun e => r.sg == e.tag))

/-- A Cairn entry at the head of the queue of context inp.a (a queue key); the entries of one context perform one at a time,
each whole (R325). -/
def cairnStep (ok : Instr → Bool) (body : Issuer → Nat → QEntry → State → State) (s : State) : Out :=
  if s.inp.a < 8 ∨ ordKey ≤ s.inp.a then .next s
  else entryStep s.inp.a ok (fun who p e s => if s.contextBusy who s.inp.a then s else body who p e s) s

/-- CAIRN_APPEND_PERFORM (R322). -/
def execCairnAppendPerform (s : State) : Out :=
  cairnStep (fun i => match i with | .cairnApp _ => true | _ => false)
    (fun who p e s => s.appendPerform who p s.inp.a e) s

/-! ## Query (R323, R324) -/

/-- The length of the match of the suffix at e with the one at c, at most n more tokens. -/
def State.matchLen (s : State) (who : Issuer) (p : Nat) (c : CairnCtx) (cand e : Nat) : Nat → Nat → State × Except EErr Nat
  | 0, l => (s, .ok l)
  | n + 1, l =>
    if cand < c.old + l then (s, .ok l)
    else
      match s.tokens who p c [] [cand - l, e - l] with
      | (s, .error x) => (s, .error x)
      | (s, .ok ts) =>
        if ts.getD 0 0 = ts.getD 1 0 then State.matchLen s who p c cand e n (l + 1) else (s, .ok l)

/-- The best candidate of a set: the longest match, the most recent on a tie. -/
def State.bestOf (s : State) (who : Issuer) (p : Nat) (c : CairnCtx) (need e : Nat) :
    List Nat → Option (Nat × Nat) → State × Except EErr (Option (Nat × Nat))
  | [], b => (s, .ok b)
  | q :: t, b =>
    if q = e ∨ q < c.old then State.bestOf s who p c need e t b
    else
      match s.matchLen who p c q e 255 0 with
      | (s, .error x) => (s, .error x)
      | (s, .ok l) =>
        let better := match b with
          | none => true
          | some (q', l') => l' < l || (l == l' && q' < q)
        State.bestOf s who p c need e t (if need ≤ l && better then some (q, l) else b)

/-- What a query finds: source, match length, key code, and the index with its evicted entries removed. -/
structure Found where
  src : Nat := 0
  mlen : Nat := 0
  key : Nat := 0
  cont : Bool := false
  index : List (Nat × List Nat) := []
  deriving DecidableEq, Repr

/-- The lookup of the kinds in turn; a verified candidate ends it. -/
def State.lookup (s : State) (who : Issuer) (p : Nat) (c : CairnCtx) : List Nat → State × Except EErr Found
  | [] => (s, .ok { index := c.index })
  | kind :: t =>
    let e := c.ntok - 1
    match s.keyAt who p c [] kind e with
    | (s, .error x) => (s, .error x)
    | (s, .ok k) =>
      let set := (alGet c.index k).getD []
      match s.bestOf who p c (kindLen kind) e set none with
      | (s, .error x) => (s, .error x)
      | (s, .ok b) =>
        let ix := (set.filter (fun q => q < c.old && q != e)).foldl (fun ix q => ixDel ix k q) c.index
        match b with
        | some (q, l) => (s, .ok { src := q + 1, mlen := l, key := kind, index := ix })
        | none => State.lookup s who p { c with index := ix } t

def State.find (s : State) (who : Issuer) (p : Nat) (c : CairnCtx) : State × Except EErr Found :=
  if c.cmv && c.old ≤ c.cm && c.cm < c.ntok then
    (s, .ok { src := c.cm, mlen := c.cml, key := c.ckey, cont := true, index := c.index })
  else if c.ntok = 0 then (s, .ok { index := c.index })
  else s.lookup who p c (kindsAt c.old (c.ntok - 1))

/-- The 80 bytes of a query record (R245). -/
def queryBytes (mlen nprop flags src ntok : Nat) (toks : List Nat) : List Byte :=
  leBytes 1 mlen ++ leBytes 1 nprop ++ leBytes 2 flags ++ leBytes 4 src ++
  ((span 0 16).map (fun i => toks.getD i 0)).flatMap (leBytes 4) ++ leBytes 4 ntok ++ zeros 4

/-- The CAIRN packet of a query (R313). -/
def State.traceCairn (s : State) (who : Issuer) (sg h w : Nat) : State :=
  match who with
  | .tile t => s.trace (station t false) (s.unitPart t) 0 0 0x0E h [w] (s.tile t).b 0 false
  | .mgmt m => s.trace (512 + m) ((s.mgmt m).masid.toNat % 16) 0 0 0x0E h [w] (s.mgmt m).th.pc.toNat 0 true
  | .crew c k =>
    match s.issuingSub c k sg with
    | some x => s.trace x.unit x.part x.ref.slot x.ref.sub 0x0E h [w] x.th.pc.toNat x.th.lpc.toNat true
    | none => s

def State.queryPerform (s : State) (who : Issuer) (p key : Nat) (e : QEntry) : State :=
  let h := e.a.toNat
  let va := e.b.toNat
  if s.cairnOk p h = false then s.failEntry who key e 0x39 7 h
  else if va % 16 ≠ 0 then s.failEntry who key e 0x32 7 va
  else
    let c := s.cairn (key - 8)
    let wr := fun (s : State) (mlen nprop flags src : Nat) (toks : List Nat) (c' : CairnCtx) =>
      match s.writeE who p va (queryBytes mlen nprop flags src c.ntok toks) with
      | (s, .error x) => s.endEntry who p key e 7 x
      | (s, .ok _) =>
        let s := s.setCairn (key - 8) c'
        (s.traceCairn who e.sg h (mlen + nprop * 2 ^ 8 + flags * 2 ^ 16 + src * 2 ^ 32)).performed who key
    match s.find who p c with
    | (s, .error (.mem .uncorr _ _)) => wr s 0 0 1 0 [] c
    | (s, .error x) => s.endEntry who p key e 7 x
    | (s, .ok f) =>
      if f.mlen = 0 && !f.cont then wr s 0 0 0 0 [] { c with index := f.index, cmv := false }
      else
        let n := min 16 (c.ntok - f.src)
        match s.tokens who p c [] (span f.src n) with
        | (s, .error (.mem .uncorr _ _)) => wr s 0 0 (1 + b2n f.cont * 2 + f.key * 4) 0 [] c
        | (s, .error x) => s.endEntry who p key e 7 x
        | (s, .ok ts) =>
          wr s f.mlen n (b2n f.cont * 2 + f.key * 4) (if n = 0 then 0 else f.src) ts
            { c with index := f.index, cm := f.src, cml := f.mlen, ckey := f.key, cmv := true }

/-- CAIRN_QUERY_PERFORM (R323). -/
def execCairnQueryPerform (s : State) : Out :=
  cairnStep (fun i => match i with | .cairnQry _ => true | _ => false)
    (fun who p e s => s.queryPerform who p s.inp.a e) s

/-! ## Images (R327, R328) -/

/-- The index entries of a context at or above OLD, by position, then kind. -/
def imageEntries (c : CairnCtx) : List (Nat × Nat) :=
  sortBy (fun x => x.2 * 4 + x.1 / 2 ^ 30)
    ((c.index.flatMap (fun e => e.2.map (fun q => (e.1, q)))).filter (fun x => c.old ≤ x.2))

def entryWord (x : Nat × Nat) : Nat := x.1 % 2 ^ 30 * 2 ^ 34 + x.1 / 2 ^ 30 * 2 ^ 32 + x.2

def imageBytes (c : CairnCtx) : List Byte :=
  let es := imageEntries c
  leBytes 4 0x53594301 ++ leBytes 2 1 ++ zeros 2 ++ leBytes 8 c.haddr ++ leBytes 4 c.hcap ++ leBytes 4 c.quota ++
  leBytes 4 c.ntok ++ leBytes 4 c.old ++ leBytes 4 c.cm ++ leBytes 1 c.cml ++ leBytes 1 (b2n c.cmv + c.ckey * 2) ++
  zeros 2 ++ leBytes 4 0xFFFFFFFF ++ leBytes 4 es.length ++ zeros 16 ++ es.flatMap (fun x => leBytes 8 (entryWord x))

/-- The index without its entries below OLD. -/
def ixLive (ix : List (Nat × List Nat)) (old : Nat) : List (Nat × List Nat) :=
  (ix.map (fun e => (e.1, e.2.filter (fun q => old ≤ q)))).filter (fun e => e.2 != [])

/-- CAIRN_SAVE_PERFORM (R327). -/
def execCairnSavePerform (s : State) : Out :=
  cairnStep (fun i => match i with | .cairnSave _ => true | _ => false) (fun who p e s =>
    let key := s.inp.a
    let h := e.a.toNat
    if s.cairnOk p h = false then s.failEntry who key e 0x39 7 h
    else if e.b.toNat % 64 ≠ 0 then s.failEntry who key e 0x32 7 e.b.toNat
    else
      let c := s.cairn (key - 8)
      match s.writeE who p e.b.toNat (imageBytes c) with
      | (s, .error x) => s.endEntry who p key e 7 x
      | (s, .ok _) => (s.setCairn (key - 8) { c with index := ixLive c.index c.old }).performed who key) s

/-- CAIRN_CLOSE_PERFORM (R244): a handle that names no open context has no effect. -/
def execCairnClosePerform (s : State) : Out :=
  cairnStep (fun i => match i with | .cairnClose _ => true | _ => false) (fun who p e s =>
    let key := s.inp.a
    let s := if s.cairnOk p e.a.toNat then s.setCairn (key - 8) (s.cairn (key - 8)).closed else s
    s.performed who key) s

/-- The context that an image's header gives. -/
def imageCtx (bs : List Byte) : CairnCtx :=
  let fl := u8At bs 0x25
  { isOpen := true, haddr := u64At bs 8, hcap := u32At bs 0x10, quota := u32At bs 0x14
    ntok := u32At bs 0x18, old := u32At bs 0x1C, cm := u32At bs 0x20, cml := u8At bs 0x24
    cmv := bitAt fl 0, ckey := fld fl 2 1 }

/-- The checks of R328 on a header, TDIE apart. -/
def imageOk (bs : List Byte) : Bool :=
  let c := imageCtx bs
  u32At bs 0 == 0x53594301 && u16At bs 4 == 1 && zeroAt bs 6 8 && u8At bs 0x25 < 8 && zeroAt bs 0x26 0x28 && zeroAt bs 0x30 0x40 &&
  capsOk c.hcap c.quota && c.old % 256 == 0 && c.old ≤ c.ntok && c.ntok - c.old ≤ c.quota && (!c.cmv || c.cm < c.ntok) &&
  u32At bs 0x2C ≤ 3 * c.quota

/-- The entries of an image are legal and in the order of R327. -/
def entriesOk (c : CairnCtx) : List Nat → Bool
  | [] => true
  | w :: t =>
    let pos := w % 2 ^ 32
    let kind := fld w 33 32
    kind != 0 && c.old ≤ pos && pos < c.ntok &&
    (match t with | [] => true | w' :: _ => pos * 4 + kind < w' % 2 ^ 32 * 4 + fld w' 33 32) && entriesOk c t

/-- The index rebuilt from the history, position by position. -/
def State.rebuild (s : State) (who : Issuer) (p : Nat) (c : CairnCtx) : List Nat → State × Except EErr CairnCtx
  | [] => (s, .ok c)
  | pos :: t =>
    match s.indexAt who p c [] pos (kindsAt c.old pos) with
    | (s, .error x) => (s, .error x)
    | (s, .ok c) => State.rebuild s who p c t

def State.restorePerform (s : State) (who : Issuer) (p : Nat) (e : QEntry) : State :=
  let va := e.b.toNat
  if va % 64 ≠ 0 then s.failEntry who ordKey e 0x32 7 va
  else
    match s.readE who p va 64 with
    | (s, .error x) => s.endEntry who p ordKey e 7 x
    | (s, .ok bs) =>
      match s.cairnDie who p (u32At bs 0x28) with
      | none => s.failEntry who ordKey e 0x39 7 0
      | some d =>
        if !imageOk bs then s.failEntry who ordKey e 0x39 7 0
        else
          let n := u32At bs 0x2C
          let c := imageCtx bs
          match s.readE who p (va + 64) (8 * n) with
          | (s, .error x) => s.endEntry who p ordKey e 7 x
          | (s, .ok es) =>
            let ws := (chunks 8 n es).map leNat
            if !entriesOk c ws then s.failEntry who ordKey e 0x39 7 0
            else
              match s.cairnFree d c.quota with
              | none => (s.finishHeld who e (some 0)).performed who ordKey
              | some i =>
                let k := d * 1024 + i
                let g := nextGen (s.cairn k).gen
                let c := { c with gen := g, part := p }
                let fin := fun (s : State) (c : CairnCtx) =>
                  let s := s.setCairn k c
                  (s.finishHeld who e (some (BitVec.ofNat 64 (s.cairnHandle p d i g)))).performed who ordKey
                if n ≠ 0 then
                  fin s { c with index := ws.foldl (fun ix w => ixInsert ix (3 * c.quota) (fld w 33 32 * 2 ^ 30 + fld w 63 34) (w % 2 ^ 32)) [] }
                else
                  match s.rebuild who p c (span c.old (c.ntok - c.old)) with
                  | (s, .ok c) => fin s c
                  | (s, .error (.mem .uncorr a w)) => (s.setCairn k c.closed).endEntry who p ordKey e 7 (.mem .uncorr a w)
                  | (s, .error x) => s.endEntry who p ordKey e 7 x

/-- CAIRN_RESTORE_PERFORM (R328). -/
def execCairnRestorePerform (s : State) : Out :=
  orderedStep ordKey (fun i => match i with | .cairnRst _ => true | _ => false)
    (fun who p e s => s.restorePerform who p e) s

end Sys2Proof.Machine
end

