-- ==== Sys2Proof/Machine/Splitter.lean ====
section
/-! DEFINITION. Launches from their descriptors: the fields and their checks (R30 to R33, R36, R43, R50), hardware
queue entries (R276), device launch queues (R287), graph runs (R290, R291), the reading of bounds (R34),
classification (R35 to R37) and dispatch order (R38). -/

namespace Sys2Proof.Machine

/-! ## Descriptors (R30 to R33) -/

def boxOf (bs : List Byte) (o : Nat) : BoxDim :=
  { sel := u8At bs o, hlo := u8At bs (o + 1), hhi := u8At bs (o + 2), coef := sx 32 (u32At bs (o + 4))
    off := sx 32 (u32At bs (o + 8)), ext := u32At bs (o + 12) }

/-- The fields of a descriptor's 512 bytes. -/
def parseDesc (bs : List Byte) : Desc :=
  let fl := u8At bs 3
  { rank := u8At bs 2, inplace := bitAt fl 0, grouped := bitAt fl 1, persist := bitAt fl 2, bwait := bitAt fl 3, legacy := bitAt fl 4
    queue := u8At bs 4, qrank := u8At bs 5 % 8, fallback := u8At bs 6, curve := u8At bs 7 % 8, bandw := u16At bs 8
    mask := u8At bs 0x0A, mi := u8At bs 0x0B % 4, mj := u8At bs 0x0B / 4 % 4, moff := sx 32 (u32At bs 0x0C), mband := u32At bs 0x10
    ltag := u32At bs 0x14, msaddr := u64At bs 0x18
    bounds := (span 0 4).map (fun d => (u64At bs (0x20 + 16 * d), u8At bs (0x28 + 16 * d)))
    tile := (span 0 4).map (fun d => u16At bs (0x60 + 2 * d))
    egangs := u8At bs 0x68, eslices := u8At bs 0x69, ecmem := u16At bs 0x6A, pte := u16At bs 0x6C, pec := u16At bs 0x6E
    iaddr := u64At bs 0x70, ilen := u32At bs 0x78, iform := u8At bs 0x7C
    esaddr := u64At bs 0x80, eslen := u32At bs 0x88, eladdr := u64At bs 0x90, ellen := u32At bs 0x98
    pwin := (span 0 8).map (fun n =>
      let w := u64At bs (0xA0 + 8 * n)
      (wrapN 64 (sx 57 (w % 2 ^ 49 * 256)), w / 2 ^ 49 * 256))
    lref := (span 0 8).map (fun n => u64At bs (0xE0 + 8 * n))
    rtag := u32At bs 0x120, wtag := u32At bs 0x124, rrank := u8At bs 0x128, wrank := u8At bs 0x129
    rbox := (span 0 4).map (fun d => boxOf bs (0x130 + 16 * d))
    wbox := (span 0 4).map (fun d => boxOf bs (0x170 + 16 * d))
    link := (span 0 4).map (fun n => u32At bs (0x1B0 + 4 * n))
    role := (span 0 16).map (fun n => u8At bs (0x1C0 + n))
    goaddr := u64At bs 0x1D0, gcount := u32At bs 0x1D8, gdim := u8At bs 0x1DC }

/-- A box's dimension entries: those at or beyond its rank are zero; a box with tag 0 has no dimension, and its rank is not
looked at (R30, R33; DESIGN CHOICE: the spec is silent on a nonzero rank with tag 0, log entry 31). -/
def boxBad (bs : List Byte) (o tag rk rank : Nat) (wr : Bool) : Bool :=
  let r := if tag = 0 then 0 else rk
  (tag != 0 && (rk == 0 || 4 < rk)) ||
  (span 0 4).any (fun d =>
    let b := boxOf bs (o + 16 * d)
    if d < r then
      (b.sel != 0xFF && rank ≤ b.sel) || u8At bs (o + 16 * d + 3) != 0 || b.ext == 0 || (wr && (b.hlo != 0 || b.hhi != 0))
    else !zeroAt bs (o + 16 * d) (o + 16 * d + 16))

/-- The fields of an edge body, checked only when there is one (R30). -/
def edgeBad (d : Desc) : Bool :=
  d.eslen != 0 &&
  (d.egangs == 0 || 16 < d.egangs || d.eslices == 0 || (if d.legacy then 4 else 8) < d.eslices ||
   d.ecmem == 0 || 256 < d.ecmem || d.ellen % 12 != 0 || d.esaddr % 4 != 0 || d.eladdr % 4 != 0)

/-- The bound and tile entries of a dimension (R31). -/
def boundBad (bs : List Byte) (d : Desc) (k : Nat) : Bool :=
  let o := 0x20 + 16 * k
  let (bv, src) := d.bounds.getD k (0, 0)
  let tl := d.tile.getD k 0
  if k < d.rank then
    2 < src || !zeroAt bs (o + 9) (o + 16) || (src == 1 && bv % 8 != 0) || (src == 2 && bv % 4 != 0) || tl == 0 || 4096 < tl
  else !zeroAt bs o (o + 16) || tl != 0

/-- The mask fields that need no bound (R36). -/
def maskBad (d : Desc) : Bool :=
  3 < d.mask ||
  (d.mask != 0 && (d.mi == d.mj || d.rank ≤ d.mi || d.rank ≤ d.mj ||
    (d.mask == 2 && d.mband == 0) || (d.mask == 3 && (d.mband == 0 || 16 < d.mband))))

/-- The grouped fields (R39, R43). -/
def groupBad (bs : List Byte) (d : Desc) : Bool :=
  if d.grouped then d.gcount == 0 || 65536 < d.gcount || d.rank ≤ d.gdim || 3 < d.rank || d.goaddr % 4 != 0
  else !zeroAt bs 0x1D0 0x1DD

/-- The role bytes (R50). -/
def roleBad (d : Desc) : Bool :=
  d.role.any (fun r => 4 < r) || (!d.persist && d.role.any (· != 0)) || (d.eslen != 0 && (d.role.drop d.egangs).any (· != 0))

/-- What breaks a rule of cause 0x01. -/
def descBad1 (bs : List Byte) (d : Desc) : Bool :=
  u16At bs 0 != 1 || d.rank == 0 || 4 < d.rank || 32 ≤ u8At bs 3 || 8 ≤ u8At bs 5 || 1 < d.fallback || 4 < u8At bs 7 ||
  (d.curve == 4 && d.bandw == 0) || 16 ≤ u8At bs 0x0B || maskBad d || d.msaddr % 64 != 0 ||
  (span 0 4).any (boundBad bs d) || edgeBad d || (!d.persist && (d.pte != 0 || d.pec != 0)) ||
  d.iaddr % 4 != 0 || 2 < d.iform || !zeroAt bs 0x7D 0x80 || !zeroAt bs 0x8C 0x90 || !zeroAt bs 0x9C 0xA0 ||
  !zeroAt bs 0x12A 0x130 || boxBad bs 0x130 d.rtag d.rrank d.rank false || boxBad bs 0x170 d.wtag d.wrank d.rank true ||
  groupBad bs d || !zeroAt bs 0x1DD 0x200

/-- The lowest cause among the descriptor's failing fields, 0 when none fails (R34, step 1). -/
def descCause (bs : List Byte) : Nat :=
  let d := parseDesc bs
  if descBad1 bs d then 1
  else if d.pwin.any (fun w => 65536 < w.2) || d.lref.any (fun r => r % 128 != 0) then 5
  else if roleBad d then 6
  else 0

/-! ## Links (R45) -/

/-- The index of a ring entry's place. -/
def HwQueue.entryVa (h : HwQueue) (i : Nat) : Nat := h.base.toNat + 16 * (i % (16 * 2 ^ fld h.ctl.toNat 7 4))

/-- The number by which the front end's remote reads for a queue are known. -/
def frontSg (p q : Nat) : Nat := 40000 + 256 * p + q

/-- LTAG of an entry not yet read, when it can be read where it lies. -/
def State.peekTag (s : State) (p : Nat) (h : HwQueue) (i : Nat) : Option Nat :=
  let who := Issuer.mgmt (s.shub p)
  let s := { s with via := viaOwn }
  match (s.readVa who p (h.entryVa i) 16 (frontSg p 0)).2 with
  | .ok e =>
    if u8At e 0 = 1 then
      (match (s.readVa who p (u64At e 8 + 0x14) 4 (frontSg p 0)).2 with
       | .ok t => some (leNat t)
       | .error _ => none)
    else none
  | .error _ => none

/-- Entries of the partition not yet read, by arrival number, that carry a tag. -/
def State.unread (s : State) (p tag before : Nat) : List Nat :=
  (s.part p).queues.flatMap (fun q =>
    ((q.2.arrivals.zip (span 0 q.2.arrivals.length)).filter (fun a =>
      a.1 < before && s.peekTag p q.2 (q.2.head.toNat + a.2) == some tag)).map Prod.fst)

/-- The latest launch of the partition that arrived before a number, carries the tag and has not ended. -/
def State.linkOf (s : State) (p tag before : Nat) : Option Nat :=
  let ls := (s.launches.filter (fun l => l.2.part == p && l.2.desc.ltag == tag && l.1 < before)).map Prod.fst
  match ls ++ s.unread p tag before with
  | [] => none
  | h :: t => some (t.foldl max h)

/-- A named launch has not ended: it runs, or its entry is not yet read. -/
def State.linkOpen (s : State) (p k : Nat) : Bool :=
  alHas s.launches k || (s.part p).queues.any (fun q => q.2.arrivals.contains k)

/-- A launch that has arrived at the front end with arrival number k, from descriptor bytes. MSADDR of a graph's launch is
ignored (R290). -/
def State.addLaunch (s : State) (p q k : Nat) (bs : List Byte) (run : Option (Nat × Nat)) : State :=
  let bs := if run.isSome then bs.take 0x18 ++ zeros 8 ++ bs.drop 0x20 else bs
  let d := parseDesc bs
  let l : Launch := {
    part := p, queue := q, desc := d, arrival := k, run := run, bad := descCause bs
    links := (d.link.filter (· != 0)).filterMap (fun t => s.linkOf p t k) }
  s.setLaunch k l

/-- The launch enters its queue's order of dispatch (R29). -/
def State.enqueueLaunch (s : State) (p q k : Nat) : State :=
  let h := s.hwq p q
  s.setHwq p q { h with fifo := insKey k h.fifo }

/-! ## Graph runs (R288 to R291) -/

def State.graphOf (s : State) (p h : Nat) : Option Graph := (s.part p).graphs.find? (fun g => g.handle == h)

/-- No run of the executable that has begun is left to write its record, and none that waits comes before run r; or the
executable is reentrant (R291). -/
def State.runMay (s : State) (p r : Nat) (g : GraphRun) : Bool :=
  match s.graphOf p g.graph with
  | none => true
  | some x => x.reent || (s.part p).runs.all (fun y => y.2.graph != g.graph || y.1 == r || (!y.2.started && r < y.1))

/-- A run begins: zero in its record and in every launch slot (R290). -/
def State.startRun (s : State) (p r : Nat) (g : GraphRun) : State :=
  let n := ((s.graphOf p g.graph).map (fun x => x.descs.length)).getD 0
  let run := match s.writeVa (.mgmt (s.shub p)) p g.record (zeros (64 + 64 * n)) with
    | .ok s => some s
    | .error (.wait, _) => none
    | .error (e, _) => some (s.countErr e)
  match run with
  | none => s
  | some s => s.setPart p { s.part p with runs := alPut (s.part p).runs r { g with started := true } }

def State.startRuns (s : State) (p : Nat) : State :=
  (s.part p).runs.foldl (fun s r => if !r.2.started && s.runMay p r.1 r.2 then s.startRun p r.1 r.2 else s) s

/-- A launch of the run was refused or has failed (R290). -/
def State.runFailed (s : State) (p r : Nat) (g : GraphRun) : Bool :=
  g.done.any (fun d => d.2 % 16 != 1) ||
  s.launches.any (fun x => x.2.part == p && x.2.cause != 0 && x.2.run.any (fun y => y.1 == r))

/-- The run has dispatched its last launch: it sends no more, and every launch sent is wholly dispatched (R276, R290). -/
def State.runDispatched (s : State) (p r : Nat) (g : GraphRun) : Bool :=
  (s.runFailed p r g || (g.started && g.sent.length == ((s.graphOf p g.graph).map (fun x => x.descs.length)).getD 0)) &&
  (s.hwq p g.queue).fifo.all (fun k => !((s.launch k).any (fun l => l.run.any (fun y => y.1 == r))))

/-- A launch's place in its queue: its own arrival, or that of the run it belongs to (R287, R290). -/
def State.placeOf (s : State) (k : Nat) : Nat := ((s.launch k).bind Launch.run).elim k Prod.fst

/-- The launches of a run that are ready and not sent, with the point at which each became ready. -/
def readyOf (x : Graph) (g : GraphRun) : List (Nat × Nat) :=
  (span 0 x.descs.length).filterMap (fun i =>
    let ps := x.preds.getD i []
    if g.sent.contains i || !(ps.all (fun q => g.done.any (fun d => d.1 == q && d.2 % 16 == 1))) then none
    else some ((ps.map (fun q => ((firstIdx (fun d => d.1 == q) g.done).getD 0) + 1)).foldl max 0, i))

/-- GRAPH_LAUNCH_READY (R290): the next ready launch of run inp.b of partition inp.a enters the queue. -/
def execGraphLaunchReady (s : State) : Out :=
  let p := s.inp.a
  let s := s.startRuns p
  match alGet (s.part p).runs s.inp.b with
  | none => .next s
  | some g =>
    match s.graphOf p g.graph with
    | none => .next s
    | some x =>
      if !s.partLive p || !g.started || s.runFailed p s.inp.b g then .next s
      else
        match readyOf x g with
        | [] => .next s
        | h :: t =>
          let i := (t.foldl (fun b y => if y.1 < b.1 ∨ (y.1 = b.1 ∧ y.2 < b.2) then y else b) h).2
          let k := s.seq
          let s := { s with seq := k + 1 }
          let s := s.setPart p { s.part p with runs := alPut (s.part p).runs s.inp.b { g with sent := g.sent ++ [i] } }
          let s := s.addLaunch p g.queue k (x.descs.getD i []) (some (s.inp.b, i))
          .next (s.enqueueLaunch p g.queue k)

/-! ## Hardware queue entries (R276) -/

def HwQueue.setQerr (h : HwQueue) : HwQueue := { h with stat := h.stat ||| 0x40#32 }
/-- EN cleared: the entries written and not read run nothing. -/
def HwQueue.disable (h : HwQueue) : HwQueue := { h with ctl := h.ctl &&& 0x7FFFFFFF#32, arrivals := [] }
def HwQueue.en (h : HwQueue) : Bool := bitAt h.ctl.toNat 31

/-- The entry at the head is consumed. -/
def HwQueue.consume (h : HwQueue) : HwQueue := { h with head := h.head + 1, arrivals := h.arrivals.drop 1 }

/-- The front end may read the queue's next entry. -/
def State.mayRead (s : State) (p q : Nat) : Bool :=
  let h := s.hwq p q
  s.partLive p && h.en && h.head != h.tail && !s.stalled (.front p q) &&
  h.fifo.all (fun k => match h.arrivals with | a :: _ => a < s.placeOf k | [] => false) &&
  (s.part p).runs.all (fun r => r.2.queue != q || s.runDispatched p r.1 r.2)

/-- A read of the front end that fails: a translation fault stalls it, any other error disables the queue. -/
def State.frontErr (s : State) (p q va : Nat) (e : MErr) : State :=
  match e with
  | .wait => s
  | .fault why => s.raiseFault (s.physDie p 0) p va 0x31 false why (.front p q)
  | e => (((s.countErr e).heat (.qerr p q) 64).setHwq p q (s.hwq p q).setQerr.disable).clearRemote (.mgmt (s.shub p)) (frontSg p q)

/-- RING_ENTRY_READ (R276): the next entry of queue inp.b of partition inp.a. -/
def execRingEntryRead (s : State) : Out :=
  let p := s.inp.a
  let q := s.inp.b
  if !s.mayRead p q then .next s
  else
    let h := s.hwq p q
    let who := Issuer.mgmt (s.shub p)
    match s.readVa who p (h.entryVa h.head.toNat) 16 (frontSg p q) with
    | (s, .error (e, va)) => .next (s.frontErr p q va e)
    | (s, .ok en) =>
      let kind := u8At en 0
      let gh := u32At en 4
      let addr := u64At en 8
      if zeroAt en 1 4 = false ∨ addr % 64 ≠ 0 ∨ (kind ≠ 1 ∧ kind ≠ 2) ∨ (kind = 1 ∧ gh ≠ 0) ∨
          (kind = 2 ∧ (s.graphOf p gh).isNone = true) then
        .next (((s.heat (.qerr p q) 64).setHwq p q h.consume.setQerr).clearRemote who (frontSg p q))
      else if kind = 1 then
        match s.readVa who p addr 512 (frontSg p q) with
        | (s, .error (e, va)) => .next (s.frontErr p q va e)
        | (s, .ok bs) =>
          let k := h.arrivals.headD s.seq
          let s := (s.setHwq p q h.consume).clearRemote who (frontSg p q)
          let s := s.addLaunch p q k bs none
          if u8At bs 4 ≠ q then .next (s.refuseLaunch k 1 0xFFFFFFFF) else .next (s.enqueueLaunch p q k)
      else
        let k := h.arrivals.headD s.seq
        let s := (s.setHwq p q h.consume).clearRemote who (frontSg p q)
        let s := s.setPart p { s.part p with runs := alPut (s.part p).runs k { graph := gh, queue := q, record := addr } }
        .next (s.startRuns p)

/-- DLQ_APPEND (R287): the oldest entry of device launch queue inp.a goes to its hardware queue. -/
def execDlqAppend (s : State) : Out :=
  let n := s.inp.a
  let d := s.dlq n
  match if s.partLive (fld d.ctl.toNat 2 0) then d.entries else [] with
  | [] => .next s
  | bs :: rest =>
    let p := fld d.ctl.toNat 2 0
    let q := u8At bs 4
    let k := s.seq
    let s := { s with seq := k + 1 }.setDlq n { d with entries := rest }
    let s := s.addLaunch p q k bs none
    if (s.hwq p q).en then .next (s.enqueueLaunch p q k) else .next (s.refuseLaunch k 1 0xFFFFFFFF)

/-! ## Dispatch order (R38) -/

/-- HILBERT of R38: the point of number q within the square of side 2^fuel, from width w. -/
def hilbert : Nat → Nat → Nat → Nat → Nat → Nat × Nat
  | 0, _, _, x, y => (x, y)
  | n + 1, q, w, x, y =>
    let rx := q / 2 % 2
    let ry := if q % 2 = rx then 0 else 1
    let (x, y) := if ry = 0 then (let (x, y) := if rx = 1 then (w - 1 - x, w - 1 - y) else (x, y); (y, x)) else (x, y)
    hilbert n (q / 4) (2 * w) (x + w * rx) (y + w * ry)

/-- The even bits of s: coordinate t0 of Morton order. -/
def evenBits : Nat → Nat → Nat
  | 0, _ => 0
  | n + 1, s => s % 2 + 2 * evenBits n (s / 4)

/-- The least k with n at most 2^k, up to a fuel. -/
def log2Up (n : Nat) : Nat → Nat → Nat
  | 0, k => k
  | f + 1, k => if n ≤ 2 ^ k then k else log2Up n f (k + 1)

/-- The points (t0, t1) of an n0 by n1 plane in the order of a curve. -/
def curveOrder (curve bandw n0 n1 : Nat) : List (Nat × Nat) :=
  let k := log2Up (max n0 n1) 20 0
  let inside := fun (p : Nat × Nat) => p.1 < n0 && p.2 < n1
  match curve with
  | 0 => (span 0 n1).flatMap (fun b => (span 0 n0).map (fun a => (a, b)))
  | 1 => (span 0 n0).flatMap (fun a => (span 0 n1).map (fun b => (a, b)))
  | 2 => ((span 0 (4 ^ k)).map (fun s => (evenBits k s, evenBits k (s / 2)))).filter inside
  | 3 => ((span 0 (4 ^ k)).map (fun s => hilbert k s 1 0 0)).filter inside
  | _ =>
    (span 0 ((n1 + bandw - 1) / bandw)).flatMap (fun i =>
      (span 0 n0).flatMap (fun a => (span (i * bandw) (min bandw (n1 - i * bandw))).map (fun b => (a, b))))

/-- The tile indices of a space with counts n, in enumeration order. -/
def tileOrder (d : Desc) (n : List Nat) : List (List Nat) :=
  let g := fun i => if i < d.rank then n.getD i 0 else 1
  let plane := curveOrder (if d.rank = 1 then 0 else d.curve) d.bandw (g 0) (g 1)
  (span 0 (g 3)).flatMap (fun t3 => (span 0 (g 2)).flatMap (fun t2 => plane.map (fun p => [p.1, p.2, t2, t3])))

/-! ## Classification (R35, R36) -/

/-- KEPT: 0 NONE, 1 SOME, 2 ALL, over the clipped box. -/
def kept (d : Desc) (bounds : List Nat) (lo hi : List Nat) : Nat :=
  let r0 : Int := lo.getD d.mi 0
  let r1 : Int := hi.getD d.mi 0
  let c0 : Int := lo.getD d.mj 0
  let c1 : Int := hi.getD d.mj 0
  let mb : Int := d.mband
  match d.mask with
  | 0 => 2
  | 1 => if r1 + d.moff < c0 then 0 else if c1 ≤ r0 + d.moff then 2 else 1
  | 2 =>
    if r1 + d.moff < c0 ∨ c1 ≤ r0 + d.moff - mb then 0
    else if c1 ≤ r0 + d.moff ∧ r1 + d.moff - mb < c0 then 2 else 1
  | _ => if mb ≤ r0 ∨ c1 < (bounds.getD d.mj 0 : Int) - mb then 2 else 1

/-- The range of a box dimension for a tile index (R33). -/
def boxRange (d : Desc) (t : List Nat) (start : Nat) (b : BoxDim) : Int × Int :=
  let org : Int := if b.sel = 0xFF then b.off else b.coef * (t.getD b.sel 0 : Int) + b.off
  let org := if d.grouped ∧ b.sel = d.gdim then org + start else org
  (org - b.hlo, org + b.ext + b.hhi - 1)

def boxRanges (d : Desc) (t : List Nat) (start tag rk : Nat) (bx : List BoxDim) : List (Int × Int) :=
  if tag = 0 then [] else (bx.take rk).map (boxRange d t start)

/-- A tile of group g whose group starts at a position: its item, or none when it is void. -/
def classify (d : Desc) (bounds : List Nat) (g start limit : Nat) (t : List Nat) : Option Item :=
  let ix := span 0 d.rank
  let lo := ix.map (fun k => t.getD k 0 * d.tile.getD k 0 + (if d.grouped ∧ k = d.gdim then start else 0))
  let lim := ix.map (fun k => if d.grouped ∧ k = d.gdim then limit else bounds.getD k 0)
  let hi := ix.map (fun k => min (lo.getD k 0 + d.tile.getD k 0 - 1) (lim.getD k 0 - 1))
  let cut := ix.any (fun k => hi.getD k 0 < lo.getD k 0 + d.tile.getD k 0 - 1)
  let cls := fun c => some {
    t := t, group := g, lo := lo, vext := ix.map (fun k => hi.getD k 0 + 1 - lo.getD k 0), cls := c
    onTile := c == 0 && d.iform != 0
    rbox := boxRanges d t start d.rtag d.rrank d.rbox, wbox := boxRanges d t start d.wtag d.wrank d.wbox }
  match kept d bounds lo hi with
  | 0 => none
  | 1 => cls 2
  | _ => if cut then cls 1 else cls 0

def tileCount (bound tile : Nat) : Nat := (bound + tile - 1) / tile

/-- Every tile of the space in dispatch order; none for a void one. -/
def allTiles (d : Desc) (bounds offs : List Nat) : List (Option Item) :=
  let n := (span 0 d.rank).map (fun k => tileCount (bounds.getD k 0) (d.tile.getD k 1))
  if d.grouped then
    (span 0 d.gcount).flatMap (fun g =>
      let a := offs.getD g 0
      let b := offs.getD (g + 1) 0
      let n' := (n.zip (span 0 d.rank)).map (fun x => if x.2 = d.gdim then tileCount (b - a) (d.tile.getD d.gdim 1) else x.1)
      (tileOrder d n').map (classify d bounds g a b))
  else (tileOrder d n).map (classify d bounds 0 0 0)

/-! ## The reads of the splitter (R34) -/

/-- How a read of the splitter ends: done, refused with cause 0x02, or held: stalled, or a remote reply outstanding. -/
inductive Sread where
  | ok
  | refuse
  | hold
  deriving DecidableEq, Repr

/-- The number by which a splitter's remote reads are known. -/
def splitSg (k : Nat) : Nat := 100000 + 4 * k + 2

/-- Reads of pieces for launch k: the bytes read before the first piece that fails or is held. -/
def State.splitRead (s : State) (k p : Nat) : List (Nat × Nat) → State × List Byte × Sread
  | [] => (s, [], .ok)
  | (va, n) :: t =>
    match s.readVa (.mgmt (s.shub p)) p va n (splitSg k) with
    | (s, .ok bs) =>
      (match State.splitRead s k p t with
       | (s, r, x) => (s, bs ++ r, x))
    | (s, .error (.wait, _)) => (s, [], .hold)
    | (s, .error (.fault why, a)) => (s.raiseFault (s.physDie p 0) p a 0x30 false why (.splitter k), [], .hold)
    | (s, .error (e, _)) => (s.countErr e, [], .refuse)

/-- The bounds of dimensions in their order, as far as they can be read, and how the reading ended (R34, step 2). -/
def State.readBounds (s : State) (k p : Nat) (d : Desc) : List Nat → State × List Nat × Sread
  | [] => (s, [], .ok)
  | i :: t =>
    let (bv, src) := d.bounds.getD i (0, 0)
    let (s, bs, r) := if src = 0 then (s, leBytes 8 bv, .ok) else s.splitRead k p [(bv, if src = 1 then 8 else 4)]
    match r with
    | .ok => (match State.readBounds s k p d t with
        | (s, vs, r) => (s, leNat bs :: vs, r))
    | x => (s, [], x)

/-- A bound that refuses the launch with cause 0x03. -/
def boundTooBig (d : Desc) (i b : Nat) : Bool := 0xFFFFFFFF < b || 65536 < tileCount b (d.tile.getD i 1)

/-- The first bad group of an offsets vector (R43). -/
def badGroup (o : List Nat) (e n : Nat) : Option Nat :=
  (span 0 n).find? (fun g => o.getD (g + 1) 0 < o.getD g 0 || e < o.getD (g + 1) 0)

/-- The rest of the offsets vector, as far as it can be read (R34, step 3). -/
def State.readVec (s : State) (k p : Nat) (d : Desc) (have_ : Nat) : State × List Byte × Sread :=
  if d.grouped then s.splitRead k p (piecesOf (d.goaddr + have_) (4 * (d.gcount + 1) - have_)) else (s, [], .ok)

/-- How many engines a persistent launch asks for (R285). -/
def askFor (asked items have_ : Nat) : Nat := if items = 0 then 0 else min (if asked = 0 then items else asked) have_

/-- The launch after classification: its items, its counts, and the engines it asks for. -/
def State.classifyLaunch (s : State) (k : Nat) (l : Launch) (bounds offs : List Nat) : State :=
  let d := l.desc
  let ts := allTiles d bounds offs
  let items := ts.filterMap id
  let units := (s.partUnits l.part).length
  if items.any (fun i => !i.onTile) && d.eslen == 0 then s.refuseLaunch k 7 0xFFFFFFFF
  else
    let l' := { l with
      st := if items = [] then .dispatched else .dispatching
      bounds := bounds, items := items, nvoid := (ts.filter Option.isNone).length
      cursor := ((s.unitOrder l.part).map (s.logUnit l.part)).headD 0
      askTiles := if d.persist then askFor d.pte (items.filter Item.onTile).length units else 0
      askCores := if d.persist then askFor d.pec (items.filter (fun i => !i.onTile)).length units else 0 }
    let s := s.setLaunch k l'
    if items = [] then
      let h := s.hwq l.part l.queue
      (s.setHwq l.part l.queue { h with fifo := h.fifo.filter (· != k) }).tryClose k
    else s

/-- The launch stands first in its queue: no launch with an earlier place is still dispatching, no earlier entry is unread,
and no earlier run has launches to dispatch (R29, R287, R290, R291). -/
def State.firstInQueue (s : State) (k : Nat) (l : Launch) : Bool :=
  let h := s.hwq l.part l.queue
  let n := s.placeOf k
  h.fifo.contains k && h.fifo.all (fun j => n < s.placeOf j || (n == s.placeOf j && k ≤ j)) && h.arrivals.all (fun a => n < a) &&
  (s.part l.part).runs.all (fun r => r.2.queue != l.queue || n ≤ r.1 || s.runDispatched l.part r.1 r.2)

/-- The queue's next launch begins: DEM returns to 0 (R281). -/
def State.beginLaunch (s : State) (k : Nat) (l : Launch) : State :=
  if l.began then s
  else
    let h := s.hwq l.part l.queue
    (s.setHwq l.part l.queue { h with stat := h.stat &&& 0xFFFFF8FF#32, qrank := l.desc.qrank }).setLaunch k { l with began := true }

/-- The splitter refuses a launch over what it read: its reads are over. -/
def State.refuseRead (s : State) (k : Nat) (l : Launch) (cause bad : Nat) : State :=
  (s.clearRemote (.mgmt (s.shub l.part)) (splitSg k)).refuseLaunch k cause bad

/-- Step 3 of R34 and the classification, the bounds read and checked. -/
def State.readGroups (s : State) (k : Nat) (l : Launch) : State :=
  let d := l.desc
  match s.readVec k l.part d l.vec.length with
  | (s, bs, .hold) => s.setLaunch k { l with vec := l.vec ++ bs }
  | (s, _, .refuse) => s.refuseRead k l 2 0xFFFFFFFF
  | (s, bs, .ok) =>
    let offs := bytesWords (l.vec ++ bs)
    match if d.grouped then badGroup offs (l.reads.getD d.gdim 0) d.gcount else none with
    | some g => s.refuseRead k l 4 g
    | none => (s.clearRemote (.mgmt (s.shub l.part)) (splitSg k)).classifyLaunch k l l.reads offs

/-- LAUNCH_BEGIN_DISPATCH (R34): launch inp.a begins. What it has read is kept while a later read is held. -/
def execLaunchBeginDispatch (s : State) : Out :=
  let k := s.inp.a
  match s.launch k with
  | none => .next s
  | some l =>
    if l.st ≠ .arrived ∨ s.partLive l.part = false ∨ s.firstInQueue k l = false ∨ s.stalled (.splitter k) = true ∨
        (l.desc.bwait ∧ l.links.any (s.linkOpen l.part) = true) then .next s
    else
      let s := s.beginLaunch k l
      if l.bad ≠ 0 then .next (s.refuseLaunch k l.bad 0xFFFFFFFF)
      else
        match s.readBounds k l.part l.desc ((span 0 l.desc.rank).drop l.reads.length) with
        | (s, vs, r) =>
          let l := { l with began := true, reads := l.reads ++ vs }
          if r = .hold then .next (s.setLaunch k l)
          else if ((span 0 l.reads.length).zip l.reads).any (fun x => boundTooBig l.desc x.1 x.2) then .next (s.refuseRead k l 3 0xFFFFFFFF)
          else if r = .refuse then .next (s.refuseRead k l 2 0xFFFFFFFF)
          else if l.desc.mask = 3 ∧ l.reads.getD l.desc.mj 0 < l.desc.mband then .next (s.refuseRead k l 1 0xFFFFFFFF)
          else .next (s.readGroups k l)

end Sys2Proof.Machine
end

