-- ==== Sys2Proof/Machine/TileStop.lean ====
section
/-! DEFINITION. Tile engines at their ends: the start of an instance (R39, R135, R250), stop records and the stop
log (R293 to R295), engine errors and fallback (R142, R48, R49), and the stop at a signpost or quiet point
(R152, R153, R256, R296). -/

namespace Sys2Proof.Machine

/-- The station of tile engine e. -/
def teStation (e : Nat) : Nat := station e false

/-- The entry that means no tile remains (R39), and the mark by which q0 is known to hold it. -/
def tileEnd : W64 := 0xFFFFFFFFFFFFFFFF#64
def endItem : Nat := 2 ^ 64

/-- The clock that stated runs and slices count: cycles, or steps under determinism (R282). -/
def State.runClock (s : State) (e : Nat) : Nat := if s.determ then (s.tile e).t else s.time.toNat

/-! ## The start of an instance -/

/-- SLICE of a partition's tile engines in cycles (R278, R279). -/
def State.tslice (s : State) (p : Nat) : Nat :=
  let n := fld (s.part p).psched.toNat 15 0
  256 * (if n = 0 then 65536 else n)

/-- Ring geometry kept, all else zero (R100). -/
def Ring.fresh (r : Ring) : Ring := { base := r.base, size := r.size, count := r.count }

/-- An idle engine keeps the scratchpad, and the checked bodies of its launches (R77, R39, R127). -/
def Tile.rest (t : Tile) : Tile :=
  { launch := t.launch, pad := t.pad, padEpoch := t.padEpoch, padBad := t.padBad, form := t.form, body := t.body
    admitted := t.admitted, rings := t.rings.map (fun r => (r.1, r.2.fresh)), kept := t.kept, lastQueue := t.lastQueue }

/-- An instance at its start (R135, R250): every register zero, the working buffers free by the draw given. Its slice has
run since the grant (R280). -/
def Tile.begin (t : Tile) (draw : Nat) : Tile :=
  { t.rest with
    run := .running, sliceLeft := t.sliceLeft, runStart := t.runStart
    acc := (span 0 4).map (fun d => (d, { workFree := draw + 1 })) }

/-- The checked bodies with that of the launch that ran last. -/
def Tile.keepBody (t : Tile) : List Kept :=
  if t.admitted then { launch := t.launch, form := t.form, body := t.body, rings := t.rings.map (fun r => (r.1, r.2.fresh)) } ::
    t.kept.filter (fun b => b.launch != t.launch)
  else t.kept

/-- An engine given to a launch: the scratchpad of another launch's time is not carried (R77), and a body that it has
checked is not read again (R127). -/
def Tile.grantTo (t : Tile) (k queue slice draw clock : Nat) : Tile :=
  let base : Tile := if t.launch = k then t.rest
    else
      let t' : Tile := { launch := k, padEpoch := draw + 1, kept := t.keepBody }
      match t.keepBody.find? (fun b => b.launch == k) with
      | some b => { t' with form := b.form, body := b.body, rings := b.rings, admitted := true }
      | none => t'
  { base with run := .ready, lastQueue := queue, sliceLeft := slice, runStart := clock }

/-! ## Stop records (R294, R295) -/

def stopRecord (sbun seng skind sstat : Nat) (sq0 : W64) (time sengx sfate ltag : Nat) : List Byte :=
  leBytes 2 sbun ++ leBytes 1 seng ++ leBytes 1 skind ++ leBytes 4 sstat ++ leBytes 8 sq0.toNat ++
  leBytes 8 (time % 2 ^ 48) ++ leBytes 2 sengx ++ leBytes 1 sfate ++ zeros 1 ++ leBytes 4 ltag

/-- The record goes to the partition's stop log, when it is on. SLCNT advances though the write be lost, and once a record on
another device has performed there. -/
def State.stopLog (s : State) (p : Nat) (bytes : List Byte) : State :=
  let b := s.part p
  if !bitAt b.slctl.toNat 31 then s
  else
    let n := b.slSent.toNat % 2 ^ fld b.slctl.toNat 4 0
    let s := match s.writeOwn 600 p (canonVa (fld b.slbase.toNat 56 5 * 32) + 32 * n) bytes with
      | .ok s => s
      | .error e => s.countErr e.1
    s.setPart p { s.part p with
      slSent := b.slSent + 1, slcnt := if s.ownOut 600 p then (s.part p).slcnt else b.slSent + 1 }

/-- The record as a STOP packet of the engine's trace ring; a SYNC follows before the next packet (R312, R313). -/
def State.stopTrace (s : State) (e : Nat) (bytes : List Byte) : State :=
  let s := s.trace (teStation e) (s.unitPart e) 0 0 7 0 ((span 0 4).map (fun i => u64At bytes (8 * i))) (s.tile e).b 0 false
  s.setTrc (teStation e) { s.trc (teStation e) with needSync := true }

/-- The bytes of a stop record of engine e. -/
def State.stopBytes (s : State) (e sbun seng skind sstat : Nat) (sq0 : W64) (sfate : Nat) : List Byte :=
  let p := s.unitPart e
  stopRecord sbun seng skind sstat sq0 (s.timeOf p) (s.logUnit p e) sfate
    (((s.launch (s.tile e).launch).map (fun l => l.desc.ltag)).getD 0)

/-! ## Engine errors (R142, R48, R49) -/

/-- The item of a tile that stopped on an engine error: an edge item of class 3, or aborted (R48). -/
def Item.stopped (it : Item) (falls : Bool) (sbun seng sstat : Nat) : Item :=
  if falls then { it with cls := 3, onTile := false, st := .todo, sstat := sstat, sbun := sbun, seng := seng }
  else { it with st := .aborted, boarded := false }

/-- Tiles queued behind q0 return to the splitter: with their board entries, or without them when the launch has
failed (R49). -/
def State.returnTiles (s : State) (k : Nat) (items : List Nat) : State :=
  let live : Bool := match s.launch k with
    | some l => l.cause == 0
    | none => false
  items.foldl (fun s i => s.updItem k i (fun it => { it with st := .todo, boarded := it.boarded && live })) s

/-- An instance of launch k that joined on engine e has stopped and waits to go on. -/
def State.stoppedOn (s : State) (k e : Nat) : Bool := s.stopped.any (fun x => x.1 == e && x.2.launch == k)

/-- The instance of an engine leaves the allotment (R285, R49); the engine's place stays one of a stopped instance that joined
there. -/
def State.leaveAllot (s : State) (k e : Nat) : State :=
  match s.launch k with
  | none => s
  | some l => if s.stoppedOn k e then s else s.setLaunch k { l with tiles := l.tiles.filter (· != e) }

/-- The items of entries queued behind q0, the end entry apart. -/
def Tile.behind (t : Tile) : List Nat := (t.qmore.map Prod.snd).filter (· != endItem)

/-- The tile whose entry q0 holds, the end entry apart. -/
def Tile.front (t : Tile) : List Nat := if t.q0Valid ∧ t.q0Item ≠ endItem then [t.q0Item] else []

/-- The tiles that an engine error strikes: the one whose entry q0 holds, and those popped whose entries had
not yet performed (log entry 34). -/
def Tile.struck (t : Tile) : List Nat := t.retiring.map Prod.fst ++ t.front

/-- Items an instance holds: popped and not yet retired, in q0, and behind it. -/
def Tile.held (t : Tile) : List Nat := t.struck ++ t.behind

/-- The saved instance as it goes on (R153, R278): after a quiet point with a saved count, its loop begins again. -/
def Tile.resume (t : Tile) (slice clock : Nat) : Tile :=
  let t := { t with run := .running, sliceLeft := slice, runStart := clock, runOpen := false, drain := false, stopReq := false }
  if t.resumeKind = 2 ∧ t.savedLc ≠ 0 then
    { t with
      lc := t.savedLc - 1, turn := 0, fill := 0, tail := 0, act := true, b := t.bodyStart, resumeKind := 0, passes := 0
      p := (span 8 8).foldl (fun p i => SMap.set false p i (i == 8)) t.p }
  else { t with resumeKind := 0 }

/-- An allotted engine's place passes to engine e with its instance; it keeps its own while an instance of the launch that
joined there runs or has stopped (R285). -/
def State.passPlace (s : State) (k e old : Nat) : State :=
  match s.launch k with
  | none => s
  | some l =>
    if !l.desc.persist then s
    else
      let t := s.tile old
      let used : Bool := (t.launch == k && t.run != .idle && t.run != .ready) || s.stoppedOn k old
      s.setLaunch k { l with tiles := insKey e (if used then l.tiles else l.tiles.filter (· != old)) }

/-- A stopped instance goes on on engine e (R278, R279), which runs the copy of the body that it admitted itself (R127, R129). -/
def State.resumeAt (s : State) (p e old : Nat) (t : Tile) : State :=
  let s := (s.passPlace t.launch e old).moveBoard t.launch t.held e
  let x := s.tile e
  s.setTile e { t.resume (s.tslice p) t.runStart with
    lastQueue := x.lastQueue, kept := x.kept, form := x.form, body := x.body, admitted := true, resumeOn := none }

/-- A stopped instance waits for engine e. -/
def State.awaited (s : State) (e : Nat) : Bool := s.stopped.any (fun x => x.2.resumeOn == some e)

/-- The stopped instance granted on engine e goes on once the engine has admitted its body. -/
def State.takeUp (s : State) (e : Nat) : State :=
  match s.stopped.find? (fun x => x.2.resumeOn == some e) with
  | none => s
  | some (old, i) =>
    if (s.tile e).run = .ready ∧ (s.tile e).admitted = true then
      { s with stopped := s.stopped.erase (old, i) }.resumeAt (s.unitPart e) e old i
    else s

/-- Engine e is given to the launch of the stopped instance that it is to go on with (R127, R279). -/
def State.giveStopped (s : State) (e : Nat) (i : Tile) : State :=
  (s.setTile e ((s.tile e).grantTo i.launch i.lastQueue (s.tslice (s.unitPart e)) (s.pointOf e) i.runStart)).takeUp e

/-- The engine has no instance any more: what was granted on it begins (R279). -/
def State.restTile (s : State) (e : Nat) : State :=
  let t := s.tile e
  match t.nextGrant with
  | some (k, q, clock) => s.setTile e (t.rest.grantTo k q (s.tslice (s.unitPart e)) (s.pointOf e) clock)
  | none =>
    let s := s.setTile e t.rest
    match s.stopped.find? (fun x => x.2.resumeOn == some e) with
    | some (_, i) => s.giveStopped e i
    | none => s

/-- The entries of an issuer are discarded: what they have outstanding on other devices and in walker slots is no longer
theirs. -/
def State.dropIssuer (s : State) (who : Issuer) : State :=
  { s with
    remoteOps := s.remoteOps.filter (fun r => !(r.who == who))
    flushOut := s.flushOut.filter (fun f => !(f.who == who) || s.autoRels.any (fun r => r.tag == f.sg))
    issueFail := s.issueFail.filter (fun x => !(x.1 == who))
    walkers := s.walkers.map (fun x => match x.2.who with
      | .entry w _ => if w = who then (x.1, { x.2 with who := .none }) else x
      | .issue w _ => if w = who then (x.1, { x.2 with who := .none }) else x
      | _ => x) }

/-- AN ENGINE ERROR (R142, R48, R49): the stop record is written, the instance and its entries are discarded, its
locks are released without write-back, and its tile falls back or is aborted. -/
def State.engineError (s : State) (e sbun seng sstat : Nat) : State :=
  let t := s.tile e
  let p := s.unitPart e
  match s.launch t.launch with
  | none => s.restTile e
  | some l =>
    let falls : Bool := t.front != [] && l.cause == 0 && l.desc.fallback == 1 && l.desc.eslen != 0
    let bytes := s.stopBytes e sbun seng 3 sstat t.q0 (if falls then 2 else 1)
    let s := (s.stopTrace e bytes).stopLog p bytes
    let s := ((s.leaveAllot t.launch e).restTile e).dropIssuer (.tile e)
    let s := s.autoReleaseAll (.tile e) t.remote p t.locks
    let s := t.struck.foldl (fun s i => s.updItem t.launch i (fun it => it.stopped falls sbun seng sstat)) s
    let s := s.returnTiles t.launch t.behind
    if falls then s
    else
      let s := match s.launch t.launch with
        | some l => s.setLaunch t.launch { l with nabort := l.nabort + t.front.length }
        | none => s
      (s.failLaunch t.launch 0x11).tryClose t.launch

/-- A stopped instance whose engine refused the body cannot go on: its tiles are aborted and its locks released. DESIGN CHOICE
(log entry 88). -/
def State.dropStopped (s : State) (old : Nat) (t : Tile) : State :=
  let s := s.autoReleaseAll (.tile old) t.remote (s.unitPart old) t.locks
  let s := t.struck.foldl (fun s i => s.updItem t.launch i (fun it => it.stopped false 0 0x20 0)) s
  let s := s.returnTiles t.launch t.behind
  let s := if (s.tile old).launch = t.launch ∧ (s.tile old).run = .running then s else s.leaveAllot t.launch old
  match s.launch t.launch with
  | some l => (s.setLaunch t.launch { l with nabort := l.nabort + t.front.length }).tryClose t.launch
  | none => s

/-- A body refused at admission (R39, R127, R294): the launch dispatches no more and fails with cause 0x10. -/
def State.admissionRefused (s : State) (e sbun sstat : Nat) (sq0 : W64) : State :=
  let t := s.tile e
  let bytes := s.stopBytes e sbun 0x20 4 sstat sq0 3
  let s := (s.stopTrace e bytes).stopLog (s.unitPart e) bytes
  let s := s.setTile e { t.rest with admitted := false, body := [] }
  let s := s.failLaunch t.launch 0x10
  match s.stopped.find? (fun x => x.2.resumeOn == some e) with
  | none => s.tryClose t.launch
  | some (old, i) => { s with stopped := s.stopped.erase (old, i) }.dropStopped old i

/-! ## Stops at a signpost or a quiet point (R152, R153, R256) -/

/-- Every entry other than the matrix queue's has performed (R296). -/
def Queues.idleButMatrix (q : Queues) : Bool := q.ordered == [] && q.qs.all (fun x => x.1 == 6)

/-- What a result in flight writes. -/
def Tile.landOne (t : Tile) (f : Flight) : Tile :=
  match f.what with
  | .s d v => { t with s := SMap.set 0 t.s d v }
  | .p d v => if d = 0 then t else { t with p := SMap.set false t.p d v }
  | .v d ls => { t with v := SMap.setN 0 t.v (32 * d) ls }
  | .spr n v =>
    match n with
    | 0 => { t with fmt := BitVec.ofNat 32 (Nat.lor (fmtWrite t.fmt.toNat v.toNat) t.hotFmt) }
    | 1 => { t with msts := BitVec.ofNat 32 (Nat.lor (mstsWrite t.msts.toNat v.toNat) t.hotMsts) }
    | 2 => { t with srkey := v }
    | 3 => { t with srctr := v }
    | 4 => { t with lc := BitVec.ofNat 32 v.toNat }
    | 8 => { t with ric := BitVec.ofNat 32 v.toNat }
    | 9 => { t with rcap := BitVec.ofNat 32 v.toNat }
    | 10 => { t with rthr := BitVec.ofNat 32 v.toNat }
    | 11 => { t with rdiv := BitVec.ofNat 32 v.toNat }
    | n => { t with k := SMap.set 0 t.k (n - 16) (BitVec.ofNat 32 v.toNat) }
  | .flags fb mb =>
    { t with fmt := BitVec.ofNat 32 (fmtSet t.fmt.toNat fb), msts := BitVec.ofNat 32 (Nat.lor t.msts.toNat mb) }
  | .pwb w => { t with msts := BitVec.ofNat 32 (mstsPwb t.msts.toNat w) }
  | .k vs => { t with k := SMap.setN 0 t.k 0 vs }

/-- Flights in the order they write: by landing step, then by issue; flag results after the writes of the same step,
so that a set prevails over a clear (R59, R139). -/
def flightKey (f : Flight) : Nat :=
  let late := match f.what with
    | .flags _ _ => 1
    | .pwb _ => 1
    | _ => 0
  (f.step * 2 + late) * 2 ^ 40 + f.order

/-- Every result due at or before a step lands (R139, R145). -/
def Tile.land (t : Tile) (step : Nat) : Tile :=
  let due := sortBy flightKey (t.flights.filter (fun f => f.step ≤ step))
  due.foldl Tile.landOne { t with flights := t.flights.filter (fun f => step < f.step) }

/-- Every result in flight lands (R152). -/
def Tile.landAll (t : Tile) : Tile :=
  (sortBy flightKey t.flights).foldl Tile.landOne { t with flights := [] }

/-- The instance stops before bundle b with a kind: its record goes to the trace, it waits among the stopped
instances, and the engine is free (R279, R294). A redirect still pending at a quiet point, which the saved state of R152 does not list,
is kept with the steps left to it: DESIGN CHOICE (log entry 95). -/
def State.stopAt (s : State) (e kind : Nat) : State :=
  let t := s.tile e
  let bytes := s.stopBytes e t.b 0 kind 0 t.q0 0
  let s := s.stopTrace e bytes
  let t := { t.landAll with hotFmt := 0, hotMsts := 0 }
  { (s.setTile e t.rest).dropIssuer (.tile e) with
    stopped := s.stopped ++ [(e, { t with run := .stopped kind, stopReq := false, resumeKind := kind, drain := false
                                          savedLc := if kind = 2 then t.lc else t.savedLc })] }

end Sys2Proof.Machine
end

