-- ==== Sys2Proof/Machine/Place.lean ====
section
/-! DEFINITION. Dispatch and retirement of work items: ranks (R277), the crossing board (R44, R45), records and tile
entries (R39, R40), edge-core placement (R283, R284), tile-engine arbitration (R278, R279), the persistent allotment
(R42, R49, R285), and retirement (R41, R46, R93, R94). -/

namespace Sys2Proof.Machine

/-! ## Ranks and slices -/

/-- ER of a queue for a launch of a rank (R277). -/
def State.effRank (s : State) (p q qrank : Nat) : Nat :=
  let h := s.hwq p q
  min (h.ctl.toNat % 8) qrank - fld h.stat.toNat 10 8

/-- ER of a candidate's work: QRANK of the launch that owns it (R277). -/
def State.launchRank (s : State) (k : Nat) : Nat :=
  match s.launch k with
  | some l => s.effRank l.part l.queue l.desc.qrank
  | none => 0

/-- ER of the queue of a running instance or a resident crew: QRANK of the queue's launch that is dispatching; when none is,
of the one that dispatched last (R277; log entry 69). -/
def State.queueRank (s : State) (k : Nat) : Nat :=
  match s.launch k with
  | some l => s.effRank l.part l.queue (s.hwq l.part l.queue).qrank
  | none => 0

/-- The slice of a partition's edge cores in cycles (R278, R284). -/
def State.eslice (s : State) (p : Nat) : Nat :=
  let n := fld (s.part p).psched.toNat 23 16
  4096 * (if n = 0 then 256 else n)

/-- Stated run of a fresh tile of a queue, in cycles (R278). -/
def HwQueue.frun (h : HwQueue) : Nat := 16 * fld h.ctl.toNat 25 8

/-! ## The crossing board (R44, R45) -/

def rangesMeet (a b : List (Int × Int)) : Bool := (a.zip b).all (fun x => x.1.1 ≤ x.2.2 && x.2.1 ≤ x.1.2)

/-- Two boxes overlap. -/
def boxesMeet (ta : Nat) (a : List (Int × Int)) (tb : Nat) (b : List (Int × Int)) : Bool :=
  ta == tb && ta != 0 && (a.length != b.length || rangesMeet a b)

/-- Item b (of a launch with descriptor db) conflicts with item a. -/
def itemsConflict (da : Desc) (a : Item) (db : Desc) (b : Item) : Bool :=
  boxesMeet db.rtag b.rbox da.wtag a.wbox || boxesMeet db.wtag b.wbox da.wtag a.wbox ||
  boxesMeet db.wtag b.wbox da.rtag a.rbox

/-- LTAG of a launch that holds item it of launch l back; none when it may dispatch. -/
def State.blocker (s : State) (l : Launch) (i : Nat) (it : Item) : Option Nat :=
  if l.desc.rtag = 0 ∧ l.desc.wtag = 0 then none
  else
    let byLink := (l.links.zip (span 0 l.links.length)).find? (fun x =>
      match s.launch x.1 with
      | none => s.linkOpen l.part x.1
      | some a => a.st == .arrived || a.items.any (fun y => y.st != .retired && itemsConflict a.desc y l.desc it))
    match byLink with
    | some x => some (((s.launch x.1).map (fun a => a.desc.ltag)).getD ((l.desc.link.filter (· != 0)).getD x.2 0))
    | none =>
      if l.desc.inplace ∧ (l.items.take i).any (fun y => y.st != .retired && itemsConflict l.desc y l.desc it) = true then
        some l.desc.ltag
      else none

/-- Board entries held on a physical die. -/
def State.boardCount (s : State) (d : Nat) : Nat :=
  s.launches.foldl (fun n l => n + (l.2.items.filter (fun i => i.boarded && i.die == d)).length) 0

/-- Room on the board of the die that would take the item; an item that holds its entry needs none. -/
def State.boardRoom (s : State) (it : Item) (d : Nat) : Bool := it.boarded || s.boardCount d < 8192

/-- The items of a launch that are not dispatched: those that hold a board entry (fallback, returned tiles) first, then the rest in
dispatch order (R38, R48, R49). -/
def todoItems (l : Launch) : List (Nat × Item) :=
  let todo := ((span 0 l.items.length).zip l.items).filter (fun x => x.2.st == .todo)
  todo.filter (fun x => x.2.cls == 3) ++ todo.filter (fun x => x.2.cls != 3 && x.2.boarded) ++
    todo.filter (fun x => x.2.cls != 3 && !x.2.boarded)

/-- The next item of a launch, of those that meet a test. -/
def nextWhere (l : Launch) (ok : Item → Bool) : Option (Nat × Item) := (todoItems l).find? (fun x => ok x.2)

def nextItem (l : Launch) : Option (Nat × Item) := (todoItems l).head?

/-- A launch dispatches: it has begun, has not failed, and its partition is resident. -/
def State.mayDispatch (s : State) (l : Launch) : Bool :=
  s.partLive l.part && l.cause == 0 && (l.st == .dispatching || l.st == .dispatched)

/-- An item that holds a board entry has met its dependences already. -/
def State.heldBack (s : State) (l : Launch) (x : Nat × Item) : Option Nat :=
  if x.2.boarded then none else s.blocker l x.1 x.2

/-- The wait on the board begins (CBWAIT, R313). -/
def State.noteWait (s : State) (k i tag : Nat) : State :=
  let now := s.timeOf ((s.launch k).map Launch.part |>.getD 0)
  s.updItem k i (fun it => if it.waitFrom = 0 then { it with waitFrom := now + 1, waitTag := tag } else it)

/-! ## Records and entries -/

/-- q0 of a tile (R39). -/
def tileEntry (d : Desc) (it : Item) : W64 :=
  let t := fun i => it.t.getD i 0
  BitVec.ofNat 64 (t 0 + t 1 * 2 ^ 16 + t 2 * 2 ^ 32 + (if d.grouped then it.group else t 3) * 2 ^ 48)

/-- The 64-byte record of an edge item (R40). -/
def itemRecord (d : Desc) (it : Item) : List Byte :=
  let fb := it.cls == 3
  (span 0 4).flatMap (fun i => leBytes 4 (it.t.getD i 0)) ++ (span 0 4).flatMap (fun i => leBytes 4 (it.lo.getD i 0)) ++
  (span 0 4).flatMap (fun i => leBytes 2 (it.vext.getD i 0)) ++ leBytes 1 it.cls ++ leBytes 1 d.mask ++ zeros 2 ++
  leBytes 4 (if d.grouped then it.group else 0xFFFFFFFF) ++ leBytes 4 (wrapN 32 d.moff) ++ leBytes 4 d.mband ++
  leBytes 4 (if fb then it.sstat else 0) ++ leBytes 2 (if fb then it.sbun else 0) ++ leBytes 1 (if fb then it.seng else 0) ++ zeros 1

/-- The end record of a persistent crew (R40, R42). DESIGN CHOICE: no tile stands behind it, so T, ORG, VEXT and the group
number of a grouped launch are zero (log entry 70). -/
def endRecord (d : Desc) : List Byte := itemRecord d { cls := 0xFF }

/-- The item counts in its class once, and a fallback item once more (R47). -/
def Launch.countItem (l : Launch) (it : Item) : Launch :=
  if it.cls = 3 then { l with nfall := l.nfall + 1 }
  else if it.boarded then l
  else
    match it.cls with
    | 0 => { l with nfull := l.nfull + 1 }
    | 1 => { l with npart := l.npart + 1 }
    | _ => { l with nmask := l.nmask + 1 }

/-- The item is dispatched to a unit: its board entry, its count; the launch that has dispatched its last item
lets the next of its queue begin (R29, R44). -/
def State.markDispatched (s : State) (k i unit : Nat) : State :=
  match s.launch k with
  | none => s
  | some l =>
    match l.items[i]? with
    | none => s
    | some it =>
      let it' := { it with st := .running, boarded := true, unit := unit, die := if it.boarded then it.die else unitDie unit }
      let l := { l.countItem it with items := setAt l.items i it' }
      if l.items.any (fun x => x.st == .todo) then s.setLaunch k l
      else
        let h := s.hwq l.part l.queue
        (s.setLaunch k { l with st := .dispatched }).setHwq l.part l.queue { h with fifo := h.fifo.filter (· != k) }

/-- The lowest gang slot of a crew. -/
def EdgeCore.crewSlot (e : EdgeCore) (k : Nat) : Nat := ((leastBy Prod.fst (e.crewGangs k)).map Prod.fst).getD 0

/-- The packets of a new item, those of an edge item by the lowest gang slot of its crew: the wait on the board when there was one, then the item (R313). -/
def State.traceItem (s : State) (n p slot : Nat) (d : Desc) (it : Item) (edge : Bool) : State :=
  let s := if it.waitFrom = 0 then s
    else s.trace n p slot 0 0x0C (min (s.timeOf p + 1 - it.waitFrom) (2 ^ 32 - 1)) [it.waitTag] 0 0 edge
  s.trace n p slot 0 0x11 d.ltag [(tileEntry d it).toNat] 0 0 edge

/-! ## Crews on edge cores (R41, R169, R283) -/

def pickSlots : Nat → List Nat → List Nat → List Nat
  | 0, _, mine => mine
  | n + 1, used, mine =>
    match pickSlot used mine with
    | none => mine
    | some x => pickSlots n (x :: used) (mine ++ [x])

/-- A sub-gang at its start (R41, R169). -/
def startThread (d : Desc) (num : Nat) : Thread :=
  { x := SMap.set 0 (SMap.set 0 [] 2 (BitVec.ofNat 64 num)) 3 (BitVec.ofNat 64 d.egangs)
    m := BitVec.ofNat 32 (2 ^ (4 * d.eslices) - 1), slices := BitVec.ofNat 8 (2 ^ d.eslices - 1) }

/-- A gang at its start: one sub-gang of all its slices. -/
def startGang (d : Desc) (num crew : Nat) : Gang :=
  { num := num, crew := crew, role := d.role.getD num 0, subs := [(0, startThread d num)] }

/-- Core memory in use on a core, in KiB. -/
def EdgeCore.memUsed (e : EdgeCore) : Nat := e.crews.foldl (fun n c => n + c.2.cmemKiB) 0

/-- EGANGS free slots and ECMEM KiB of free core memory (R283). -/
def EdgeCore.hasRoom (e : EdgeCore) (egangs ecmem : Nat) : Bool :=
  e.gangs.length + egangs ≤ 16 && e.memUsed + ecmem ≤ 256

/-- A new crew on a core, its key the sequence number. DESIGN CHOICE: its core memory beyond what the caller gives holds
zeros (R41; log entry 71). -/
def State.placeCrew (s : State) (core k : Nat) (d : Desc) (items : List HeldItem) (cmem : SMap Byte) (rings : SMap Ring) : State :=
  let key := s.seq
  let e := s.core core
  let slots := pickSlots d.egangs (e.gangs.map Prod.fst) []
  let gangs := (slots.zip (span 0 d.egangs)).foldl (fun g x => alPut g x.1 (startGang d x.2 key)) e.gangs
  let cr : Crew := { launch := k, items := items, egangs := d.egangs, cmemKiB := d.ecmem, cmem := cmem, rings := rings, since := s.timeOf (s.unitPart core) }
  { s.setCore core { e with crews := alPut e.crews key cr, gangs := gangs } with seq := key + 1 }

/-- A partition's units from a device engine index on, cyclically (R273). -/
def State.cyclic (s : State) (p cursor : Nat) : List Nat :=
  (s.unitOrder p).filter (fun e => cursor ≤ s.logUnit p e) ++ (s.unitOrder p).filter (fun e => s.logUnit p e < cursor)

/-- The first edge core at or after the launch's cursor that can take a crew (R283). -/
def State.coreFor (s : State) (l : Launch) (skip : List Nat) : Option Nat :=
  (s.cyclic l.part l.cursor).find? (fun e =>
    !skip.contains e && !s.dieBusy (unitDie e) && (s.core e).hasRoom l.desc.egangs l.desc.ecmem)

/-- The launch's cursor moves past an engine that took an item (R283). -/
def State.setCursor (s : State) (k e : Nat) : State :=
  match s.launch k with
  | some l => s.setLaunch k { l with cursor := s.logUnit l.part e + 1 }
  | none => s

/-- An edge item's crew is placed: the record at core-memory offset 0, the clean data of L1 invalidated (R41, R94). -/
def State.dispatchEdge (s : State) (k : Nat) (l : Launch) (x : Nat × Item) : State :=
  match s.coreFor l [] with
  | none => s
  | some e =>
    if !s.boardRoom x.2 (unitDie e) then s
    else
      let s := ((s.setCursor k e).markDispatched k x.1 e).invalClean e (fun _ => true)
      let t := s.placeCrew e k l.desc [{ item := x.1 }] (SMap.setN 0 [] 0 (itemRecord l.desc x.2)) []
      t.traceItem (station e true) l.part ((t.core e).crewSlot s.seq) l.desc x.2 true

/-- The engine granted to a launch that awaits its work, its body checked: the first at or after a cursor (R283). None on a
die that takes no new work (R356). -/
def State.grantedEngine (s : State) (k p cursor : Nat) : Option Nat :=
  (s.cyclic p cursor).find? (fun e =>
    let t := s.tile e
    t.run == .ready && t.launch == k && t.admitted && !s.awaited e && !s.dieBusy (unitDie e))

/-- A tile begins on its granted engine, with its entry in q0 (R39). -/
def State.dispatchTile (s : State) (k : Nat) (l : Launch) (x : Nat × Item) : State :=
  match s.grantedEngine k l.part l.cursor with
  | none => s
  | some e =>
    if !s.boardRoom x.2 (unitDie e) then s
    else
      let s := (s.setCursor k e).markDispatched k x.1 e
      let s := s.setTile e { (s.tile e).begin (s.pointOf e) with
        q0 := tileEntry l.desc x.2, q0Valid := true, q0Item := x.1 }
      s.traceItem (teStation e) l.part 0 l.desc x.2 false

/-- WORK_ITEM_DISPATCH (R38 to R45): the next item of ordinary launch inp.a. -/
def execWorkItemDispatch (s : State) : Out :=
  let k := s.inp.a
  match s.launch k with
  | none => .next s
  | some l =>
    if !s.mayDispatch l || l.desc.persist then .next s
    else
      match nextItem l with
      | none => .next s
      | some x =>
        match s.heldBack l x with
        | some tag => .next (s.noteWait k x.1 tag)
        | none => .next (if x.2.onTile then s.dispatchTile k l x else s.dispatchEdge k l x)

/-! ## Tile-engine arbitration (R278, R279) -/

/-- A candidate for a tile engine: its stated run, rank and queue, and what it is. -/
structure Cand where
  run : Nat
  er : Nat
  queue : Nat
  fresh : Option Nat      -- the launch of a fresh tile
  inst : Nat := 0         -- the place of a stopped instance in the list
  deriving DecidableEq, Repr

/-- The engines of a persistent launch that still take tiles, in device-engine-index order (R49, R285, R356). -/
def State.takers (s : State) (k : Nat) (l : Launch) : List Nat :=
  sortBy (s.logUnit l.part) (l.tiles.filter (fun e =>
    !(s.tile e).ended && (s.tile e).launch == k && (s.tile e).run == .running && !s.dieBusy (unitDie e)))

/-- A stopped instance of the launch takes tiles again once it goes on. -/
def State.takerStopped (s : State) (k : Nat) : Bool := s.stopped.any (fun x => x.2.launch == k && !x.2.ended)

/-- Engines granted to launch k for tiles that have not begun. -/
def State.grantedTo (s : State) (k : Nat) (l : Launch) : Nat :=
  ((s.partUnits l.part).filter (fun e =>
    ((s.tile e).run == .ready && (s.tile e).launch == k && !s.awaited e) || (s.tile e).nextGrant.any (fun g => g.1 == k))).length

/-- The full tile for which a launch asks for an engine (R278): of an ordinary launch the next item behind those for whose tiles
engines are granted already; of a persistent one that has not all the engines it asks for the next undealt tile. -/
def State.wantsTile (s : State) (k : Nat) (l : Launch) : Option (Nat × Item) :=
  let granted := s.grantedTo k l
  if !s.mayDispatch l then none
  else if l.desc.persist then
    (if l.askTiles = 0 ∧ (s.takers k l ≠ [] ∨ granted ≠ 0 ∨ s.takerStopped k = true) then none
     else nextWhere l (fun it => it.onTile))
  else
    let next := (todoItems l).take (granted + 1)
    if next.all (fun x => x.2.onTile && (s.heldBack l x).isNone) then next[granted]? else none

/-- Candidates of a partition for an engine on a die, stopped instances first. -/
def State.candidates (s : State) (p die : Nat) : List Cand :=
  let old := ((span 0 s.stopped.length).zip s.stopped).filterMap (fun x =>
    let (n, (e, t)) := x
    match s.launch t.launch with
    | some l =>
      if l.part ≠ p ∨ s.unitPart e ≠ p ∨ t.resumeOn.isSome = true then none
      else
        let h := s.hwq p l.queue
        some { run := if t.resumeKind = 1 then 16 * ((t.body.getD t.b {}).run) else h.frun
               er := s.launchRank t.launch, queue := l.queue, fresh := none, inst := n }
    | none => none)
  let new := s.launches.filterMap (fun y =>
    let (k, l) := y
    if l.part ≠ p then none
    else
      match s.wantsTile k l with
      | some x => if (s.heldBack l x).isSome || !s.boardRoom x.2 die then none
          else some { run := (s.hwq p l.queue).frun, er := s.launchRank k, queue := l.queue, fresh := some k }
      | none => none)
  if s.partLive p then old ++ new else []

/-- The candidate R279 chooses for an engine whose last granted queue is given. -/
def chooseCand (slice last : Nat) (cs : List Cand) : Option Cand :=
  let fits := cs.filter (fun c => c.run ≤ slice)
  let p := if fits = [] then cs else fits
  let key := fun (c : Cand) => (7 - c.er) * 2 ^ 40 + (c.queue + 512 - last - 1) % 256 * 2 ^ 2 + b2n c.fresh.isSome
  match p with
  | [] => none
  | h :: t => some (t.foldl (fun b c => if key c < key b then c else b) h)

/-- A granted engine for which its launch has no tile any more. -/
def State.unused (s : State) (e : Nat) : Bool :=
  (s.tile e).run == .ready && !s.awaited e &&
  (match s.launch (s.tile e).launch with
   | none => true
   | some l => l.cause != 0 || (!l.desc.persist && !(l.items.any (fun i => i.st == .todo && i.onTile))))

/-- A free engine: idle, or its instance has halted and nothing is granted on it yet, and not on a die that takes no new
work (R279, R356). -/
def State.engineFree (s : State) (e : Nat) : Bool :=
  ((s.tile e).run == .idle || s.unused e ||
    ((s.tile e).run == .halting && (s.tile e).nextGrant.isNone && !s.awaited e)) &&
  !s.dieBusy (unitDie e)

/-- The choice made for engine e. What is granted on an engine whose halted instance still has entries waits for them. -/
def State.grant (s : State) (p e : Nat) (c : Cand) : State :=
  let s := s.setPart p { s.part p with cursor := s.logUnit p e + 1 }
  let clock := if s.determ then 0 else s.time.toNat
  let waits : Bool := (s.tile e).run == .halting
  match c.fresh with
  | some k =>
    let s := match s.launch k with
      | some l => s.setLaunch k { l with askTiles := l.askTiles - 1 }
      | none => s
    if waits then s.setTile e { s.tile e with nextGrant := some (k, c.queue, clock), lastQueue := c.queue }
    else s.setTile e ((s.tile e).grantTo k c.queue (s.tslice p) (s.pointOf e) clock)
  | none =>
    match s.stopped[c.inst]? with
    | none => s
    | some (old, t) =>
      let t := { t with resumeOn := some e, lastQueue := c.queue, runStart := if s.determ then t.t else s.time.toNat }
      let s := { s with stopped := s.stopped.set c.inst (old, t) }
      if waits then s.setTile e { s.tile e with lastQueue := c.queue } else s.giveStopped e t

/-- TILE_ENGINE_GRANT (R279): the next free engine of partition inp.a. -/
def execTileEngineGrant (s : State) : Out :=
  let p := s.inp.a
  match (s.cyclic p (s.part p).cursor).find? s.engineFree with
  | none => .next s
  | some e =>
    match chooseCand (s.tslice p) (s.tile e).lastQueue (s.candidates p (unitDie e)) with
    | none => .next s
    | some c => .next (s.grant p e c)

/-! ## The persistent allotment (R42, R285) -/

/-- Ring 0 of a crew at its start: sixteen slots of 64 bytes from offset 0 (R42). -/
def ring0 : Ring := { base := 0, size := 64, count := 16 }

/-- ENGINE_JOIN (R285): a granted tile engine, or with inp.flag an edge core, joins the allotment of launch inp.a. -/
def execEngineJoin (s : State) : Out :=
  let k := s.inp.a
  match s.launch k with
  | none => .next s
  | some l =>
    if !l.desc.persist || !s.mayDispatch l then .next s
    else if s.inp.flag then
      if l.askCores = 0 then .next s
      else
        match s.coreFor l l.cores with
        | none => .next s
        | some e =>
          let s := s.setLaunch k { l with cores := l.cores ++ [e], askCores := l.askCores - 1, cursor := s.logUnit l.part e + 1 }
          .next (s.placeCrew e k l.desc [] [] (SMap.set {} [] 0 ring0))
    else
      match s.grantedEngine k l.part 0 with
      | none => .next s
      | some e =>
        let s := s.setLaunch k { l with tiles := insKey e l.tiles }
        .next (s.setTile e ((s.tile e).begin (s.pointOf e)))

/-- Tiles in q0 and behind it. -/
def Tile.load (t : Tile) : Nat := b2n t.q0Valid + t.qmore.length

/-- The tile engine that takes the next tile: the fewest tiles, fewer than five; none when all are full. -/
def State.tileTaker (s : State) (k : Nat) (l : Launch) : Option Nat :=
  match (s.takers k l).filter (fun e => (s.tile e).load < 5) with
  | [] => none
  | h :: t => some (t.foldl (fun b e => if (s.tile e).load < (s.tile b).load then e else b) h)

/-- An entry reaches a tile engine: into an empty q0, or behind it (R39). -/
def Tile.feed (t : Tile) (v : W64) (item : Nat) : Tile :=
  if t.q0Valid then { t with qmore := t.qmore ++ [(v, item)] } else { t with q0 := v, q0Valid := true, q0Item := item }

/-- Free slots of ring 0, when its write pointer stands at one. -/
def Ring.freeSlots (r : Ring) : Nat :=
  if r.slot (ptrSlot r.wp) == ({ ph := (r.slot (ptrSlot r.wp)).ph } : RingSlot) then
    ((span 0 16).filter (fun i => r.slot i == ({ ph := (r.slot i).ph } : RingSlot))).length
  else 0

/-- The joined crews of a launch on their cores, in device-engine-index order. -/
def State.joinedCrews (s : State) (k : Nat) (l : Launch) : List (Nat × Nat × Crew) :=
  (sortBy (s.logUnit l.part) l.cores.eraseDups).flatMap (fun e => ((s.core e).crews.filter (fun c => c.2.launch == k)).map (fun c => (e, c.1, c.2)))

/-- The crew that takes the next edge item: the most free ring-0 slots, the lowest device engine index on a tie; none on a die
that takes no new work (R285, R356). -/
def State.crewTaker (s : State) (k : Nat) (l : Launch) : Option (Nat × Nat × Crew) :=
  match (s.joinedCrews k l).filter (fun c =>
      !c.2.2.ended && 0 < (SMap.get {} c.2.2.rings 0).freeSlots && !s.dieBusy (unitDie c.1)) with
  | [] => none
  | h :: t => some (t.foldl (fun b c => if (SMap.get {} b.2.2.rings 0).freeSlots < (SMap.get {} c.2.2.rings 0).freeSlots then c else b) h)

/-- The splitter writes a record into the slot at the write pointer of ring 0 and completes it (R42). -/
def Crew.push (cr : Crew) (bytes : List Byte) (item : Option Nat) : Crew :=
  let r := SMap.get {} cr.rings 0
  let i := ptrSlot r.wp
  let r' := ((r.arm i 64).getD r).deliver i 64
  { cr with
    cmem := SMap.setN 0 cr.cmem (64 * i) bytes, rings := SMap.set {} cr.rings 0 r'.1
    items := match item with | some n => cr.items ++ [{ item := n, slot := i }] | none => cr.items
    ended := cr.ended || item.isNone }

/-- Whether items of a kind are still to be dealt. -/
def Launch.leftOf (l : Launch) (onTile : Bool) : Bool := l.cause == 0 && l.items.any (fun i => i.st == .todo && i.onTile == onTile)

/-- The end entry or end record for the next joined engine that is due one (R39, R42, R49). -/
def State.dealEnd (s : State) (k : Nat) (l : Launch) : State :=
  let te := if l.leftOf true then none else (s.takers k l).find? (fun e => (s.tile e).load < 5)
  match te with
  | some e => s.setTile e { (s.tile e).feed tileEnd endItem with ended := true }
  | none =>
    if l.leftOf false then s
    else
      match (s.joinedCrews k l).find? (fun c => !c.2.2.ended && 0 < (SMap.get {} c.2.2.rings 0).freeSlots) with
      | some c => s.updCrew c.1 c.2.1 (fun cr => cr.push (endRecord l.desc) none)
      | none => s

/-- An item dealt to its engine. -/
def State.dealTo (s : State) (k : Nat) (l : Launch) (x : Nat × Item) : State :=
  if x.2.onTile then
    match s.tileTaker k l with
    | none => s
    | some e =>
      if !s.boardRoom x.2 (unitDie e) then s
      else
        let s := s.markDispatched k x.1 e
        let s := s.setTile e ((s.tile e).feed (tileEntry l.desc x.2) x.1)
        s.traceItem (teStation e) l.part 0 l.desc x.2 false
  else
    match s.crewTaker k l with
    | some (e, ck, _) =>
      if !s.boardRoom x.2 (unitDie e) then s
      else
        let s := (s.markDispatched k x.1 e).invalClean e (fun _ => true)
        let s := s.updCrew e ck (fun cr => cr.push (itemRecord l.desc x.2) (some x.1))
        s.traceItem (station e true) l.part ((s.core e).crewSlot ck) l.desc x.2 true
    | none =>
      -- every joined crew has its end record: one more edge core (R48)
      if l.askCores = 0 ∧ (s.joinedCrews k l).all (fun c => c.2.2.ended) = true ∧
          s.swapped.any (fun w => w.launch == k && !w.crew.ended) = false then s.setLaunch k { l with askCores := 1 } else s

/-- ITEM_DEAL (R285): the next item of persistent launch inp.a, or an end entry or end record that is due. -/
def execItemDeal (s : State) : Out :=
  let k := s.inp.a
  match s.launch k with
  | none => .next s
  | some l =>
    if !l.desc.persist || !s.partLive l.part || (l.st != .dispatching && l.st != .dispatched) then .next s
    else
      match if l.cause = 0 then nextItem l else none with
      | none => .next (s.dealEnd k l)
      | some x =>
        match s.heldBack l x with
        | some tag => .next ((s.noteWait k x.1 tag).dealEnd k l)
        | none => .next ((s.dealTo k l x).dealEnd k ((s.dealTo k l x).launch k |>.getD l))

/-! ## Retirement (R41, R46, R93, R94) -/

/-- An item retires: its board entry is released. -/
def State.retireItem (s : State) (k i : Nat) : State :=
  (s.updItem k i (fun it => { it with st := .retired, boarded := false })).tryClose k

/-- A crew whose gangs have all exited, its entries performed: its bytes are written back, its items retire, its
locks are released, and it leaves its core. -/
def State.retireCrew (s : State) (core k : Nat) (cr : Crew) : State :=
  let s := s.writeBackAll core
  let remote := s.remoteMap (.crew core k)
  let s := s.removeCrew core k
  let s := s.autoReleaseAll (.crew core k) remote (s.unitPart core) cr.locks
  let s := match s.launch cr.launch with
    | some l => s.setLaunch cr.launch { l with cores := l.cores.erase core }
    | none => s
  let s := (cr.retiring.map Prod.fst ++ cr.items.map HeldItem.item).foldl (fun s i => s.retireItem cr.launch i) s
  s.tryClose cr.launch

/-- Every entry placed before a point has performed. -/
def Queues.doneBefore (q : Queues) (n : Nat) : Bool := q.clearBefore n && q.ordered.all (fun e => n ≤ e.seq)

/-- Every lane instruction enqueued by a crew of the core before a point has completed, those saved by a trap among them. -/
def EdgeCore.lanesBefore (e : EdgeCore) (k n : Nat) : Bool :=
  (e.crewGangs k ++ e.out.filter (fun g => g.2.crew == k)).all (fun g => g.2.subs.all (fun t =>
    (t.2.lq ++ t.2.tsaved).all (fun x => n < x.ord)))

/-- What is due of one crew: the items whose slots were released, then the crew itself. What its L1 holds is written back first,
and every write of the crew to another device has performed (R41, R94). -/
def State.retireDue (s : State) (core : Nat) (x : Nat × Crew) : State :=
  let cr := x.2
  let due := cr.retiring.filter (fun r => cr.q.doneBefore r.2 && (s.core core).lanesBefore x.1 r.2)
  let whole : Bool := cr.finished && cr.q.idle
  if !whole && due == [] then s
  else
    let s := s.writeBackAll core
    if s.unperformed (.crew core x.1) then s
    else if whole then s.retireCrew core x.1 ((s.crewOf core x.1).getD cr)
    else
      let s := s.updCrew core x.1 (fun cr => { cr with retiring := cr.retiring.filter (fun r => !due.contains r) })
      due.foldl (fun s r => s.retireItem cr.launch r.1) s

/-- What is due of a tile engine: popped items, with the locks that the instance took before the pop (R93), then the instance that has halted (R46). An entry that failed after
the halt stops the engine on its error all the same. -/
def State.retireTile (s : State) (e : Nat) : State :=
  let t := s.tile e
  if t.run = .idle then s
  else
    let due := t.retiring.filter (fun r => t.q.doneBefore r.2)
    let ended := fun (h : HeldLock) => due.any (fun r => h.seq < r.2)
    let s := s.setTile e { t with retiring := t.retiring.filter (fun r => !due.contains r), locks := t.locks.filter (fun h => !ended h) }
    let s := s.autoReleaseAll (.tile e) t.remote (s.unitPart e) (t.locks.filter ended)
    let s := due.foldl (fun s r => s.retireItem t.launch r.1) s
    if t.run = .halting ∧ t.q.idle = true then
      match t.pendErr with
      | some (b, eng, st) => s.engineError e b eng st
      | none =>
        let s := ((s.leaveAllot t.launch e).restTile e).dropIssuer (.tile e)
        let s := s.autoReleaseAll (.tile e) t.remote (s.unitPart e) (t.locks.filter (fun h => !ended h))
        let s := s.returnTiles t.launch t.behind
        (t.front.foldl (fun s i => s.retireItem t.launch i) s).tryClose t.launch
    else s

/-- WORK_ITEM_RETIRE (R46): what is due on tile engine inp.a, or with inp.flag on edge core inp.a. -/
def execWorkItemRetire (s : State) : Out :=
  if s.inp.flag then .next ((s.core s.inp.a).crews.foldl (fun s x => s.retireDue s.inp.a x) s)
  else .next (s.retireTile s.inp.a)

/-! ## Crew swaps (R284) -/

/-- Waiters for an edge core of a partition: items and joins that found no room, swapped-out crews, and crews of the core none of
whose gangs stands in a slot; the greatest ER. -/
def State.edgeWaiter (s : State) (p core : Nat) : Option Nat :=
  let swaps := (s.swapped.filter (fun w => ((s.launch w.launch).map (fun l => l.part)).getD 99 == p)).map (fun w => s.launchRank w.launch)
  let outs := ((s.core core).crews.filter (fun k =>
    (s.core core).crewGangs k.1 == [] && (s.core core).out.any (fun x => x.2.crew == k.1))).map (fun k => s.launchRank k.2.launch)
  let items := s.launches.filterMap (fun y =>
    let (k, l) := y
    if l.part ≠ p ∨ s.mayDispatch l = false then none
    else if l.desc.persist then (if l.askCores ≠ 0 ∧ (s.coreFor l l.cores).isNone = true then some (s.launchRank k) else none)
    else
      match nextItem l with
      | some x => if !x.2.onTile && (s.heldBack l x).isNone && (s.coreFor l []).isNone then some (s.launchRank k) else none
      | none => none)
  match swaps ++ outs ++ items with
  | [] => none
  | h :: t => some (t.foldl max h)

/-- V of R284: the resident crew of least ER, the longest resident among those. -/
def State.victim (s : State) (core : Nat) : Option (Nat × Crew) :=
  match (s.core core).crews with
  | [] => none
  | h :: t => some (t.foldl (fun b c =>
      let rb := s.queueRank b.2.launch
      let rc := s.queueRank c.2.launch
      if rc < rb ∨ (rc = rb ∧ c.2.since < b.2.since) then c else b) h)

/-- A sub-gang stands at an issue boundary with its lane queue drained: parked, or no instruction under way (R296). -/
def Thread.settled (th : Thread) : Bool := th.parked || (th.lq == [] && th.issRem == 0 && th.wait != .issued)

/-- Every sub-gang of a crew has stopped, and its entries other than matrix ones have performed; one that waits in
rlk.acq waits again when it goes on (R296). -/
def State.crewStopped (s : State) (core k : Nat) : Bool :=
  match s.crewOf core k with
  | none => false
  | some cr =>
    let gs := ((s.core core).crewGangs k).map Prod.snd ++ ((s.core core).out.filter (fun g => g.2.crew == k)).map Prod.snd
    gs.all (fun g => g.subs.all (fun t => t.2.settled && !s.swapSent (.crew core k) (g.num * 8 + t.1))) &&
    cr.q.ordered.all (fun e => isAcq e.cmd) && cr.q.qs.all (fun q => q.1 == 6 || q.2.all (fun e => isAcq e.cmd))

/-- A thread that repeats the instruction it waits in when it goes on. -/
def Thread.unwait (th : Thread) : Thread :=
  match th.wait with
  | .acq => { th with wait := .none }
  | .regang => { th with wait := .none }
  | _ => th

/-- The gangs of a crew leave the core with its core memory; waiting lock requests are withdrawn. -/
def State.swapOut (s : State) (core k : Nat) : State :=
  let s := s.writeBackAll core
  match s.crewOf core k with
  | none => s
  | some cr =>
    let e := s.core core
    let still := fun (g : Gang) => { g with subs := g.subs.map (fun t => (t.1, t.2.unwait)) }
    let gs := (e.crewGangs k).map (fun g => still g.2) ++ (e.out.filter (fun g => g.2.crew == k)).map (fun g => still g.2)
    let q := { cr.q with ordered := [], qs := cr.q.qs.filter (fun x => x.1 == 6) }
    let w : Swapped := { core := core, launch := cr.launch, crew := { cr with q := q, stopReq := false }, gangs := gs, since := s.timeOf (s.unitPart core) }
    { s.removeCrew core k with swapped := s.swapped ++ [w] }

/-- A new slice begins, and no stop is asked of the core's crews. -/
def State.newSlice (s : State) (core : Nat) : State :=
  let e := s.core core
  s.setCore core { e with sliceStart := s.timeOf (s.unitPart core), crews := e.crews.map (fun c => (c.1, { c.2 with stopReq := false })) }

/-- EDGE_SLICE_EXPIRY (R284): the slice of edge core inp.a ends; V leaves when it does not rank above a waiter. -/
def execEdgeSliceExpiry (s : State) : Out :=
  let core := s.inp.a
  let p := s.unitPart core
  if s.timeOf p < (s.core core).sliceStart + s.eslice p ∨ s.partLive p = false ∨ s.dieBusy (unitDie core) = true then .next s
  else
    match s.edgeWaiter p core, s.victim core with
    | some er, some (k, cr) =>
      if er < s.queueRank cr.launch then .next (s.newSlice core)
      else if s.crewStopped core k ∧ cr.stopReq = true then .next ((s.swapOut core k).newSlice core)
      else .next (s.updCrew core k (fun cr => { cr with stopReq := true }))
    | _, _ => .next (s.newSlice core)

/-- A swapped-out crew placed again: its gangs in new slots, parked ones announced anew (R194, R284). -/
def State.swapIn (s : State) (core : Nat) (w : Swapped) : State :=
  let key := s.seq
  let s := s.returnCrew core w
  let slots := pickSlots w.gangs.length ((s.core core).gangs.map Prod.fst) []
  (slots.zip ((s.core core).out.filter (fun x => x.2.crew == key))).foldl (fun s x => s.placeOut core x.1 x.2) s

/-- The gang that has been swapped out longest returns to a free slot of its core (R53). -/
def State.gangIn (s : State) (core : Nat) : State :=
  let e := s.core core
  match leastBy Prod.fst e.out with
  | none => s
  | some x =>
    match pickSlot (e.gangs.map Prod.fst) ((e.crewGangs x.2.crew).map Prod.fst) with
    | none => s
    | some slot => s.placeOut core slot x

/-- Among a partition's swapped-out crews: the greatest ER, the oldest on a tie. -/
def State.nextSwapped (s : State) (p : Nat) : Option Swapped :=
  match s.swapped.filter (fun w => ((s.launch w.launch).map (fun l => l.part)).getD 99 == p) with
  | [] => none
  | h :: t => some (t.foldl (fun b w =>
      if s.launchRank b.launch < s.launchRank w.launch ∨ (s.launchRank b.launch = s.launchRank w.launch ∧ w.since < b.since) then w else b) h)

/-- CREW_SWAP_IN (R284): a single gang swapped out of a crew of edge core inp.b returns to it, or else the next swapped-out
crew of partition inp.a does, when the core has room. -/
def execCrewSwapIn (s : State) : Out :=
  let p := s.inp.a
  let live : Bool := (s.partUnits p).contains s.inp.b && s.partLive p && !s.dieBusy (unitDie s.inp.b)
  if live = true ∧ (s.core s.inp.b).out ≠ [] then .next (s.gangIn s.inp.b)
  else match s.nextSwapped p with
  | none => .next s
  | some w =>
    if live && (s.core s.inp.b).hasRoom w.gangs.length w.crew.cmemKiB then .next (s.swapIn s.inp.b w)
    else .next s

end Sys2Proof.Machine
end

