-- ==== Sys2Proof/Machine/TileOps.lean ====
section
/-! DEFINITION. The operations of the tile engine's S, L and V slots (R155 to R166): what each reads at its issue
step and the results it launches, with the latencies of R141 and the engine errors of R142. -/

namespace Sys2Proof.Machine

/-! ## What an operation reads and does -/

/-- What an operation reads: its engine, the instance with the results due landed, TIME at issue. -/
structure TCtx where
  e : Nat
  t : Tile
  time : Nat := 0
  deriving DecidableEq, Repr

/-- A control operation (R144, R146). -/
inductive Ctl where
  | none
  | go (target : Nat)
  | start (count stg len : Nat)
  | over (len : Nat)
  | halt
  deriving DecidableEq, Repr

/-- The effect of an operation: results with their latencies, scratchpad writes at the end of the step, a control
operation, the counter values it takes (R63), an entry for the matrix queue, an accumulator's read pointer, a mark. -/
structure TEff where
  lands : List (Nat × Land) := []
  pad : List (Nat × List Byte) := []
  ctl : Ctl := .none
  adv : Nat := 0
  mat : Option QEntry := none
  acc : Option (Nat × Acc) := none
  mark : Option Nat := none
  deriving DecidableEq, Repr

/-- What an operation comes to at issue: its effect, an engine error with its cause and the detail of [31:12], or a
window read into s[d] (window, offset). -/
inductive TRes where
  | ok (f : TEff)
  | err (cause detail : Nat)
  | win (d w a : Nat)
  deriving DecidableEq, Repr

def TRes.land (lat : Nat) (l : Land) : TRes := .ok { lands := [(lat, l)] }

/-! ## Registers (R135, R136, R148) -/

def Tile.sreg (t : Tile) (n : Nat) : W64 := SMap.get 0 t.s n
/-- p0 reads 1 always (R135). -/
def Tile.preg (t : Tile) (n : Nat) : Bool := n == 0 || SMap.get false t.p n
/-- The physical register of a name under rotation (R148). -/
def Tile.vphys (t : Tile) (n : Nat) : Nat := if n < 32 then n else 32 + (n - 32 + t.turn) % 32
def Tile.vlane (t : Tile) (n l : Nat) : W32 := SMap.get 0 t.v (32 * t.vphys n + l)
def Tile.kreg (t : Tile) (n : Nat) : W32 := SMap.get 0 t.k n

/-- The ring of latch qn, n from 1 to 3. -/
def Tile.latchRing (t : Tile) (n : Nat) : Ring := SMap.get {} t.rings n
/-- The value of a latch (R136). -/
def Tile.latch (t : Tile) (n : Nat) : W64 :=
  if n = 0 then t.q0
  else
    let r := t.latchRing n
    BitVec.ofNat 64 (r.base + ptrSlot r.rp * r.size + ptrSlot r.rp * 2 ^ 20)

/-- ls (R149). -/
def Tile.lsWord (t : Tile) : Nat :=
  b2n (t.drain && t.act) * 2 ^ 23 + b2n t.act * 2 ^ 22 + t.turn % 32 * 2 ^ 17 + t.fill % 8 * 2 ^ 14 + t.tail % 16 * 2 ^ 10 +
  (if t.act then ((span 0 8).map (fun j => b2n (t.preg (8 + j)) * 2 ^ j)).foldl (· + ·) 0 else 0)

/-! ## Applying an effect -/

/-- Latency as the form has it: unit latencies in P-form (R154). -/
def Tile.lat (t : Tile) (n : Nat) : Nat := if t.form = 1 then 1 else n

/-- A loop begins (R146); a stop requested before it drains it (R153). -/
def Tile.start (t : Tile) (count stg len : Nat) : Tile :=
  { t with
    lc := BitVec.ofNat 32 (count - 1), le := stg, turn := 0, fill := 0, tail := 0, act := true, drain := t.stopReq
    bodyStart := t.b + 1, bodyLen := len, passes := 0
    p := (span 8 8).foldl (fun p i => SMap.set false p i (i == 8)) t.p }

/-- A control operation takes effect: a redirect is pending, a loop is active, or the instance halts (R143 to R146). -/
def Tile.control (t : Tile) (c : Ctl) : Tile :=
  match c with
  | .none => t
  | .go x => { t with rd := t.rd ++ [(t.t + (if t.form = 1 then 1 else 3), x)] }
  | .start n g l => if n = 0 then t else t.start n g l
  | .over _ => t
  | .halt => { t.landAll with run := .halting, rd := [], flights := [] }

/-- The results of an effect, in flight from the step of issue (R139), and its scratchpad writes (R140). -/
def Tile.effect (t : Tile) (order : Nat) (f : TEff) : Tile :=
  let t := f.pad.foldl (fun t w => t.padWrite w.1 w.2) t
  { t with
    flights := t.flights ++ f.lands.map (fun x => { step := t.t + t.lat x.1, order := order, what := x.2 })
    srctr := t.srctr + BitVec.ofNat 64 f.adv
    acc := match f.acc with | some (d, a) => SMap.set {} t.acc d a | none => t.acc }

/-- An operation's effect on the machine, its control apart. -/
def State.applyEff (s : State) (e : Nat) (f : TEff) : State :=
  let t := s.tile e
  let s := { s.setTile e (t.effect s.seq f) with seq := s.seq + 1 }
  let s := match f.mat with
    | some q => s.qPush (.tile e) 6 { q with pc := t.b }
    | none => s
  match f.mark with
  | some m => s.trace (teStation e) (s.unitPart e) 0 0 0x0F (m + t.b * 2 ^ 16) [] t.b 0 false
  | none => s

/-- What an operation of engine e reads now. -/
def State.tctx (s : State) (e : Nat) (t : Tile) : TCtx := { e := e, t := t, time := s.timeOf (s.unitPart e) }

/-- The status word of an error found at issue (R142, R255). -/
def issueStatus (cause slot detail : Nat) : Nat := cause + slot * 2 ^ 8 + detail % 2 ^ 20 * 2 ^ 12

/-- How a window read stands: its bytes, a stall, or an error. -/
inductive WinOut where
  | bytes (v : W64) (beyond : Bool)
  | stall
  | fail (cause detail : Nat)
  deriving DecidableEq, Repr

/-- The number by which a tile engine's window reads are known, its slot apart. -/
def windowSg : Nat := 30008

/-- ldp's read of 8 bytes of a window at offset a (R79, R157): the engine stalls on a translation fault (R301); other
failures are engine errors of the slot with the entry causes of R228. -/
def State.tileWindow (s : State) (e slot w a : Nat) : State × WinOut :=
  let p := s.unitPart e
  let k := (s.tile e).launch
  let d := ((s.launch k).map (fun l => l.desc)).getD {}
  let win := d.pwin.getD w (0, 0)
  let who : Issuer := .tile e
  if a % 8 ≠ 0 then (s, .fail 0x22 0)
  else if s.stalled (.issue who (1 + slot)) then (s, .stall)
  else if s.issueFail.any (fun x => x.1 == who && x.2.1 == 1 + slot) then
    ({ s with issueFail := s.issueFail.filter (fun x => !(x.1 == who && x.2.1 == 1 + slot)) }, .fail 0x33 0)
  else
    match s.windowRead who p win a 8 (windowSg + slot) (unitDie e) k with
    | (s, .ok bs) => (s.clearRemote who (windowSg + slot), .bytes (BitVec.ofNat 64 (leNat bs)) (win.2 < a + 8))
    | (s, .error (.wait, _)) => (s, .stall)
    | (s, .error (.fault why, va)) => (s.raiseFault (unitDie e) p va slot false why (.issue who (1 + slot)), .stall)
    | (s, .error (x, _)) => ((s.countErr x).clearRemote who (windowSg + slot), .fail (entryCause x) 0)

/-- The effect of a window read that has its bytes: s[d], and PWB with PWIN when it reached beyond (R80). -/
def winEff (d w : Nat) (v : W64) (beyond : Bool) : TEff :=
  { lands := (6, Land.s d v) :: (if beyond then [(6, Land.pwb w)] else []) }

/-- One slot operation issues at the engine's current step, on its own: the guard is read, then the operation has its
effect or stops the engine (R113, R142). The sequencer's own step follows R145. -/
def tileOp (g : B4) (slot : Nat) (sem : TCtx → TRes) (s : State) : Out :=
  match s.cur with
  | .tile e =>
    if (s.tile e).run ≠ .running then .fault .noThread
    else
      let t := (s.tile e).land (s.tile e).t
      let s := s.setTile e t
      if !t.preg g.toNat then .next s
      else
        match sem (s.tctx e t) with
        | .ok f =>
          let s := s.applyEff e f
          .next (s.setTile e ((s.tile e).control f.ctl))
        | .err c d => .next (s.engineError e t.b slot (issueStatus c slot d))
        | .win d w a =>
          match s.tileWindow e slot w a with
          | (s, .bytes v b) => .next (s.applyEff e (winEff d w v b))
          | (s, .stall) => .next s
          | (s, .fail c x) => .next (s.engineError e t.b slot (issueStatus c slot x))
  | _ => .fault .noThread

/-! ## S slot: arithmetic (R155) -/

def TCtx.sa (c : TCtx) (f : SA) : W64 := if f.qa = 1 then c.t.latch (f.a.toNat % 4) else c.t.sreg f.a.toNat
def TCtx.sb (c : TCtx) (f : SA) : W64 :=
  if f.i = 1 then f.lo.signExtend 64
  else if bitAt f.lo.toNat 4 then c.t.latch (f.lo.toNat / 32 % 4) else c.t.sreg (f.lo.toNat / 32)

/-- A two-operand operation into s[D]. -/
def saOp (lat : Nat) (op : W64 → W64 → W64) (f : SA) (c : TCtx) : TRes :=
  .land lat (.s f.d.toNat (op (c.sa f) (c.sb f)))

/-- Shift amount Bv[5:0]. -/
def shiftOf (v : W64) : Nat := v.toNat % 64

def semTeAdd (f : SA) (c : TCtx) : TRes := saOp 1 (fun a b => a + b) f c
def semTeSub (f : SA) (c : TCtx) : TRes := saOp 1 (fun a b => a - b) f c
def semTeAnd (f : SA) (c : TCtx) : TRes := saOp 1 (fun a b => a &&& b) f c
def semTeOr (f : SA) (c : TCtx) : TRes := saOp 1 (fun a b => a ||| b) f c
def semTeXor (f : SA) (c : TCtx) : TRes := saOp 1 (fun a b => a ^^^ b) f c
def semTeAndn (f : SA) (c : TCtx) : TRes := saOp 1 (fun a b => a &&& ~~~b) f c
def semTeShl (f : SA) (c : TCtx) : TRes := saOp 1 (fun a b => a <<< shiftOf b) f c
def semTeShr (f : SA) (c : TCtx) : TRes := saOp 1 (fun a b => a >>> shiftOf b) f c
def semTeSra (f : SA) (c : TCtx) : TRes := saOp 1 (fun a b => a.sshiftRight (shiftOf b)) f c
def semTeMul (f : SA) (c : TCtx) : TRes := saOp 3 (fun a b => a * b) f c
def semTeMulh (f : SA) (c : TCtx) : TRes := saOp 3 mulHigh f c
def semTeMin (f : SA) (c : TCtx) : TRes := saOp 1 (fun a b => if b.slt a then b else a) f c
def semTeMax (f : SA) (c : TCtx) : TRes := saOp 1 (fun a b => if a.slt b then b else a) f c
def semTeMov (f : SA) (c : TCtx) : TRes := saOp 1 (fun a _ => a) f c

/-- add (R155). -/
def execTeAdd (f : SA) (s : State) : Out := tileOp f.g 0 (semTeAdd f) s
/-- sub (R155). -/
def execTeSub (f : SA) (s : State) : Out := tileOp f.g 0 (semTeSub f) s
/-- and (R155). -/
def execTeAnd (f : SA) (s : State) : Out := tileOp f.g 0 (semTeAnd f) s
/-- or (R155). -/
def execTeOr (f : SA) (s : State) : Out := tileOp f.g 0 (semTeOr f) s
/-- xor (R155). -/
def execTeXor (f : SA) (s : State) : Out := tileOp f.g 0 (semTeXor f) s
/-- andn (R155). -/
def execTeAndn (f : SA) (s : State) : Out := tileOp f.g 0 (semTeAndn f) s
/-- shl (R155). -/
def execTeShl (f : SA) (s : State) : Out := tileOp f.g 0 (semTeShl f) s
/-- shr (R155). -/
def execTeShr (f : SA) (s : State) : Out := tileOp f.g 0 (semTeShr f) s
/-- sra (R155). -/
def execTeSra (f : SA) (s : State) : Out := tileOp f.g 0 (semTeSra f) s
/-- mul (R155). -/
def execTeMul (f : SA) (s : State) : Out := tileOp f.g 0 (semTeMul f) s
/-- mulh (R155). -/
def execTeMulh (f : SA) (s : State) : Out := tileOp f.g 0 (semTeMulh f) s
/-- min (R155). -/
def execTeMin (f : SA) (s : State) : Out := tileOp f.g 0 (semTeMin f) s
/-- max (R155). -/
def execTeMax (f : SA) (s : State) : Out := tileOp f.g 0 (semTeMax f) s
/-- mov (R155). -/
def execTeMov (f : SA) (s : State) : Out := tileOp f.g 0 (semTeMov f) s

/-! ## S slot: other scalar operations (R156) -/

def semTeSel (d a b : B5) (p : B4) (c : TCtx) : TRes :=
  .land 1 (.s d.toNat (if c.t.preg p.toNat then c.t.sreg a.toNat else c.t.sreg b.toNat))
def semTeLi (d : B5) (i : BitVec 16) (_ : TCtx) : TRes := .land 1 (.s d.toNat (i.signExtend 64))
def semTeLih (d : B5) (i : BitVec 16) (c : TCtx) : TRes :=
  .land 1 (.s d.toNat (c.t.sreg d.toNat * 65536#64 + i.zeroExtend 64))

/-- COND of the scalar compare: eq, ne, lt, le, ltu, leu (R156). -/
def condS (cc : Nat) (a b : W64) : Bool :=
  match cc with
  | 0 => a == b | 1 => a != b | 2 => a.slt b | 3 => a.sle b | 4 => a.ult b | _ => a.ule b

def semTeCmp (pt pf : B4) (a b : B5) (cc : B3) (c : TCtx) : TRes :=
  let r := condS cc.toNat (c.t.sreg a.toNat) (c.t.sreg b.toNat)
  .ok { lands := [(1, .p pt.toNat r), (1, .p pf.toNat (!r))] }

def spOp (op : Bool → Bool → Bool) (f : SP) (c : TCtx) : TRes :=
  .land 1 (.p f.pd.toNat (op (c.t.preg f.pa.toNat) (c.t.preg f.pb.toNat)))
def semTePand (f : SP) (c : TCtx) : TRes := spOp (fun a b => a && b) f c
def semTePor (f : SP) (c : TCtx) : TRes := spOp (fun a b => a || b) f c
def semTePxor (f : SP) (c : TCtx) : TRes := spOp (fun a b => a != b) f c
def semTePnot (f : SP) (c : TCtx) : TRes := spOp (fun a _ => !a) f c

/-- sel (R156). -/
def execTeSel (g : B4) (d a b : B5) (p : B4) (s : State) : Out := tileOp g 0 (semTeSel d a b p) s
/-- li (R156). -/
def execTeLi (g : B4) (d : B5) (i : BitVec 16) (s : State) : Out := tileOp g 0 (semTeLi d i) s
/-- lih (R156). -/
def execTeLih (g : B4) (d : B5) (i : BitVec 16) (s : State) : Out := tileOp g 0 (semTeLih d i) s
/-- cmp.cc (R156). -/
def execTeCmp (g pt pf : B4) (a b : B5) (cc : B3) (s : State) : Out := tileOp g 0 (semTeCmp pt pf a b cc) s
/-- pand (R156). -/
def execTePand (f : SP) (s : State) : Out := tileOp f.g 0 (semTePand f) s
/-- por (R156). -/
def execTePor (f : SP) (s : State) : Out := tileOp f.g 0 (semTePor f) s
/-- pxor (R156). -/
def execTePxor (f : SP) (s : State) : Out := tileOp f.g 0 (semTePxor f) s
/-- pnot (R156). -/
def execTePnot (f : SP) (s : State) : Out := tileOp f.g 0 (semTePnot f) s

/-! ## S slot: scratchpad and window access (R157) -/

/-- The error of accesses of n bytes with an alignment: outside the scratchpad, then misaligned, each for the lowest
lane that fails so (R142). -/
def padErr (n al : Nat) (as : List Nat) : Option (Nat × Nat) :=
  match as.find? (fun a => padSize < a + n), as.find? (fun a => a % al != 0) with
  | some a, _ => some (0x20, a)
  | none, some a => some (0x21, a)
  | none, none => none

/-- An access that passes its checks. -/
def padOp (n al : Nat) (as : List Nat) (f : TEff) : TRes :=
  match padErr n al as with
  | some (c, a) => .err c a
  | none => .ok f

def semTeLdS (d a : B5) (i : BitVec 12) (c : TCtx) : TRes :=
  let x := (c.t.sreg a.toNat + i.signExtend 64).toNat
  padOp 8 8 [x] { lands := [(4, .s d.toNat (BitVec.ofNat 64 (leNat (c.t.padRead x 8))))] }
def semTeStS (d a : B5) (i : BitVec 12) (c : TCtx) : TRes :=
  let x := (c.t.sreg a.toNat + i.signExtend 64).toNat
  padOp 8 8 [x] { pad := [(x, leBytes 8 (c.t.sreg d.toNat).toNat)] }
def semTeLdp (d a : B5) (w : B3) (i : BitVec 9) (c : TCtx) : TRes :=
  .win d.toNat w.toNat (c.t.sreg a.toNat + 8#64 * i.zeroExtend 64).toNat

/-- ld.s (R157). -/
def execTeLdS (g : B4) (d a : B5) (i : BitVec 12) (s : State) : Out := tileOp g 0 (semTeLdS d a i) s
/-- st.s (R157). -/
def execTeStS (g : B4) (d a : B5) (i : BitVec 12) (s : State) : Out := tileOp g 0 (semTeStS d a i) s
/-- ldp (R157). -/
def execTeLdp (g : B4) (d a : B5) (w : B3) (i : BitVec 9) (s : State) : Out := tileOp g 0 (semTeLdp d a w i) s

/-! ## S slot: control (R158) -/

/-- The loop bodies of a checked body: first bundle and length (R127, R146). -/
def loopBodies (body : List Bundle) : List (Nat × Nat) :=
  ((span 0 body.length).zip body).flatMap (fun x => x.2.ops.filterMap (fun o =>
    match o.2 with
    | .teLoop _ _ _ len => some (x.1 + 1, len.toNat)
    | .teLoopx _ _ _ len => some (x.1 + 1, len.toNat)
    | _ => none))

def inBody (b : Nat) (x : Nat × Nat) : Bool := x.1 ≤ b && b < x.1 + x.2

/-- A target that R128 forbids to bri. -/
def briBad (body : List Bundle) (b target : Nat) : Bool :=
  body.length ≤ target || (loopBodies body).any (fun x => inBody target x && !inBody b x)

def semTeBr (i : BitVec 22) (c : TCtx) : TRes := .ok { ctl := .go ((c.t.b : Int) + i.toInt).toNat }
def semTeBri (a : B5) (c : TCtx) : TRes :=
  let x := (c.t.sreg a.toNat).toNat
  if briBad c.t.body c.t.b x then .err 0x23 0 else .ok { ctl := .go x }
def semTeLoop (n : BitVec 10) (stg : B3) (len : BitVec 9) (_ : TCtx) : TRes :=
  .ok { ctl := .start n.toNat stg.toNat len.toNat }
def semTeLoopx (a : B5) (stg : B3) (len : BitVec 9) (c : TCtx) : TRes :=
  let n := (c.t.sreg a.toNat).toNat
  if 2 ^ 32 ≤ n then .err 0x24 0 else .ok { ctl := .start n stg.toNat len.toNat }
def semTeTmark (i : BitVec 16) (_ : TCtx) : TRes := .ok { mark := some i.toNat }
def semTeHalt (_ : TCtx) : TRes := .ok { ctl := .halt }

/-- br (R143, R158). -/
def execTeBr (g : B4) (i : BitVec 22) (s : State) : Out := tileOp g 0 (semTeBr i) s
/-- bri (R128, R143, R158). -/
def execTeBri (g : B4) (a : B5) (s : State) : Out := tileOp g 0 (semTeBri a) s
/-- loop (R146). -/
def execTeLoop (g : B4) (n : BitVec 10) (stg : B3) (len : BitVec 9) (s : State) : Out := tileOp g 0 (semTeLoop n stg len) s
/-- loopx (R146). -/
def execTeLoopx (g : B4) (a : B5) (stg : B3) (len : BitVec 9) (s : State) : Out := tileOp g 0 (semTeLoopx a stg len) s
/-- tmark (R158). -/
def execTeTmark (g : B4) (i : BitVec 16) (s : State) : Out := tileOp g 0 (semTeTmark i) s
/-- halt (R144, R152). -/
def execTeHalt (g : B4) (s : State) : Out := tileOp g 0 semTeHalt s

/-! ## S slot: special registers (R159) -/

/-- The register that rds names. -/
def TCtx.spr (c : TCtx) (n : Nat) : W64 :=
  let t := c.t
  BitVec.ofNat 64 (
    if n = 0 then t.fmt.toNat else if n = 1 then t.msts.toNat else if n = 2 then t.srkey.toNat
    else if n = 3 then t.srctr.toNat else if n = 4 then t.lc.toNat else if n = 5 then t.le
    else if n = 6 then t.lsWord else if n = 8 then t.ric.toNat else if n = 9 then t.rcap.toNat
    else if n = 0xA then t.rthr.toNat else if n = 0xB then t.rdiv.toNat else if n = 0xC then t.rres.toNat
    else if n < 0x20 then (t.kreg (n - 16)).toNat
    else if n < 0x24 then (t.latch (n - 0x20)).toNat else c.time)

def semTeRds (d : B5) (n : BitVec 8) (c : TCtx) : TRes := .land 1 (.s d.toNat (c.spr n.toNat))
def semTeWrs (a : B5) (n : BitVec 8) (c : TCtx) : TRes := .land 1 (.spr n.toNat (c.t.sreg a.toNat))

/-- rds (R159). -/
def execTeRds (g : B4) (d : B5) (n : BitVec 8) (s : State) : Out := tileOp g 0 (semTeRds d n) s
/-- wrs (R159). -/
def execTeWrs (g : B4) (a : B5) (n : BitVec 8) (s : State) : Out := tileOp g 0 (semTeWrs a n) s

/-! ## L slot (R160) -/

/-- a = s[A] + unit × IMM11, modulo 2^64. -/
def lfBase (f : LF) (c : TCtx) (unit : Nat) : W64 :=
  c.t.sreg f.a.toNat + BitVec.ofNat 64 unit * f.lo.signExtend 64
def lfRow (f : LF) (c : TCtx) : List Nat := (span 0 32).map (fun i => (lfBase f c 128 + BitVec.ofNat 64 (4 * i)).toNat)
def lfStride (f : LF) (c : TCtx) : List Nat :=
  (span 0 32).map (fun i => (c.t.sreg f.a.toNat + BitVec.ofNat 64 i * c.t.sreg (f.lo.toNat / 64)).toNat)
def lfIndex (f : LF) (c : TCtx) : List Nat :=
  (span 0 32).map (fun i => (c.t.sreg f.a.toNat + (c.t.vlane (f.lo.toNat / 32) i).zeroExtend 64).toNat)

def pad32 (t : Tile) (a : Nat) : W32 := BitVec.ofNat 32 (leNat (t.padRead a 4))

/-- A load of lane i from the i-th offset. -/
def vloadOp (f : LF) (c : TCtx) (as : List Nat) : TRes :=
  padOp 4 4 as { lands := [(6, .v (c.t.vphys f.v.toNat) (as.map (pad32 c.t)))] }
/-- A store of lane i at the i-th offset; the highest lane is written last. -/
def vstoreOp (f : LF) (c : TCtx) (as : List Nat) : TRes :=
  padOp 4 4 as { pad := (as.zip (span 0 32)).map (fun x => (x.1, leBytes 4 (c.t.vlane f.v.toNat x.2).toNat)) }

def semVld (f : LF) (c : TCtx) : TRes := vloadOp f c (lfRow f c)
def semVldB (f : LF) (c : TCtx) : TRes := vloadOp f c (List.replicate 32 (lfBase f c 4).toNat)
def semVldS (f : LF) (c : TCtx) : TRes := vloadOp f c (lfStride f c)
def semVst (f : LF) (c : TCtx) : TRes := vstoreOp f c (lfRow f c)
def semVstS (f : LF) (c : TCtx) : TRes := vstoreOp f c (lfStride f c)
def semVldSc (f : LF) (c : TCtx) : TRes := vloadOp f c (lfIndex f c)
def semVstSc (f : LF) (c : TCtx) : TRes := vstoreOp f c (lfIndex f c)

/-- vld (R160). -/
def execVld (f : LF) (s : State) : Out := tileOp f.g 2 (semVld f) s
/-- vld.b (R160). -/
def execVldB (f : LF) (s : State) : Out := tileOp f.g 2 (semVldB f) s
/-- vld.s (R160). -/
def execVldS (f : LF) (s : State) : Out := tileOp f.g 2 (semVldS f) s
/-- vst (R160). -/
def execVst (f : LF) (s : State) : Out := tileOp f.g 2 (semVst f) s
/-- vst.s (R160). -/
def execVstS (f : LF) (s : State) : Out := tileOp f.g 2 (semVstS f) s
/-- vld.sc (R160). -/
def execVldSc (f : LF) (s : State) : Out := tileOp f.g 2 (semVldSc f) s
/-- vst.sc (R160). -/
def execVstSc (f : LF) (s : State) : Out := tileOp f.g 2 (semVstSc f) s

/-! ## V slots (R161 to R166) -/

def TCtx.va (c : TCtx) (f : VF) (l : Nat) : W32 := c.t.vlane f.a.toNat l
def TCtx.vb (c : TCtx) (f : VF) (l : Nat) : W32 := c.t.vlane f.b.toNat l
def TCtx.vd (c : TCtx) (f : VF) (l : Nat) : W32 := c.t.vlane f.d.toNat l
def TCtx.fl (c : TCtx) : Bool := fmtFlush c.t.fmt.toNat
def TCtx.rnd (c : TCtx) (l : Nat) : Rnd := rndOf c.t.fmt.toNat c.t.srkey c.t.srctr l

/-- The sticky bits that a result raises land with it (R141). -/
def flagLand (lat : Nat) (g : FFlags) : List (Nat × Land) := if g = {} then [] else [(lat, .flags g.bits 0)]

/-- A result for every lane of v[D]. -/
def vecOut (f : VF) (lat : Nat) (c : TCtx) (ls : List W32) (g : FFlags) (adv : Nat) : TRes :=
  .ok { lands := (lat, Land.v (c.t.vphys f.d.toNat) ls) :: flagLand lat g, adv := adv }

/-- An operation lane by lane that does not round. -/
def vecMap (f : VF) (lat : Nat) (val : Nat → W32 × FFlags) (c : TCtx) : TRes :=
  let rs := (span 0 32).map val
  vecOut f lat c (rs.map Prod.fst) (rs.foldl (fun a r => a.or r.2) {}) 0

/-- One that reads RND: a reserved code is a format error (R60), and RND 4 takes 32 counter values (R63). -/
def vecRnd (f : VF) (lat : Nat) (val : Nat → W32 × FFlags) (c : TCtx) : TRes :=
  if rndBad c.t.fmt.toNat then .err 0x26 0
  else
    let rs := (span 0 32).map val
    vecOut f lat c (rs.map Prod.fst) (rs.foldl (fun a r => a.or r.2) {}) (if fmtRnd c.t.fmt.toNat = 4 then 32 else 0)

/-- Elements of a lane under TY, and their format. -/
def vParts (f : VF) : Nat := if f.m.toNat % 4 = 1 then 2 else 1
def vFmt (f : VF) : NumFmt := tyFmt (f.m.toNat % 4)

def vecBin (f : VF) (op : NumFmt → Rnd → Bool → Nat → Nat → Nat × FFlags) (c : TCtx) : TRes :=
  vecRnd f 4 (fun l => perPart (vParts f) (op (vFmt f) (c.rnd l) c.fl) (c.va f l) (c.vb f l)) c
def vecFma (f : VF) (sub : Bool) (c : TCtx) : TRes :=
  vecRnd f 4 (fun l => perPart3 (vParts f) (eFma (vFmt f) (c.rnd l) c.fl sub) (c.va f l) (c.vb f l) (c.vd f l)) c
def vecSel (f : VF) (op : NumFmt → Bool → Nat → Nat → Nat) (c : TCtx) : TRes :=
  vecMap f 2 (fun l => perPart (vParts f) (fun a b => (op (vFmt f) c.fl a b, {})) (c.va f l) (c.vb f l)) c
def vecTrans (f : VF) (op : Rnd → Bool → FVal → Nat × FFlags) (c : TCtx) : TRes :=
  vecRnd f 8 (fun l =>
    let r := op (c.rnd l).noSr c.fl (NumFmt.fp32.read c.fl (c.va f l).toNat)
    (BitVec.ofNat 32 r.1, r.2)) c

def semVadd (f : VF) (c : TCtx) : TRes := vecBin f eAdd c
def semVsub (f : VF) (c : TCtx) : TRes := vecBin f eSub c
def semVmul (f : VF) (c : TCtx) : TRes := vecBin f eMul c
def semVfma (f : VF) (c : TCtx) : TRes := vecFma f false c
def semVfms (f : VF) (c : TCtx) : TRes := vecFma f true c
def semVmax (f : VF) (c : TCtx) : TRes := vecSel f (fun k fl a b => eMinMax k fl true a b) c
def semVmin (f : VF) (c : TCtx) : TRes := vecSel f (fun k fl a b => eMinMax k fl false a b) c
def semVabs (f : VF) (c : TCtx) : TRes := vecSel f (fun k fl a _ => eAbs k fl a) c
def semVneg (f : VF) (c : TCtx) : TRes := vecSel f (fun k fl a _ => eNeg k fl a) c
def semVrcp (f : VF) (c : TCtx) : TRes := vecTrans f fRcp c
def semVrsq (f : VF) (c : TCtx) : TRes := vecTrans f fRsq c
def semVexp2 (f : VF) (c : TCtx) : TRes := vecTrans f fExp2 c
def semVlog2 (f : VF) (c : TCtx) : TRes := vecTrans f fLog2 c

def semVcmp (f : VF) (c : TCtx) : TRes :=
  let cc := f.m.toNat / 2
  vecMap f 2 (fun l =>
    let r := if f.m.toNat % 2 = 1 then iCmp cc (c.va f l).toInt (c.vb f l).toInt
      else eCmp cc c.fl (c.va f l).toNat (c.vb f l).toNat
    (if r then 0xFFFFFFFF#32 else 0#32, {})) c
def semVsel (f : VF) (c : TCtx) : TRes :=
  vecMap f 2 (fun l => ((c.va f l &&& c.vd f l) ||| (c.vb f l &&& ~~~(c.vd f l)), {})) c

def semVcvt (f : VF) (c : TCtx) : TRes :=
  let sc := f.b.toNat / 4
  let dc := f.m.toNat
  match NumFmt.ofCode sc, NumFmt.ofCode dc with
  | some src, some dst =>
    vecRnd f 3 (fun l => cvtLane src dst (perLane sc) (perLane dc) (f.b.toNat % 4) c.rnd
      (fmtSatf c.t.fmt.toNat) c.fl (c.va f) (c.vd f l) l) c
  | _, _ => .err 0x26 0

/-! ### Quantisation of a block in two instructions (R164) -/

/-- The 48 elements of lanes 0 to 31 of A and 0 to 15 of A + 1. -/
def blockOf (f : VF) (c : TCtx) : List FVal :=
  (span 0 48).map (fun k => NumFmt.fp32.read c.fl
    (c.t.vlane (f.a.toNat + k / 32) (k % 32)).toNat)

def maxVal (xs : List FVal) : FVal := xs.foldl (fun a x => if fLt a x then x else a) (.fin false 0 0)

def semVmaxabs (f : VF) (c : TCtx) : TRes :=
  let xs := blockOf f c
  let w := fun (v : FVal) => BitVec.ofNat 32 (eKeep .fp32 v)
  let nan := xs.any FVal.isNan
  let m0 := if nan then w .nan else w (maxVal (xs.map FVal.abs))
  let m1 := if nan then w .nan else w (maxVal xs)
  vecOut f 2 c (m0 :: m1 :: List.replicate 30 0) {} 0

/-- The largest code of a target, by sign (R164). -/
def quantTop (k : NumFmt) (neg : Bool) : Nat :=
  match k with
  | .e4m3 => if neg then 0xFE else 0x7E
  | .e5m2 => if neg then 0xFB else 0x7B
  | .l6 => if neg then 63 else 31
  | .int8 => if neg then 0x81 else 127
  | _ => if neg then 0 else 255

/-- One element under a scale that may be too small for it (R164). -/
def quantElem (k : NumFmt) (fl : Bool) (x : FVal) (ex : Int) : Nat × FFlags :=
  match x with
  | .nan => (0, { nv := true })
  | .inf neg => if neg && k == .uint8 then (0, { sat := true }) else (quantTop k neg, { of_ := true })
  | .fin neg m e =>
    match k.quantMax with
    | none => (0, {})
    | some (mx, mxe) =>
      if (neg && k == .uint8) || m == 0 || leScaled m e mx mxe ex then qround k fl x ex
      else (quantTop k neg, { of_ := true })

/-- M of vquant, from lanes 0 and 1 of B (R164). R164 tests lane 0 alone; a lane 1 that is NaN or infinite, for u8, takes the NaN or
the infinite case of R70 too: DESIGN CHOICE (log entry 96). -/
def quantM (k : NumFmt) (fl : Bool) (l0 l1 : W32) : FVal :=
  match NumFmt.fp32.read fl l0.toNat with
  | .nan => .nan
  | .inf _ => .inf false
  | x => if k = .uint8 then (NumFmt.fp32.read fl l1.toNat).abs else x.abs

def semVquant (f : VF) (c : TCtx) : TRes :=
  match NumFmt.ofCode f.m.toNat with
  | none => .err 0x26 0
  | some k =>
    let q := quantScale k (quantM k c.fl (c.vb f 0) (c.vb f 1))
    let rs := (blockOf f c).map (fun x => if q.2.2.2 then quantElem k c.fl x q.2.1 else (0, {}))
    let codes := rs.map Prod.fst
    let words := (span 0 12).map (fun l => BitVec.ofNat 32 (
      codes.getD (4 * l) 0 + codes.getD (4 * l + 1) 0 * 2 ^ 8 + codes.getD (4 * l + 2) 0 * 2 ^ 16 + codes.getD (4 * l + 3) 0 * 2 ^ 24))
    vecOut f 3 c (words ++ [BitVec.ofNat 32 q.1] ++ List.replicate 19 0) (rs.foldl (fun a r => a.or r.2) q.2.2.1) 0

/-! ### Reductions and movement (R165) -/

/-- The exact sum of a list of FP32 values with its specials (R165). -/
def sumVals (md : Rnd) (xs : List FVal) : FVal × FFlags :=
  let pos := xs.any (fun x => x.isInf && !x.isNeg)
  let neg := xs.any (fun x => x.isInf && x.isNeg)
  if xs.any FVal.isNan then (.nan, {})
  else if pos && neg then (.nan, { nv := true })
  else if pos || neg then (.inf neg, {})
  else
    let v := sumFin xs
    if v.isZero then (.fin (md == .rd || xs.all (fun x => x.isNeg && x.isZero)) 0 0, {}) else (v, {})

def semVred (f : VF) (c : TCtx) : TRes :=
  let op := f.m.toNat % 4
  let bits := (span 0 32).map (fun l => (c.va f l).toNat)
  if op = 0 then
    if rndBad c.t.fmt.toNat then .err 0x26 0
    else
      let md := (c.rnd 0).noSr
      let v := sumVals md (bits.map (NumFmt.fp32.read c.fl))
      let r := deliver .fp32 md c.fl v.1
      vecOut f 6 c (List.replicate 32 (BitVec.ofNat 32 r.1)) (v.2.or r.2) (if fmtRnd c.t.fmt.toNat = 4 then 32 else 0)
  else
    let r := (bits.drop 1).foldl (eMinMax .fp32 c.fl (op == 1)) (eKeep .fp32 (NumFmt.fp32.read c.fl (bits.headD 0)))
    vecOut f 6 c (List.replicate 32 (BitVec.ofNat 32 r)) {} 0

def semVperm (f : VF) (c : TCtx) : TRes := vecMap f 2 (fun l => (c.va f ((c.vb f l).toNat % 32), {})) c
def semVbcast (f : VF) (c : TCtx) : TRes :=
  vecMap f 2 (fun _ => (BitVec.ofNat 32 (c.t.sreg (f.a.toNat / 2)).toNat, {})) c
def semVext (f : VF) (c : TCtx) : TRes :=
  let n := f.b.toNat / 2
  vecMap f 2 (fun l => (if l + n < 32 then c.va f (l + n) else c.vd f (l + n - 32), {})) c
def semVmov (f : VF) (c : TCtx) : TRes := vecMap f 2 (fun l => (c.va f l, {})) c

/-! ### Integers (R166) -/

/-- Elements of a lane at the width of M: 32, 16 or 8 bits. -/
def intParts (f : VF) : Nat := 2 ^ (f.m.toNat % 4)
def vecInt (f : VF) (op : Nat → Nat → Nat → Nat) (c : TCtx) : TRes :=
  let w := elemBits (intParts f)
  vecMap f 2 (fun l => perPart (intParts f) (fun a b => (op w a b % 2 ^ w, {})) (c.va f l) (c.vb f l)) c

def semVIadd (f : VF) (c : TCtx) : TRes := vecInt f (fun _ a b => a + b) c
def semVIsub (f : VF) (c : TCtx) : TRes := vecInt f (fun w a b => a + 2 ^ w - b) c
def semVIshl (f : VF) (c : TCtx) : TRes := vecInt f (fun w a b => a * 2 ^ (b % w)) c
def semVIshr (f : VF) (c : TCtx) : TRes := vecInt f (fun w a b => a / 2 ^ (b % w)) c
def semVIsra (f : VF) (c : TCtx) : TRes := vecInt f (fun w a b => wrapN w (sx w a / 2 ^ (b % w))) c
def semVIand (f : VF) (c : TCtx) : TRes := vecInt f (fun _ a b => Nat.land a b) c
def semVIor (f : VF) (c : TCtx) : TRes := vecInt f (fun _ a b => Nat.lor a b) c
def semVIxor (f : VF) (c : TCtx) : TRes := vecInt f (fun _ a b => Nat.xor a b) c
def semVImul (f : VF) (c : TCtx) : TRes := vecInt f (fun _ a b => a * b) c

/-- vadd (R161). -/
def execVadd (f : VF) (s : State) : Out := tileOp f.g 4 (semVadd f) s
/-- vsub (R161). -/
def execVsub (f : VF) (s : State) : Out := tileOp f.g 4 (semVsub f) s
/-- vmul (R161). -/
def execVmul (f : VF) (s : State) : Out := tileOp f.g 4 (semVmul f) s
/-- vfma (R161). -/
def execVfma (f : VF) (s : State) : Out := tileOp f.g 4 (semVfma f) s
/-- vfms (R161). -/
def execVfms (f : VF) (s : State) : Out := tileOp f.g 4 (semVfms f) s
/-- vmax (R161). -/
def execVmax (f : VF) (s : State) : Out := tileOp f.g 4 (semVmax f) s
/-- vmin (R161). -/
def execVmin (f : VF) (s : State) : Out := tileOp f.g 4 (semVmin f) s
/-- vabs (R161). -/
def execVabs (f : VF) (s : State) : Out := tileOp f.g 4 (semVabs f) s
/-- vneg (R161). -/
def execVneg (f : VF) (s : State) : Out := tileOp f.g 4 (semVneg f) s
/-- vrcp (R72, R161). -/
def execVrcp (f : VF) (s : State) : Out := tileOp f.g 4 (semVrcp f) s
/-- vrsq (R72, R161). -/
def execVrsq (f : VF) (s : State) : Out := tileOp f.g 4 (semVrsq f) s
/-- vexp2 (R72, R161). -/
def execVexp2 (f : VF) (s : State) : Out := tileOp f.g 4 (semVexp2 f) s
/-- vlog2 (R72, R161). -/
def execVlog2 (f : VF) (s : State) : Out := tileOp f.g 4 (semVlog2 f) s
/-- vcmp (R162). -/
def execVcmp (f : VF) (s : State) : Out := tileOp f.g 4 (semVcmp f) s
/-- vsel (R162). -/
def execVsel (f : VF) (s : State) : Out := tileOp f.g 4 (semVsel f) s
/-- vcvt (R163). -/
def execVcvt (f : VF) (s : State) : Out := tileOp f.g 4 (semVcvt f) s
/-- vquant (R164). -/
def execVquant (f : VF) (s : State) : Out := tileOp f.g 4 (semVquant f) s
/-- vmaxabs (R164). -/
def execVmaxabs (f : VF) (s : State) : Out := tileOp f.g 4 (semVmaxabs f) s
/-- vred (R165). -/
def execVred (f : VF) (s : State) : Out := tileOp f.g 4 (semVred f) s
/-- vperm (R165). -/
def execVperm (f : VF) (s : State) : Out := tileOp f.g 4 (semVperm f) s
/-- vbcast (R165). -/
def execVbcast (f : VF) (s : State) : Out := tileOp f.g 4 (semVbcast f) s
/-- vext (R165). -/
def execVext (f : VF) (s : State) : Out := tileOp f.g 4 (semVext f) s
/-- vmov (R165). -/
def execVmov (f : VF) (s : State) : Out := tileOp f.g 4 (semVmov f) s
/-- iadd (R166). -/
def execVIadd (f : VF) (s : State) : Out := tileOp f.g 4 (semVIadd f) s
/-- isub (R166). -/
def execVIsub (f : VF) (s : State) : Out := tileOp f.g 4 (semVIsub f) s
/-- ishl (R166). -/
def execVIshl (f : VF) (s : State) : Out := tileOp f.g 4 (semVIshl f) s
/-- ishr (R166). -/
def execVIshr (f : VF) (s : State) : Out := tileOp f.g 4 (semVIshr f) s
/-- isra (R166). -/
def execVIsra (f : VF) (s : State) : Out := tileOp f.g 4 (semVIsra f) s
/-- iand (R166). -/
def execVIand (f : VF) (s : State) : Out := tileOp f.g 4 (semVIand f) s
/-- ior (R166). -/
def execVIor (f : VF) (s : State) : Out := tileOp f.g 4 (semVIor f) s
/-- ixor (R166). -/
def execVIxor (f : VF) (s : State) : Out := tileOp f.g 4 (semVIxor f) s
/-- imul (R166). -/
def execVImul (f : VF) (s : State) : Out := tileOp f.g 4 (semVImul f) s

end Sys2Proof.Machine
end

