-- ==== Sys2Proof/Machine/Matrix.lean ====
section
/-! DEFINITION. The M slot and the matrix queue (R249 to R265): the operations at issue, and the performance of
queued entries on accumulators, top-k states, the tree state and the scratchpad. -/

namespace Sys2Proof.Machine

/-! ## At issue (R251, R255) -/

/-- The error of operand areas (offset, bytes, alignment): the first beyond the scratchpad, then the first misaligned. -/
def areaErr (as : List (Nat × Nat × Nat)) : Option (Nat × Nat) :=
  match as.find? (fun x => padSize < x.1 + x.2.1), as.find? (fun x => x.1 % x.2.2 != 0) with
  | some x, _ => some (0x20, x.1)
  | none, some x => some (0x21, x.1)
  | none, none => none

/-- A queued operation with its captured operands. -/
def matEntry (c : TCtx) (i : Instr) (a b : W64) (vals : List Nat) : QEntry :=
  { seq := 0, cmd := i, a := a, b := b, fmt := c.t.fmt, srkey := c.t.srkey, srctr := c.t.srctr, vals := vals }

/-- A queued operation whose areas and formats pass. -/
def matOp (c : TCtx) (i : Instr) (a b : W64) (vals : List Nat) (areas : List (Nat × Nat × Nat)) (bad : Option Nat) (adv : Nat) : TRes :=
  match areaErr areas with
  | some (x, d) => .err x d
  | none =>
    match bad with
    | some x => .err x 0
    | none => .ok { mat := some (matEntry c i a b vals), adv := adv }

/-- An operand panel's area: 36,864 bytes, and 1,024 of scales when they are read (R257). -/
def panelArea (scaled : Bool) : Nat := if scaled then 37888 else 36864

def semMma (g : B4) (d : B2) (a b : B5) (msk topk : B1) (km1 : B3) (c : TCtx) : TRes :=
  let fm := c.t.fmt.toNat
  let x := c.t.sreg a.toNat
  let y := c.t.sreg b.toNat
  let bad := (matClass fm).isNone || (fmtAcc fm == 1 && (msk == 1 || topk == 1))
  matOp c (.mma g d a b msk topk km1) x y [] [(x.toNat, panelArea (scaleA fm), 128), (y.toNat, panelArea (scaleB fm), 128)]
    (if bad then some 0x26 else none) 0

def semMz (g : B4) (d : B2) (c : TCtx) : TRes := matOp c (.mz g d) 0 0 [] [] none 0

def semMwr (g : B4) (d : B2) (v : B6) (a : B5) (c : TCtx) : TRes :=
  matOp c (.mwr g d v a) (c.t.sreg a.toNat) 0 ((span 0 32).map (fun l => (c.t.vlane v.toNat l).toNat)) [] none 0

def semMld (g : B4) (d : B2) (a : B5) (c : TCtx) : TRes :=
  let x := c.t.sreg a.toNat
  matOp c (.mld g d a) x 0 [] [(x.toNat, 65536, 128)] none 0

/-- Bytes of a stored row (R262). -/
def mstRow (fc : Nat) : Nat :=
  match fc with
  | 0 => 512 | 8 => 512 | 1 => 256 | 2 => 256 | 5 => 96 | _ => 128
def mstQuant (fc : Nat) : Bool := 3 ≤ fc && fc ≤ 7
/-- Whether a store converts in RND: not the accumulate format itself, and no quantisation. -/
def mstConv (fc acc : Nat) : Bool := !mstQuant fc && !((fc == 0 && acc == 0) || (fc == 8 && acc == 1))

def semMst (g : B4) (d : B2) (a : B5) (fc : B4) (c : TCtx) : TRes :=
  let fm := c.t.fmt.toNat
  let k := fc.toNat
  let x := c.t.sreg a.toNat
  let bad := 2 ≤ fmtAcc fm || (mstQuant k && fmtAcc fm == 1) || (mstConv k (fmtAcc fm) && rndBad fm)
  matOp c (.mst g d a fc) x 0 [] [(x.toNat, 128 * mstRow k + (if mstQuant k then 512 else 0), 128)]
    (if bad then some 0x26 else none) (if mstConv k (fmtAcc fm) ∧ fmtRnd fm = 4 then 16384 else 0)

def semMtree (g : B4) (a : B5) (c : TCtx) : TRes :=
  let x := c.t.sreg a.toNat
  matOp c (.mtree g a) x 0 [] [(x.toNat, 128, 128)] none 0

/-- An FP32 NaN. -/
def isNan32 (v : Nat) : Bool := 0x7F800000 < v % 2 ^ 31

/-- The captured coefficients, rcap, rthr and rdiv (R251). -/
def roundVals (t : Tile) : List Nat :=
  (span 0 16).map (fun n => (t.kreg n).toNat) ++ [t.rcap.toNat, t.rthr.toNat, t.rdiv.toNat]

/-- The operand class of the roundabout (R266) and the NaN bounds (R255); rnd.poly reads no rthr (R268). -/
def roundBad (t : Tile) (poly : Bool) : Option Nat :=
  let fm := t.fmt.toNat
  if !(fmtA fm == fmtB fm && (fmtA fm == 1 || fmtA fm == 2) && fmtAcc fm == 0 && fmtScale fm == 0) then some 0x26
  else if isNan32 t.rdiv.toNat || (!poly && isNan32 t.rthr.toNat) then some 0x47
  else none

def semRndPoly (g : B4) (d x : B2) (n p : B4) (nt : B1) (c : TCtx) : TRes :=
  matOp c (.rndPoly g d x n p nt) 0 0 (roundVals c.t) [] (roundBad c.t true) 0
def semRndNs (g : B4) (x : B2) (p : B4) (nt : B1) (c : TCtx) : TRes :=
  matOp c (.rndNs g x p nt) 0 0 (roundVals c.t) [] (roundBad c.t false) 0
def semRndIsr (g : B4) (y z : B2) (p : B4) (nt : B1) (c : TCtx) : TRes :=
  matOp c (.rndIsr g y z p nt) 0 0 (roundVals c.t) [] (roundBad c.t false) 0

/-! ### Synchronous operations (R253, R261, R263, R265) -/

def Tile.accOf (t : Tile) (d : Nat) : Acc := SMap.get {} t.acc d

def semMrd (d : B2) (v : B6) (a : B5) (c : TCtx) : TRes :=
  let sel := (c.t.sreg a.toNat).toNat
  let m := (c.t.accOf d.toNat).val
  .land 6 (.v (c.t.vphys v.toNat) (SMap.getN 0 m (sel % 128 * 128 + 32 * (sel / 128 % 4)) 32))

/-- Word w of the image of a top-k state (R265). -/
def TopK.word (k : TopK) (w : Nat) : W32 :=
  let row := SMap.get [] k.rows (w / (2 * k.ksel))
  let j := w % (2 * k.ksel)
  if j < k.ksel then BitVec.ofNat 32 ((row.map Prod.fst).getD j 0x7FC00000)
  else BitVec.ofNat 32 ((row.map Prod.snd).getD (j - k.ksel) 0xFFFFFFFF)

def semMtopkRd (d : B2) (v : B6) (c : TCtx) : TRes :=
  let a := c.t.accOf d.toNat
  let k := a.tk
  let lanes := (span 0 32).map (fun l => if k.ksel = 0 then 0#32 else k.word (k.rpt + l))
  let k' : TopK := if k.ksel = 0 then k else if 256 * k.ksel ≤ k.rpt + 32 then {} else { k with rpt := k.rpt + 32 }
  .ok { lands := [(6, .v (c.t.vphys v.toNat) lanes)], acc := some (d.toNat, { a with tk := k' }) }

/-- A range of the scratchpad holds an uncorrectable granule (R108). -/
def Tile.padMarked (t : Tile) (a n : Nat) : Bool := t.padBad.any (fun g => g * 32 < a + n && a < g * 32 + 32)

/-- mkld: an uncorrectable source is an error of the M slot with the cause that R228 gives such data (R108; log entry 72). -/
def semMkld (a : B5) (c : TCtx) : TRes :=
  let x := (c.t.sreg a.toNat).toNat
  match areaErr [(x, 64, 64)] with
  | some (e, d) => .err e d
  | none => if c.t.padMarked x 64 then .err 0x34 0 else .land 4 (.k ((bytesWords (c.t.padRead x 64)).map (BitVec.ofNat 32)))

/-- A synchronous operation waits for an empty matrix queue; a queued one waits while sixteen entries stand in it. -/
def matIssue (sync : Bool) (g : B4) (sem : TCtx → TRes) (s : State) : Out :=
  match s.cur with
  | .tile e =>
    let t := (s.tile e).land (s.tile e).t
    let q := t.q.get 6
    if t.run == .running && t.preg g.toNat && ((sync && q != []) || 16 ≤ q.length) then .next s
    else tileOp g 3 sem s
  | _ => .fault .noThread

/-- mma (R258). -/
def execMma (g : B4) (d : B2) (a b : B5) (msk topk : B1) (km1 : B3) (s : State) : Out :=
  matIssue false g (semMma g d a b msk topk km1) s
/-- mz (R261). -/
def execMz (g : B4) (d : B2) (s : State) : Out := matIssue false g (semMz g d) s
/-- mrd (R261). -/
def execMrd (g : B4) (d : B2) (v : B6) (a : B5) (s : State) : Out := matIssue true g (semMrd d v a) s
/-- mwr (R261). -/
def execMwr (g : B4) (d : B2) (v : B6) (a : B5) (s : State) : Out := matIssue false g (semMwr g d v a) s
/-- mld (R261). -/
def execMld (g : B4) (d : B2) (a : B5) (s : State) : Out := matIssue false g (semMld g d a) s
/-- mst (R262). -/
def execMst (g : B4) (d : B2) (a : B5) (fc : B4) (s : State) : Out := matIssue false g (semMst g d a fc) s
/-- mtree (R264). -/
def execMtree (g : B4) (a : B5) (s : State) : Out := matIssue false g (semMtree g a) s
/-- mkld (R263). -/
def execMkld (g : B4) (a : B5) (s : State) : Out := matIssue true g (semMkld a) s
/-- rnd.poly (R268). -/
def execRndPoly (g : B4) (d x : B2) (n p : B4) (nt : B1) (s : State) : Out := matIssue false g (semRndPoly g d x n p nt) s
/-- rnd.ns (R269). -/
def execRndNs (g : B4) (x : B2) (p : B4) (nt : B1) (s : State) : Out := matIssue false g (semRndNs g x p nt) s
/-- rnd.isr (R270). -/
def execRndIsr (g : B4) (y z : B2) (p : B4) (nt : B1) (s : State) : Out := matIssue false g (semRndIsr g y z p nt) s
/-- mtopk.rd (R265). -/
def execMtopkRd (g : B4) (d : B2) (v : B6) (s : State) : Out := matIssue true g (semMtopkRd d v) s

/-! ## Accumulators as rows -/

def Tile.padRow (t : Tile) (a n : Nat) : List Byte :=
  denseFrom (padDefault t.padEpoch) n a (t.pad.filter (fun x => a ≤ x.1 && x.1 < a + n))

/-- The 128 rows of a buffer. -/
def rowsOf (m : SMap W32) : List (List W32) := chunks 128 128 (denseFrom (fun _ => 0) 16384 0 m)
def ofRows (r : List (List W32)) : SMap W32 := sparseFrom (fun _ => 0) 0 r.flatten

/-- The new values commit: the buffers are exchanged (R249). -/
def Tile.commitAcc (t : Tile) (d : Nat) (val : SMap W32) : Tile :=
  let a := t.accOf d
  { t with acc := SMap.set {} t.acc d { a with val := val, work := a.val, workFree := 0 } }

/-- Sticky bits of fmt are set (R59). -/
def Tile.stick (t : Tile) (bits : Nat) : Tile :=
  { t with fmt := BitVec.ofNat 32 (fmtSet t.fmt.toNat bits), hotFmt := Nat.lor t.hotFmt bits }
def Tile.raise (t : Tile) (g : FFlags) : Tile := t.stick g.bits

/-! ## Errors found when an entry performs (R255) -/

def State.matrixError (s : State) (e : Nat) (q : QEntry) (cause detail : Nat) : State :=
  let s := s.qDiscard (.tile e) 6
  let t := s.tile e
  s.setTile e { t with pendErr := match t.pendErr with
    | some x => some x
    | none => some (q.pc, 3, issueStatus cause 3 detail) }

/-- The entry has performed with an instance changed as given. -/
def State.matrixDone (s : State) (e : Nat) (t : Tile) : State := (s.setTile e t).qPop (.tile e) 6

/-! ## Products (R257 to R260) -/

/-- The rows of a panel as scaled blocks. -/
def Tile.panel (t : Tile) (fmt code a0 : Nat) (scaled : Bool) : List (List (List (Option Elem) × Nat)) :=
  (span 0 128).map (fun i =>
    rowBlocks (rowElems code (fmtFlush fmt) (t.padRow (a0 + 288 * i) 288))
      (if scaled then (t.padRow (a0 + 36864 + 8 * i) 8).map (fun b => b.toNat) else []))

/-- Rows of an accumulator updated by rows of A and rows of B (column operands). -/
def product (fmt : Nat) (acc : List (List W32)) (as bs : List (List (List (Option Elem) × Nat))) : List (List (W32 × FFlags)) :=
  (acc.zip as).map (fun r => (r.1.zip bs).map (fun x => accumulateRow fmt x.1 r.2 x.2))

def flagsOf (rs : List (List (W32 × FFlags))) : FFlags := rs.foldl (fun a r => r.foldl (fun a x => a.or x.2) a) {}

/-- TREECUT(i, j) of a present tree state (R259). -/
def treeCut (tr : TreeState) (i j : Nat) : Bool :=
  tr.row0 ≤ i && i < tr.row0 + tr.nnode && tr.col0 ≤ j && j < tr.col0 + tr.nnode &&
  !bitAt (tr.amask.getD (i - tr.row0) 0) (j - tr.col0)

def cutRows (tr : TreeState) (rs : List (List W32)) : List (List W32) :=
  ((span 0 128).zip rs).map (fun r => ((span 0 128).zip r.2).map (fun x => if treeCut tr r.1 x.1 then 0xFF800000#32 else x.2))

/-- An entry takes its place in a list of decreasing KEY of at most k entries (R260). -/
def topInsert (k : Nat) (x : Nat × Nat) (l : List (Nat × Nat)) : List (Nat × Nat) :=
  (insBy (fun y => 2 ^ 64 - viKey y.1 y.2) x l).take k

/-- MERGE of rows into a top-k state whose size is set (R260). -/
def TopK.merge (tk : TopK) (k : Nat) (rs : List (List W32)) : TopK :=
  let rows := ((span 0 128).zip rs).map (fun r =>
    (r.1, ((span 0 128).zip r.2).foldl (fun l x => topInsert k (x.2.toNat, (tk.base + x.1) % 2 ^ 32) l) (SMap.get [] tk.rows r.1)))
  { ksel := k, base := (tk.base + 128) % 2 ^ 32, rpt := 0, rows := rows.filter (fun x => x.2 != []) }

/-- mma performs (R258). -/
def State.mmaPerform (s : State) (e : Nat) (q : QEntry) (d : Nat) (msk topk : Bool) (k : Nat) : State :=
  let t := s.tile e
  let fm := q.fmt.toNat
  let a := t.accOf d
  if msk && !t.tree.present then s.matrixError e q 0x45 0
  else if topk && a.tk.ksel != 0 && a.tk.ksel != k then s.matrixError e q 0x46 k
  else
    let rs := product fm (rowsOf a.val) (t.panel fm (fmtA fm) q.a.toNat (scaleA fm)) (t.panel fm (fmtB fm) q.b.toNat (scaleB fm))
    let w := rs.map (fun r => r.map Prod.fst)
    let w := if msk then cutRows t.tree w else w
    let t := (t.raise (flagsOf rs)).commitAcc d (ofRows w)
    let t := if topk then { t with acc := SMap.upd {} t.acc d (fun x => { x with tk := x.tk.merge k w }) } else t
    s.matrixDone e t

/-! ## Transfers (R261, R262) -/

/-- The stored form of one accumulator element (R262); the conversion to INT32 does not read FLUSH. -/
def mstElem (fc fmt : Nat) (key ctr : W64) (j : Nat) (x : W32) : Nat × FFlags :=
  let src : NumFmt := if fmtAcc fmt = 1 then .int32 else .fp32
  let fl := fmtFlush fmt && fc != 8
  match NumFmt.ofCode fc with
  | some dst => if mstConv fc (fmtAcc fmt) then eConv src dst (rndOf fmt key ctr j) (fmtSatf fmt) fl x.toNat else (x.toNat, {})
  | none => (x.toNat, {})

/-- The blocks of a row for quantisation: columns 0 to 47, 48 to 95 and 96 to 127. -/
def quantRow (fc fmt : Nat) (row : List W32) : List (List Nat × Nat × FFlags) :=
  match NumFmt.ofCode fc with
  | some k => (chunks 48 3 row).map (fun b => quantBlock k (fmtFlush fmt) (b.map (fun x => NumFmt.fp32.read (fmtFlush fmt) x.toNat)))
  | none => []

/-- The bytes of mst, rows then scales, and the flags. -/
def mstBytes (fc fmt : Nat) (key ctr : W64) (rows : List (List W32)) : List Byte × FFlags :=
  if mstQuant fc then
    let qs := rows.map (quantRow fc fmt)
    (qs.flatMap (fun r => packElems fc (r.flatMap (fun b => b.1))) ++
      qs.flatMap (fun r => (r.map (fun b => BitVec.ofNat 8 b.2.1)) ++ [0#8]),
     qs.foldl (fun a r => r.foldl (fun a b => a.or b.2.2) a) {})
  else
    let xs := ((span 0 16384).zip rows.flatten).map (fun x => mstElem fc fmt key ctr x.1 x.2)
    (xs.flatMap (fun x => leBytes (elemBytes fc) x.1), xs.foldl (fun a x => a.or x.2) {})

def State.mstPerform (s : State) (e : Nat) (q : QEntry) (d fc : Nat) : State :=
  let t := s.tile e
  let r := mstBytes fc q.fmt.toNat q.srkey q.srctr (rowsOf (t.accOf d).val)
  s.matrixDone e ((t.raise r.2).matWrite q.seq q.a.toNat r.1)

/-- mwr: one quarter of a row (R261). -/
def State.mwrPerform (s : State) (e : Nat) (q : QEntry) (d : Nat) : State :=
  let t := s.tile e
  let sel := q.a.toNat
  s.matrixDone e (t.commitAcc d (SMap.setN 0 (t.accOf d).val (sel % 128 * 128 + 32 * (sel / 128 % 4)) (q.vals.map (BitVec.ofNat 32))))

/-! ## Tree masks (R264) -/

/-- The first node whose row fails its check. -/
def treeBad (par am : List Nat) : List Nat → Option Nat
  | [] => none
  | n :: t =>
    let ok := if n = 0 then par.getD 0 0 == 0xFF && am.getD 0 0 == 1
      else par.getD n 0 < n && am.getD n 0 == Nat.lor (2 ^ n) (am.getD (par.getD n 0) 0)
    if ok then treeBad par am t else some n

/-- Depths of the nodes, in order. -/
def treeDepths (par : List Nat) : List Nat → List Nat → List Nat
  | [], ds => ds
  | n :: t, ds => treeDepths par t (ds ++ [if n = 0 then 0 else ds.getD (par.getD n 0) 0 + 1])

def State.treePerform (s : State) (e : Nat) (q : QEntry) : State :=
  let t := s.tile e
  let bs := t.padRow q.a.toNat 128
  let nn := u8At bs 0
  let row0 := u8At bs 1
  let col0 := u8At bs 2
  let par := (span 0 16).map (fun n => u8At bs (8 + n))
  let am := (span 0 16).map (fun n => u16At bs (0x18 + 2 * n))
  if nn = 0 ∨ 16 < nn ∨ 128 < row0 + nn ∨ 128 < col0 + nn ∨ u8At bs 3 ≠ 0 ∨ zeroAt bs 0x38 0x40 = false ∨
      (par.drop nn).any (· != 0) ∨ (am.drop nn).any (· != 0) then s.matrixError e q 0x48 0
  else
    match treeBad par am (span 0 nn) with
    | some n => s.matrixError e q 0x43 n
    | none =>
      let ds := treeDepths par (span 0 nn) []
      let pos := (span 0 16).map (fun n => if n < nn then (u32At bs 4 + ds.getD n 0) % 2 ^ 32 else 0)
      let t := { t with tree := { present := true, nnode := nn, row0 := row0, col0 := col0, amask := am.take nn } }
      s.matrixDone e (t.matWrite q.seq (q.a.toNat + 0x40) (wordsBytes pos))

/-! ## Performance in order (R251) -/

/-- The scratchpad areas that a queued operation fetches. -/
def QEntry.fetches (q : QEntry) : List (Nat × Nat) :=
  let fm := q.fmt.toNat
  match q.cmd with
  | .mma _ _ _ _ _ _ _ => [(q.a.toNat, panelArea (scaleA fm)), (q.b.toNat, panelArea (scaleB fm))]
  | .mld _ _ _ => [(q.a.toNat, 65536)]
  | .mtree _ _ => [(q.a.toNat, 128)]
  | _ => []

/-- A queued operation other than a roundabout performs; one that fetches an uncorrectable granule is an engine error of
the M slot (R108; log entry 72). -/
def State.matPerform (s : State) (e : Nat) (q : QEntry) : State :=
  let t := s.tile e
  if q.fetches.any (fun x => t.padMarked x.1 x.2) then s.matrixError e q 0x34 0
  else match q.cmd with
  | .mma _ d _ _ msk topk km1 => s.mmaPerform e q d.toNat (msk == 1) (topk == 1) (km1.toNat + 1)
  | .mz _ d => s.matrixDone e (t.commitAcc d.toNat [])
  | .mwr _ d _ _ => s.mwrPerform e q d.toNat
  | .mld _ d _ => s.matrixDone e (t.commitAcc d.toNat
      (sparseFrom (fun _ => 0) 0 ((bytesWords (t.padRow q.a.toNat 65536)).map (BitVec.ofNat 32))))
  | .mst _ d _ fc => s.mstPerform e q d.toNat fc.toNat
  | .mtree _ _ => s.treePerform e q
  | _ => s

/-- MATRIX_ENTRY_PERFORM (R251): the entry at the head of the matrix queue of tile engine inp.a. -/
def execMatrixEntryPerform (s : State) : Out :=
  let e := s.inp.a
  match (s.tile e).q.get 6 with
  | q :: _ => .next (s.matPerform e q)
  | [] => .next s

/-! ## The roundabout (R266 to R271) -/

/-- RB16 of a matrix: rounded to AFMT in RNE (R266). -/
def rb16 (fmt : Nat) (m : List (List W32)) : List (List (Nat × FFlags)) :=
  m.map (fun r => r.map (fun x =>
    match NumFmt.ofCode (fmtA fmt) with
    | some k => convertTo k .rne false (fmtFlush fmt) (NumFmt.fp32.read (fmtFlush fmt) x.toNat)
    | none => (0, {})))

def bits16 (m : List (List (Nat × FFlags))) : List (List Nat) := m.map (fun r => r.map Prod.fst)
def flags16 (m : List (List (Nat × FFlags))) : FFlags := m.foldl (fun a r => r.foldl (fun a x => a.or x.2) a) {}

/-- The transpose of a 128 × 128 matrix. -/
def transpose (m : List (List Nat)) : List (List Nat) := (span 0 128).map (fun j => m.map (fun r => r.getD j 0))

/-- Rows of 16-bit values as blocks; positions 32 to 47 of the third are annihilating zeros (R266). -/
def rowBlocks16 (fmt : Nat) (m : List (List Nat)) : List (List (List (Option Elem) × Nat)) :=
  m.map (fun r => rowBlocks (r.map (elemOf (fmtA fmt) (fmtFlush fmt)) ++ List.replicate 16 none) [])

/-- PROD(P, Q, S) (R266). -/
def prod16 (fmt : Nat) (p q : List (List Nat)) (st : List (List W32)) : List (List (W32 × FFlags)) :=
  product fmt st (rowBlocks16 fmt p) (rowBlocks16 fmt (transpose q))

def vals16 (m : List (List (W32 × FFlags))) : List (List W32) := m.map (fun r => r.map Prod.fst)

/-- A diagonal matrix of FP32 bits. -/
def diag (v : W32) : List (List W32) :=
  (span 0 128).map (fun i => (span 0 128).map (fun j => if i = j then v else 0))
def zeroRows : List (List W32) := List.replicate 128 (List.replicate 128 0)

/-- A coefficient under FLUSH: a subnormal reads as zero of its sign (R266). -/
def coef (fmt k : Nat) : Nat := if fmtFlush fmt && NumFmt.fp32.isSubnormal k then k / 2 ^ 31 * 2 ^ 31 else k

/-- An exact sum of two products, rounded once to AFMT in RNE. -/
def pairRound (fmt : Nat) (a x b y : FVal) : Nat × FFlags :=
  match NumFmt.ofCode (fmtA fmt) with
  | none => (0, {})
  | some k =>
    let p := fMul a x
    let q := fMul b y
    let r := fAdd .rne p.1 q.1
    let d := convertTo k .rne false (fmtFlush fmt) r.1
    (d.1, ((p.2.or q.2).or r.2).or d.2)

/-- FROB2(N, X): exact, rounded once to FP32; not finite gives the canonical NaN (R266). -/
def frob2 (n x : List (List W32)) : Nat :=
  let vs := (n.flatten.zip x.flatten).map (fun p => (NumFmt.fp32.decode p.1.toNat, NumFmt.fp32.decode p.2.toNat))
  let odd := fun (v : FVal) => v.isNan || v.isInf
  if vs.any (fun p => odd p.1 || odd p.2) then NumFmt.fp32.nanBits
  else
    let sq := vs.map (fun p => let d := (fAdd .rne p.1 p.2.neg).1; (fMul d d).1)
    (deliver .fp32 .rne false (sumFin sq)).1

/-- What a roundabout names: its iterates with the primary one first, its limit, and whether convergence ends it. -/
def roundShape (i : Instr) (vals : List Nat) : List Nat × Nat × Bool :=
  match i with
  | .rndPoly _ d _ n _ _ => ([d.toNat], n.toNat, false)
  | .rndNs _ x _ _ => ([x.toNat], vals.getD 16 0, true)
  | .rndIsr _ y z _ _ => ([y.toNat, z.toNat], vals.getD 16 0, true)
  | _ => ([], 0, false)

/-- The predicate of an .nt form. -/
def roundPred (i : Instr) : Option Nat :=
  match i with
  | .rndPoly _ _ _ _ p nt => if nt = 1 then some p.toNat else none
  | .rndNs _ _ p nt => if nt = 1 then some p.toNat else none
  | .rndIsr _ _ _ p nt => if nt = 1 then some p.toNat else none
  | _ => none

def isRound (i : Instr) : Bool :=
  match i with
  | .rndPoly _ _ _ _ _ _ => true
  | .rndNs _ _ _ _ => true
  | .rndIsr _ _ _ _ _ => true
  | _ => false

/-- ITER of rnd.poly: the Horner step (R268). -/
def iterPoly (fmt : Nat) (ks : List Nat) (n ric : Nat) (d x : List (List W32)) : List (List (List W32)) × FFlags :=
  let rd := rb16 fmt d
  let rx := rb16 fmt x
  let st := diag (BitVec.ofNat 32 (coef fmt (ks.getD (n - 1 - ric) 0)))
  let r := prod16 fmt (bits16 rd) (bits16 rx) st
  ([vals16 r], ((flags16 rd).or (flags16 rx)).or (flagsOf r))

/-- ITER of rnd.ns (R269). -/
def iterNs (fmt : Nat) (ks : List Nat) (x : List (List W32)) : List (List (List W32)) × FFlags :=
  let fl := fmtFlush fmt
  let k := fun n => NumFmt.fp32.decode (coef fmt (ks.getD n 0))
  let dec := fun (b : Nat) => match NumFmt.ofCode (fmtA fmt) with | some f => f.read fl b | none => .nan
  let xr := rb16 fmt x
  let g := prod16 fmt (bits16 xr) (transpose (bits16 xr)) zeroRows
  let gr := rb16 fmt (vals16 g)
  let h := prod16 fmt (bits16 gr) (bits16 gr) zeroRows
  let hr := rb16 fmt (vals16 h)
  let q := ((bits16 gr).zip (bits16 hr)).map (fun r => (r.1.zip r.2).map (fun y => pairRound fmt (k 1) (dec y.1) (k 2) (dec y.2)))
  let st := x.map (fun r => r.map (fun y =>
    let p := fMul (k 0) (NumFmt.fp32.read fl y.toNat)
    let d := deliver .fp32 .rne fl p.1
    (BitVec.ofNat 32 d.1, p.2.or d.2)))
  let w := prod16 fmt (bits16 q) (bits16 xr) (vals16 st)
  ([vals16 w], [flags16 xr, flagsOf g, flags16 gr, flagsOf h, flags16 hr, flags16 q, flagsOf st, flagsOf w].foldl FFlags.or {})

/-- ITER of rnd.isr (R270). -/
def iterIsr (fmt : Nat) (ks : List Nat) (y z : List (List W32)) : List (List (List W32)) × FFlags :=
  let fl := fmtFlush fmt
  let k := fun n => NumFmt.fp32.decode (coef fmt (ks.getD n 0))
  let yr := rb16 fmt y
  let zr := rb16 fmt z
  let m := prod16 fmt (bits16 zr) (bits16 yr) zeroRows
  let t := ((span 0 128).zip (vals16 m)).map (fun r => ((span 0 128).zip r.2).map (fun x =>
    pairRound fmt (k 0) (.fin false (if r.1 = x.1 then 1 else 0) 0) (k 1).neg (NumFmt.fp32.read fl x.2.toNat)))
  let wy := prod16 fmt (bits16 yr) (bits16 t) zeroRows
  let wz := prod16 fmt (bits16 t) (bits16 zr) zeroRows
  ([vals16 wy, vals16 wz], [flags16 yr, flags16 zr, flagsOf m, flags16 t, flagsOf wy, flagsOf wz].foldl FFlags.or {})

/-- ITER of an operation on the committed buffers. -/
def Tile.iter (t : Tile) (q : QEntry) (ric : Nat) : List (List (List W32)) × FFlags :=
  let fm := q.fmt.toNat
  let rows := fun (d : B2) => rowsOf (t.accOf d.toNat).val
  match q.cmd with
  | .rndPoly _ d x n _ _ => iterPoly fm q.vals n.toNat ric (rows d) (rows x)
  | .rndNs _ x _ _ => iterNs fm q.vals (rows x)
  | .rndIsr _ y z _ _ => iterIsr fm q.vals (rows y) (rows z)
  | _ => ([], {})

/-- START (R267, R268). -/
def Tile.roundStart (t : Tile) (q : QEntry) : Tile :=
  let t := { t with ric := 0 }
  match q.cmd with
  | .rndPoly _ d _ n _ _ =>
    t.commitAcc d.toNat (ofRows (diag (BitVec.ofNat 32 (coef q.fmt.toNat (q.vals.getD n.toNat 0)))))
  | _ => t

/-- The predicate write of an .nt form; p0 discards it (R135, R267). -/
def Tile.roundFlag (t : Tile) (i : Instr) (v : Bool) : Tile :=
  match roundPred i with
  | some p => if p = 0 then t else { t with p := SMap.set false t.p p v }
  | none => t

/-- Whether the residual, or a non-finite new Z, is a divergence (R267, R270). -/
def diverges (q : QEntry) (r : Nat) (new : List (List (List W32))) : Bool :=
  let v := NumFmt.fp32.decode r
  v.isNan || fLt (NumFmt.fp32.decode (q.vals.getD 18 0)) v ||
  (new.drop 1).any (fun m => m.any (fun row => row.any (fun x => fld x.toNat 30 23 == 255)))

/-- One iteration, or the end when the limit stands (R267). The one that ends the loop commits as the operation performs,
which sets the sticky bits of every iteration (R251). -/
def State.roundStep (s : State) (e : Nat) (q : QEntry) : State :=
  let t := if q.sub = 7 then (s.tile e).roundStart q else s.tile e
  let shape := roundShape q.cmd q.vals
  let ric := t.ric.toNat
  if shape.2.1 ≤ ric then s.matrixDone e ((t.stick q.sticky).roundFlag q.cmd false)
  else
    let it := t.iter q ric
    let bits := fmtSet q.sticky it.2.bits
    let r := frob2 (it.1.headD []) (rowsOf (t.accOf (shape.1.headD 0)).val)
    let t := { t with rres := BitVec.ofNat 32 r }
    if diverges q r it.1 then
      (if (roundPred q.cmd).isSome then s.matrixDone e ((t.stick bits).roundFlag q.cmd true)
       else (s.setTile e t).matrixError e q 0x44 ric)
    else
      let t := (shape.1.zip it.1).foldl (fun t x => t.commitAcc x.1 (ofRows x.2)) t
      let t := { t with ric := BitVec.ofNat 32 (ric + 1) }
      let conv := shape.2.2 &&
        (fLt (NumFmt.fp32.decode r) (NumFmt.fp32.decode (q.vals.getD 17 0)) || fEq (NumFmt.fp32.decode r) (NumFmt.fp32.decode (q.vals.getD 17 0)))
      if conv || shape.2.1 ≤ ric + 1 then s.matrixDone e ((t.stick bits).roundFlag q.cmd false)
      else (s.setTile e t).qHead (.tile e) 6 { q with sub := 4, iter := ric + 1, sticky := bits }

/-- ROUNDABOUT_ITERATION (R267): the roundabout at the head of the matrix queue of tile engine inp.a. -/
def execRoundaboutIteration (s : State) : Out :=
  let e := s.inp.a
  match (s.tile e).q.get 6 with
  | q :: _ => .next (if isRound q.cmd then s.roundStep e q else s)
  | [] => .next s

end Sys2Proof.Machine
end

