-- ==== Sys2Proof/Machine/Tile.lean ====
section
/-! DEFINITION. The tile engine's sequencer (R136 to R154): a bundle that waits, issues or is skipped, the pass end of a
loop, signposts with the arbiter's decision (R280, R281), and the two stops. -/

namespace Sys2Proof.Machine

/-! ## The meaning of a slot operation -/

/-- What the operation of a slot does at issue; a command of the C slot is handled apart. -/
def tileSem (i : Instr) (c : TCtx) : TRes :=
  match i with
  | .teAdd f => semTeAdd f c | .teSub f => semTeSub f c | .teAnd f => semTeAnd f c | .teOr f => semTeOr f c
  | .teXor f => semTeXor f c | .teAndn f => semTeAndn f c | .teShl f => semTeShl f c | .teShr f => semTeShr f c
  | .teSra f => semTeSra f c | .teMul f => semTeMul f c | .teMulh f => semTeMulh f c | .teMin f => semTeMin f c
  | .teMax f => semTeMax f c | .teMov f => semTeMov f c
  | .teSel _ d a b p => semTeSel d a b p c
  | .teLi _ d i => semTeLi d i c | .teLih _ d i => semTeLih d i c
  | .teCmp _ pt pf a b cc => semTeCmp pt pf a b cc c
  | .tePand f => semTePand f c | .tePor f => semTePor f c | .tePxor f => semTePxor f c | .tePnot f => semTePnot f c
  | .teLdS _ d a i => semTeLdS d a i c | .teStS _ d a i => semTeStS d a i c | .teLdp _ d a w i => semTeLdp d a w i c
  | .teBr _ i => semTeBr i c | .teBri _ a => semTeBri a c
  | .teLoop _ n st len => semTeLoop n st len c | .teLoopx _ a st len => semTeLoopx a st len c
  | .teTmark _ i => semTeTmark i c | .teHalt _ => semTeHalt c
  | .teRds _ d n => semTeRds d n c | .teWrs _ a n => semTeWrs a n c
  | .vld f => semVld f c | .vldB f => semVldB f c | .vldS f => semVldS f c | .vst f => semVst f c
  | .vstS f => semVstS f c | .vldSc f => semVldSc f c | .vstSc f => semVstSc f c
  | .vadd f => semVadd f c | .vsub f => semVsub f c | .vmul f => semVmul f c | .vfma f => semVfma f c
  | .vfms f => semVfms f c | .vmax f => semVmax f c | .vmin f => semVmin f c | .vabs f => semVabs f c
  | .vneg f => semVneg f c | .vrcp f => semVrcp f c | .vrsq f => semVrsq f c | .vexp2 f => semVexp2 f c
  | .vlog2 f => semVlog2 f c | .vcmp f => semVcmp f c | .vsel f => semVsel f c | .vcvt f => semVcvt f c
  | .vquant f => semVquant f c | .vmaxabs f => semVmaxabs f c | .vred f => semVred f c | .vperm f => semVperm f c
  | .vbcast f => semVbcast f c | .vext f => semVext f c | .vmov f => semVmov f c
  | .vIadd f => semVIadd f c | .vIsub f => semVIsub f c | .vIshl f => semVIshl f c | .vIshr f => semVIshr f c
  | .vIsra f => semVIsra f c | .vIand f => semVIand f c | .vIor f => semVIor f c | .vIxor f => semVIxor f c
  | .vImul f => semVImul f c
  | .mma g d a b m t k => semMma g d a b m t k c | .mz g d => semMz g d c | .mrd _ d v a => semMrd d v a c
  | .mwr g d v a => semMwr g d v a c | .mld g d a => semMld g d a c | .mst g d a fc => semMst g d a fc c
  | .mtree g a => semMtree g a c | .mkld _ a => semMkld a c
  | .rndPoly g d x n p nt => semRndPoly g d x n p nt c | .rndNs g x p nt => semRndNs g x p nt c
  | .rndIsr g y z p nt => semRndIsr g y z p nt c | .mtopkRd _ d v => semMtopkRd d v c
  | _ => .ok {}

/-- The fields of an engine command. -/
def commandOf (i : Instr) : Option EC :=
  match i with
  | .cpLd f => some f | .cpSt f => some f | .cpG2g f => some f | .cpMc f => some f
  | .ringArm f => some f | .ringArmInit f => some f | .ringAwait f => some f | .ringRel f => some f
  | .jn f => some f | .rlkBind f => some f | .rlkAcq f => some f | .rlkRel f => some f
  | .cairnOpen f => some f | .cairnApp f => some f | .cairnQry f => some f | .cairnSave f => some f
  | .cairnRst f => some f | .cairnClose f => some f | .kvCmt f => some f | .wpUpd f => some f
  | .wpPre f => some f | .launch f => some f
  | _ => none

/-- The guard of a slot operation (R113, R120). -/
def guardOf (i : Instr) : Nat :=
  match i with
  | .teAdd f => f.g.toNat | .teSub f => f.g.toNat | .teAnd f => f.g.toNat | .teOr f => f.g.toNat
  | .teXor f => f.g.toNat | .teAndn f => f.g.toNat | .teShl f => f.g.toNat | .teShr f => f.g.toNat
  | .teSra f => f.g.toNat | .teMul f => f.g.toNat | .teMulh f => f.g.toNat | .teMin f => f.g.toNat
  | .teMax f => f.g.toNat | .teMov f => f.g.toNat
  | .teSel g _ _ _ _ => g.toNat | .teLi g _ _ => g.toNat | .teLih g _ _ => g.toNat | .teCmp g _ _ _ _ _ => g.toNat
  | .tePand f => f.g.toNat | .tePor f => f.g.toNat | .tePxor f => f.g.toNat | .tePnot f => f.g.toNat
  | .teLdS g _ _ _ => g.toNat | .teStS g _ _ _ => g.toNat | .teLdp g _ _ _ _ => g.toNat
  | .teBr g _ => g.toNat | .teBri g _ => g.toNat | .teLoop g _ _ _ => g.toNat | .teLoopx g _ _ _ => g.toNat
  | .teTmark g _ => g.toNat | .teHalt g => g.toNat | .teRds g _ _ => g.toNat | .teWrs g _ _ => g.toNat
  | .vld f => f.g.toNat | .vldB f => f.g.toNat | .vldS f => f.g.toNat | .vst f => f.g.toNat
  | .vstS f => f.g.toNat | .vldSc f => f.g.toNat | .vstSc f => f.g.toNat
  | .vadd f => f.g.toNat | .vsub f => f.g.toNat | .vmul f => f.g.toNat | .vfma f => f.g.toNat
  | .vfms f => f.g.toNat | .vmax f => f.g.toNat | .vmin f => f.g.toNat | .vabs f => f.g.toNat
  | .vneg f => f.g.toNat | .vrcp f => f.g.toNat | .vrsq f => f.g.toNat | .vexp2 f => f.g.toNat
  | .vlog2 f => f.g.toNat | .vcmp f => f.g.toNat | .vsel f => f.g.toNat | .vcvt f => f.g.toNat
  | .vquant f => f.g.toNat | .vmaxabs f => f.g.toNat | .vred f => f.g.toNat | .vperm f => f.g.toNat
  | .vbcast f => f.g.toNat | .vext f => f.g.toNat | .vmov f => f.g.toNat
  | .vIadd f => f.g.toNat | .vIsub f => f.g.toNat | .vIshl f => f.g.toNat | .vIshr f => f.g.toNat
  | .vIsra f => f.g.toNat | .vIand f => f.g.toNat | .vIor f => f.g.toNat | .vIxor f => f.g.toNat
  | .vImul f => f.g.toNat
  | .mma g _ _ _ _ _ _ => g.toNat | .mz g _ => g.toNat | .mrd g _ _ _ => g.toNat | .mwr g _ _ _ => g.toNat
  | .mld g _ _ => g.toNat | .mst g _ _ _ => g.toNat | .mtree g _ => g.toNat | .mkld g _ => g.toNat
  | .rndPoly g _ _ _ _ _ => g.toNat | .rndNs g _ _ _ => g.toNat | .rndIsr g _ _ _ _ => g.toNat
  | .mtopkRd g _ _ => g.toNat
  | i => ((commandOf i).map (fun f => f.g.toNat)).getD 0

/-- Predicates that an operation names beside its guard, read or written (R253); a loop's start writes p8 to p15 (R146). -/
def predsOf (i : Instr) : List Nat :=
  match i with
  | .teSel _ _ _ _ p => [p.toNat]
  | .teCmp _ pt pf _ _ _ => [pt.toNat, pf.toNat]
  | .tePand f => [f.pd.toNat, f.pa.toNat, f.pb.toNat]
  | .tePor f => [f.pd.toNat, f.pa.toNat, f.pb.toNat]
  | .tePxor f => [f.pd.toNat, f.pa.toNat, f.pb.toNat]
  | .tePnot f => [f.pd.toNat, f.pa.toNat]
  | .teLoop _ _ _ _ => span 8 8
  | .teLoopx _ _ _ _ => span 8 8
  | i => (roundPred i).toList

/-- Latches an operation reads (R136). -/
def saLatches (f : SA) : List Nat :=
  (if f.qa = 1 then [f.a.toNat % 4] else []) ++
  (if f.i = 0 ∧ bitAt f.lo.toNat 4 = true then [f.lo.toNat / 32 % 4] else [])
def latchesOf (i : Instr) : List Nat :=
  match i with
  | .teAdd f => saLatches f | .teSub f => saLatches f | .teAnd f => saLatches f | .teOr f => saLatches f
  | .teXor f => saLatches f | .teAndn f => saLatches f | .teShl f => saLatches f | .teShr f => saLatches f
  | .teSra f => saLatches f | .teMul f => saLatches f | .teMulh f => saLatches f | .teMin f => saLatches f
  | .teMax f => saLatches f | .teMov f => saLatches f
  | .teRds _ _ n => if 0x20 ≤ n.toNat ∧ n.toNat < 0x24 then [n.toNat - 0x20] else []
  | _ => []

/-- Synchronous matrix operations (R251). -/
def isSync (i : Instr) : Bool :=
  match i with
  | .mrd _ _ _ _ => true
  | .mtopkRd _ _ _ => true
  | .mkld _ _ => true
  | _ => false

/-- Queued matrix operations (R251). -/
def isQueued (i : Instr) : Bool :=
  match i with
  | .mma _ _ _ _ _ _ _ => true
  | .mz _ _ => true
  | .mwr _ _ _ _ => true
  | .mld _ _ _ => true
  | .mst _ _ _ _ => true
  | .mtree _ _ => true
  | i => isRound i

/-- rds of ric or rres, or wrs to ric (R253). -/
def readsRound (i : Instr) : Bool :=
  match i with
  | .teRds _ _ n => n.toNat == 8 || n.toNat == 0xC
  | .teWrs _ _ n => n.toNat == 8
  | _ => false

/-! ## The bundle that is due -/

def Tile.bundle (t : Tile) : Bundle := t.body.getD t.b {}
def Bundle.pops (b : Bundle) (n : Nat) : Bool := bitAt b.pop n

/-- The operations of a bundle whose guards are true. -/
def Tile.live (t : Tile) (b : Bundle) : List (Nat × Instr) := b.ops.filter (fun o => t.preg (guardOf o.2))

/-- STOPPOINT (R145). -/
def Tile.stopPoint (t : Tile) : Bool := t.rd == [] && !t.act

/-- Whether the bundle at b is the last of an active body. -/
def Tile.atPassEnd (t : Tile) : Bool := t.act && t.b + 1 == t.bodyStart + t.bodyLen

/-- SKIPPABLE (R150). -/
def Tile.skippable (t : Tile) : Bool :=
  let b := t.bundle
  b.pop == 0 && !b.sign && (t.live b).isEmpty

/-- The quiet point after a drained loop (R153). -/
def Tile.quiet (t : Tile) : Bool := t.drain && !t.act

/-- Predicates that roundabouts of the matrix queue are still to write. -/
def Tile.pendPreds (t : Tile) : List Nat := (t.q.get 6).filterMap (fun q => roundPred q.cmd)

/-- A bundle that names such a predicate, or whose pass end writes it, waits (R253). -/
def Tile.predWait (t : Tile) : Bool :=
  let names := t.bundle.ops.flatMap (fun o => guardOf o.2 :: predsOf o.2) ++ (if t.atPassEnd then span 8 8 else [])
  t.pendPreds.any (fun p => names.contains p)

/-- Latch n of an undeclared ring or of a ring in error (R137). -/
def Tile.latchErr (t : Tile) (n : Nat) : Option Nat :=
  if n = 0 then none
  else
    let r := t.latchRing n
    if r.count = 0 then some 0x27 else if (r.slot (ptrSlot r.rp)).err then some 0x28 else none

/-- Latch n is ready (R136, R137). -/
def Tile.latchReady (t : Tile) (n : Nat) : Bool :=
  if n = 0 then t.q0Valid
  else
    let r := t.latchRing n
    r.rp != r.wp && (r.slot (ptrSlot r.rp)).full

/-- Latches of the bundle with the slot that names each: the header's pops, and the reads of operations that issue. Whether a latch
that only an operation with a false guard names counts (R137) the spec does not say; it does not: DESIGN CHOICE (log entry 45). -/
def Tile.latchUses (t : Tile) : List (Nat × Nat) :=
  let b := t.bundle
  ((span 0 4).filter b.pops).map (fun n => (n, 7)) ++ (t.live b).flatMap (fun o => (latchesOf o.2).map (fun n => (n, o.1)))

/-- The latch cause that decides: the lowest latch that fails (R142). One that the header pops and a slot reads is reported with the
header's code: DESIGN CHOICE (log entry 94). -/
def Tile.latchCause (t : Tile) : Option (Nat × Nat) :=
  let bad := sortBy Prod.fst (t.latchUses.filter (fun u => (t.latchErr u.1).isSome))
  bad.head?.bind (fun u => (t.latchErr u.1).map (fun c => (c, u.2)))

/-- Waits of the bundle on latches and the matrix queue (R137, R251, R253). -/
def Tile.mustWait (t : Tile) : Bool :=
  let q := t.q.get 6
  let ops := (t.live t.bundle).map Prod.snd
  t.latchUses.any (fun u => !t.latchReady u.1) || (ops.any isSync && q != []) ||
  (ops.any isQueued && 16 ≤ q.length) || (ops.any readsRound && q.any (fun x => isRound x.cmd))

/-! ## Requests to stop (R153, R296) -/

/-- A stop is requested: an active loop drains. -/
def Tile.request (t : Tile) : Tile := { t with stopReq := true, drain := t.drain || t.act }

/-! ## Signposts (R151, R280, R281) -/

/-- The arbiter's decision at a signpost: the slice left after it, and whether a stop is requested. -/
def State.signDecide (s : State) (e : Nat) : Nat × Bool :=
  let t := s.tile e
  let p := s.unitPart e
  let elapsed := s.runClock e - t.runStart
  let own := s.queueRank t.launch
  let cs := s.candidates p (unitDie e)
  let run := 16 * t.bundle.run
  let long : Bool := t.sliceLeft < run + elapsed
  if cs.any (fun c => own < c.er) then (t.sliceLeft - elapsed, true)
  else if long && cs.any (fun c => own ≤ c.er) then (t.sliceLeft - elapsed, true)
  else if long then (s.tslice p, false)
  else (t.sliceLeft - elapsed, false)

/-- A run ends at a signpost or halt: one longer than twice its statement demotes the queue (R281). -/
def State.measureRun (s : State) (e : Nat) : State :=
  let t := s.tile e
  let elapsed := s.runClock e - t.runStart
  if !t.runOpen || elapsed ≤ 2 * max (16 * t.runStated) 16 then s
  else
    match s.launch t.launch with
    | none => s
    | some l =>
      let h := s.hwq l.part l.queue
      let st := h.stat.toNat
      let st := setFld (setFld st 10 8 (min (fld st 10 8 + 1) 7)) 31 16 (fld st 31 16 + 1)
      s.setHwq l.part l.queue { h with stat := BitVec.ofNat 32 st }

/-- The signpost issues: its run begins (R151). -/
def State.passSign (s : State) (e : Nat) (left : Nat) (stop : Bool) : State :=
  let s := s.measureRun e
  let t := s.tile e
  let run := t.bundle.run
  let t := { t with sliceLeft := left, runStart := s.runClock e, runStated := run, runOpen := true }
  (s.setTile e (if stop then t.request else t)).trace (teStation e) (s.unitPart e) 0 0 5 run [] t.b 0 false

/-! ## Control and the next bundle (R144 to R149) -/

/-- The control operation that takes effect: halt; else that of S0; else that of S1. A loop with a false guard passes
over its body and counts as a control operation of its slot (R144; log entry 39). -/
def chooseCtl (ops : List (Nat × Bool × Ctl)) : Ctl :=
  let at_ := fun (k : Nat) => ops.find? (fun o => o.1 == k && o.2.2 != .none)
  match ops.find? (fun o => o.2.1 && o.2.2 == .halt), at_ 0, at_ 1 with
  | some _, _, _ => .halt
  | none, some o, _ => o.2.2
  | none, none, some o => o.2.2
  | none, none, none => .none

/-- The branch of S1 that had no effect because S0 took one (COLL, R144, R313). -/
def collision (ops : List (Nat × Bool × Ctl)) : Option Nat :=
  match ops.find? (fun o => o.1 == 0 && o.2.1), ops.find? (fun o => o.1 == 1 && o.2.1) with
  | some (_, _, .go _), some (_, _, .go x) => some x
  | _, _ => none

/-- The control of an operation with a false guard (R146). -/
def falseCtl (i : Instr) : Ctl :=
  match i with
  | .teLoop _ _ _ len => .over len.toNat
  | .teLoopx _ _ _ len => .over len.toNat
  | _ => .none

/-- The bundle after b when no redirect is due; a pass end is decided apart (R145, R146). -/
def nextOf (b : Nat) (c : Ctl) : Nat :=
  match c with
  | .start n _ len => if n = 0 then b + len + 1 else b + 1
  | .over len => b + len + 1
  | _ => b + 1

/-- LEAVE: a redirect to x outside an active body ends the loop (R149). -/
def Tile.leave (t : Tile) (x : Nat) : Tile :=
  if t.act && !(t.bodyStart ≤ x && x < t.bodyStart + t.bodyLen) then { t with act := false, drain := false } else t

/-- The step ends: the redirect due next is taken, and the bundle after it is named; one past the body is an engine
error of the sequencer (R142, R145). -/
def State.endStep (s : State) (e nb : Nat) : State :=
  let t := s.tile e
  let due := t.rd.find? (fun r => r.1 == t.t + 1)
  let t' := match due with
    | some (_, x) => { t.leave x with rd := t.rd.filter (fun r => r.1 != t.t + 1) }
    | none => t
  let nb := match due with
    | some (_, x) => x
    | none => nb
  let s := match due with
    | some (_, x) => s.trace (teStation e) (s.unitPart e) 0 0 3 x [] t.b 0 false
    | none => s
  if t.body.length ≤ nb then (s.setTile e t').engineError e t.b 7 (issueStatus 0x25 7 0)
  else s.setTile e { t' with b := nb, t := t.t + 1, passDue := false, hotFmt := 0, hotMsts := 0 }

/-- After a bundle: the pass is to end, or the step does (R147). -/
def State.afterBundle (s : State) (e : Nat) (c : Ctl) : State :=
  let t := s.tile e
  if t.passDue then s else s.endStep e (nextOf t.b c)

/-! ## Issue -/

/-- The operations of the bundle evaluated in slot order, each seeing the counter values the earlier ones took (R63). -/
def evalOps (c : TCtx) : List (Nat × Instr) → List (Nat × Instr × TRes)
  | [] => []
  | (k, i) :: t =>
    let r := tileSem i c
    let adv := match r with | .ok f => f.adv | _ => 0
    (k, i, r) :: evalOps { c with t := { c.t with srctr := c.t.srctr + BitVec.ofNat 64 adv } } t

/-- Window reads of the bundle brought to effects, or to an error; none while one stalls. -/
def State.resolve (s : State) (e : Nat) : List (Nat × Instr × TRes) → State × Option (List (Nat × Instr × TRes))
  | [] => (s, some [])
  | (k, i, r) :: t =>
    let x : State × Option TRes := match r with
      | .win d w a =>
        (match s.tileWindow e k w a with
         | (s, .bytes v b) => (s, some (.ok (winEff d w v b)))
         | (s, .stall) => (s, none)
         | (s, .fail c y) => (s, some (.err c y)))
      | r => (s, some r)
    match x with
    | (s, none) => (s, none)
    | (s, some r) =>
      match s.resolve e t with
      | (s, some rs) => (s, some ((k, i, r) :: rs))
      | (s, none) => (s, none)

/-- The first operation that fails decides (R142). -/
def firstErr (rs : List (Nat × Instr × TRes)) : Option (Nat × Nat × Nat) :=
  rs.findSome? (fun r => match r.2.2 with | .err c d => some (r.1, c, d) | _ => none)

/-- The effects of the operations in slot order. -/
def State.applyOps (s : State) (e : Nat) (rs : List (Nat × Instr × TRes)) : State :=
  rs.foldl (fun s r => match r.2.2 with | .ok f => s.applyEff e f | _ => s) s

/-- The controls of the bundle, with their guards. -/
def Tile.controls (t : Tile) (b : Bundle) (rs : List (Nat × Instr × TRes)) : List (Nat × Bool × Ctl) :=
  rs.map (fun r => (r.1, true, match r.2.2 with | .ok f => f.ctl | _ => .none)) ++
  (b.ops.filter (fun o => !t.preg (guardOf o.2))).map (fun o => (o.1, false, falseCtl o.2))

/-- POP (R39, R136): a pop of q0 in a persistent launch retires its tile and takes the next entry; a pop of qn
releases its ring. -/
def State.popOne (s : State) (e n : Nat) : State :=
  let t := s.tile e
  if n = 0 then
    let persist := ((s.launch t.launch).map (fun l => l.desc.persist)).getD false
    if !persist || t.q0Item == endItem then s
    else
      let t := { t with retiring := t.retiring ++ [(t.q0Item, s.seq)] }
      match t.qmore with
      | (v, i) :: rest => s.setTile e { t with q0 := v, q0Item := i, qmore := rest }
      | [] => s.setTile e { t with q0 := 0, q0Valid := false, q0Item := 0 }
  else
    match (t.latchRing n).rel with
    | some r => s.setRing (.tile e) n r
    | none => s

/-- A latch popped whose ring the bundle's own command has emptied: its ring.rel is a ring error (R101, R136). -/
def Tile.badPop (t : Tile) : Option Nat := (span 1 3).find? (fun n => t.bundle.pops n && (t.latchRing n).rel.isNone)

/-- The instance halts: its last run is measured and the results in flight land (R152, R281). -/
def State.haltTile (s : State) (e : Nat) : State :=
  let s := s.measureRun e
  s.setTile e { (s.tile e).control .halt with runOpen := false, cmdWait := false, cmdDone := false, awaitVal := none }

/-- The bundle has issued: effects, pops, the control operation, and the next bundle (R145). -/
def State.issueBundle (s : State) (e : Nat) (rs : List (Nat × Instr × TRes)) : State :=
  let t0 := s.tile e
  let b := t0.bundle
  let cs := t0.controls b rs
  let p := s.unitPart e
  let s := s.traceUnit (teStation e) p 2 0 t0.b 0 false
  let s := s.applyOps e rs
  let s := ((span 0 4).filter b.pops).foldl (fun s n => s.popOne e n) s
  let c := chooseCtl cs
  let s := match collision cs with
    | some x => s.trace (teStation e) p 0 0 6 x [] t0.b 0 false
    | none => s
  let s := s.setTile e { s.tile e with cmdWait := false, cmdDone := false, awaitVal := none }
  if c = .halt then s.haltTile e
  else
    let last := t0.atPassEnd
    let t := (s.tile e).control c
    (s.setTile e { t with passDue := last }).afterBundle e c

/-! ## The command of the C slot (R227, R242) -/

/-- How the command of the bundle stands. -/
inductive CmdOut where
  | go (lands : List (Nat × Land))
  | wait
  | fail (detail : Nat)
  deriving DecidableEq, Repr

/-- The command issues, or the bundle waits for it. -/
def State.bundleCmd (s : State) (e : Nat) (i : Instr) (f : EC) : State × CmdOut :=
  let t := s.tile e
  let lands := fun (v : Option W64) => match v with
    | some x => [(1, Land.s f.a.toNat x)]
    | none => []
  if t.cmdDone then (s, .go (lands t.awaitVal))
  else if t.cmdWait then (s, .wait)
  else
    match s.issueCmd (s.tileIss e) i (t.sreg f.a.toNat) (t.sreg f.b.toNat) (t.sreg f.c.toNat) with
    | (s, .done v) => (s, .go (lands v))
    | (s, .held _) => (s.setTile e { s.tile e with cmdWait := true }, .wait)
    | (s, .ring n) => (s, .fail (f.m.toNat % 16 + n * 16))
    | (s, _) => (s, .wait)

/-- A ring error of the instance's own command: RNGE, and an engine error of the C slot (R102, R242). -/
def State.ringStop (s : State) (e b detail : Nat) : State :=
  let t := s.tile e
  (s.setTile e (t.setMsts 3)).engineError e b 6 (issueStatus 0x3B 6 detail)

/-- The command of a bundle whose guard is true. -/
def Tile.command (t : Tile) : Option (Instr × EC) := (t.live t.bundle).findSome? (fun o => (commandOf o.2).map (fun f => (o.2, f)))

/-- The operations of a bundle other than its command, evaluated, window reads brought to effects; none while one stalls. -/
def State.evalBundle (s : State) (e : Nat) : State × Option (List (Nat × Instr × TRes)) :=
  let t := s.tile e
  s.resolve e (evalOps (s.tctx e t) ((t.live t.bundle).filter (fun o => (commandOf o.2).isNone)))

/-- Whether the bundle that is due has ended its waits for window reads and its command, which come before a stop
(R145); a bundle still waiting goes on doing so. -/
def State.bundleReady (s : State) (e : Nat) : State × Bool :=
  match s.evalBundle e with
  | (s', none) => (s', false)
  | (_, some rs) =>
    if (firstErr rs).isSome then (s, true)
    else
      match (s.tile e).command with
      | none => (s, true)
      | some (i, f) =>
        match s.bundleCmd e i f with
        | (s', .wait) => (s', false)
        | _ => (s, true)

/-- The last part of issue: the errors of the operations, the command, then the bundle (R142, R227). -/
def State.tryIssue (s : State) (e : Nat) : State :=
  let t := s.tile e
  match s.evalBundle e with
  | (s, none) => s
  | (s, some rs) =>
    match firstErr rs with
    | some (k, c, d) => s.engineError e t.b k (issueStatus c k d)
    | none =>
      let sign := fun (s : State) => if t.bundle.sign then (let d := s.signDecide e; s.passSign e d.1 d.2) else s
      match t.command with
      | none => (sign s).issueBundle e rs
      | some (i, f) =>
        match s.bundleCmd e i f with
        | (s, .wait) => s
        | (s, .fail d) => s.ringStop e t.b d
        | (s, .go lands) =>
          match (s.tile e).badPop with
          | some n => s.ringStop e t.b (n + ptrSlot ((s.tile e).latchRing n).rp * 16)
          | none => (sign s).issueBundle e (rs ++ [(6, i, .ok { lands := lands })])

/-- The engine error that stops the engine before the bundle that is due (R228, R242, R255): a bundle whose rlk.acq met it
issues first. -/
def Tile.errDue (t : Tile) : Option (Nat × Nat × Nat) := if t.cmdDone then none else t.pendErr

/-- The bundle that is due is a signpost at which the engine may stop (R152). -/
def Tile.mayStop (t : Tile) : Bool := t.bundle.sign && t.stopPoint && t.pendErr.isNone

/-- TE_BUNDLE (R145): the bundle of tile engine inp.a waits, or issues at the current step. -/
def State.teBundle (s : State) (e : Nat) : State :=
  let t0 := s.tile e
  if t0.run ≠ .running ∨ t0.passDue = true then s
  else
    match t0.errDue with
    | some (b, eng, st) => s.engineError e b eng st
    | none =>
      if t0.quiet then s
      else
      let t := t0.land t0.t
      let s := s.setTile e t
      if t.predWait then s
      else
        match t.latchCause with
        | some (c, k) => s.engineError e t.b k (issueStatus c k 0)
        | none =>
          if t.mustWait || t.skippable then s
          else if t.mayStop && (t.stopReq || (s.signDecide e).2) then
            match s.bundleReady e with
            | (s', false) => s'
            | (_, true) => s.setTile e t.request
          else s.tryIssue e

def execTeBundle (s : State) : Out := .next (s.teBundle s.inp.a)

/-- BUNDLE_SKIP (R150): the bundle of tile engine inp.a issues nothing and takes its step. -/
def execBundleSkip (s : State) : Out :=
  let e := s.inp.a
  let t0 := s.tile e
  if t0.run ≠ .running ∨ t0.passDue = true ∨ t0.quiet = true ∨ t0.pendErr.isSome = true then .next s
  else
    let t := t0.land t0.t
    if t.predWait || !t.skippable || t.body.length ≤ t.b then .next s
    else
      let c := chooseCtl (t.controls t.bundle [])
      let s := s.traceUnit (teStation e) (s.unitPart e) 4 0 t.b 0 false
      .next ((s.setTile e { t with passDue := t.atPassEnd }).afterBundle e c)

/-- RESULT_LAND (R139): results due at the current step of tile engine inp.a are written. -/
def execResultLand (s : State) : Out :=
  let e := s.inp.a
  let t := s.tile e
  if t.run = .running then .next (s.setTile e (t.land t.t)) else .next s

/-! ## The pass end (R147) -/

/-- PASSEND: the instance after it, and the bundle it returns. -/
def Tile.passEnd (t : Tile) : Tile × Nat :=
  let more : Bool := t.tail == 0 && t.lc != 0 && !t.drain
  let t := if more then { t with lc := t.lc - 1 } else { t with tail := t.tail + 1 }
  let t := { t with fill := min (t.fill + 1) 7, turn := (t.turn + 1) % 32, passes := t.passes + 1 }
  let setP := fun (f : Nat → Bool) => (span 0 8).foldl (fun p j => SMap.set false p (8 + j) (f j)) t.p
  if t.le < t.tail then ({ t with act := false, p := setP (fun _ => false) }, t.bodyStart + t.bodyLen)
  else ({ t with p := setP (fun j => t.tail ≤ j && j ≤ t.fill && j ≤ t.le) }, t.bodyStart)

/-- LOOP_PASS_END (R147): the pass of tile engine inp.a that is due ends. -/
def execLoopPassEnd (s : State) : Out :=
  let e := s.inp.a
  let t := s.tile e
  if t.run ≠ .running ∨ t.passDue = false then .next s
  else
    let r := t.passEnd
    let s := s.setTile e r.1
    let s := if r.1.act then s
      else s.trace (teStation e) (s.unitPart e) 0 0 0x0D r.1.passes [] t.b 0 false
    .next (s.endStep e r.2)

/-! ## The two stops (R152, R153, R296) -/

/-- The bundle that is due is a signpost at which a requested stop stands, and it waits for no latch, predicate or queue. -/
def Tile.stopHere (t : Tile) : Bool :=
  t.stopReq && t.mayStop && !t.quiet && !t.predWait && t.latchCause.isNone && !t.mustWait

/-- SIGNPOST_STOP (R152): tile engine inp.a stops before its signpost, once the waits of its bundle have ended and its
entries have performed; an engine error found by then stops it there. -/
def execSignpostStop (s : State) : Out :=
  let e := s.inp.a
  let t0 := s.tile e
  if t0.run ≠ .running ∨ t0.passDue = true then .next s
  else
    match t0.errDue with
    | some (b, eng, st) => .next (s.engineError e b eng st)
    | none =>
      let t := t0.land t0.t
      let s := s.setTile e t
      if !t.stopHere then .next s
      else
        match s.bundleReady e with
        | (s', false) => .next s'
        | (_, true) => .next (if t.q.idleButMatrix then (s.measureRun e).stopAt e 1 else s)

/-- QUIET_POINT_STOP (R153): tile engine inp.a stops after its drained loop, once its entries have performed; an engine error
found by then stops it there (R152). -/
def execQuietPointStop (s : State) : Out :=
  let e := s.inp.a
  let t := s.tile e
  if t.run ≠ .running ∨ t.quiet = false ∨ t.passDue = true then .next s
  else
    match t.pendErr with
    | some (b, eng, st) => .next (s.engineError e b eng st)
    | none => .next (if t.q.idleButMatrix then s.stopAt e 2 else s)

end Sys2Proof.Machine
end

