-- ==== Sys2Proof/Machine/Admission.lean ====
section
/-! DEFINITION. Interior body images and their admission (R39, R109 to R120, R126 to R129). -/

namespace Sys2Proof.Machine

/-- A failed check: the code of R127, the bundle index, the slot code. -/
structure Refused where
  code : Nat
  bun : Nat := 0
  slot : Nat := 7
  deriving DecidableEq, Repr

/-- The one that is reported: the lowest code, then bundle, then slot (R127). -/
def refusalKey (r : Refused) : Nat := r.code * 2 ^ 32 + r.bun * 2 ^ 8 + r.slot

def worst (rs : List Refused) : Option Refused := (sortBy refusalKey rs).head?

/-- Slots of a native bundle in the order of its words (R111), by presence bits [31:25]. -/
def nativeSlots (h : Nat) : List Nat := (span 0 7).filter (fun k => bitAt h (31 - k))

/-- Bundles of a stream: a header or control word when there is one, and (slot, word) pairs. -/
abbrev RawBundle := Option Nat × List (Nat × Nat)

/-- The bundles of an N-form stream of words; none when the last is not whole (R111). -/
def nativeBundles : Nat → List Nat → Option (List RawBundle)
  | 0, ws => if ws = [] then some [] else none
  | _ + 1, [] => some []
  | n + 1, h :: ws =>
    let sl := nativeSlots h
    if ws.length < sl.length then none
    else (nativeBundles n (ws.drop sl.length)).map (fun r => (some h, sl.zip ws) :: r)

def isControl (w : Nat) : Bool := w / 2 ^ 26 == 0x3F
def topBits (w : Nat) : Bool := w / 2 ^ 30 == 3

/-- A P-form bundle (R112): slot codes by word and class. -/
def portableBundle (q : List Nat) : RawBundle :=
  let w := fun i => q.getD i 0
  let ctl := isControl (w 0)
  let s0 := if w 0 = 0 ∨ ctl = true then [] else [(0, w 0)]
  let s1 := if w 1 = 0 then [] else [(if topBits (w 1) then 6 else 2, w 1)]
  let s2 := if w 2 = 0 then [] else [(4, w 2)]
  let s3 := if w 3 = 0 then [] else [(if topBits (w 3) then 3 else 5, w 3)]
  (if ctl then some (w 0) else none, sortBy Prod.fst (s0 ++ s1 ++ s2 ++ s3))

/-- The class of a slot code. -/
def slotClass (k : Nat) : SlotClass :=
  match k with
  | 0 => .s | 1 => .s | 2 => .l | 3 => .m | 4 => .v | 5 => .v | _ => .c

/-- POP, SIGN and RUN of a header or control word: their places differ by form (R111, R112). -/
def headOf (form : Nat) (h : Nat) : Nat × Bool × Nat :=
  if form = 1 then (fld h 25 22, bitAt h 21, fld h 17 0) else (fld h 24 21, bitAt h 20, fld h 17 0)

/-- A header or control word with a reserved bit, or a run without a signpost (code 0x03). -/
def headBad (form : Nat) (h : Nat) : Bool :=
  let x := headOf form h
  (if form = 1 then fld h 20 18 != 0 else fld h 19 18 != 0) || (!x.2.1 && x.2.2 != 0)

/-- The decoded bundle. -/
def bundleOf (form : Nat) (r : RawBundle) : Bundle :=
  let x := match r.1 with | some h => headOf form h | none => (0, false, 0)
  { ops := r.2.filterMap (fun o => match decodeSlot (slotClass o.1) o.2 with | .ok i => some (o.1, i) | .error _ => none)
    pop := x.1, sign := x.2.1, run := x.2.2 }

/-- Codes 0x03 to 0x06, 0x0A and 0x0B of one bundle's words. A control word's own faults carry slot code 7, as a native
header's do (log entry 73). -/
def wordRefusals (form b : Nat) (r : RawBundle) : List Refused :=
  (match r.1 with | some h => if headBad form h then [{ code := 3, bun := b }] else [] | none => []) ++
  r.2.filterMap (fun o =>
    if form = 1 ∧ isControl o.2 = true then some { code := 3, bun := b, slot := o.1 }
    else match decodeSlot (slotClass o.1) o.2 with
      | .ok _ => none
      | .error c => some { code := c, bun := b, slot := o.1 })

/-- Rings that a body declares: ring number and geometry word (R110). -/
def ringDecls (bs : List Byte) (n : Nat) : List Nat := (span 0 n).map (fun i => u64At bs (16 + 8 * i))

/-- The declarations are legal (R110). -/
def ringsOk (ds : List Nat) : Bool :=
  let rs := ds.map (fun w => (fld w 47 44, ringGeometry w padSize))
  rs.all (fun r => r.1 != 0 && r.2.isSome) &&
  (span 0 rs.length).all (fun i => (rs.drop (i + 1)).all (fun y =>
    match rs[i]? with
    | some (n, some a) => n != y.1 && (match y.2 with
      | some b => a.base + a.size * a.count ≤ b.base || b.base + b.size * b.count ≤ a.base
      | none => true)
    | _ => true))

/-- The declared rings as an instance has them. A declaration that breaks R110 declares no ring for the ring commands of the body, so
that one of bundle 0 is refused in its own slot, ahead of the declaration's slot 7: DESIGN CHOICE (log entry 92). -/
def ringMap (ds : List Nat) : SMap Ring :=
  ds.foldl (fun m w => match ringGeometry w padSize with
    | some r => SMap.set {} m (fld w 47 44) r
    | none => m) []

/-- The ring a ring command names. -/
def ringNamed (i : Instr) : Option Nat :=
  match i with
  | .ringArm f => some (f.m.toNat % 16)
  | .ringArmInit f => some (f.m.toNat % 16)
  | .ringAwait f => some (f.m.toNat % 16)
  | .ringRel f => some (f.m.toNat % 16)
  | _ => none

/-- A br whose target is outside the body, or in another loop context (code 0x08). -/
def brBad (n : Nat) (loops : List (Nat × Nat)) (b : Nat) (i : BitVec 22) : Bool :=
  let x : Int := (b : Int) + i.toInt
  x < 0 || (n : Int) ≤ x ||
  !(loops.any (fun l => inBody b l && inBody x.toNat l) || loops.all (fun l => !inBody b l && !inBody x.toNat l))

/-- A loop body that runs past the last bundle, holds a loop, or overlaps another (code 0x09). -/
def loopBad (body : List Bundle) (loops : List (Nat × Nat)) (b len : Nat) : Bool :=
  let me := (b + 1, len)
  body.length < b + 1 + len ||
  loops.any (fun l => inBody (l.1 - 1) me) ||
  1 < (loops.filter (fun l => l.1 < b + 1 + len && b + 1 < l.1 + l.2)).length

/-- Codes 0x07 to 0x0A of one operation. -/
def opRefusals (d : Desc) (declared : SMap Ring) (body : List Bundle) (loops : List (Nat × Nat)) (b : Nat) (o : Nat × Instr) : List Refused :=
  let bad := fun (c : Nat) (x : Bool) => if x then [({ code := c, bun := b, slot := o.1 } : Refused)] else []
  match o.2 with
  | .teLdp _ _ _ w _ => bad 7 ((d.pwin.getD w.toNat (0, 0)).2 == 0)
  | .teBr _ i => bad 8 (brBad body.length loops b i)
  | .teLoop _ _ _ len => bad 9 (loopBad body loops b len.toNat)
  | .teLoopx _ _ _ len => bad 9 (loopBad body loops b len.toNat)
  | i =>
    match ringNamed i with
    | some n => bad 0xA (n == 0 || (SMap.get {} declared n).count == 0)
    | none => []

/-- A ring command whose word breaks its table too: ring 0 or an undeclared ring is the lower code (R127). -/
def rawRefusals (declared : SMap Ring) (b : Nat) (r : RawBundle) : List Refused :=
  r.2.filterMap (fun o =>
    match decodeSlot (slotClass o.1) o.2, (slotFields (slotClass o.1) o.2).bind ringNamed with
    | .error _, some n => if n = 0 ∨ (SMap.get {} declared n).count = 0 then some { code := 0xA, bun := b, slot := o.1 } else none
    | _, _ => none)

/-- The checks of an image (R127): its form, bundles and rings, or the refusal. -/
def admitBody (d : Desc) (bs : List Byte) : Except Refused (Nat × List Bundle × SMap Ring) :=
  let form := u8At bs 7
  let nr := u8At bs 6
  let nb := u16At bs 4 + 1
  let blen := u32At bs 8
  if bs.length < 16 ∨ u32At bs 0 ≠ 0x53594201 ∨ form ≠ d.iform ∨ (form ≠ 1 ∧ form ≠ 2) ∨ 16 < nr ∨ d.ilen ≠ 16 + 8 * nr + blen ∨ 262144 < blen ∨
      blen % (if form = 1 then 16 else 4) ≠ 0 ∨ zeroAt bs 0x0C 0x10 = false then .error { code := 1 }
  else
    let ws := bytesWords (bs.drop (16 + 8 * nr))
    let raw := if form = 1 then some ((chunks 4 ws.length ws).map portableBundle) else nativeBundles ws.length ws
    match raw with
    | none => .error { code := 2 }
    | some rs =>
      if rs.length ≠ nb then .error { code := 2 }
      else
        let ix := span 0 nb
        let body := rs.map (bundleOf form)
        let loops := loopBodies body
        let ds := ringDecls bs nr
        let declared := ringMap ds
        let bad := (ix.zip rs).flatMap (fun x => wordRefusals form x.1 x.2) ++
          (ix.zip body).flatMap (fun x => x.2.ops.flatMap (opRefusals d declared body loops x.1)) ++
          (ix.zip rs).flatMap (fun x => rawRefusals declared x.1 x.2) ++
          (if ringsOk ds then [] else [{ code := 0xA }])
        match worst bad with
        | some r => .error r
        | none => .ok (form, body, declared)

/-- The number by which the image's remote reads are known. -/
def admitSg : Nat := 30007

/-- The entry of the tile that a body is admitted for, which a refusal's stop record holds (R294): the launch's next full tile, or
that of the stopped instance to go on. -/
def State.nextEntry (s : State) (e k : Nat) : W64 :=
  match s.stopped.find? (fun x => x.2.resumeOn == some e), s.launch k with
  | some x, _ => x.2.q0
  | none, some l => ((nextWhere l (fun it => it.onTile)).map (fun x => tileEntry l.desc x.2)).getD 0
  | none, none => 0

def State.refuseBody (s : State) (e : Nat) (r : Refused) : State :=
  s.admissionRefused e r.bun (r.code + r.slot * 2 ^ 8) (s.nextEntry e (s.tile e).launch)

/-- BODY_ADMISSION (R39, R127): tile engine inp.a, granted to a launch, reads and checks the whole image. -/
def execBodyAdmission (s : State) : Out :=
  let e := s.inp.a
  let t := s.tile e
  match s.launch t.launch with
  | none => .next s
  | some l =>
    if t.run ≠ .ready ∨ t.admitted = true ∨ (l.cause ≠ 0 ∧ s.awaited e = false) then .next s
    else if s.stalled (.issue (.tile e) 0) then .next s
    else if s.issueFail.any (fun x => x.1 == .tile e && x.2.1 == 0) then
      .next (({ s with issueFail := s.issueFail.filter (fun x => !(x.1 == .tile e && x.2.1 == 0)) } : State).refuseBody e { code := 0xC })
    else
      match s.readVa (.tile e) l.part l.desc.iaddr l.desc.ilen admitSg with
      | (s, .error (.wait, _)) => .next s
      | (s, .error (.fault why, va)) => .next (s.raiseFault (unitDie e) l.part va 0x20 false why (.issue (.tile e) 0))
      | (s, .error (x, _)) => .next (((s.countErr x).clearRemote (.tile e) admitSg).refuseBody e { code := 0xC })
      | (s, .ok bs) =>
        let s := s.clearRemote (.tile e) admitSg
        match admitBody l.desc bs with
        | .error r => .next (s.refuseBody e r)
        | .ok (form, body, rings) =>
          .next ((s.setTile e { s.tile e with form := form, body := body, rings := rings, admitted := true }).takeUp e)

end Sys2Proof.Machine
end

