-- ==== Sys2Proof/Machine/System.lean ====
section
/-! DEFINITION. Control and status registers (R186, R187), and the system extension of management cores:
wfe, tlbinv and the parked-state instructions (R193 to R197). -/

namespace Sys2Proof.Machine

/-! ## csr.rd and csr.wr (R186) -/

/-- GINFO of a sub-gang; on a management core the spec gives no value. -/
def State.ginfo (s : State) (c : Ctx) : Nat :=
  if c.isMgmt then Config.freeNat s.point 10 % 2 ^ 64
  else s.logUnit c.part c.ref.core + c.ref.slot * 2 ^ 8 + c.gang.num % 16 * 2 ^ 12 + c.desc.eslices % 16 * 2 ^ 16 +
    b2n c.desc.legacy * 2 ^ 20 + lowSlice c.th.slices * 2 ^ 21

/-- DEPTHS: mask stack, return stack, part nesting, lane queue. -/
def Thread.depths (th : Thread) : Nat :=
  th.mstack.length + th.rstack.length * 2 ^ 8 + th.path.length * 2 ^ 16 + th.lq.length * 2 ^ 24

/-- The value a readable CSR holds; none for an unlisted number. TQDROP is write-only and reads zero (R3). -/
def State.csrValue (s : State) (c : Ctx) (n : Nat) : Option Nat :=
  let th := c.th
  match n with
  | 0x000 => some th.fmt.toNat
  | 0x001 => some th.msts.toNat
  | 0x002 => some th.srkey.toNat
  | 0x003 => some th.srctr.toNat
  | 0x004 => some (s.ginfo c)
  | 0x005 => some (s.timeOf c.part)
  | 0x006 => some th.m.toNat
  | 0x007 => some th.depths
  | 0x008 => some th.lpc.toNat
  | 0x010 => some th.tvec.toNat
  | 0x011 => some th.tcause.toNat
  | 0x012 => some th.tepc.toNat
  | 0x013 => some th.tlpc.toNat
  | 0x014 => some th.tiss
  | 0x015 => some th.taddr.toNat
  | 0x016 => some th.tmaskr.toNat
  | 0x017 => some th.tenq.toNat
  | 0x018 => some th.tsaved.length
  | 0x019 => some 0
  | 0x01A => some (th.tiw.getD 0 0).toNat
  | 0x01B => some (th.tiw.getD 1 0).toNat
  | 0x01C => some (th.tiw.getD 2 0).toNat
  | 0x01D => some th.tsave.toNat
  | 0x040 => if c.isMgmt then some (((s.mgmt c.hub).events.headD 0).toNat) else none
  | 0x041 => if c.isMgmt then some (s.mgmt c.hub).masid.toNat else none
  | 0x042 => if c.isMgmt then some (s.mgmt c.hub).events.length else none
  | _ => none

/-- Reading MEVT pops the oldest event. -/
def State.csrPop (s : State) (c : Ctx) (n : Nat) : State :=
  if n = 0x040 then s.setMgmt c.hub { s.mgmt c.hub with events := (s.mgmt c.hub).events.drop 1 } else s

/-- csr.rd xD, name: fmt and MSTS drain first (R172). -/
def execCsrRd (d : B5) (n : BitVec 12) (s : State) : Out :=
  scalarOp (.csrRd d n) .common .both (n.toNat < 2) (fun c s =>
    match s.csrValue c n.toNat with
    | none => s.scalarTrap c (.csrRd d n) 0x01
    | some v => (s.csrPop c n.toNat).finish c (c.th.setX d.toNat (BitVec.ofNat 64 v))) s

/-- The thread after a CSR write; none when the number is unlisted, read-only, or the value illegal. -/
def Thread.csrWrite (th : Thread) (n : Nat) (v : W64) : Option Thread :=
  let w := BitVec.ofNat 32 v.toNat
  match n with
  | 0x000 => some { th with fmt := BitVec.ofNat 32 (fmtWrite th.fmt.toNat v.toNat) }
  | 0x001 => some { th with msts := BitVec.ofNat 32 (mstsWrite th.msts.toNat v.toNat) }
  | 0x002 => some { th with srkey := v }
  | 0x003 => some { th with srctr := v }
  | 0x010 => if v.toNat % 4 = 0 then some { th with tvec := w } else none
  | 0x012 => some { th with tepc := w }
  | 0x013 => some { th with tlpc := w }
  | 0x014 => if v.toNat ≤ 16 then some { th with tiss := v.toNat } else none
  | 0x019 => some { th with tsaved := th.tsaved.drop v.toNat }
  | 0x01D => some { th with tsave := v }
  | _ => none

/-- A number that cannot be written, or a value that its register does not take (R186). -/
def badCsrWrite (a : B5) (n : BitVec 12) (c : Ctx) (_ : State) : Bool :=
  !(n.toNat == 0x041 && c.isMgmt) && (c.th.csrWrite n.toNat (c.x a)).isNone

/-- csr.wr name, xA: outside the common set (R50). -/
def execCsrWr (a : B5) (n : BitVec 12) (s : State) : Out :=
  scalarOpIf (badCsrWrite a n) (.csrWr a n) .general .both false (fun c s =>
    if n.toNat = 0x041 ∧ c.isMgmt = true then
      let s := s.setMgmt c.hub { s.mgmt c.hub with masid := BitVec.ofNat 32 ((c.x a).toNat % 16) }
      s.finish c c.th
    else
      match c.th.csrWrite n.toNat (c.x a) with
      | none => s.scalarTrap c (.csrWr a n) 0x01
      | some th => s.finish c (s.keepHot c th)) s

/-! ## wfe and tlbinv (R194, R195) -/

/-- wfe: waits until an event is pending. -/
def execWfe (s : State) : Out :=
  scalarOp .wfe .common .system false (fun c s =>
    if (s.mgmt c.hub).events = [] then s.wait else s.finish c c.th) s

/-- log2 of the page size of a size code (R195). -/
def sizeBits (code : Nat) : Nat :=
  match code with
  | 0 => 12 | 1 => 16 | 2 => 21 | 3 => 25 | 4 => 30 | 5 => 34 | _ => 39

/-- The translations of partition p that map the page of a size code containing an address leave every TLB;
code 7 names every size and empties the partition's walk caches, another code drops the path (R195, R300). -/
def State.tlbInv (s : State) (p va code : Nat) : State :=
  let v := va % 2 ^ 57
  let gone := fun (t : TlbEntry) => t.part == p && t.va == v / 2 ^ t.size * 2 ^ t.size &&
    (code == 7 || t.size == sizeBits code)
  let path := fun (w : WcEntry) => w.part == p && (code == 7 || w.pre == v / 2 ^ (21 + 9 * w.lvl))
  { s with
    tlb := s.tlb.filter (fun t => !gone t)
    mtlb := (s.mtlb.map (fun x => (x.1, x.2.filter (fun t => !gone t)))).filter (fun x => x.2 != [])
    wcache := s.wcache.filter (fun w => !path w) }

/-! ## Actions of a management core under determinism (R314) -/

/-- tlbinv xA, size: it completes once every invalidation has performed, under determinism at the epoch boundary (R195,
R314). -/
def execTlbinv (a : B5) (z : B3) (s : State) : Out :=
  scalarOp (.tlbinv a z) .common .system false (fun c s =>
    let x : ExtInput := { kind := 4, op := 3, addr := (c.x a).toNat, val := z.zeroExtend 64, arg := c.hub }
    if s.determ = false ∨ s.isPart c.part = false then (s.tlbInv c.part (c.x a).toNat z.toNat).finish c { c.th with wait := .none }
    else if c.th.wait ≠ .inval then .next ((s.deferInput c.part x).setTh c { c.th with wait := .inval })
    else if (s.part c.part).inputs.contains x then s.wait
    else s.finish c { c.th with wait := .none }) s

/-! ## Parked sub-gangs (R196, R197) -/

/-- The parked sub-gang a handle names (R194). -/
def State.parkedOf (s : State) (h : Nat) : Option Ctx :=
  if 2 ^ 16 ≤ h ∨ bitAt h 3 then none
  else
    match s.subGang { core := h / 256, slot := h / 16 % 16, sub := h % 8 } with
    | some c => if c.th.parked then some c else none
    | none => none

/-- Element i of a stack held newest first, 0 the oldest. -/
def fromOldest {α : Type} (l : List α) (i : Nat) : Option α := if i < l.length then l[l.length - 1 - i]? else none

/-- State word w of a parked sub-gang; none outside the table of R197. -/
def stateWord (c : Ctx) (w : Nat) : Option Nat :=
  let th := c.th
  let saved := fun j (f : LaneEntry → Nat) => ((th.tsaved[j]?).map f).getD 0
  if w < 0x20 then some (th.getX w).toNat
  else if w = 0x20 then some th.tepc.toNat
  else if w = 0x21 then some th.tlpc.toNat
  else if w = 0x22 then some th.tiss
  else if w = 0x23 then some th.fmt.toNat
  else if w = 0x24 then some th.msts.toNat
  else if w = 0x25 then some th.srkey.toNat
  else if w = 0x26 then some th.srctr.toNat
  else if w = 0x27 then some th.m.toNat
  else if w = 0x28 then some th.tcause.toNat
  else if w = 0x29 then some th.taddr.toNat
  else if w = 0x2A then some th.tmaskr.toNat
  else if w = 0x2B then some th.tenq.toNat
  else if w = 0x2C then some th.tsaved.length
  else if w = 0x2D then some th.depths
  else if 0x30 ≤ w ∧ w < 0x40 then
    some (((fromOldest th.mstack (w - 0x30)).map (fun e => e.2.toNat * 2 ^ 32 + e.1.toNat)).getD 0)
  else if 0x40 ≤ w ∧ w < 0x50 then
    some (((fromOldest th.rstack (w - 0x40)).map (fun e => e.2.toNat * 2 ^ 32 + e.1.toNat)).getD 0)
  else if 0x100 ≤ w ∧ w < 0x140 then
    let j := (w - 0x100) / 4
    some (match (w - 0x100) % 4 with
      | 0 => saved j (fun e => fld e.word.toNat 31 0)
      | 1 => saved j (fun e => fld e.word.toNat 63 32)
      | 2 => saved j (fun e => fld e.word.toNat 95 64 * 2 ^ 32 + e.fmt.toNat)
      | _ => saved j (fun e => e.mask.toNat * 2 ^ 32))
  else if 0x140 ≤ w ∧ w < 0x150 then some (saved (w - 0x140) (fun e => e.xop.toNat))
  else if 0x1000 ≤ w ∧ w < 0x2000 then some (c.gang.getW ((w - 0x1000) / 128) ((w - 0x1000) % 128)).toNat
  else if 0x2000 ≤ w ∧ w < 0x2008 then some (c.gang.getLp (w - 0x2000)).toNat
  else if 0x2100 ≤ w ∧ w < 0x2140 then some (c.gang.getH ((w - 0x2100) / 32) ((w - 0x2100) % 32)).toNat
  else none

/-- The thread with a state word written; words of the gang and read-only words leave it alone. -/
def Thread.writeWord (th : Thread) (w : Nat) (v : W64) : Thread :=
  let n := v.toNat
  let k := sliceMask th.slices
  if w < 0x20 then th.setX w v
  else if w = 0x20 then { th with tepc := BitVec.ofNat 32 n }
  else if w = 0x21 then { th with tlpc := BitVec.ofNat 32 n }
  else if w = 0x22 then { th with tiss := n }
  else if w = 0x23 then { th with fmt := BitVec.ofNat 32 (fmtImage n) }
  else if w = 0x24 then { th with msts := BitVec.ofNat 32 (mstsImage n) }
  else if w = 0x25 then { th with srkey := v }
  else if w = 0x26 then { th with srctr := v }
  else if w = 0x27 then { th with m := BitVec.ofNat 32 n &&& k }
  else if w = 0x2C then { th with tsaved := th.tsaved.drop (th.tsaved.length - n) }
  else if 0x30 ≤ w ∧ w < 0x40 then
    let i := w - 0x30
    if i < th.mstack.length then
      { th with mstack := setAt th.mstack (th.mstack.length - 1 - i) (BitVec.ofNat 32 n &&& k, BitVec.ofNat 17 (n / 2 ^ 32)) }
    else th
  else if 0x40 ≤ w ∧ w < 0x50 then
    let i := w - 0x40
    if i < th.rstack.length then
      { th with rstack := setAt th.rstack (th.rstack.length - 1 - i) (BitVec.ofNat 32 n, BitVec.ofNat 32 (n / 2 ^ 32)) }
    else th
  else th

/-- The gang with a state word written. -/
def Gang.writeWord (g : Gang) (w : Nat) (v : W64) : Gang :=
  let x := BitVec.ofNat 32 v.toNat
  if 0x1000 ≤ w ∧ w < 0x2000 then g.setW ((w - 0x1000) / 128) ((w - 0x1000) % 128) x
  else if 0x2000 ≤ w ∧ w < 0x2008 then g.setLp (w - 0x2000) x
  else if 0x2100 ≤ w ∧ w < 0x2140 then g.setH ((w - 0x2100) / 32) ((w - 0x2100) % 32) x
  else g

/-- State word w of the parked sub-gang c written. -/
def State.putWord (s : State) (c : Ctx) (w : Nat) (v : W64) : State :=
  (s.setSub c.ref (c.th.writeWord w v)).setGang c (fun g => g.writeWord w v)

/-- gst.rd xD, xA, xB. -/
def execGstRd (f : ER) (s : State) : Out :=
  scalarOp (.gstRd f) .common .system false (fun c s =>
    match s.parkedOf (c.x f.a).toNat with
    | none => s.scalarTrap c (.gstRd f) 0x05
    | some p =>
      match stateWord p (c.x f.b).toNat with
      | none => s.scalarTrap c (.gstRd f) 0x05
      | some v => s.finish c (c.th.setX f.d.toNat (BitVec.ofNat 64 v))) s

/-- gst.wr: state word x[B] of the sub-gang with handle x[D] := x[A]. -/
def execGstWr (f : ER) (s : State) : Out :=
  scalarOp (.gstWr f) .common .system false (fun c s =>
    let w := (c.x f.b).toNat
    match s.parkedOf (c.x f.d).toNat with
    | none => s.scalarTrap c (.gstWr f) 0x05
    | some p =>
      if stateWord p w = none ∨ (w = 0x22 ∧ 16 < (c.x f.a).toNat) then s.scalarTrap c (.gstWr f) 0x05
      else
        let s := if s.determ then
            s.deferInput p.part { kind := 4, op := 1, addr := w, arg := (c.x f.d).toNat, val := c.x f.a }
          else s.putWord p w (c.x f.a)
        s.finish c c.th) s

/-- gst.res xA: the parked sub-gang resumes under R185. -/
def execGstRes (a : B5) (s : State) : Out :=
  scalarOp (.gstRes a) .common .system false (fun c s =>
    match s.parkedOf (c.x a).toNat with
    | none => s.scalarTrap c (.gstRes a) 0x05
    | some p =>
      let s := if s.determ then s.deferInput p.part { kind := 4, op := 2, arg := (c.x a).toNat } else s.resume p
      s.finish c c.th) s

end Sys2Proof.Machine
end

