-- ==== Sys2Proof/Machine/Faults.lean ====
section
/-! DEFINITION. Walkers and their response registers (R300, R301), the end of a parked sub-gang's work item (R302),
uncorrectable granules (R107), the fill of a load-block (R82) and stray requests (R357). -/

namespace Sys2Proof.Machine

/-! ## Page walks (R299, R300) -/

/-- The non-leaf entries on the way of a walk from a table: what the walk cache keeps. -/
def State.walkPath (s : State) (p va : Nat) : Nat → Nat → List WcEntry
  | 0, _ => []
  | lvl + 1, t =>
    match s.physLoc p (t + 8 * fld va (20 + 9 * lvl) (12 + 9 * lvl)) with
    | some (.hbm k) =>
      let e := leNat (s.readBytes k 8)
      if s.dieDown (keyDie k) || s.marked k 8 || !bitAt e 0 || pteBad e lvl || bitAt e 1 then []
      else
        let next := fld e 47 12 * 4096
        { part := p, lvl := lvl - 1, pre := va / 2 ^ (12 + 9 * lvl), table := next } :: s.walkPath p va lvl next
    | _ => []

/-- WALK from PTROOT, without the walk cache (R301). -/
def State.walkRoot (s : State) (p va : Nat) (wr : Bool) : Walk :=
  let root := (s.part p).ptroot.toNat
  if va / 2 ^ 56 ≠ 0 ∧ va / 2 ^ 56 ≠ 255 then .fault 1
  else if !bitAt root 0 then .fault 5
  else s.walkAt p (va % 2 ^ 57) wr 5 (fld root 47 12 * 4096)

/-- A walk's result kept in the TLB of a die and the micro-TLB of the station it served, if that is one of the die, and its
path in the walk cache (R300). A full TLB loses its oldest entry. -/
def State.keepWalk (s : State) (die st p va : Nat) (w : Walk) : State :=
  match w with
  | .ok dev pa size wr =>
    let v := va % 2 ^ 57
    let t : TlbEntry := { part := p, va := v / 2 ^ size * 2 ^ size, size := size, pa := tlbPa dev (pa - va % 2 ^ size), w := wr, die := die }
    let path := s.walkPath p v 5 (fld (s.part p).ptroot.toNat 47 12 * 4096)
    let mine := s.tlb.filter (fun x => x.die == die && x != t)
    let near := (SMap.get [] s.mtlb st).filter (· != t)
    { s with
      tlb := (t :: mine).take 16384 ++ s.tlb.filter (fun x => x.die != die)
      mtlb := if st / 128 = die then SMap.set [] s.mtlb st ((t :: near).take 64) else s.mtlb
      wcache := path.foldl (fun c x => if c.contains x then c else x :: c) s.wcache }
  | _ => s

/-- PAGE_WALK (R299): a walker of die inp.c walks address inp.v of partition inp.a for station inp.b, for a write with
inp.flag. A fault is raised by the access that needs the address; a read of the walker that got an error reply counts
(R357). -/
def execPageWalk (s : State) : Out :=
  let d := s.inp.c
  let va := s.inp.v.toNat
  if !s.walkerFree d || s.dieDown d then .next s
  else
    match s.walkRoot s.inp.a va s.inp.flag with
    | .fault why => .next (s.countErr (.fault why))
    | w => .next (s.keepWalk d s.inp.b s.inp.a va w)

/-! ## Response registers (R301) -/

def State.setWalker (s : State) (d n : Nat) (w : Walker) : State :=
  { s with walkers := SMap.set {} s.walkers (walkerKey d n) w }

/-- The station of a consumer; 512 of one that is no station's. -/
def Consumer.station (w : Consumer) : Nat :=
  match w with
  | .entry who _ => whoStation who
  | .issue who _ => whoStation who
  | _ => 512

/-- ACT 1: the walk again from PTROOT. The consumer goes on when it succeeds; a fault keeps the slot and is
reported anew. -/
def State.walkAgain (s : State) (d n : Nat) : State :=
  let w := s.walker d n
  if w = {} then s
  else
    let va := canonVa w.va
    match s.walkRoot w.part va w.wr with
    | .fault why => ((s.countErr (.fault why)).setWalker d n { w with why := why }).pushEvent (s.shub w.part) (eventWord 2 (d * 64 + n))
    | r => (s.setWalker d n {}).keepWalk d w.who.station w.part va r

/-- ACT 2: the consumer fails: the entry posts cause 0x33, the splitter refuses with cause 0x02, the front end sets
QERR. -/
def State.failConsumer (s : State) (w : Walker) : State :=
  match w.who with
  | .entry who key =>
    (match s.entryAt who key with
     | some e => s.failEntry who key e 0x33 (if (handleReg e.cmd).isSome then 7 else queueCode key) (canonVa w.va)
     | none => s)
  | .issue who n => { s with issueFail := s.issueFail ++ [(who, n, canonVa w.va)] }
  | .splitter k => s.refuseLaunch k 2 0xFFFFFFFF
  | .front p q => (s.heat (.qerr p q) 64).setHwq p q (s.hwq p q).setQerr.disable
  | .dlq _ => s
  | .none => s

def State.walkFail (s : State) (d n : Nat) : State :=
  let w := s.walker d n
  if w = {} then s else (s.setWalker d n {}).failConsumer w

/-- A write of FRESP(d, n) (R301): values 0 and 3 are ignored. -/
def State.frespWrite (s : State) (d n act : Nat) : State :=
  match act % 4 with
  | 1 => s.walkAgain d n
  | 2 => s.walkFail d n
  | _ => s

/-- The partition whose fault a walker slot holds. -/
def State.walkerPart (s : State) (d n : Nat) : Nat := (s.walker d n).part

/-! ## GTERM (R302) -/

/-- A write of GTERM: the crew of the parked sub-gang that the handle names ends; another handle sets GTBAD. -/
def State.gterm (s : State) (h : Nat) : State :=
  match s.parkedOf (h % 2 ^ 16) with
  | some c => s.terminateCrew c.ref.core c.gang.crew
  | none => s.raiseHf 2

/-! ## Uncorrectable granules (R107, R314) -/

def State.markGranule (s : State) (g : Nat) : State := { s with bad := insKey g s.bad }

/-- The partition that owns a stack byte (R15, R272). -/
def State.keyPart (s : State) (k : Nat) : Nat :=
  let j := k / 2 ^ 40 % 3
  let half := if j = 0 then 0 else if j = 2 then 1 else if k % 2 ^ 40 < 32000000000 then 0 else 1
  s.partOf (keyDie k) half

/-- Granule g is bad: of a home (0), of a line that the L1 of edge core u holds (1), or of the scratchpad of tile engine u (2)
(R107, R108). -/
def State.spoil (s : State) (place u g : Nat) : State :=
  match place with
  | 0 => s.markGranule g
  | 1 =>
    if alHas (s.core u).l1 (g / 4) then
      s.setCore u { s.core u with l1 := SMap.upd {} (s.core u).l1 (g / 4) (fun ln => { ln with bad := insKey (g % 4) ln.bad }) }
    else s
  | _ => if g < padSize / 32 then s.setTile u { s.tile u with padBad := insKey g (s.tile u).padBad } else s

/-- UNCORRECTABLE_GRANULE (R107, R108): granule inp.a at its home, or with inp.b 1 or 2 in the L1 or scratchpad of unit inp.c,
cannot be corrected; under determinism from the next epoch boundary of its partition on (R314). -/
def execUncorrectableGranule (s : State) : Out :=
  let g := s.inp.a
  let b := s.inp.b
  let p := if b = 0 then s.keyPart (g * 32) else s.unitPart s.inp.c
  if s.determ then .next (s.deferInput p { kind := 5, op := b, arg := s.inp.c, addr := g })
  else .next (s.spoil b s.inp.c g)

/-! ## The fill of a load-block (R82) -/

/-- What the fill of one line comes to: its bytes, a mark, an error reply, or a reply outstanding. -/
inductive Fill where
  | bytes (b : List Byte)
  | bad
  | lost (code : Nat)
  | hold
  deriving DecidableEq, Repr

/-- The number by which a load-block's remote reads are known. -/
def fillSg (b : Nat) : Nat := 100001 + 4 * b

def State.fillOne (s : State) (c b lk : Nat) : State × Fill :=
  match keyLoc (lk * 128) with
  | .hbm k =>
    if s.dieDown (keyDie k) then (s.stray, .lost 0)
    else if s.marked k 128 then (s, .bad)
    else (s, .bytes (s.readBytes k 128))
  | .remote dev pa =>
    (match s.remoteRead (.crew c 0) (fillSg b) dev pa 128 false with
     | (s, .ok bs) => (s, .bytes bs)
     | (s, .error .wait) => (s, .hold)
     | (s, .error _) => (s, .lost 1))
  | .reg _ => (s, .lost 1)

def State.fillLines (s : State) (c b : Nat) : List Nat → State × List (Nat × Fill)
  | [] => (s, [])
  | lk :: t =>
    let r := s.fillOne c b lk
    let r2 := r.1.fillLines c b t
    (r2.1, (lk, r.2) :: r2.2)

/-- A filled line keeps the bytes that stores have written since, those written back among them. -/
def L1Line.filled (ln : L1Line) (bs : List Byte) : L1Line :=
  { ln with
    vals := (bs.zip (span 0 128)).foldl (fun m x => if bitAt ln.valid x.2 then m else SMap.set 0 m x.2 x.1) ln.vals
    valid := 2 ^ 128 - 1 }

/-- LOAD_BLOCK_FILL (R82): the fill of load-block inp.b of edge core inp.a completes and sets its flag. -/
def execLoadBlockFill (s : State) : Out :=
  let c := s.inp.a
  let b := s.inp.b
  match alGet (s.core c).blocks b with
  | none => .next s
  | some blk =>
    if blk.done then .next s
    else
      let r := s.fillLines c b blk.lines
      if r.2.any (fun x => x.2 == .hold) then .next { s with remoteOps := r.1.remoteOps, outFabric := r.1.outFabric, seq := r.1.seq }
      else
        let s := r.1.clearRemote (.crew c 0) (fillSg b)
        let l1 := r.2.foldl (fun m x =>
          match x.2 with
          | .bytes bs => SMap.upd {} m x.1 (fun ln => ln.filled bs)
          | _ => m) (s.core c).l1
        let bad := r.2.filterMap (fun x => match x.2 with | .bad => some x.1 | _ => none)
        let lost := r.2.filterMap (fun x => match x.2 with | .lost n => some (x.1, n) | _ => none)
        .next (s.setCore c { s.core c with
          l1 := l1, blocks := alPut (s.core c).blocks b { blk with done := true, bad := bad, lost := lost } })

/-- STRAY_REQUEST (R357): a request of no instruction, homed on die inp.a, gets an error reply and is counted. -/
def execStrayRequest (s : State) : Out := .next (if s.dieDown s.inp.a then s.stray else s)

end Sys2Proof.Machine
end

