-- ==== Sys2Proof/Machine/Save.lean ====
section
/-! DEFINITION. Partition save and restore (R304 to R310): the stop of a partition's work, the shadow region's bytes,
and the context that a restore makes resident again, on the dies that DMAP then names (R273, R274). -/

namespace Sys2Proof.Machine

/-! ## PCST (R304) -/

def State.pcState (s : State) (p : Nat) : Nat := fld (s.part p).pcst.toNat 2 0

def State.setPcState (s : State) (p st : Nat) : State :=
  s.setPart p { s.part p with pcst := BitVec.ofNat 32 (setFld (s.part p).pcst.toNat 2 0 st) }

def State.setPcReason (s : State) (p r : Nat) : State :=
  s.setPart p { s.part p with pcst := BitVec.ofNat 32 (setFld (s.part p).pcst.toNat 15 8 r) }

/-! ## Stops (R296, R305) -/

/-- A stop is asked of every crew of an edge core. -/
def State.stopCrews (s : State) (core : Nat) (on : Bool) : State :=
  let e := s.core core
  if e.crews = [] then s
  else s.setCore core { e with crews := e.crews.map (fun c => (c.1, { c.2 with stopReq := on })) }

/-- A stop is asked of the instance of a tile engine. -/
def State.stopTile (s : State) (e : Nat) : State :=
  if (s.tile e).run = .running then s.setTile e (s.tile e).request else s

/-- The stopped instances that would go on on engines of a kind join arbitration again; an engine given to one is free. -/
def State.unresume (s : State) (on : Nat → Bool) : State :=
  let given := (s.stopped.filterMap (fun t => t.2.resumeOn)).filter (fun e => on e && (s.tile e).run == .ready)
  let s := given.foldl (fun (s : State) e => s.setTile e (s.tile e).rest) s
  { s with stopped := s.stopped.map (fun t => if t.2.resumeOn.any on then (t.1, { t.2 with resumeOn := none }) else t) }

/-- A save begins: the queues are read no more, and every instance and crew of the partition is asked to stop. -/
def State.beginSave (s : State) (p tmo : Nat) : State :=
  let s := (s.setPcState p 1).unresume (fun e => s.unitPart e == p)
  let s := s.setPart p { s.part p with saveBy := if tmo = 0 then 0 else s.timeOf p + tmo * 65536 }
  (s.partUnits p).foldl (fun s e => (s.stopTile e).stopCrews e true) s

/-- No instance runs on an engine. -/
def Tile.still (t : Tile) : Bool := t.run == .idle || t.run == .ready

/-- Every instance has stopped, every sub-gang has stopped or parked, and the entries have performed (R305). -/
def State.quiesced (s : State) (p : Nat) : Bool :=
  (s.partUnits p).all (fun e =>
    (s.tile e).still && (s.core e).crews.all (fun c => s.crewStopped e c.1))

/-- A grant not yet taken up is withdrawn; a persistent launch asks for its engine again. -/
def State.ungrant (s : State) (e : Nat) : State :=
  let t := s.tile e
  if t.run ≠ .ready then s
  else
    let s := match s.launch t.launch with
      | some l => if l.desc.persist then s.setLaunch t.launch { l with askTiles := l.askTiles + 1 } else s
      | none => s
    s.setTile e t.rest

/-! ## The context by logical units -/

/-- The physical device engine index of a partition's logical one (R273). -/
def State.physUnit (s : State) (p u : Nat) : Nat := 48 * s.physDie p (u / 48) + u % 48

/-- A launch with its units, dies and arrival numbers renamed. -/
def Launch.rename (l : Launch) (p : Nat) (unit die : Nat → Nat) (base : Nat) : Launch :=
  { l with
    part := p, arrival := l.arrival + base, links := l.links.map (· + base), run := l.run.map (fun r => (r.1 + base, r.2))
    items := l.items.map (fun i => { i with unit := unit i.unit, die := die i.die })
    tiles := l.tiles.map unit, cores := l.cores.map unit }

def Crew.rename (c : Crew) (base : Nat) : Crew := { c with launch := c.launch + base, stopReq := false }

def EdgeCore.rename (e : EdgeCore) (base : Nat) : EdgeCore :=
  { crews := e.crews.map (fun c => (c.1, c.2.rename base)), gangs := e.gangs, out := e.out, sliceStart := e.sliceStart }

def HwQueue.rename (q : HwQueue) (base : Nat) : HwQueue :=
  { q with fifo := q.fifo.map (· + base), arrivals := q.arrivals.map (· + base) }

def Swapped.rename (w : Swapped) (unit : Nat → Nat) (base : Nat) : Swapped :=
  { w with core := unit w.core, launch := w.launch + base, crew := w.crew.rename base }

/-- A context with its units and dies named by given maps, its numbers moved on, for partition p. -/
def Snap.rename (x : Snap) (p : Nat) (unit die : Nat → Nat) (base : Nat) : Snap :=
  { queues := x.queues.map (fun q => (q.1, q.2.rename base))
    launches := x.launches.map (fun l => (l.1 + base, l.2.rename p unit die base))
    stopped := x.stopped.map (fun t =>
      (unit t.1, { t.2 with launch := t.2.launch + base, kept := [], nextGrant := none, resumeOn := none }))
    cores := x.cores.map (fun c => (unit c.1, c.2.rename base))
    swapped := x.swapped.map (fun w => w.rename unit base)
    runs := x.runs.map (fun r => (r.1 + base, r.2))
    dlqs := x.dlqs }

/-- Device launch queues allotted to a partition (R286). -/
def State.ownDlqs (s : State) (p : Nat) : List Nat :=
  (span 0 32).filter (fun n => bitAt (s.dlq n).ctl.toNat 7 && fld (s.dlq n).ctl.toNat 2 0 == p)

/-- The launch of a swapped-out crew or a stopped instance is one of partition p. -/
def State.launchIn (s : State) (p k : Nat) : Bool := ((s.launch k).map (fun l => l.part == p)).getD false

/-- A core's crews as they stand when all have stopped: a waiting sub-gang repeats its instruction, and only matrix
entries are kept (R296). -/
def EdgeCore.settled (e : EdgeCore) : EdgeCore :=
  let still := fun (g : Gang) => { g with subs := g.subs.map (fun t => (t.1, t.2.unwait)) }
  { e with
    crews := e.crews.map (fun c => (c.1, { c.2 with q := { c.2.q with ordered := [], qs := c.2.q.qs.filter (fun x => x.1 == 6) } }))
    gangs := e.gangs.map (fun g => (g.1, still g.2)), out := e.out.map (fun g => (g.1, still g.2)) }

/-- The partition's context, units by logical index. -/
def State.snapOf (s : State) (p : Nat) : Snap :=
  let x : Snap := {
    queues := (s.part p).queues
    launches := s.launches.filter (fun l => l.2.part == p)
    stopped := s.stopped.filter (fun t => s.launchIn p t.2.launch)
    cores := (s.partUnits p).filterMap (fun e =>
      if (s.core e).crews = [] then none else some (e, (s.core e).settled))
    swapped := s.swapped.filter (fun w => s.launchIn p w.launch)
    runs := (s.part p).runs
    dlqs := (s.ownDlqs p).map (fun n => (n, (s.dlq n).entries)) }
  x.rename p (s.logUnit p) (s.logDie p) 0

/-! ## The shadow region (R304, R306 to R308) -/

/-- A byte of the region whose layout the spec does not give: free, by the save's number and offset. -/
def freeBytes (id off n : Nat) : List Byte := (span off n).map (Config.shadowByte id)

/-- QSTAT of queue q with BUSY, given the partition's launches and runs (R275). -/
def HwQueue.status (h : HwQueue) (q : Nat) (ls : List (Nat × Launch)) (rs : List (Nat × GraphRun)) : Nat :=
  setFld h.stat.toNat 7 7 (b2n (ls.any (fun l => l.2.queue == q) || rs.any (fun r => r.2.queue == q)))

/-- The 64 bytes of a hardware-queue block (R275). -/
def HwQueue.block (h : HwQueue) (status : Nat) : List Byte :=
  leBytes 8 h.base.toNat ++ leBytes 4 h.ctl.toNat ++ leBytes 4 status ++ leBytes 4 h.head.toNat ++ leBytes 4 h.tail.toNat ++ zeros 40

/-- The 256 blocks of a context. -/
def Snap.queueArea (x : Snap) : List Byte :=
  (span 0 256).flatMap (fun q =>
    let h := SMap.get {} x.queues q
    h.block (h.status q x.launches x.runs))

/-- The half of a partition in mode eight, else 0xFF (R306). -/
def State.halfByte (s : State) (p : Nat) : Nat := if s.mode = 8 then p % 2 else 0xFF

/-- Shadow size in MiB (R304). -/
def State.shadowSize (s : State) (p : Nat) : Nat := s.dies + 3 * (s.partUnits p).length

/-- The image header (R306). -/
def State.imageHeader (s : State) (p gen : Nat) : List Byte :=
  leBytes 4 0x53595801 ++ leBytes 1 (fld s.dmode.toNat 5 4) ++ leBytes 1 s.dies ++ leBytes 1 (s.halfByte p) ++
  leBytes 1 ((s.part p).dmap.toNat % 256) ++ leBytes 4 (s.shadowSize p) ++ leBytes 4 gen ++ zeros 48

/-- A piece of the region: its offset, its bytes, and whether the spec gives its layout. -/
structure Piece where
  off : Nat
  bytes : List Byte
  given : Bool := true
  deriving DecidableEq, Repr

def mib : Nat := 2 ^ 20

/-- The partition blocks (R306). -/
def State.partPieces (s : State) (p id gen : Nat) (x : Snap) : List Piece :=
  (span 0 s.dies).flatMap (fun d =>
    let o := d * mib
    [{ off := o, bytes := if d = 0 then s.imageHeader p gen else zeros 64 },
     { off := o + 0x1000, bytes := x.queueArea },
     { off := o + 0x5000, bytes := freeBytes id (o + 0x5000) 0xB000, given := false },
     { off := o + 0x10000, bytes := freeBytes id (o + 0x10000) 0x80000, given := false },
     { off := o + 0x90000, bytes := freeBytes id (o + 0x90000) 0x70000, given := false }])

/-- The two buffers of an accumulator, row-major; an element of the working one that nothing has written is free. -/
def Acc.image (a : Acc) (id off : Nat) : List Byte :=
  (span 0 16384).flatMap (fun i => leBytes 4 (SMap.get 0 a.val i).toNat) ++
  (span 0 16384).flatMap (fun i =>
    if a.workFree = 0 ∨ alHas a.work i then leBytes 4 (SMap.get 0 a.work i).toNat else freeBytes id (off + 4 * i) 4)

/-- [15:0] resume bundle, [23:16] stop kind, [26:24] roundabout sub-step, [63:32] saved lc (R307). -/
def Tile.resumeWord (t : Tile) : Nat :=
  let sub := match t.q.get 6 with
    | e :: _ => e.sub
    | [] => 7
  t.b % 65536 + t.resumeKind % 256 * 2 ^ 16 + sub % 8 * 2 ^ 24 + t.savedLc.toNat * 2 ^ 32

/-- A tile-engine block at offset o (R307); that of an idle engine is zero. -/
def tilePieces (id o : Nat) : Option Tile → List Piece
  | none => [{ off := o, bytes := zeros (2 * mib) }]
  | some t =>
    [{ off := o, bytes := t.padRead 0 padSize },
     { off := o + 0x100000, bytes := (span 0 4).flatMap (fun d => (t.accOf d).image id (o + 0x100000 + d * 0x20000 + 0x10000)) },
     { off := o + 0x180000, bytes := leBytes 8 t.resumeWord },
     { off := o + 0x180100, bytes := (span 0 32).flatMap (fun i => leBytes 8 (SMap.get 0 t.s i).toNat) },
     { off := o + 0x180200, bytes := freeBytes id (o + 0x180200) 512, given := false },
     { off := o + 0x180400, bytes := freeBytes id (o + 0x180400) 0x800, given := false },
     { off := o + 0x182000, bytes := (span 0 2048).flatMap (fun i => leBytes 4 (SMap.get 0 t.v i).toNat) },
     { off := o + 0x184000, bytes := freeBytes id (o + 0x184000) 0x8040, given := false },
     { off := o + 0x18D000, bytes := ((t.qmore.map (fun x => leBytes 8 x.1.toNat)).flatten ++ zeros 32).take 32 }]

/-- The state words 0x0000 to 0x004F of a sub-gang; one that is not parked keeps its PC and LPC where a parked
one keeps TEPC and TLPC (R197, R308). -/
def saveWord (c : Ctx) (w : Nat) : Nat :=
  if w = 0x20 ∧ c.th.parked = false then c.th.pc.toNat
  else if w = 0x21 ∧ c.th.parked = false then c.th.lpc.toNat
  else (stateWord c w).getD 0

/-- A gang record at offset o (R308). -/
def gangPieces (id o : Nat) (g : Gang) : List Piece :=
  g.subs.flatMap (fun t =>
    let c : Ctx := { ref := { core := 0, slot := 0, sub := t.1 }, th := t.2, gang := g }
    [{ off := o + 0x800 * t.1, bytes := (span 0 0x50).flatMap (fun w => leBytes 8 (saveWord c w)) },
     { off := o + 0x800 * t.1 + 0x400, bytes := freeBytes id (o + 0x800 * t.1 + 0x400) 0x400, given := false }]) ++
  [{ off := o + 0x4000, bytes := (span 0 32).flatMap (fun l => (span 0 128).flatMap (fun n => leBytes 4 (g.getW l n).toNat)) },
   { off := o + 0x8000, bytes := (span 0 8).flatMap (fun n => leBytes 4 (g.getLp n).toNat) },
   { off := o + 0x8100, bytes := (span 0 64).flatMap (fun i => leBytes 4 (g.getH (i / 32) (i % 32)).toNat) },
   { off := o + 0x8200, bytes := freeBytes id (o + 0x8200) 64, given := false }]

/-- The crews of a core with their bases in core memory: one after another. -/
def EdgeCore.bases (e : EdgeCore) : List (Nat × Crew) :=
  (e.crews.foldl (fun r c => (r.1 + c.2.cmemKiB * 1024, r.2 ++ [(r.1, c.2)])) ((0, []) : Nat × List (Nat × Crew))).2

/-- Core memory of a core as one image. -/
def EdgeCore.cmemImage (e : EdgeCore) : List Byte :=
  ((e.bases.flatMap (fun x => SMap.getN 0 x.2.cmem 0 (x.2.cmemKiB * 1024))) ++ zeros 262144).take 262144

/-- An edge-core block at offset o (R308). -/
def corePieces (id o : Nat) (e : EdgeCore) : List Piece :=
  { off := o, bytes := e.cmemImage } ::
  (e.gangs.flatMap (fun g => gangPieces id (o + 0x40000 + 0xA000 * g.1) g.2) ++
   (span 0 e.crews.length).map (fun c => { off := o + 0xE0000 + 0x400 * c, bytes := freeBytes id (o + 0xE0000 + 0x400 * c) 0x400, given := false }))

/-- The engines of a partition by logical index, in engine-index order. -/
def State.logUnits (s : State) (p : Nat) : List Nat := sortBy id ((s.partUnits p).map (s.logUnit p))

/-- Every piece of the region of a context. -/
def State.shadowPieces (s : State) (p id gen : Nat) (x : Snap) : List Piece :=
  let us := s.logUnits p
  let n := us.length
  s.partPieces p id gen x ++
  (us.zip (span 0 n)).flatMap (fun u =>
    tilePieces id ((s.dies + 2 * u.2) * mib) ((x.stopped.find? (fun t => t.1 == u.1)).map Prod.snd)) ++
  (us.zip (span 0 n)).flatMap (fun u =>
    corePieces id ((s.dies + 2 * n + u.2) * mib) (((x.cores.find? (fun c => c.1 == u.1)).map Prod.snd).getD {}))

/-! ## Bytes at local physical addresses -/

/-- Bytes written at a local physical address of partition p; those outside its stacks are lost, and those homed on a die in
reset get an error reply that counts (R357). -/
def State.physPut (s : State) (p : Nat) : List (Nat × Nat) → List Byte → State
  | [], _ => s
  | (a, n) :: t, bs =>
    let s := match s.physLoc p a with
      | some (.hbm k) => if s.dieDown (keyDie k) then s.stray else s.writeBytes k (bs.take n)
      | _ => s
    s.physPut p t (bs.drop n)

def State.physWrite (s : State) (p a : Nat) (bs : List Byte) : State := s.physPut p (piecesOf a bs.length) bs

/-- What a physical read comes to. -/
inductive PRead where
  | ok (b : List Byte)
  | bad             -- an uncorrectable granule
  | gone            -- no such memory
  | stray           -- its die is down: an error reply that counts (R357)
  deriving DecidableEq, Repr

def State.physGet (s : State) (p : Nat) : List (Nat × Nat) → PRead
  | [] => .ok []
  | (a, n) :: t =>
    match s.physLoc p a with
    | some (.hbm k) =>
      if s.dieDown (keyDie k) then .stray
      else if s.marked k n then .bad
      else (match s.physGet p t with | .ok b => .ok (s.readBytes k n ++ b) | x => x)
    | _ => .gone

def State.physRead (s : State) (p a n : Nat) : PRead := s.physGet p (piecesOf a n)

/-- BASE of PSHAD (R304). -/
def State.shadowBase (s : State) (p : Nat) : Nat := fld (s.part p).pshad.toNat 47 20 * mib

/-! ## The save (R305) -/

/-- A core's L1 written back and empty. -/
def State.emptyL1 (s : State) (core : Nat) : State :=
  let s := s.writeBackAll core
  s.setCore core { s.core core with l1 := [], blocks := [] }

/-- The partition's translations leave every TLB and walk cache. -/
def State.flushTlb (s : State) (p : Nat) : State :=
  { s with
    tlb := s.tlb.filter (fun t => t.part != p)
    mtlb := (s.mtlb.map (fun x => (x.1, x.2.filter (fun t => t.part != p)))).filter (fun x => x.2 != [])
    wcache := s.wcache.filter (fun w => w.part != p) }

/-- The partition's lines leave the L2 slices. -/
def State.emptyL2 (s : State) (p : Nat) : State := { s with l2 := s.l2.filter (fun l => s.keyPart (l.1 * 128) != p) }

/-- The partition holds no context: its units are empty. -/
def State.clearPart (s : State) (p : Nat) : State :=
  let own := s.ownDlqs p
  let us := s.partUnits p
  let s := us.foldl (fun (s : State) e =>
    (s.core e).crews.foldl (fun (s : State) c => s.dropIssuer (.crew e c.1)) (s.dropIssuer (.tile e))) s
  let s := { s with
    stopped := s.stopped.filter (fun t => !s.launchIn p t.2.launch)
    swapped := s.swapped.filter (fun w => !s.launchIn p w.launch)
    roCache := s.roCache.filter (fun x => !s.launchIn p (x.1 / 2 ^ 57 / 1024))
    launches := s.launches.filter (fun l => l.2.part != p) }
  let s := us.foldl (fun (s : State) e => (s.setTile e {}).setCore e {}) s
  let s := own.foldl (fun (s : State) n => s.setDlq n { s.dlq n with entries := [] }) s
  s.setPart p { s.part p with
    runs := [], queues := (s.part p).queues.map (fun q => (q.1, { q.2 with fifo := [], arrivals := [] })) }

/-- The stopped partition's caches are written back, its context goes to the shadow region, and it is saved. -/
def State.finishSave (s : State) (p : Nat) : State :=
  let s := (s.partUnits p).foldl (fun (s : State) e => (s.ungrant e).emptyL1 e) s
  let x := s.snapOf p
  let id := s.seq
  let gen := ((s.part p).gen + 1) % 2 ^ 32
  let ps := s.shadowPieces p id gen x
  let base := s.shadowBase p
  let s := ps.foldl (fun (s : State) q => s.physWrite p (base + q.off) q.bytes) s
  let s := { s with snaps := (id, x) :: s.snaps, seq := id + 1 }
  let s := ((s.clearPart p).flushTlb p).emptyL2 p
  (s.setPart p { s.part p with gen := gen, saveBy := 0 }).setPcState p 2

/-- The stops of a save are not complete within its TMO × 65,536 cycles (R305); those complete at the last of them are. -/
def State.saveLate (s : State) (p : Nat) : Bool :=
  let b := (s.part p).saveBy
  b != 0 && (decide (b < s.timeOf p) || (b == s.timeOf p && !s.quiesced p))

/-- PARTITION_SAVE_QUIESCED (R305): the save of partition inp.a ends once its work has stopped, in time. -/
def execPartitionSaveQuiesced (s : State) : Out :=
  let p := s.inp.a
  if s.pcState p = 1 ∧ s.quiesced p = true ∧ s.saveLate p = false then .next (s.finishSave p) else .next s

/-- SAVE_STOP_TIMEOUT (R305): the stops of partition inp.a are not complete in time, however soon after they may be. -/
def execSaveStopTimeout (s : State) : Out :=
  let p := s.inp.a
  if s.pcState p = 1 ∧ s.saveLate p = true then
    let s := (s.partUnits p).foldl (fun (s : State) e => s.stopCrews e false) s
    let s := s.setPart p { s.part p with saveBy := 0 }
    .next ((s.setPcState p 4).setPcReason p 1)
  else .next s

/-! ## The restore (R309) -/

/-- A stopped instance with the fields of its block that the spec lays out: word is that at 0x18_0000, ents the
entries behind q0. -/
def Tile.reload (t : Tile) (word : Nat) (pad acc s v ents : List Byte) : Tile :=
  let ws := bytesWords acc
  let buf := fun d k => SMap.setN 0 [] 0 (((ws.drop (d * 32768 + k)).take 16384).map (BitVec.ofNat 32))
  let kind := fld word 23 16
  let sub := fld word 26 24
  { t.padWrite 0 pad with
    b := word % 65536, resumeKind := if kind = 1 ∨ kind = 2 then kind else t.resumeKind, savedLc := BitVec.ofNat 32 (word / 2 ^ 32)
    q := { t.q with qs := t.q.qs.map (fun x => if x.1 = 6 then
      (6, match x.2 with | e :: rest => { e with sub := sub } :: rest | [] => []) else x) }
    qmore := (t.qmore.zip (span 0 t.qmore.length)).map (fun x => (BitVec.ofNat 64 (u64At ents (8 * x.2)), x.1.2))
    acc := (span 0 4).map (fun d => (d, { t.accOf d with val := buf d 0, work := buf d 16384, workFree := 0 }))
    s := SMap.setN 0 [] 0 ((span 0 32).map (fun i => BitVec.ofNat 64 (u64At s (8 * i))))
    v := SMap.setN 0 [] 0 ((bytesWords v).map (BitVec.ofNat 32)) }

/-- A sub-gang with the state words of its record (R197), reserved bits ignored (R4): one that is not parked takes PC and LPC
from words 0x20 and 0x21. -/
def Thread.reload (th : Thread) (b : List Byte) : Thread :=
  let d := fun k => u64At b (8 * k)
  let w := fun k => BitVec.ofNat 32 (d k)
  let stack := fun (k n : Nat) => (span 0 (min 16 n)).reverse.map (fun i => (w (k + i), d (k + i) / 2 ^ 32))
  let th := { th with
    x := SMap.setN 0 [] 0 ((span 0 32).map (fun i => if i = 0 then 0 else BitVec.ofNat 64 (d i)))
    tiss := d 0x22 % 32, fmt := BitVec.ofNat 32 (fmtImage (d 0x23)), msts := BitVec.ofNat 32 (mstsImage (d 0x24))
    srkey := BitVec.ofNat 64 (d 0x25), srctr := BitVec.ofNat 64 (d 0x26), m := w 0x27 &&& sliceMask th.slices
    tcause := w 0x28 &&& 0x00FFC0FF#32, taddr := BitVec.ofNat 64 (d 0x29), tmaskr := w 0x2A, tenq := w 0x2B
    tsaved := th.tsaved.drop (th.tsaved.length - d 0x2C)
    mstack := (stack 0x30 (fld (d 0x2D) 4 0)).map (fun (e : W32 × Nat) => (e.1 &&& sliceMask th.slices, BitVec.ofNat 17 e.2))
    rstack := (stack 0x40 (fld (d 0x2D) 12 8)).map (fun (e : W32 × Nat) => (e.1, BitVec.ofNat 32 e.2)) }
  if th.parked then { th with tepc := w 0x20, tlpc := w 0x21 } else { th with pc := w 0x20, lpc := w 0x21 }

/-- A gang with the registers of its record; sub gives the state words of a sub-gang. -/
def Gang.reload (g : Gang) (w lp h : List Byte) (sub : Nat → List Byte) : Gang :=
  { g with
    subs := g.subs.map (fun t => (t.1, t.2.reload (sub t.1)))
    w := SMap.setN 0 [] 0 ((bytesWords w).map (BitVec.ofNat 32))
    lp := SMap.setN 0 [] 0 ((bytesWords lp).map (BitVec.ofNat 32))
    h := SMap.setN 0 [] 0 ((bytesWords h).map (BitVec.ofNat 32)) }

/-- The registers of a queue from its block, reserved bits ignored (R4, R275). -/
def HwQueue.reload (h : HwQueue) (b : List Byte) : HwQueue :=
  { h with
    base := BitVec.ofNat 64 (u64At b 0 / 16 * 16), ctl := BitVec.ofNat 32 (u32At b 8) &&& 0x83FFFFF7#32
    stat := BitVec.ofNat 32 (u32At b 0x0C) &&& 0x00000740#32
    head := BitVec.ofNat 32 (u32At b 0x10), tail := BitVec.ofNat 32 (u32At b 0x14) }

def PRead.get (r : PRead) : List Byte := match r with | .ok b => b | _ => []

/-- The context as its region now holds it: the fields of given layout from memory, the rest as it was saved. -/
def State.reload (s : State) (p : Nat) (x : Snap) : Snap :=
  let us := s.logUnits p
  let n := us.length
  let base := s.shadowBase p
  let rd := fun o k => (s.physRead p (base + o) k).get
  let ix := fun u => (firstIdx (fun v => v == u) us).getD 0
  { x with
    queues := (span 0 256).foldl (fun m q => SMap.upd {} m q (fun h => h.reload (rd (0x1000 + 64 * q) 64))) x.queues
    stopped := x.stopped.map (fun t =>
      let o := (s.dies + 2 * ix t.1) * mib
      if (x.stopped.find? (fun y => y.1 == t.1)) = some t then
        (t.1, t.2.reload (leNat (rd (o + 0x180000) 8)) (rd o padSize) (rd (o + 0x100000) 0x80000) (rd (o + 0x180100) 256)
          (rd (o + 0x182000) 8192) (rd (o + 0x18D000) 32)) else t)
    cores := x.cores.map (fun c =>
      let o := (s.dies + 2 * n + ix c.1) * mib
      let mem := rd o 262144
      let crews := (c.2.crews.zip c.2.bases).map (fun y =>
        (y.1.1, { y.1.2 with cmem := SMap.setN 0 [] 0 ((mem.drop y.2.1).take (y.1.2.cmemKiB * 1024)) }))
      let gangs := c.2.gangs.map (fun g =>
        let q := o + 0x40000 + 0xA000 * g.1
        (g.1, g.2.reload (rd (q + 0x4000) 0x4000) (rd (q + 0x8000) 32) (rd (q + 0x8100) 256) (fun k => rd (q + 0x800 * k) 0x280)))
      (c.1, { c.2 with crews := crews, gangs := gangs })) }

/-- Whether the region holds what a save wrote where the spec leaves the layout open. -/
def State.holdsSnap (s : State) (p gen : Nat) (y : Nat × Snap) : Bool :=
  (s.shadowPieces p y.1 gen y.2).all (fun q =>
    q.given || s.physRead p (s.shadowBase p + q.off) q.bytes.length == .ok q.bytes)

/-- The context of the region: that of the latest save whose bytes it holds. A region that no save wrote gives a
context that the spec leaves open: one of those saved before, or an empty one. -/
def State.imageSnap (s : State) (p gen : Nat) : Snap :=
  match s.snaps.find? (s.holdsSnap p gen) with
  | some y => s.reload p y.2
  | none =>
    match s.snaps[Config.freeNat s.point 40 % (s.snaps.length + 1)]? with
    | some y => s.reload p y.2
    | none => {}

/-- The effects of a move onto other dies (R274): the partition's waypost rows are reset and unowned (R335), its cache
lines and translations dropped, and the Cairn contexts whose logical die changed closed. -/
def State.moved (s : State) (p oldMap : Nat) : State :=
  let rows := s.wayposts.filterMap (fun r => if r.2.owned && r.2.owner == p then some r.1 else none)
  let s := rows.foldl (fun (s : State) k => { s with wayposts := SMap.set {} s.wayposts k {} }) s
  let s := (s.partUnits p).foldl (fun (s : State) e => s.emptyL1 e) s
  let gone := fun d => s.physDie p (s.logDie p d) != d || oldMap / 2 ^ (2 * s.logDie p d) % 4 != d
  let ks := s.cairns.filterMap (fun c => if c.2.isOpen && c.2.part == p && gone (c.1 / 1024) then some c.1 else none)
  ((ks.foldl (fun (s : State) k => s.setCairn k { gen := (s.cairn k).gen }) s).flushTlb p).emptyL2 p

/-- The context becomes resident: its numbers are renewed, its units are those DMAP names, and parked sub-gangs
are announced again (R194, R309). -/
def State.install (s : State) (p : Nat) (x : Snap) : State :=
  let base := s.seq
  let y := x.rename p (s.physUnit p) (s.physDie p) base
  let s := s.clearPart p
  let s := { s with
    seq := 2 * base + 1
    launches := y.launches.foldl (fun m l => alPut m l.1 l.2) s.launches
    stopped := s.stopped ++ y.stopped, swapped := s.swapped ++ y.swapped }
  let s := y.cores.foldl (fun (s : State) c => s.setCore c.1 c.2) s
  let s := y.dlqs.foldl (fun (s : State) q => s.setDlq q.1 { s.dlq q.1 with entries := q.2 }) s
  let s := s.setPart p { s.part p with queues := y.queues, runs := y.runs }
  y.cores.foldl (fun (s : State) c => c.2.gangs.foldl (fun (s : State) g => s.reraise c.1 g.1 g.2) s) s

/-- An uncorrectable granule in the image ends a restore. -/
def State.restoreBad (s : State) (p : Nat) : State := (s.setPcState p 0).setPcReason p 4

/-- A restore that the state allows begins (R309): the header's checks in the order of REASON 2, then 3; after a good one the
partition restores, and the management core may copy the stack units of a move (R274). -/
def State.restore (s : State) (p : Nat) : State :=
  match s.physRead p (s.shadowBase p) 64 with
  | .bad => s.restoreBad p
  | .gone => s.setPcReason p 2
  | .stray => s.stray.setPcReason p 2
  | .ok h =>
    if u32At h 0 ≠ 0x53595801 ∨ zeroAt h 0x10 0x40 = false then s.setPcReason p 2
    else if u8At h 4 ≠ fld s.dmode.toNat 5 4 ∨ u8At h 5 ≠ s.dies ∨ u8At h 6 ≠ s.halfByte p then s.setPcReason p 3
    else s.setPcState p 3

/-- The restore goes on (R309, steps 2 and 3): the region is read back, and the partition is resident. -/
def State.restoreEnd (s : State) (p : Nat) : State :=
  match s.physRead p (s.shadowBase p) (s.shadowSize p * mib) with
  | .bad => s.restoreBad p
  | .gone => s
  | .stray => s.stray
  | .ok bs =>
    let gen := u32At bs 0x0C
    let x := s.imageSnap p gen
    let used := 2 ^ (2 * s.dies)
    let s := if u8At bs 7 % used = (s.part p).dmap.toNat % used then s else s.moved p (u8At bs 7)
    let s := s.install p x
    (s.setPart p { s.part p with gen := gen }).setPcState p 4

/-! ## PCMD (R304) -/

/-- A die of the partition is being reset (R357). -/
def State.partInReset (s : State) (p : Nat) : Bool :=
  fld s.drst.toNat 7 4 != 0 && (s.partDies p).contains s.rstDie

/-- A write of PCMD. An operation that its state does not allow sets REASON 5 and changes nothing. -/
def State.pcmdWrite (s : State) (p v : Nat) : State :=
  let op := v % 4
  let st := s.pcState p
  let keep := s.setPart p { s.part p with pcmd := BitVec.ofNat 32 (fld v 15 8 * 256) }
  if op = 0 ∨ op = 3 then keep
  else if s.partInReset p then s.setPcReason p 5
  else if op = 1 ∧ st = 4 then keep.beginSave p (fld v 15 8)
  else if op = 2 ∧ (st = 0 ∨ st = 2) then keep.restore p
  else s.setPcReason p 5

/-- PCMD with an operation, its TMO as it stands. -/
def State.pcmdOp (s : State) (p op : Nat) : State := s.pcmdWrite p (fld (s.part p).pcmd.toNat 15 8 * 256 + op)

/-- PCMD_SAVE (R305): PCMD of partition inp.a written with OP 1 and TMO inp.b. -/
def execPcmdSave (s : State) : Out :=
  .next (if s.isPart s.inp.a then s.pcmdWrite s.inp.a (s.inp.b % 256 * 256 + 1) else s)

/-- PCMD_RESTORE (R309): PCMD of partition inp.a written with OP 2 and TMO inp.b, or with inp.flag the end of the restore under
way. -/
def execPcmdRestore (s : State) : Out :=
  let p := s.inp.a
  if s.inp.flag then .next (if s.pcState p = 3 then s.restoreEnd p else s)
  else .next (if s.isPart p then s.pcmdWrite p (s.inp.b % 256 * 256 + 2) else s)

end Sys2Proof.Machine
end

