-- ==== Sys2Proof/Machine/DieReset.lean ====
section
/-! DEFINITION. Warm reset of one compute die (R355 to R357). -/

namespace Sys2Proof.Machine

/-! ## DRST and DRCNT (R355) -/

def State.drstState (s : State) : Nat := fld s.drst.toNat 7 4

def State.setDrst (s : State) (hi lo v : Nat) : State := { s with drst := BitVec.ofNat 32 (setFld s.drst.toNat hi lo v) }

/-- A refusal or failure: REASON and RERR. -/
def State.drstErr (s : State) (reason : Nat) : State := ((s.heat .rerr 8).setDrst 11 8 reason).setDrst 3 3 1

/-- Some resident partition holds the die as its only one (R356). -/
def State.onlyDie (s : State) (d : Nat) : Bool :=
  (span 0 s.mode).any (fun p => s.partLive p && s.partDies p == [d])

/-- Engines of a die. -/
def dieUnits (d : Nat) : List Nat := span (48 * d) 48

/-- A GO for a die (R356): refused with a reason, or the quiescing begins: DRCNT is cleared, and every instance and
crew on the die is asked to stop. -/
def State.dieGo (s : State) (d : Nat) : State :=
  if s.drstState ≠ 0 then s.drstErr 2
  else if s.onlyDie d then s.drstErr 1
  else
    let s := { s.setDrst 7 4 1 with drcnt := 0, rstDie := d }.unresume (fun e => unitDie e == d)
    (dieUnits d).foldl (fun (s : State) e => (s.stopTile e).stopCrews e true) s

/-- A write of DRST: RERR is cleared first, then DIE written, then GO (R3, R355). -/
def State.drstWrite (s : State) (v : Nat) : State :=
  let s := if bitAt v 3 && s.hotBits .rerr == 0 then s.setDrst 3 3 0 else s
  let s := s.setDrst 1 0 (v % 4)
  if bitAt v 2 then s.dieGo (v % 4) else s

/-- DRST_GO (R356): DRST written with DIE inp.a and GO, and with inp.flag a 1 to RERR. -/
def execDrstGo (s : State) : Out := .next (s.drstWrite (s.inp.a % 4 + 4 + 8 * b2n s.inp.flag))

/-! ## Quiescing -/

/-- Every instance and crew on the die has stopped, its entries performed (R296, R356). -/
def State.dieQuiet (s : State) (d : Nat) : Bool :=
  (dieUnits d).all (fun e => (s.tile e).still && (s.core e).crews.all (fun c => s.crewStopped e c.1))

/-- The crews of a core leave it to join arbitration elsewhere (R284, R356). -/
def State.leaveCore (s : State) (e : Nat) : State :=
  (s.core e).crews.foldl (fun (s : State) c => s.swapOut e c.1) s

/-- Lines of the cores of a die that hold dirty bytes. -/
def State.dirtyLines (s : State) (d : Nat) : Nat :=
  (dieUnits d).foldl (fun n e => n + ((s.core e).l1.filter (fun l => l.2.dirty != 0)).length) 0

/-- Every Cairn context of a die is closed (R244, R356). -/
def State.closeCairns (s : State) (d : Nat) : State :=
  s.cairns.foldl (fun (s : State) c => if c.1 / 1024 = d then s.setCairn c.1 { gen := c.2.gen } else s) s

/-- The TLBs of a die are empty. -/
def State.emptyTlbs (s : State) (d : Nat) : State :=
  { s with tlb := s.tlb.filter (fun t => t.die != d), mtlb := s.mtlb.filter (fun x => x.1 / 128 != d) }

/-- DIE_QUIESCE_DONE (R356): the die's work has stopped; its contexts close, its caches are written back, and it is in
reset. WBLN counts the L1 lines, and the L2 lines that the die happened to hold dirty, at most as many as its slices hold
(R21). -/
def execDieQuiesceDone (s : State) : Out :=
  let d := s.rstDie
  if s.drstState ≠ 1 ∨ s.dieQuiet d = false then .next s
  else
    let lines := s.dirtyLines d + Config.freeNat s.point 41 % (96 * sliceLines + 1)
    let s := (dieUnits d).foldl (fun (s : State) e => s.ungrant e) s
    let s := (dieUnits d).foldl (fun (s : State) e => s.leaveCore e) s
    let s := s.closeCairns d
    let s := (dieUnits d).foldl (fun (s : State) e => s.emptyL1 e) s
    let s := { s with
      drcnt := BitVec.ofNat 64 (lines * 2 ^ 32 + s.drcnt.toNat % 2 ^ 32)
      l2 := s.l2.filter (fun l => keyDie (l.1 * 128) != d) }
    .next ((s.emptyTlbs d).setDrst 7 4 2)

/-- DIE_RESET_DONE (R356): retraining of the die's links begins. -/
def execDieResetDone (s : State) : Out := .next (if s.drstState = 2 then s.setDrst 7 4 3 else s)

/-- The die's engines and cores as they come out of reset: empty. -/
def State.freshUnits (s : State) (d : Nat) : State :=
  (dieUnits d).foldl (fun (s : State) e => (s.setTile e {}).setCore e {}) s

/-- DIE_RETRAIN_DONE (R356): the die rejoins placement, its Cairn unit and TLBs empty, or with inp.flag stays out until the next
start. -/
def execDieRetrainDone (s : State) : Out :=
  if s.drstState ≠ 3 then .next s
  else if s.inp.flag then
    .next ((({ s with deadDies := insKey s.rstDie s.deadDies }.drstErr 3).raiseHf 5).setDrst 7 4 0)
  else .next (((((s.setDrst 7 4 4).closeCairns s.rstDie).emptyTlbs s.rstDie).freshUnits s.rstDie).setDrst 7 4 0)

end Sys2Proof.Machine
end

