-- ==== Sys2Proof/Machine/Regs.lean ====
section
/-! DEFINITION. The device register window (R341 to R343): the device modes (R22 to R26), the die map (R272), hardware
queues (R275, R276), device launch queues (R286), the stop log, trace and record controls (R295, R311, R316), and
every other register, with the writes that the opcode table names. -/

namespace Sys2Proof.Machine

/-! ## DMODE (R22 to R26) -/

/-- The class requested is not yet in force. -/
def State.classPending (s : State) : Bool := fld s.dmode.toNat 9 8 != fld s.dmode.toNat 11 10
/-- The fabric mode requested is not yet in force. -/
def State.fabricPending (s : State) : Bool := !s.determ && s.fabOrdered != bitAt s.dmode.toNat 2

def State.setDmode (s : State) (hi lo v : Nat) : State := { s with dmode := BitVec.ofNat 32 (setFld s.dmode.toNat hi lo v) }

/-- PENDING follows the two requests. -/
def State.settlePending (s : State) : State := s.setDmode 6 6 (b2n (s.classPending || s.fabricPending))

/-- A partition with no work (R24). -/
def State.partIdle (s : State) (p : Nat) : Bool :=
  let st := s.pcState p
  st == 0 ||
  (st == 4 &&
    (s.part p).queues.all (fun q => !q.2.en || q.2.head == q.2.tail) &&
    s.launches.all (fun l => l.2.part != p) && (s.part p).runs == [] &&
    (s.ownDlqs p).all (fun n => (s.dlq n).entries == []) &&
    (s.partUnits p).all (fun e => (s.tile e).still && (s.core e).crews == []) &&
    s.stopped.all (fun t => s.unitPart t.1 != p) && s.swapped.all (fun w => s.unitPart w.core != p))

/-- DMAP of a partition after a change of PART (R24): its dies in increasing order, SHUB the index modulo 2. -/
def freshDmap (mode p : Nat) : Nat :=
  let dies := match mode with
    | 1 => [0, 1, 2, 3]
    | 2 => [2 * p, 2 * p + 1]
    | 4 => [p]
    | _ => [p / 2]
  (dies.zip (span 0 4)).foldl (fun a x => a + x.1 * 2 ^ (2 * x.2)) 0 + p % 2 * 2 ^ 8

/-- The partition blocks at their reset values (R24): DMAP of each partition of the mode names its dies. DESIGN CHOICE: PSTEP
of each goes on from partition 0's (log entry 76). -/
def freshParts (mode : Nat) (step : W64) : SMap Part :=
  (span 0 mode).foldl (fun m p => SMap.set {} m p { dmap := BitVec.ofNat 32 (freshDmap mode p), pstep := step }) []

/-- The change of PART (R24): new keys, so no byte reads as it was written; every partition's state at reset. DESIGN CHOICE:
inputs that wait for an epoch boundary are dropped with their partition's block (log entry 77). -/
def State.repartition (s : State) (v : Nat) : State :=
  let s := s.setDmode 5 4 v
  let clean := s.cores.map (fun c => (c.1, { c.2 with l1 := [], blocks := [] }))
  { s with
    memEpoch := s.draws + 1, mem := [], keyGen := s.keyGen + 1, l2 := []
    cores := clean.filter (fun c => c.2 != {})
    parts := freshParts s.mode (s.part 0).pstep
    dlqs := s.dlqs.map (fun d => (d.1, { d.2 with ctl := d.2.ctl &&& 0xFFFFFF7F#32 })) |>.filter (fun d => d.2 != {})
    wayposts := [], tlb := [], mtlb := [], wcache := [], roCache := [] }

/-- A write of DMODE: a value that changes a written field while a change is pending, an invalid class, or a change of
PART while a partition is not idle or a die is being reset, changes nothing and sets MODE_ERR. -/
def State.dmodeWrite (s : State) (v : Nat) : State :=
  let s := if bitAt v 7 && s.hotBits .modeErr == 0 then s.setDmode 7 7 0 else s
  let d := s.dmode.toNat
  let fab := if s.determ then fld d 2 2 else fld v 2 2
  let changes : Bool := fld v 9 8 != fld d 9 8 || fld v 5 4 != fld d 5 4 || fab != fld d 2 2 || fld v 0 0 != fld d 0 0
  let part : Bool := fld v 5 4 != fld d 5 4
  if fld v 9 8 = 3 ∨ (changes = true ∧ (s.classPending || s.fabricPending) = true) ∨
      (part = true ∧ (s.drstState ≠ 0 ∨ (span 0 s.mode).all s.partIdle = false)) then (s.heat .modeErr 128).setDmode 7 7 1
  else
    let s := if fab = fld d 2 2 then s else { s with fabSeq := s.seq }
    let s := (((s.setDmode 9 8 (fld v 9 8)).setDmode 2 2 fab).setDmode 0 0 (fld v 0 0)).settlePending
    if part then s.repartition (fld v 5 4) else s

/-- What DMODE reads: FABRIC reads 1 under determinism (R25). -/
def State.dmodeRead (s : State) : Nat := if s.determ then setFld s.dmode.toNat 2 2 1 else s.dmode.toNat

/-- DMODE as a write that changes one field gives it, MODE_ERR left alone. -/
def State.dmodeField (s : State) (hi lo v : Nat) : Nat := setFld (setFld s.dmode.toNat hi lo v) 7 7 0

/-- DMODE_PCLASS_WRITE (R23): PCLASS written with inp.a. -/
def execDmodePclassWrite (s : State) : Out := .next (s.dmodeWrite (s.dmodeField 9 8 s.inp.a))
/-- DMODE_PART_WRITE (R24): PART written with inp.a. -/
def execDmodePartWrite (s : State) : Out := .next (s.dmodeWrite (s.dmodeField 5 4 s.inp.a))
/-- DMODE_FABRIC_WRITE (R26): FABRIC written with inp.a. -/
def execDmodeFabricWrite (s : State) : Out := .next (s.dmodeWrite (s.dmodeField 2 2 s.inp.a))
/-- DMODE_DETERM_WRITE (R25): DETERM written with inp.a, for the next start. -/
def execDmodeDetermWrite (s : State) : Out := .next (s.dmodeWrite (s.dmodeField 0 0 s.inp.a))

/-- Every station is at a bundle or issue boundary: no tile engine stands within a bundle, those of a die under reset apart
(R23, R357). -/
def State.atBoundaries (s : State) : Bool :=
  s.tiles.all (fun t => s.dieBusy (unitDie t.1) || !t.2.passDue)

/-- CLOCK_CHANGE_POINT (R23): the class requested takes force once every station is at a boundary. -/
def execClockChangePoint (s : State) : Out :=
  .next (if s.classPending && s.atBoundaries then (s.setDmode 11 10 (fld s.dmode.toNat 9 8)).settlePending else s)

/-- FABRIC_MODE_SWITCH (R26): the packets injected before the write have drained: none of them awaits its answer. -/
def execFabricModeSwitch (s : State) : Out :=
  if s.fabricPending && s.inFlight.all (fun n => s.fabSeq ≤ n) then
    .next ({ s with fabOrdered := bitAt s.dmode.toNat 2 }.settlePending)
  else .next s

/-- PACKAGE_POWER_LIMIT (R23): the device inserts inp.a idle issue cycles; PSTEP halts meanwhile (R314). -/
def execPackagePowerLimit (s : State) : Out := .next { s with time := s.time + BitVec.ofNat 48 s.inp.a }

/-! ## DMAP (R272) -/

/-- The used entries name exactly the dies of the partition. -/
def dmapNames (mode p v : Nat) : Bool :=
  let n := match mode with | 1 => 4 | 2 => 2 | _ => 1
  let want := (span 0 n).map (fun k => freshDmap mode p / 2 ^ (2 * k) % 4)
  let have_ := (span 0 n).map (fun k => v / 2 ^ (2 * k) % 4)
  want.all have_.contains && have_.all want.contains

/-- A write of DMAP. -/
def State.dmapWrite (s : State) (p v : Nat) : State :=
  let b := s.part p
  let d := if bitAt v 9 && s.hotBits (.mapErr p) == 0 then setFld b.dmap.toNat 9 9 0 else b.dmap.toNat
  let put := fun (x : Nat) => s.setPart p { b with dmap := BitVec.ofNat 32 x }
  let used := 2 * s.dies
  let moves : Bool := v % 2 ^ used != d % 2 ^ used || fld v 8 8 != fld d 8 8
  let st := s.pcState p
  let held : Bool := st == 1 || st == 3 || st == 4
  if !dmapNames s.mode p v || (moves && held && fld s.bstat.toNat 2 0 != 0) then (put (setFld d 9 9 1)).heat (.mapErr p) 512
  else put (setFld d 8 0 (fld v 8 0))

/-! ## Hardware queues (R275, R276) -/

/-- A write of QCTL that would enable the queue with a size the ring cannot have: QERR (R275). -/
def HwQueue.badEnable (h : HwQueue) (v : Nat) : Bool := bitAt v 31 && !h.en && 8 < fld v 7 4

/-- A doorbell past the ring of an enabled queue: QERR (R276). -/
def HwQueue.badTail (h : HwQueue) (v : Nat) : Bool := h.en && 16 * 2 ^ fld h.ctl.toNat 7 4 < (BitVec.ofNat 32 v - h.head).toNat

/-- A write of QCTL. -/
def HwQueue.writeCtl (h : HwQueue) (v : Nat) : HwQueue :=
  let old := h.ctl.toNat
  let keep := if h.en then setFld (setFld (v % 8) 25 8 (fld old 25 8)) 7 4 (fld old 7 4)
    else setFld (setFld (v % 8) 25 8 (fld v 25 8)) 7 4 (fld v 7 4)
  if bitAt v 31 then
    if h.en then { h with ctl := BitVec.ofNat 32 (keep + 2 ^ 31) }
    else if h.badEnable v then { h with ctl := BitVec.ofNat 32 keep }.setQerr
    else { h with ctl := BitVec.ofNat 32 (keep + 2 ^ 31), head := h.tail, arrivals := [], stat := h.stat &&& 0x000000C0#32 }
  else { h with ctl := BitVec.ofNat 32 keep, arrivals := [] }

/-- A doorbell write of QTAIL: the entries up to it arrive now (R276, R287); a bad tail disables the queue. -/
def HwQueue.writeTail (h : HwQueue) (v seq : Nat) : HwQueue :=
  let t := BitVec.ofNat 32 v
  let n := (t - h.head).toNat
  let h' := { h with tail := t }
  if !h.en then h'
  else if h.badTail v then h'.setQerr.disable
  else { h' with arrivals := h.arrivals.take n ++ span seq (n - h.arrivals.length) }

/-- A write within a queue block. -/
def State.queueWrite (s : State) (p q o v : Nat) : State :=
  let h := s.hwq p q
  match o with
  | 0x00 => if h.en then s else s.setHwq p q { h with base := BitVec.ofNat 64 (v / 16 * 16) }
  | 0x08 => (if h.badEnable v then s.heat (.qerr p q) 64 else s).setHwq p q (h.writeCtl v)
  | 0x0C => if bitAt v 6 && s.hotBits (.qerr p q) == 0 then s.setHwq p q { h with stat := h.stat &&& 0xFFFFFFBF#32 } else s
  | 0x14 =>
    let h' := h.writeTail v s.seq
    { (if h.badTail v then s.heat (.qerr p q) 64 else s).setHwq p q h' with seq := s.seq + h'.arrivals.length }
  | _ => s

def State.queueRead (s : State) (p q o : Nat) : Nat :=
  let h := s.hwq p q
  match o with
  | 0x00 => h.base.toNat
  | 0x08 => h.ctl.toNat
  | 0x0C => h.status q (s.launches.filter (fun l => l.2.part == p)) (s.part p).runs
  | 0x10 => h.head.toNat
  | 0x14 => h.tail.toNat
  | _ => 0

/-! ## Device launch queues (R286) -/

def State.dlqctlWrite (s : State) (n v : Nat) : State :=
  let d := s.dlq n
  if d.entries = [] then s.setDlq n { d with ctl := BitVec.ofNat 32 (fld v 7 7 * 128 + v % 8) } else s

/-! ## Stop log, trace and record controls (R295, R311, R315, R316) -/

def State.slctlWrite (s : State) (p v : Nat) : State :=
  if fld v 4 0 < 4 ∨ 16 < fld v 4 0 then s
  else s.setPart p { s.part p with slctl := BitVec.ofNat 32 (fld v 31 31 * 2 ^ 31 + fld v 4 0) }

/-- The partition of a traced unit. -/
def State.tracedPart (s : State) (n : Nat) : Nat :=
  if 512 ≤ n then (s.mgmt (n - 512)).masid.toNat % 16 else s.partOf (n / 128) (n % 16 / 6)

/-- What runs on a traced unit: gang slot, sub-gang, position and LPC of each; one idle place when nothing does. -/
def State.tracedAt (s : State) (n : Nat) : List (Nat × Nat × Nat × Nat) :=
  if 512 ≤ n then [(0, 0, (s.mgmt (n - 512)).th.pc.toNat, 0)]
  else
    match (span 0 192).find? (fun e => station e true == n) with
    | none => (((span 0 192).find? (fun e => station e false == n)).map (fun e => (0, 0, (s.tile e).b, 0))).toList
    | some e =>
      let xs := (s.core e).gangs.flatMap (fun g => g.2.subs.map (fun t => (g.1, t.1, t.2.pc.toNat, t.2.lpc.toNat)))
      if xs = [] then [(0, 0, 0, 0)] else xs

/-- A station that holds an edge core, whose SYNC gives the LPC (R313). -/
def edgeUnit (n : Nat) : Bool := (span 0 192).any (fun e => station e true == n)

/-- A write of TRCTL; a SYNC of every place is written when tracing comes on (R312; log entry 74). -/
def State.trctlWrite (s : State) (n v : Nat) : State :=
  let t := s.trc n
  if fld v 4 0 < 12 ∨ 30 < fld v 4 0 then s
  else
    let on : Bool := bitAt v 31 && !bitAt t.ctl.toNat 31
    let s' := s.setTrc n { t with
      ctl := BitVec.ofNat 32 (fld v 31 30 * 2 ^ 30 + fld v 4 0), needSync := t.needSync || on, run := if on then 0 else t.run }
    if on then (s.tracedAt n).foldl (fun (s : State) x =>
        s.traceRaw n (s.tracedPart n) x.1 x.2.1 1 0 [] x.2.2.1 x.2.2.2 (edgeUnit n) true) s'
    else s'

/-- A write of RCTL. -/
def State.rctlWrite (s : State) (p v : Nat) : State :=
  let b := s.part p
  let ovf := if bitAt v 2 && s.hotBits (.ovf p) == 0 then 0 else fld b.rctl.toNat 2 2
  let clear := s.setPart p { b with rctl := BitVec.ofNat 32 (setFld b.rctl.toNat 2 2 ovf) }
  let log := fld v 7 3
  let bad : Bool := log < 16 || b.rbase.toNat % 2 ^ log != 0
  if v % 4 = 3 then s
  else if v % 4 ≠ 0 ∧ bad = true then s
  else clear.setPart p { clear.part p with rctl := BitVec.ofNat 32 (log * 8 + ovf * 4 + v % 4) }

/-! ## The map of the window (R341) -/

/-- A register of the window. -/
inductive Reg where
  | dmode | bstat | hfstat | gterm | devid | vfmap | fabctl | drst | drcnt
  | mbox (f off : Nat)
  | queue (p q o : Nat)
  | psched (p : Nat) | dmap (p : Nat) | ptroot (p : Nat) | pshad (p : Nat) | pcmd (p : Nat) | pcst (p : Nat)
  | slbase (p : Nat) | slctl (p : Nat) | slcnt (p : Nat) | wptctl (p : Nat)
  | rctl (p : Nat) | rbase (p : Nat) | rwp (p : Nat) | rrp (p : Nat)
  | trbase (n : Nat) | trctl (n : Nat) | trwp (n : Nat) | trrp (n : Nat)
  | frec (d n w : Nat) | fresp (d n : Nat)
  | dlqctl (n : Nat) | rtab (id : Nat)
  deriving DecidableEq, Repr

/-- A register of a partition block at an offset, with its width in bytes. -/
def partReg (p o : Nat) : Option (Reg × Nat) :=
  if o < 0x4000 then
    match o % 0x40 with
    | 0x00 => some (.queue p (o / 0x40) 0x00, 8)
    | 0x08 => some (.queue p (o / 0x40) 0x08, 4)
    | 0x0C => some (.queue p (o / 0x40) 0x0C, 4)
    | 0x10 => some (.queue p (o / 0x40) 0x10, 4)
    | 0x14 => some (.queue p (o / 0x40) 0x14, 4)
    | _ => none
  else
    match o with
    | 0x4000 => some (.psched p, 4)
    | 0x4008 => some (.dmap p, 4)
    | 0x4010 => some (.ptroot p, 8)
    | 0x4018 => some (.pshad p, 8)
    | 0x4020 => some (.pcmd p, 4)
    | 0x4024 => some (.pcst p, 4)
    | 0x4028 => some (.slbase p, 8)
    | 0x4030 => some (.slctl p, 4)
    | 0x4034 => some (.slcnt p, 4)
    | 0x4038 => some (.wptctl p, 8)
    | 0x4040 => some (.rctl p, 4)
    | 0x4048 => some (.rbase p, 8)
    | 0x4050 => some (.rwp p, 8)
    | 0x4058 => some (.rrp p, 8)
    | _ => none

/-- A station number, or 512 + hub (R311). -/
def tracedUnit (n : Nat) : Bool := if n < 512 then n % 16 < 12 else n < 514

/-- The register at an offset, with its width in bytes. -/
def regAt (o : Nat) : Option (Reg × Nat) :=
  if o < 0x1000 then
    match o with
    | 0x000 => some (.dmode, 4)
    | 0x008 => some (.bstat, 8)
    | 0x010 => some (.hfstat, 4)
    | 0x018 => some (.gterm, 4)
    | 0x020 => some (.devid, 4)
    | 0x028 => some (.vfmap, 8)
    | 0x030 => some (.fabctl, 4)
    | 0x038 => some (.drst, 4)
    | 0x040 => some (.drcnt, 8)
    | _ => none
  else if o < 0xA000 then some (.mbox (o / 0x1000 - 1) (o % 0x1000), 0)
  else if 0x100000 ≤ o ∧ o < 0x900000 then partReg (o / 0x100000 - 1) (o % 0x100000)
  else if 0x1000000 ≤ o ∧ o < 0x1004040 then
    let n := (o - 0x1000000) / 0x20
    if !tracedUnit n then none
    else
      match o % 0x20 with
      | 0x00 => some (.trbase n, 8)
      | 0x08 => some (.trctl n, 4)
      | 0x0C => some (.trwp n, 4)
      | 0x10 => some (.trrp n, 4)
      | _ => none
  else if 0x2000000 ≤ o ∧ o < 0x2002000 then
    let k := (o - 0x2000000) / 0x20
    match o % 0x20 with
    | 0x00 => some (.frec (k / 64) (k % 64) 0, 8)
    | 0x08 => some (.frec (k / 64) (k % 64) 1, 8)
    | 0x10 => some (.fresp (k / 64) (k % 64), 4)
    | _ => none
  else if 0x3000000 ≤ o ∧ o < 0x3000080 ∧ o % 4 = 0 then some (.dlqctl ((o - 0x3000000) / 4), 4)
  else if 0x4000000 ≤ o ∧ o < 0x4004800 ∧ o % 4 = 0 then some (.rtab ((o - 0x4000000) / 4), 4)
  else none

/-- An access of a size finds its register: the width and alignment it has; a mailbox takes words of 4 and 8 bytes. -/
def regFind (o size : Nat) : Option Reg :=
  if (size ≠ 4 ∧ size ≠ 8) ∨ o % size ≠ 0 then none
  else
    match regAt o with
    | some (r, w) => if w = size ∨ w = 0 then some r else none
    | none => none

/-- The partition whose block a register stands in. -/
def Reg.part (r : Reg) : Option Nat :=
  match r with
  | .queue p _ _ => some p
  | .psched p => some p
  | .dmap p => some p
  | .ptroot p => some p
  | .pshad p => some p
  | .pcmd p => some p
  | .pcst p => some p
  | .slbase p => some p
  | .slctl p => some p
  | .slcnt p => some p
  | .wptctl p => some p
  | .rctl p => some p
  | .rbase p => some p
  | .rwp p => some p
  | .rrp p => some p
  | _ => none

/-- Bytes of a function's mailbox area: 32 slots of 128 bytes (R345). -/
def State.mboxRead (s : State) (f o n : Nat) : List Byte := SMap.getN 0 (s.fn f).mbox o n
def State.mboxWrite (s : State) (f o : Nat) (bs : List Byte) : State :=
  s.setFn f { s.fn f with mbox := SMap.setN 0 (s.fn f).mbox o bs }

/-- FREC of a walker slot (R301). -/
def Walker.word (w : Walker) (k : Nat) : Nat :=
  if k = 0 then w.va % 2 ^ 57 else w.src % 256 * 2 ^ 8 + b2n w.wr * 2 ^ 7 + w.why % 8 * 2 ^ 4 + w.part % 16

/-- What a register reads. -/
def State.regGet (s : State) (r : Reg) (size : Nat) : Nat :=
  match r with
  | .dmode => s.dmodeRead
  | .bstat => s.bstat.toNat
  | .hfstat => s.hfstat.toNat
  | .gterm => 0
  | .devid => s.devid.toNat
  | .vfmap => s.vfmap.toNat
  | .fabctl => s.fabctl.toNat
  | .drst => s.drst.toNat
  | .drcnt => s.drcnt.toNat
  | .mbox f off => leNat (s.mboxRead f off size)
  | .queue p q x => s.queueRead p q x
  | .psched p => (s.part p).psched.toNat
  | .dmap p => (s.part p).dmap.toNat
  | .ptroot p => (s.part p).ptroot.toNat
  | .pshad p => (s.part p).pshad.toNat
  | .pcmd p => (s.part p).pcmd.toNat
  | .pcst p => (s.part p).pcst.toNat
  | .slbase p => (s.part p).slbase.toNat
  | .slctl p => (s.part p).slctl.toNat
  | .slcnt p => (s.part p).slcnt.toNat
  | .wptctl p => (s.part p).wptctl.toNat
  | .rctl p => (s.part p).rctl.toNat
  | .rbase p => (s.part p).rbase.toNat
  | .rwp p => (s.part p).rwp.toNat
  | .rrp p => (s.part p).rrp.toNat
  | .trbase n => (s.trc n).base.toNat
  | .trctl n => (s.trc n).ctl.toNat
  | .trwp n => (s.trc n).wp.toNat
  | .trrp n => (s.trc n).rp.toNat
  | .frec d n w => (s.walker d n).word w
  | .fresp _ _ => 0
  | .dlqctl n => (s.dlq n).ctl.toNat
  | .rtab id => (SMap.get 0 s.rtab id).toNat

/-- A read of the window (R341): zero where no register of that size stands. -/
def State.regRead (s : State) (o size : Nat) : Nat :=
  match regFind o size with
  | some r => s.regGet r size
  | none => 0

/-- The writable bits of a plain register (R4). -/
def mask64 (v hi lo : Nat) : W64 := BitVec.ofNat 64 (fld v hi lo * 2 ^ lo)

/-- A register takes a value: RW fields as written, W1C bits cleared by a 1 unless the device has set them in this cycle, the
rest left (R3, R4). -/
def State.regSet (s : State) (r : Reg) (size v : Nat) : State :=
  match r with
  | .dmode => s.dmodeWrite v
  | .bstat => s
  | .hfstat =>
    { s with hfstat := BitVec.ofNat 32 (Nat.lor (Nat.land s.hfstat.toNat (Nat.xor (v % 64) 63)) (s.hotBits .hfstat)) }
  | .gterm => s.gterm v
  | .devid => s
  | .vfmap => { s with vfmap := BitVec.ofNat 64 (v % 2 ^ 36) }
  | .fabctl => { s with fabctl := BitVec.ofNat 32 (v % 32) }
  | .drst => s.drstWrite v
  | .drcnt => s
  | .mbox f off => s.mboxWrite f off (leBytes size v)
  | .queue p q x => s.queueWrite p q x v
  | .psched p => s.setPart p { s.part p with psched := BitVec.ofNat 32 (v % 2 ^ 24) }
  | .dmap p => s.dmapWrite p v
  | .ptroot p => s.setPart p { s.part p with ptroot := mask64 v 47 12 + BitVec.ofNat 64 (v % 2) }
  | .pshad p => s.setPart p { s.part p with pshad := mask64 v 47 20 }
  | .pcmd p => s.pcmdWrite p v
  | .pcst _ => s
  | .slbase p => s.setPart p { s.part p with slbase := mask64 v 56 5 }
  | .slctl p => s.slctlWrite p v
  | .slcnt _ => s
  | .wptctl p =>
    let err := if bitAt v 1 && s.hotBits (.tplerr p) == 0 then 0 else fld (s.part p).wptctl.toNat 1 1
    s.setPart p { s.part p with wptctl := mask64 v 56 13 + BitVec.ofNat 64 (err * 2 + v % 2) }
  | .rctl p => s.rctlWrite p v
  | .rbase p => s.setPart p { s.part p with rbase := mask64 v 47 12 }
  | .rwp p => if (s.part p).rctl.toNat % 4 = 0 then s.setPart p { s.part p with rwp := BitVec.ofNat 64 v } else s
  | .rrp p => if bitAt (s.part p).rctl.toNat 1 then s else s.setPart p { s.part p with rrp := BitVec.ofNat 64 v }
  | .trbase n => s.setTrc n { s.trc n with base := mask64 v 56 12 }
  | .trctl n => s.trctlWrite n v
  | .trwp _ => s
  | .trrp n => s.setTrc n { s.trc n with rp := BitVec.ofNat 32 v }
  | .frec _ _ _ => s
  | .fresp d n => s.frespWrite d n v
  | .dlqctl n => s.dlqctlWrite n v
  | .rtab id => { s with rtab := SMap.set 0 s.rtab id (BitVec.ofNat 32 (v % 2 ^ 18)) }

/-- The partition that a management core's write of a register acts on under determinism: FRESP, GTERM, DMAP and
the page-table root are inputs of it (R314; log entry 23). -/
def State.inputPart (s : State) (r : Reg) (v : Nat) : Option Nat :=
  match r with
  | .fresp d n => some (s.walkerPart d n)
  | .gterm => (s.parkedOf (v % 2 ^ 16)).map Ctx.part
  | .dmap p => some p
  | .ptroot p => some p
  | _ => none

/-- A register of a partition that the mode in force has (R272). -/
def State.regThere (s : State) (r : Reg) : Bool := match r.part with | some p => s.isPart p | none => true

/-- A management core's write (R342): hub 0's alone writes DMODE (R22). -/
def State.regWrite (s : State) (h o size v : Nat) : State :=
  match regFind o size with
  | none => s
  | some r =>
    if s.regThere r = false ∨ (r = .dmode ∧ h ≠ 0) then s
    else
      match if s.determ then s.inputPart r v else none with
      | some p => s.deferInput p { kind := 4, op := 0, addr := o, val := BitVec.ofNat 64 v }
      | none => s.regSet r size v

/-! ## Host writes (R342, R344, R345) -/

/-- The partition of a function, when the mode has it (R344). -/
def State.fnPart (s : State) (f : Nat) : Option Nat :=
  let p := s.vfmap.toNat / 2 ^ (4 * f) % 16
  if f ≤ 8 ∧ s.isPart p = true then some p else none

/-- A host write is ignored (R342, R344). -/
def State.hostIgnored (s : State) : State := s.raiseHf 3

/-- The hub whose management core serves a function. -/
def State.fnHub (s : State) (f : Nat) : Nat := match s.fnPart f with | some p => s.shub p | none => 0

/-- The post of a request: STATUS becomes 1 by a 4-byte write at offset 0 of a slot whose STATUS is 0, 2 or 3. -/
def State.mboxPost (s : State) (f i v : Nat) : State :=
  let st := leNat (s.mboxRead f (128 * i + 1) 1)
  if st = 1 ∨ 3 < st then s
  else
    let s := s.mboxWrite f (128 * i) (leBytes 4 v)
    let h := s.fnHub f
    let s := s.setMgmt h { s.mgmt h with svc := (s.mgmt h).svc ++ [256 * f + i] }
    s.pushEvent h (eventWord 4 (256 * f + i))

/-- A host write to a mailbox. -/
def State.hostMbox (s : State) (f o size v : Nat) : State :=
  if o % 128 = 0 ∧ size = 4 ∧ fld v 15 8 = 1 then s.mboxPost f (o / 128) v
  else s.mboxWrite f o (leBytes size v)

/-- A host write to a queue area: an input of the partition under determinism (R314). -/
def State.hostQueue (s : State) (p o v : Nat) (r : Reg) : State :=
  if s.determ then s.deferInput p { kind := 1, addr := o, val := BitVec.ofNat 64 v }
  else
    match r with
    | .queue p q x => s.queueWrite p q x v
    | _ => s

/-- The window offset that offset o of BAR0 of a function reaches: the whole window for the PF; for a VF the queue area of its
partition p and its own mailbox, and nothing else (R344). -/
def bar0Offset (f p o : Nat) : Nat :=
  if f = 0 then o
  else if o < 0x4000 then 0x100000 * (p + 1) + o
  else if o < 0x5000 then 0x1000 * (f + 1) + (o - 0x4000)
  else 2 ^ 40

/-- A host write at offset o of BAR0 of function f: the PF writes queue areas and mailboxes of the window; a VF the
queue area of its partition and its own mailbox. -/
def State.hostWrite (s : State) (f o size v : Nat) : State :=
  match s.fnPart f with
  | none => s
  | some p =>
    let o' := bar0Offset f p o
    match regFind o' size with
    | some (.mbox g off) => s.hostMbox g off size v
    | some (.queue p' q x) => if s.isPart p' then s.hostQueue p' o' v (.queue p' q x) else s.hostIgnored
    | _ => s.hostIgnored

/-! ## The writes that the opcode table names -/

/-- A write by a management core (inp.iss), or with inp.flag by the host through the PF, at an offset. -/
def State.writeBy (s : State) (o size v : Nat) : State :=
  if s.inp.flag then s.hostWrite 0 o size v
  else
    match s.inp.iss with
    | .mgmt h => s.regWrite h o size v
    | _ => s

/-- The offset of a partition register. -/
def partOff (p o : Nat) : Nat := 0x100000 * (p + 1) + o

/-- REGISTER_WRITE (R3, R341): offset inp.a of the window, inp.b bytes, value inp.v; a host write goes through
function inp.c. -/
def execRegisterWrite (s : State) : Out :=
  .next (if s.inp.flag then s.hostWrite s.inp.c s.inp.a s.inp.b s.inp.v.toNat else s.writeBy s.inp.a s.inp.b s.inp.v.toNat)

/-- DMAP_WRITE (R272): DMAP of partition inp.a. -/
def execDmapWrite (s : State) : Out := .next (s.writeBy (partOff s.inp.a 0x4008) 4 s.inp.v.toNat)
/-- QCTL_WRITE (R275): QCTL of queue inp.b of partition inp.a. -/
def execQctlWrite (s : State) : Out := .next (s.writeBy (partOff s.inp.a (0x40 * s.inp.b + 8)) 4 s.inp.v.toNat)
/-- QTAIL_WRITE (R276): the doorbell of queue inp.b of partition inp.a. -/
def execQtailWrite (s : State) : Out := .next (s.writeBy (partOff s.inp.a (0x40 * s.inp.b + 0x14)) 4 s.inp.v.toNat)
/-- DLQCTL_WRITE (R286): DLQCTL(inp.a). -/
def execDlqctlWrite (s : State) : Out := .next (s.writeBy (0x3000000 + 4 * s.inp.a) 4 s.inp.v.toNat)
/-- SLCTL_WRITE (R295): SLCTL of partition inp.a. -/
def execSlctlWrite (s : State) : Out := .next (s.writeBy (partOff s.inp.a 0x4030) 4 s.inp.v.toNat)
/-- TRCTL_WRITE (R311): TRCTL of unit inp.a. -/
def execTrctlWrite (s : State) : Out := .next (s.writeBy (0x1000000 + 0x20 * s.inp.a + 8) 4 s.inp.v.toNat)
/-- RCTL_WRITE (R316): RCTL of partition inp.a. -/
def execRctlWrite (s : State) : Out := .next (s.writeBy (partOff s.inp.a 0x4040) 4 s.inp.v.toNat)
/-- GTERM_WRITE (R302): GTERM written with handle inp.a. -/
def execGtermWrite (s : State) : Out := .next (s.writeBy 0x018 4 s.inp.a)
/-- FRESP_WALK_AGAIN (R301): FRESP of die inp.a, slot inp.b, written with ACT 1. -/
def execFrespWalkAgain (s : State) : Out := .next (s.writeBy (0x2000000 + 0x20 * (64 * s.inp.a + s.inp.b) + 0x10) 4 1)
/-- FRESP_FAIL (R301): FRESP of die inp.a, slot inp.b, written with ACT 2. -/
def execFrespFail (s : State) : Out := .next (s.writeBy (0x2000000 + 0x20 * (64 * s.inp.a + s.inp.b) + 0x10) 4 2)

end Sys2Proof.Machine
end

