-- ==== Sys2Proof/Machine/Host.lean ====
section
/-! DEFINITION. The host and the fabric as parties of the machine: mailbox requests and their services (R345, R346, R288,
R289), apertures (R344), inbound accesses (R348), flush markers (R103), replies and ports (R104, R347), SPDM (R350).
What another party sends is an input of its step. -/

namespace Sys2Proof.Machine

/-! ## Fabric arrivals (R103, R104, R348) -/

/-- An inbound access of another device: kind 0 read, 1 write, 2 atomic, 3 write of bytes of a bad granule; its address, length,
payload and source. An atomic's payload is the operand, and after it the compare value; operation 14 is an automatic release
(R93). -/
structure Inbound where
  kind : Nat := 0
  op : Nat := 0
  ga : Nat := 0
  len : Nat := 0
  src : Nat := 0
  data : List Byte := []
  deriving DecidableEq, Repr

/-- The new value of an inbound atomic: the integer operations of R191, then FP32 add, min and max, and the
value-and-index maximum (R219, R220). -/
def inboundNew (op z old b e : Nat) : Option Nat :=
  match op with
  | 10 => some (eAdd .fp32 .rne false old b).1
  | 11 => some (eMinMax .fp32 false false old b)
  | 12 => some (eMinMax .fp32 false true old b)
  | 13 => atomNew .maxvi 0 8 old b e
  | 14 => some (lockReleased old true)
  | op => amoLike op z old b e
where
  amoLike (op z old b e : Nat) : Option Nat :=
    match op with
    | 0 => some ((old + b) % 2 ^ (8 * z))
    | 1 => some (if sx (8 * z) b < sx (8 * z) old then b else old)
    | 2 => some (if sx (8 * z) old < sx (8 * z) b then b else old)
    | 3 => some (Nat.land old b)
    | 4 => some (Nat.lor old b)
    | 5 => some (Nat.xor old b)
    | 6 => some b
    | 7 => if old = e then some b else none
    | 8 => some (if b < old then b else old)
    | _ => some (if old < b then b else old)

/-- The pieces of a physical range on one partition's stacks; none where a byte has no home. -/
def State.inboundLocs (s : State) (p : Nat) : List (Nat × Nat) → Option (List (Nat × Nat))
  | [] => some []
  | (a, n) :: t =>
    match s.physLoc p a, s.inboundLocs p t with
    | some (.hbm k), some r => some ((k, n) :: r)
    | _, _ => none

/-- A reply: 0 and the data, or 1 for an error. -/
def State.reply (s : State) (p dev : Nat) (r : Option (List Byte)) : State :=
  match r with
  | some bs => s.sendPacket p dev (0 :: bs)
  | none => s.sendPacket p dev [1]

/-- An inbound access performs in the partition that FABCTL names, or gets an error reply (R348). The bytes of a bad granule mark
those they are written over (R108). -/
def State.inbound (s : State) (x : Inbound) : State :=
  let p := s.fabctl.toNat % 16
  let fail := fun (s : State) => s.reply p x.src none
  if !bitAt s.fabctl.toNat 4 || !s.isPart p || fld x.ga 50 48 != 0 then fail s
  else
    match s.inboundLocs p (piecesOf (x.ga % 2 ^ 48) x.len) with
    | none => fail s
    | some ks =>
      if ks.any (fun k => s.dieDown (keyDie k.1)) then fail s.stray
      else if x.kind % 2 = 0 ∧ ks.any (fun k => s.marked k.1 k.2) = true then fail s
      else
        let old := ks.flatMap (fun k => s.readBytes k.1 k.2)
        let put := fun (s : State) (bs : List Byte) =>
          s.writeLocs (deviceIss 601 p) 10000 (x.kind == 3) 0 (ks.map (fun k => (Loc.hbm k.1, k.2))) bs
        match x.kind with
        | 0 => s.reply p x.src (some old)
        | 1 => (put s (x.data.take x.len)).reply p x.src (some [])
        | 3 => (put s (x.data.take x.len)).reply p x.src (some [])
        | _ =>
          let b := leNat (x.data.take x.len)
          let e := leNat ((x.data.drop x.len).take x.len)
          let s := match inboundNew x.op x.len (leNat old) b e with
            | some v => put s (leBytes x.len v)
            | none => s
          s.reply p x.src (some old)

/-- A flush marker of a sequence of another device: the acknowledgement goes back with the last one (R103). -/
def State.marker (s : State) (dev seq need : Nat) : State :=
  let mine := fun (f : Flush) => f.dev == dev && f.seq == seq
  let f := (s.flushIn.find? mine).getD { seq := seq, dev := dev, need := need }
  let rest := s.flushIn.filter (fun f => !mine f)
  if f.need ≤ f.got + 1 then { s with flushIn := rest }.sendPacket (s.fabctl.toNat % 16) dev (leBytes 8 seq)
  else { s with flushIn := rest ++ [{ f with got := f.got + 1 }] }

/-- The acknowledgement of a sequence of this device: an automatic release that awaited it goes out (R93). -/
def State.flushAck (s : State) (seq : Nat) : State :=
  let s : State := { s with
    flushOut := s.flushOut.map (fun f => if f.seq = seq then { f with acked := true } else f)
    inFlight := s.inFlight.filter (· != seq) }
  s.autoRelDue

/-- Whether an issuer is the device itself, which learns nothing of its writes. -/
def isDevice (who : Issuer) : Bool := match who with | .mgmt h => 2 ≤ h | _ => false

/-- A reply to an outstanding access: its data, or an error. A posted write that performed is done with; one that did not is
kept for its gang's next release (R104, R348); a trace ring's WP and SLCNT take in what has performed (R295, R311). -/
def State.replied (s : State) (id : Nat) (ok : Bool) (data : List Byte) : State :=
  let s : State := { s with
    inFlight := s.inFlight.filter (· != id)
    remoteOps := (s.remoteOps.filter (fun r => !(r.id == id && r.posted && (ok || isDevice r.who)))).map (fun r =>
      if r.id = id ∧ r.answered = false then
        { r with answered := true, ok := ok && (r.posted || data.length == r.len), data := data } else r) }
  s.traceReplied.logReplied

/-- An inbound packet as an input: kind 0 access, 1 reply, 2 marker, 3 acknowledgement. -/
def State.packetIn (s : State) (x : ExtInput) : State :=
  match x.op with
  | 0 => s.inbound { kind := x.arg % 4, op := x.arg / 4 % 16, src := x.arg / 64, ga := x.addr, len := x.val.toNat, data := x.data }
  | 1 => s.replied x.addr (x.val == 0) x.data
  | 2 => s.marker x.arg x.addr x.val.toNat
  | _ => s.flushAck x.addr

/-- The partition that takes a packet: that of the issuer for a reply or acknowledgement, else FABCTL's. -/
def State.packetPart (s : State) (x : ExtInput) : Nat :=
  let own := fun (w : Issuer) => s.whoPart w
  match x.op with
  | 1 => ((s.remoteOps.find? (fun r => r.id == x.addr)).map (fun r => own r.who)).getD 0
  | 3 => ((s.flushOut.find? (fun f => f.seq == x.addr)).map (fun f => own f.who)).getD 0
  | _ => s.fabctl.toNat % 16

/-- A packet arrives: at once, or under determinism at the next epoch boundary (R314). -/
def State.packet (s : State) (x : ExtInput) : State :=
  if s.determ then s.deferInput (s.packetPart x) { x with kind := 3 } else s.packetIn x

/-- FABRIC_INBOUND_ACCESS (R348): kind inp.a, atomic operation inp.b, source device inp.c, address inp.v, the length
first in inp.nums, payload inp.data. -/
def execFabricInboundAccess (s : State) : Out :=
  .next (s.packet { op := 0, arg := s.inp.a % 4 + s.inp.b % 16 * 4 + s.inp.c * 64, addr := s.inp.v.toNat
                    val := BitVec.ofNat 64 (s.inp.nums.headD 0), data := s.inp.data })

/-- FLUSH_MARKER_ARRIVAL (R103): from device inp.a, sequence inp.b, of inp.c markers. -/
def execFlushMarkerArrival (s : State) : Out :=
  .next (s.packet { op := 2, arg := s.inp.a, addr := s.inp.b, val := BitVec.ofNat 64 s.inp.c })

/-- FLUSH_ACK_ARRIVAL (R103): for sequence inp.a. -/
def execFlushAckArrival (s : State) : Out := .next (s.packet { op := 3, addr := s.inp.a })

/-- FABRIC_REPLY_ARRIVAL (R104): for access inp.a, an error with inp.flag, data inp.data. -/
def execFabricReplyArrival (s : State) : Out :=
  .next (s.packet { op := 1, addr := s.inp.a, val := BitVec.ofNat 64 (b2n s.inp.flag), data := s.inp.data })

/-- ALAIC_PORT_FAILURE (R347, R104): port inp.a leaves every mask, LINKF is set, and releases whose markers it carries end with
an error. -/
def execAlaicPortFailure (s : State) : Out :=
  let n := s.inp.a
  if 18 ≤ n then .next s
  else
    let lost := (s.flushOut.filter (fun f => !f.acked && bitAt f.ports n)).map Flush.seq
    let s := { s with
      inFlight := s.inFlight.filter (fun x => !lost.contains x)
      flushOut := s.flushOut.map (fun (f : Flush) => if !f.acked && bitAt f.ports n then { f with failed := true } else f)
      rtab := (s.rtab.map (fun (r : Nat × W32) => (r.1, r.2 &&& ~~~BitVec.ofNat 32 (2 ^ n)))).filter (fun (r : Nat × W32) => r.2 != 0)
      portsDown := insKey n s.portsDown }
    .next (s.autoRelDue.raiseHf 4)

/-! ## Apertures (R344) -/

/-- The virtual address of offset o of a function's aperture. -/
def State.apertureVa (s : State) (f o : Nat) : Nat := ((s.fn f).abase.toNat + o % 2 ^ 36) % 2 ^ 64

def allOnes (n : Nat) : List Byte := List.replicate n 255

/-- The number by which a function's remote reads are known. -/
def hostSg (f : Nat) : Nat := 70000 + f

/-- What the host reads at offset o of BAR0 of function f (R342, R344): all ones for a function without a partition, and for
every VF in recovery (R353). -/
def State.bar0Read (s : State) (f o n : Nat) : List Byte :=
  match s.fnPart f with
  | none => if f = 0 ∧ fld s.bstat.toNat 2 0 = 2 then leBytes n (s.regRead o n) else allOnes n
  | some p => if f ≠ 0 ∧ fld s.bstat.toNat 2 0 = 2 then allOnes n else leBytes n (s.regRead (bar0Offset f p o) n)

/-- A read of inp.b bytes at offset inp.v by the host through function inp.a: of its aperture (APERTURE_READ, R344), with
inp.flag of its BAR0 (R342, R344), and with inp.c 1 of its configuration space, whose contents the spec does not give (R353; log entry 84). -/
def execApertureRead (s : State) : Out :=
  let f := s.inp.a
  let n := s.inp.b
  if s.inp.c = 1 then .next { s with rdata := (span 0 n).map (fun i => Config.pciConfig f (s.inp.v.toNat + i)) }
  else if s.inp.flag then .next { s with rdata := s.bar0Read f s.inp.v.toNat n }
  else match s.fnPart f with
  | none => .next { s with rdata := allOnes n }
  | some p =>
    let who := Issuer.mgmt (s.shub p)
    match s.readVa who p (s.apertureVa f s.inp.v.toNat) n (hostSg f) with
    | (s, .ok bs) => .next { s.clearRemote who (hostSg f) with rdata := bs }
    | (s, .error (.wait, _)) => .next s
    | (s, .error (.uncorr, _)) => .next { s with rdata := (span 0 n).map (fun i => BitVec.ofNat 8 (Config.freeNat s.point (50000 + i))) }
    | (s, .error (e, _)) => .next { (s.countErr e).clearRemote who (hostSg f) with rdata := allOnes n }

/-- A host write of bytes at a virtual address of a partition; one that cannot be translated is dropped. -/
def State.hostPut (s : State) (p va : Nat) (bs : List Byte) : State :=
  match s.writeOwn 601 p va bs with
  | .ok s => s
  | .error e => (s.countErr e.1).hostIgnored

/-- APERTURE_WRITE (R344): inp.data at offset inp.v of the aperture of function inp.a. -/
def execApertureWrite (s : State) : Out :=
  let f := s.inp.a
  match s.fnPart f with
  | none => .next s
  | some p =>
    let va := s.apertureVa f s.inp.v.toNat
    if s.determ then .next (s.deferInput p { kind := 2, addr := va, val := BitVec.ofNat 64 s.inp.data.length, data := s.inp.data })
    else .next (s.hostPut p va s.inp.data)

/-! ## Mailbox requests (R345) -/

/-- MAILBOX_POST (R345): slot inp.b of function inp.a posted with request code inp.c. -/
def execMailboxPost (s : State) : Out :=
  let f := s.inp.a
  if (s.fnPart f).isNone = true ∨ 32 ≤ s.inp.b then .next s
  else .next (s.mboxPost f s.inp.b (s.inp.c % 256 + 256))

/-- Argument k of a slot. -/
def State.arg (s : State) (f i k : Nat) : Nat := leNat (s.mboxRead f (128 * i + 8 + 8 * k) 8)

/-- How a service ends. -/
inductive Reply where
  | done (res : List (Nat × Nat))
  | err (code : Nat) (res : List (Nat × Nat))
  | later                       -- the request goes on: the slot stays posted
  deriving DecidableEq, Repr

/-- The request of a slot ends: RES, then ERR and STATUS, then vector 0 (R345). -/
def State.endRequest (s : State) (h f i status err : Nat) (res : List (Nat × Nat)) : State :=
  let s := res.foldl (fun (s : State) r => s.mboxWrite f (128 * i + 0x40 + 8 * r.1) (leBytes 8 r.2)) s
  let s := (s.mboxWrite f (128 * i + 2) (leBytes 2 err)).mboxWrite f (128 * i + 1) (leBytes 1 status)
  let m := s.mgmt h
  (s.setMgmt h { m with svc := m.svc.drop 1, svcOn := false, svcPos := 0
                        events := m.events.erase (BitVec.ofNat 64 (eventWord 4 (256 * f + i))) }).raiseMsi f 0

/-- Requests of the PF alone. -/
def pfOnly (code : Nat) : Bool := 5 ≤ code && code ≤ 0x0B

/-- A service of a management core (R345): the oldest request posted to hub inp.a, when its code is one of those given. A
request that is not allowed or not known ends with its error; in recovery only 0x0A and 0x0B are taken (R353). -/
def service (codes : List Nat) (body : Nat → Nat → State → State × Reply) (s : State) : Out :=
  let h := s.inp.a
  match (s.mgmt h).svc with
  | [] => .next s
  | x :: _ =>
    let f := x / 256
    let i := x % 256
    let code := leNat (s.mboxRead f (128 * i) 1)
    if leNat (s.mboxRead f (128 * i + 1) 1) ≠ 1 then
      .next (s.setMgmt h { s.mgmt h with svc := (s.mgmt h).svc.drop 1, svcOn := false, svcPos := 0 })
    else if fld s.bstat.toNat 2 0 = 2 ∧ code ≠ 0x0A ∧ code ≠ 0x0B then .next (s.endRequest h f i 3 4 [])
    else if code = 0 ∨ 0x0B < code then .next (s.endRequest h f i 3 2 [])
    else if pfOnly code = true ∧ f ≠ 0 then .next (s.endRequest h f i 3 1 [])
    else if !codes.contains code then .next s
    else
      match body f i s with
      | (s, .done res) => .next (s.endRequest h f i 2 0 res)
      | (s, .err c res) => .next (s.endRequest h f i 3 c res)
      | (s, .later) => .next (s.setMgmt h { s.mgmt h with svcOn := true })

/-- The partition of a function, 0 when it has none. -/
def State.fnp (s : State) (f : Nat) : Nat := (s.fnPart f).getD 0

/-- What a service reads at a virtual address of a function's partition. -/
inductive SvcRead where
  | ok (b : List Byte)
  | bad
  | hold
  deriving DecidableEq, Repr

def State.svcRead (s : State) (f va n : Nat) : State × SvcRead :=
  let who := Issuer.mgmt (s.fnHub f)
  match s.readVa who (s.fnp f) va n (hostSg f) with
  | (s, .ok bs) => (s.clearRemote who (hostSg f), .ok bs)
  | (s, .error (.wait, _)) => (s, .hold)
  | (s, .error (e, _)) => ((s.countErr e).clearRemote who (hostSg f), .bad)

/-! ### Graphs (R288, R289) -/

/-- Whether an image's header and edges are good, and its parts: descriptors and predecessor lists. -/
def imageGraph (bs : List Byte) : Option (Bool × List (List Byte) × List (List Nat)) :=
  let nl := u16At bs 4
  let ne := u16At bs 6
  let n := nl + 1
  let es := (span 0 ne).map (fun e => u32At bs (64 + 512 * n + 4 * e))
  if u32At bs 0 ≠ 0x53594701 ∨ 1023 < nl ∨ 4096 < ne ∨ 2 ≤ u8At bs 8 ∨ zeroAt bs 9 64 = false ∨
      es.any (fun e => e / 65536 ≤ e % 65536 || nl < e / 65536) = true then none
  else some (u8At bs 8 == 1, (span 0 n).map (fun i => (bs.drop (64 + 512 * i)).take 512),
    (span 0 n).map (fun i => (es.filter (fun e => e / 65536 == i)).map (fun e => e % 65536)))

/-- The next handle from h up that is nonzero and not in use. -/
def freshHandle (gs : List Graph) : Nat → Nat → Nat
  | 0, h => h
  | n + 1, h => if h % 2 ^ 32 = 0 ∨ gs.any (fun g => g.handle == h % 2 ^ 32) = true then freshHandle gs n (h + 1) else h % 2 ^ 32

/-- The executable of an image, refused under R288. -/
def State.newGraph (s : State) (p : Nat) (bs : List Byte) : State × Reply :=
  let b := s.part p
  match imageGraph bs with
  | none => (s, .err 4 [])
  | some (reent, ds, ps) =>
    if 4096 ≤ b.graphs.length then (s, .err 4 [])
    else
      let h := freshHandle b.graphs 4098 b.nextHandle
      (s.setPart p { b with
        graphs := b.graphs ++ [{ handle := h, part := p, reent := reent, descs := ds, preds := ps }], nextHandle := h + 1 },
       .done [(0, h)])

/-- INSTANTIATE_GRAPH (R288): the request at hub inp.a. -/
def execInstantiateGraph (s : State) : Out :=
  service [1] (fun f i s =>
    let va := s.arg f i 0
    if va % 64 ≠ 0 then (s, .err 3 [])
    else
      match s.svcRead f va 64 with
      | (s, .hold) => (s, .later)
      | (s, .bad) => (s, .err 3 [])
      | (s, .ok hd) =>
        match s.svcRead f va (64 + 512 * (u16At hd 4 % 1024 + 1) + 4 * (u16At hd 6 % 4097)) with
        | (s, .hold) => (s, .later)
        | (s, .bad) => (s, .err 3 [])
        | (s, .ok bs) => s.newGraph (s.fnp f) bs) s

/-- DESTROY_GRAPH (R289). -/
def execDestroyGraph (s : State) : Out :=
  service [2] (fun f i s =>
    let h := s.arg f i 0
    let p := s.fnp f
    let b := s.part p
    if b.graphs.all (fun g => g.handle != h) then (s, .err 3 [])
    else if b.runs.any (fun r => r.2.graph == h) then (s, .err 4 [])
    else (s.setPart p { b with graphs := b.graphs.filter (fun g => g.handle != h) }, .done [])) s

/-! ### Apertures and copies (R344, R346) -/

/-- SET_APERTURE (R344): ABASE, 64 GiB aligned. -/
def execSetAperture (s : State) : Out :=
  service [3] (fun f i s =>
    let v := s.arg f i 0
    if v % 2 ^ 36 ≠ 0 then (s, .err 3 []) else (s.setFn f { s.fn f with abase := BitVec.ofNat 64 v }, .done [])) s

/-- How a host copy stands: done, to go on later, or failed. -/
inductive CopyEnd where
  | done | later | failed
  deriving DecidableEq, Repr

/-- A piece that does not translate: the management core resolves the fault and the copy goes on, or with inp.flag it cannot
(R346; log entry 86); any other error fails the copy. -/
def State.copyStop (s : State) (e : MErr) : CopyEnd :=
  match e with
  | .wait => .later
  | .fault _ => if s.inp.flag then .failed else .later
  | _ => .failed

/-- Bytes of the copy that have moved. -/
def State.copyMoved (s : State) (h n : Nat) : State :=
  s.setMgmt h { s.mgmt h with svcPos := (s.mgmt h).svcPos + n }

/-- Pieces written one after another: those before the first failure stay (R346). -/
def State.copyIn (s : State) (h p : Nat) : List (Nat × Nat) → List Byte → State × CopyEnd
  | [], _ => (s, .done)
  | (va, n) :: t, bs =>
    match s.writeVa (.mgmt h) p va (bs.take n) with
    | .error e => (s.countErr e.1, s.copyStop e.1)
    | .ok s => (s.copyMoved h n).copyIn h p t (bs.drop n)

/-- Pieces read one after another up to the first failure; what has been read is in rdata. -/
def State.copyOut (s : State) (h p f : Nat) : List (Nat × Nat) → State × CopyEnd
  | [] => (s, .done)
  | (va, n) :: t =>
    match s.readVa (.mgmt h) p va n (hostSg f) with
    | (s, .error (e, _)) => (s.countErr e, s.copyStop e)
    | (s, .ok bs) => ({ s.copyMoved h n with rdata := s.rdata ++ bs }.clearRemote (.mgmt h) (hostSg f)).copyOut h p f t

/-- Bytes that the host sends to the memory of partition p under determinism: an input, once they all translate (R314). -/
def State.copyDefer (s : State) (h p va : Nat) (bs : List Byte) : State × CopyEnd :=
  match s.locs p true (piecesOf va bs.length) with
  | .error e => (s, s.copyStop e.1)
  | .ok _ =>
    ((s.copyMoved h (bs.length + 1)).deferInput p
      { kind := 2, addr := va, val := BitVec.ofNat 64 bs.length, data := bs, op := 1, arg := h }, .later)

/-- HOST_COPY (R346): to the device, inp.data is what host memory answered for the bytes that have not moved, short after a
PCIe error; to the host, the bytes sent are left in rdata. -/
def execHostCopy (s : State) : Out :=
  let h := s.inp.a
  service [4] (fun f i s =>
    let va := s.arg f i 1
    let n := s.arg f i 2
    let dir := s.arg f i 3
    let p := s.fnp f
    let pos := (s.mgmt h).svcPos
    if 2 ^ 40 < n ∨ 1 < dir then (s, .err 3 [])
    else
      let r := if dir = 1 then
          (if pos = 0 then { s with rdata := [] } else s).copyOut h p f (piecesOf (va + pos) (n - pos))
        else
          let bs := s.inp.data.take (n - pos)
          if s.determ then
            (if pos = 0 then s.copyDefer h p va bs
             else (s, if (s.part p).inputs.any (fun x => x.kind == 2 && x.op == 1 && x.arg == h) then .later else .done))
          else s.copyIn h p (piecesOf (va + pos) bs.length) bs
      let short : Bool := dir == 0 && !(s.determ && pos != 0) && s.inp.data.length < n - pos
      let s := r.1.clearRemote (.mgmt h) (if r.2 = .later then 0 else hostSg f)
      match r.2 with
      | .later => (s, if short && (s.mgmt h).svcPos == s.inp.data.length + 1 then .err 3 [] else .later)
      | .done => (s, if short then .err 3 [] else .done [])
      | .failed => (s, .err 3 [])) s

/-! ### Partitions, dies, ranks and power -/

/-- SAVE_REQUEST (R345): done when PCST.STATE leaves 1. -/
def execSaveRequest (s : State) : Out :=
  let on := (s.mgmt s.inp.a).svcOn
  service [5] (fun f i s =>
    let p := s.arg f i 0
    if !s.isPart p then (s, .err 3 [])
    else if on then
      (s, if s.pcState p = 1 then .later else if s.pcState p = 2 then .done [] else .err 4 [])
    else
      let t := s.pcmdOp p 1
      (t, if s.pcState p ≠ 1 ∧ t.pcState p = 1 then .later else .err 4 [])) s

/-- RESTORE_REQUEST (R345): done when PCST.STATE leaves 3. -/
def execRestoreRequest (s : State) : Out :=
  let on := (s.mgmt s.inp.a).svcOn
  service [6] (fun f i s =>
    let p := s.arg f i 0
    if !s.isPart p then (s, .err 3 [])
    else if on then
      (s, if s.pcState p = 3 then .later else if s.pcState p = 4 then .done [] else .err 4 [])
    else
      let t := s.pcmdOp p 2
      (t, if s.pcState p ≠ 3 ∧ t.pcState p = 3 then .later else .err 4 [])) s

/-- DIE_WARM_RESET_REQUEST (R345): a GO that clears RERR first, done when DRST.STATE returns to 0; it fails when the die's links
did not retrain. -/
def execDieWarmResetRequest (s : State) : Out :=
  let on := (s.mgmt s.inp.a).svcOn
  service [7] (fun f i s =>
    let d := s.arg f i 0
    if 4 ≤ d then (s, .err 3 [])
    else if on then
      (s, if s.drstState ≠ 0 then .later else if s.deadDies.contains d then .err 4 [] else .done [])
    else
      let t := s.drstWrite (d + 12)
      (t, if s.drstState = 0 ∧ t.drstState = 1 then .later else .err 4 [])) s

/-- SET_RANK_CEILING (R345): QCTL.RCEIL of a queue. -/
def execSetRankCeiling (s : State) : Out :=
  service [8] (fun f i s =>
    let p := s.arg f i 0
    let q := s.arg f i 1
    let r := s.arg f i 2
    if !s.isPart p || 256 ≤ q || 8 ≤ r then (s, .err 3 [])
    else (s.setHwq p q { s.hwq p q with ctl := BitVec.ofNat 32 (setFld (s.hwq p q).ctl.toNat 2 0 r) }, .done [])) s

/-- POWER_CLASS_REQUEST (R345): DMODE.PCLASS; a write that DMODE refuses ends with ERR 4. -/
def execPowerClassRequest (s : State) : Out :=
  service [9] (fun f i s =>
    let c := s.arg f i 0
    if 2 < c then (s, .err 3 [])
    else
      let t := s.dmodeWrite (s.dmodeField 9 8 c)
      (t, if fld t.dmode.toNat 9 8 = c then .done [] else .err 4 [])) s

/-! ### The boot flash -/

/-- The numbers of a parsed boot configuration as the stored configuration. -/
def bootOf (ns : List Nat) (owner : BitVec 256) : BootCfg :=
  { devid := ns.getD 0 0, pclass := ns.getD 1 0, part := ns.getD 2 0, fabric := ns.getD 3 0, determ := ns.getD 4 0
    vfmap := ns.getD 5 0, fabctl := ns.getD 6 0, owner := owner, dmaps := (ns.drop 7).take 8
    rtab := (chunks 2 (ns.length) (ns.drop 15)).map (fun x => (x.getD 0 0, x.getD 1 0)) }

/-- A block written to the boot flash. -/
def State.flashWrite (s : State) (bs : List Byte) : State :=
  let ns := Config.bootParse bs
  { s with flashBlock := bs, flash := bootOf ns (BitVec.ofNat 256 (Config.bootOwner bs)) }

/-- BOOT_CONFIGURATION (R345): a 4 KiB block for the next start. In recovery (R353) no partition is admitted that could
translate the address, and the block that the ROM reads is inp.data. -/
def execBootConfiguration (s : State) : Out :=
  service [0x0A] (fun f i s =>
    if fld s.bstat.toNat 2 0 = 2 then (s.flashWrite (s.inp.data.take 4096), .done [])
    else
      match s.svcRead f (s.arg f i 0) 4096 with
      | (s, .hold) => (s, .later)
      | (s, .bad) => (s, .err 3 [])
      | (s, .ok bs) => (s.flashWrite bs, .done [])) s

/-! ## SPDM (R350) -/

/-- The requests that the responder supports (R350). -/
inductive Spdm where
  | getVersion | getCapabilities | negotiateAlgorithms | getDigests | getCertificate | challenge | getMeasurements
  deriving DecidableEq, Repr

/-- The request of a message, by the code in its second byte. PRESUMED: the codes of SPDM 1.3 (log entry 78). -/
def spdmOf (msg : List Byte) : Option Spdm :=
  match u8At msg 1 with
  | 0x84 => some .getVersion
  | 0xE1 => some .getCapabilities
  | 0xE3 => some .negotiateAlgorithms
  | 0x81 => some .getDigests
  | 0x82 => some .getCertificate
  | 0x83 => some .challenge
  | 0xE0 => some .getMeasurements
  | _ => none

/-- The alias key of a start, from the fused secret and measurements 1 to 3 (R350). -/
def State.aliasKey (s : State) : List Byte := Config.aliasKey s.fuses.secret (s.measures.take 3).flatten

/-- Measurement block i, from 1: the 64-byte value of R349 as a raw bit stream, in the DMTF form (R350; log entry 78). -/
def measurementBlock (i : Nat) (v : List Byte) : List Byte :=
  leBytes 1 i ++ leBytes 1 1 ++ leBytes 2 67 ++ leBytes 1 (128 + Config.freeNat i 90 % 128) ++ leBytes 2 64 ++ v

/-- The measurement blocks of a start. -/
def State.measurementBlocks (s : State) : List (List Byte) :=
  (s.measures.zip (span 1 s.measures.length)).map (fun x => measurementBlock x.2 x.1)

/-- The capability flags of the responder: certificates, challenges and signed measurements, and neither key exchange nor
pre-shared keys, so no secure session (R350; log entry 78). -/
def spdmCaps : Nat := 2 + 4 + 16

/-- The answer to a request: what surrounds the fields that R350 names is free (log entry 78). -/
def State.spdmAnswer (s : State) (q : Spdm) (msg : List Byte) : List Byte :=
  let around := fun (body : List Byte) => Config.spdmHead msg ++ body ++ Config.spdmTail msg
  match q with
  | .getVersion => around (leBytes 2 0x1300)
  | .getCapabilities => around (leBytes 4 spdmCaps)
  | .negotiateAlgorithms => around (leBytes 4 0x80 ++ leBytes 4 2)
  | .getDigests => around (Config.sha384 (Config.certificate s.aliasKey))
  | .getCertificate => around (Config.certificate s.aliasKey)
  | .challenge => around (Config.ecdsa384 s.aliasKey (msg ++ s.measures.flatten))
  | .getMeasurements =>
    around (s.measurementBlocks.flatten ++ Config.ecdsa384 s.aliasKey (msg ++ s.measurementBlocks.flatten))

/-- SPDM_REQUEST (R350): the PF's answer to message inp.data received over DOE; a request that is not supported gets the free
error response. -/
def execSpdmRequest (s : State) : Out :=
  let msg := s.inp.data
  .next { s with doe := match spdmOf msg with
    | some q => s.spdmAnswer q msg
    | none => Config.spdmHead msg }

end Sys2Proof.Machine
end

