-- ==== Sys2Proof/Machine/Lmma.lean ====
section
/-! DEFINITION. lmma (R222 to R224): the tile fetch by layout records, and the 32 × 2 product in h0 and h1. -/

namespace Sys2Proof.Machine

/-- The number by which an lmma's remote reads are known. -/
def lmmaSg (c : Ctx) : Nat := 40000 + c.sg

/-- One line's bytes of a fetch at its home, or why it fails and where: a line of another device is read whole, once for all that
need it (R224). -/
def State.fetchLine (s : State) (c : Ctx) (va n : Nat) : State × Except (LErr × Nat) (List Byte) :=
  match s.translate c.part va false with
  | .error e => (s, .error (.mem e, va))
  | .ok (.remote dev pa) =>
    (match s.remoteRead c.iss (lmmaSg c) dev (pa / 128 * 128) 128 false with
     | (s, .ok bs) => (s, .ok ((bs.drop (pa % 128)).take n))
     | (s, .error e) => (s, .error (.mem e, va)))
  | .ok l =>
    match s.readLoc c.iss (lmmaSg c) l n with
    | (s, .ok bs) => (s, .ok bs)
    | (s, .error e) => (s, .error (.mem e, s.failByte l n va e))

/-- A fetch by lines: the bytes, and every line that fails or is outstanding. -/
def State.fetchLines (s : State) (c : Ctx) : List (Nat × Nat) → State × List Byte × List (LErr × Nat)
  | [] => (s, [], [])
  | (va, n) :: t =>
    let r := s.fetchLine c va n
    let r2 := r.1.fetchLines c t
    match r.2 with
    | .ok bs => (r2.1, bs ++ r2.2.1, r2.2.2)
    | .error e => (r2.1, r2.2.1, e :: r2.2.2)

/-- A read of the fetch unit, its failures as a lane's. -/
def State.tileFetch (s : State) (c : Ctx) (va n : Nat) : State × Except (List (LErr × Nat)) (List Byte) :=
  match s.fetchLines c (piecesOf va n) with
  | (s, bs, []) => (s, .ok bs)
  | (s, _, es) => (s, .error es)

/-- The record of an LREF slot and its extents, or the access error of R223 with its address. -/
def State.lmmaRecord (s : State) (c : Ctx) (slot : Nat) (i2 : Int) : State × Except (List (LErr × Nat)) (Layout × List Nat) :=
  let va := c.desc.lref.getD slot 0
  if va = 0 then (s, .error [(.mem .access, 0)])
  else
    match s.tileFetch c va 128 with
    | (s, .error x) => (s, .error x)
    | (s, .ok bs) =>
      let l := layoutOf bs
      if !layoutOk bs l || l.rank < 2 || (l.rank == 2 && i2 != 0) then (s, .error [(.mem .access, va)])
      else if l.esrc = 0 then (s, .ok (l, l.extents none))
      else
        match s.tileFetch c l.kvaddr 64 with
        | (s, .error x) => (s, .error x)
        | (s, .ok kb) => (s, if kvOk kb then .ok (l, l.extents (some (kvOf kb).commit)) else .error [(.mem .access, l.kvaddr)])

/-- The bytes of a row that lie inside the extents: address, first bit, size, elements and the first one's place. -/
def lmmaSpan (l : Layout) (ext : List Nat) (code nk : Nat) (kb p1 p2 : Int) : Option (Nat × Nat × Nat × Nat × Nat) :=
  let inside : Bool := 0 ≤ p1 && p1 < (ext.getD 1 0 : Int) && (l.rank == 2 || (0 ≤ p2 && p2 < (ext.getD 2 0 : Int)))
  let lo := kb.toNat
  let hi := (min (kb + nk) (ext.getD 0 0)).toNat
  if !inside || hi ≤ lo then none
  else
    let (va, bit) := l.addr code true (([(lo : Int), p1, p2, 0, 0, 0, 0] : List Int).take l.rank)
    let n := hi - lo
    some (va, bit, if code = 5 then (bit + 6 * n + 7) / 8 else n * elemBytes code, n, ((lo : Int) - kb).toNat)

/-- The bits of nk elements of a row from dimension-0 position kb; one outside the extents is none (R68, R222). -/
def State.lmmaRow (s : State) (c : Ctx) (l : Layout) (ext : List Nat) (code nk : Nat) (kb p1 p2 : Int) :
    State × Except (List (LErr × Nat)) (List (Option Nat)) :=
  match lmmaSpan l ext code nk kb p1 p2 with
  | none => (s, .ok (List.replicate nk none))
  | some (va, bit, size, n, before) =>
    match s.tileFetch c va size with
    | (s, .error x) => (s, .error x)
    | (s, .ok bs) =>
      let el := fun (k : Nat) =>
        if code = 5 then leNat (((bs.drop ((bit + 6 * k) / 8)).take 2)) / 2 ^ ((bit + 6 * k) % 8) % 64
        else leNat ((bs.drop (k * elemBytes code)).take (elemBytes code))
      (s, .ok ((span 0 nk).map (fun k => if before ≤ k ∧ k < before + n then some (el (k - before)) else none)))

/-- Why lines of a row do not translate, with their addresses (R224). -/
def State.spanErrs (s : State) (c : Ctx) (sp : Option (Nat × Nat × Nat × Nat × Nat)) : List (LErr × Nat) :=
  match sp with
  | none => []
  | some x => (piecesOf x.1 x.2.2.1).filterMap (fun y => match s.translate c.part y.1 false with
      | .error e => some (.mem e, y.1)
      | .ok _ => none)

/-- Rows for a list of coordinates. -/
def State.lmmaRows (s : State) (c : Ctx) (l : Layout) (ext : List Nat) (code nk : Nat) (kb p2 : Int) :
    List Int → State × List (Except (List (LErr × Nat)) (List (Option Nat)))
  | [] => (s, [])
  | p :: t =>
    let r := s.lmmaRow c l ext code nk kb p p2
    let r2 := r.1.lmmaRows c l ext code nk kb p2 t
    (r2.1, r.2 :: r2.2)

def errsOf {α : Type} (r : Except (List (LErr × Nat)) α) : List (LErr × Nat) := match r with | .error x => x | .ok _ => []
def valOf {α : Type} (d : α) (r : Except (List (LErr × Nat)) α) : α := match r with | .ok x => x | .error _ => d

/-- Failures as lane failures: those of every active lane. -/
def forAll (ls : List Nat) (xs : List (LErr × Nat)) : List (Nat × W64 × LErr) :=
  ls.flatMap (fun l => xs.map (fun x => (l, BitVec.ofNat 64 x.2, x.1)))

def waits (xs : List (LErr × Nat)) : Bool := xs.any (fun x => x.1 == .mem .wait)

/-- Elements with their values, cut into scaled blocks (R223). -/
def lmmaBlocks (code fmt : Nat) (row : List (Option Nat)) (scales : Nat) : List (List (Option Elem) × Nat) :=
  rowBlocks (row.map (fun x => x.bind (elemOf code (fmtFlush fmt)))) ((span 0 8).map (fun j => scales / 256 ^ j % 256))

/-- Two scale registers as one 64-bit number (R223). -/
def scalePair (g : Gang) (l n : Nat) : Nat := (g.getW l (n + 1)).toNat * 2 ^ 32 + (g.getW l n).toNat

/-- Column cc of lane i after the product. -/
def lmmaElem (g : Gang) (f : LaneF) (fmt : Nat) (arow brow : List (Option Nat)) (i cc : Nat) : W32 × FFlags :=
  let start := if bitAt f.f8.toNat 0 then 0 else g.getH cc i
  let sa := if fmtScale fmt = 0 then 0 else scalePair g i f.b.toNat
  let sb := if fmtScale fmt = 0 then 0 else scalePair g cc (f.b.toNat + 2)
  accumulateRow fmt start (lmmaBlocks (fmtA fmt) fmt arow sa) (lmmaBlocks (fmtB fmt) fmt brow sb)

/-- lmma (R222, R223, R224): the head of the lane queue and of the gang's matrix queue. -/
def execLmma (f : LaneF) (s : State) : Out :=
  laneOp true (fun c e s =>
    let ls := activeLanes c f e
    let fmt := e.fmt.toNat
    let nk := (matClass fmt).getD 0
    let kb := sx 32 (e.xop.toNat % 2 ^ 32)
    let nc := sx 32 (e.xop.toNat / 2 ^ 32)
    let i2 := f.imm.toInt
    if ls = [] then s.laneDone c e id {}
    else
      let (s1, ra) := s.lmmaRecord c (fld f.f0.toNat 2 0) i2
      let (s2, rb) := s1.lmmaRecord c (fld f.f0.toNat 5 3) i2
      let e0 := (if kb % 48 = 0 then [] else [(LErr.misaligned, e.xop.toNat % 2 ^ 32)]) ++ errsOf ra ++ errsOf rb
      let faults0 := e0.filter (fun x => x.1 != .mem .wait)
      if faults0 ≠ [] then s2.laneFault c e (forAll ls faults0)
      else if waits e0 then .next s2
      else
        let (la, xa) := valOf ({}, []) ra
        let (lb, xb) := valOf ({}, []) rb
        let spansB := [nc, nc + 1].map (fun p => lmmaSpan lb xb (fmtB fmt) nk kb p i2)
        let spansA := ls.map (fun i => lmmaSpan la xa (fmtA fmt) nk kb (c.gang.getW i f.a.toNat).toInt i2)
        let untranslated := forAll ls (spansB.flatMap (s2.spanErrs c)) ++
          (ls.zip spansA).flatMap (fun x => (s2.spanErrs c x.2).map (fun y => (x.1, BitVec.ofNat 64 y.2, y.1)))
        let failed := untranslated.filter (fun x => x.2.2 != .mem .wait)
        if failed ≠ [] then s2.laneFault c e (sortBy Prod.fst failed)
        else if untranslated ≠ [] then .next s2
        else
        let (s3, bs) := s2.lmmaRows c lb xb (fmtB fmt) nk kb i2 [nc, nc + 1]
        let (s4, as) := s3.lmmaRows c la xa (fmtA fmt) nk kb i2 (ls.map (fun i => (c.gang.getW i f.a.toNat).toInt))
        let be := bs.flatMap errsOf
        let ae := (ls.zip as).flatMap (fun x => (errsOf x.2).map (fun y => (x.1, BitVec.ofNat 64 y.2, y.1)))
        let bad := forAll ls (be.filter (fun x => x.1 != .mem .wait)) ++ ae.filter (fun x => x.2.2 != .mem .wait)
        if bad ≠ [] then s4.laneFault c e (sortBy Prod.fst bad)
        else if waits be || ae != [] then .next s4
        else
          let res := (ls.zip as).map (fun x =>
            (x.1, (span 0 2).map (fun cc => lmmaElem c.gang f fmt (valOf [] x.2) (valOf [] (bs.getD cc (.ok []))) x.1 cc)))
          let fl := res.foldl (fun a x => x.2.foldl (fun a y => a.or y.2) a) {}
          let s4 := s4.l2Reads c.part (fld f.f8.toNat 4 1) ((spansB ++ spansA).filterMap (fun r => r.map (fun x => (x.1, x.2.2.1))))
          (s4.clearRemote c.iss (lmmaSg c)).laneDone c e (fun g =>
            res.foldl (fun g x => ((span 0 2).zip x.2).foldl (fun g y => g.setH y.1 x.1 y.2.1) g) g) fl) s

end Sys2Proof.Machine
end

