-- ==== Sys2Proof/Machine/Start.lean ====
section
/-! DEFINITION. Cold and warm starts, recovery, power loss (R22, R349, R351 to R354) and the reset of one function (R352). -/

namespace Sys2Proof.Machine

/-- A stored boot configuration whose fields are in range (R22, R343, R345); another is malformed (REASON 7). -/
def BootCfg.ok (b : BootCfg) : Bool :=
  b.devid < 4608 && b.pclass < 3 && b.part < 4 && b.fabric < 2 && b.determ < 2 &&
    b.rtab.all (fun r => r.1 < 4608 && r.2 < 2 ^ 18)

/-- The partition blocks that boot firmware leaves: at reset, DMAP from the configuration where it names the
partition's dies (R272, R304). -/
def bootParts (mode : Nat) (dmaps : List Nat) : SMap Part :=
  (span 0 mode).foldl (fun m p =>
    let v := dmaps.getD p 0
    let d := if dmapNames mode p v then v % 512 else freshDmap mode p
    SMap.set {} m p { dmap := BitVec.ofNat 32 d }) []

/-- REASON of an image that is refused (R349): its key is not one of the fused digests or is revoked, or its signature does not
verify (1), or its security version is below the fused least one (2). -/
def Fuses.refuses (f : Fuses) (i : Image) : Option Nat :=
  if !i.signed || !(f.digests.zip (span 0 4)).any (fun d => d.1 == i.digest && !bitAt f.revoked d.2) then some 1
  else if i.version < f.minVersion then some 2
  else none

/-- REASON with which steps 1 and 2 fail every attempt: an image refused, or a malformed configuration (R349, R353). -/
def State.flashFault (s : State) : Option Nat :=
  match [s.images.manifest, s.images.firmware, s.images.hub].findSome? s.fuses.refuses with
  | some r => some r
  | none => if s.flash.ok then none else some 7

/-- REASONs with which a cold attempt may fail past step 2: HBM training, UCIe training, self-test, scrub (R352, R353). -/
def coldFault (r : Nat) : Bool := 3 ≤ r && r ≤ 6

/-- REASONs of a warm attempt, which runs no self-test, and the scrub only for another OWNER (R352). -/
def warmFault (scrubs : Bool) (r : Nat) : Bool := r == 3 || r == 4 || (r == 6 && scrubs)

/-- The REASON with which a run of attempts ends in recovery, if it does (R353): the fourth failure's. -/
def recoveryReason (fault : Option Nat) (fails : List Nat) : Option Nat :=
  match fault with
  | some r => some r
  | none => fails[3]?

/-- Nothing but what outlives every start: the boot flash and the fuses, and the model's own agenda and counters (R354). -/
def State.bare (s : State) : State :=
  { agenda := s.agenda, inp := s.inp, draws := s.draws, seq := s.seq
    flash := s.flash, flashBlock := s.flashBlock, images := s.images, fuses := s.fuses }

/-- The five measurements of a start: the ROM, the manifest, the firmware, the hub configuration image and the boot
configuration block (R349). -/
def State.measure (s : State) : List (List Byte) :=
  [s.fuses.rom, s.images.manifest.bytes, s.images.firmware.bytes, s.images.hub.bytes, s.flashBlock].map (Config.shake256 64)

/-- The hold in recovery: STATE 2, ATTEMPT 4 and the REASON, with the measurements of step 1 (R349, R353). The bytes of HBM and
their keys are those the device had, unless power was lost or an attempt drew new keys and began the scrub: they are then
unpredictable (R351, R354; log entry 91). -/
def State.recovery (s : State) (reason : Nat) (scrubbing : Bool) : State :=
  let t := { s.bare with
    bstat := BitVec.ofNat 64 (reason % 256 * 256 + 4 * 32 + 2), owner := s.owner, measures := s.measure
    dmode := BitVec.ofNat 32 (setFld s.dmode.toNat 1 1 0), keyGen := s.keyGen + b2n scrubbing }
  if scrubbing ∨ fld s.bstat.toNat 2 0 = 0 then { t with memEpoch := s.draws + 1 }
  else { t with memEpoch := s.memEpoch, mem := s.mem, bad := s.bad, snaps := s.snaps }

/-- The firmware image of the flash (R349). -/
def State.firmware (s : State) : List Byte := s.images.firmware.bytes

/-- A management core at firmware offset 0 (R352). -/
def bootMgmt (fw : List Byte) : Mgmt := { fw := SMap.setN 0 [] 0 fw, fwLen := fw.length }

/-- DMODE as a start leaves it: the fields of the configuration, DETERM given, DETERM_ACT its copy (R22, R25). -/
def startDmode (b : BootCfg) (determ : Nat) : W32 :=
  BitVec.ofNat 32 (b.pclass * 2 ^ 10 + b.pclass * 2 ^ 8 + b.part * 2 ^ 4 + b.fabric * 2 ^ 2 + determ * 2 + determ)

/-- A start that succeeds (R352), over a state that keeps only what it may: the registers of the configuration, the
partitions admitted, and the management cores at their first instruction. Bits of inp.v name ports that failed training. -/
def State.startUp (s : State) (determ : Nat) (warm scrubbed : Bool) : State :=
  let b := s.flash
  let down := (span 0 18).filter (bitAt s.inp.v.toNat)
  let okPorts := BitVec.ofNat 32 (2 ^ 18 - 1 - down.foldl (fun a n => a + 2 ^ n) 0)
  let core := bootMgmt s.firmware
  let s := { s with
    cur := .mgmt 0
    dmode := startDmode b determ, fabOrdered := b.fabric == 1
    devid := BitVec.ofNat 13 b.devid
    vfmap := BitVec.ofNat 64 (b.vfmap % 2 ^ 36)
    fabctl := BitVec.ofNat 32 (b.fabctl % 32)
    rtab := b.rtab.foldl (fun m r => SMap.set 0 m r.1 (BitVec.ofNat 32 r.2 &&& okPorts)) []
    owner := b.owner, measures := s.measure
    parts := bootParts (2 ^ b.part) b.dmaps
    mgmts := SMap.set {} (SMap.set {} [] 0 core) 1 core
    portsDown := down
    bstat := BitVec.ofNat 64 (1 + b2n scrubbed * 8 + b2n warm * 16) }
  if down = [] then s else s.raiseHf 4

/-- A cold start after some failed attempts: the keys are new, and every granule is zero (R351 to R353). -/
def State.coldUp (s : State) (fails : List Nat) : State :=
  match recoveryReason s.flashFault (fails.filter coldFault) with
  | some r => s.recovery r (s.flashFault.isNone && ((fails.filter coldFault).take 4).contains 6)
  | none => { s.bare with keyGen := s.keyGen + 1 }.startUp s.flash.determ false true

/-- What a warm start keeps (R352): DETERM, OWNER's value, and with the same OWNER the bytes of HBM and its marks. A change
of PART draws new keys (R24, R351). -/
def State.warmKeep (s : State) : State :=
  let t := s.bare
  if s.owner ≠ s.flash.owner then { t with keyGen := s.keyGen + 1 }
  else if fld s.dmode.toNat 5 4 ≠ s.flash.part then { t with keyGen := s.keyGen + 1, memEpoch := s.draws + 1, bad := s.bad }
  else { t with keyGen := s.keyGen, memEpoch := s.memEpoch, mem := s.mem, bad := s.bad, snaps := s.snaps }

/-- A warm start; a failure goes on cold (R352, R353). -/
def State.warmUp (s : State) (fails : List Nat) : State :=
  let scrubs : Bool := s.owner != s.flash.owner
  if s.flashFault.isSome ∨ (fails.head?.any (warmFault scrubs)) = true then s.coldUp fails
  else s.warmKeep.startUp (fld s.dmode.toNat 0 0) true scrubs

/-- COLD_START (R352): due while BSTAT.STATE is 0. inp.nums are the REASONs of attempts that failed past step 2, in order;
steps 1 and 2 fail as the flash and the fuses have it. -/
def execColdStart (s : State) : Out :=
  .next (if fld s.bstat.toNat 2 0 = 0 then s.coldUp s.inp.nums else s)

/-- WARM_START (R352): a PCIe hot or warm reset of the PF, once a start has ended. -/
def execWarmStart (s : State) : Out :=
  .next (if fld s.bstat.toNat 2 0 = 0 then s else s.warmUp s.inp.nums)

/-- POWER_LOSS (R354): only the boot flash and the fuses persist, and the next start is cold. -/
def execPowerLoss (s : State) : Out := .next s.bare

/-- VF_FUNCTION_LEVEL_RESET (R352): the mailbox and ABASE of VF inp.a, and nothing else. -/
def execVfFunctionLevelReset (s : State) : Out :=
  let f := s.inp.a
  .next (if 1 ≤ f ∧ f ≤ 8 then s.setFn f { s.fn f with mbox := [], abase := 0 } else s)

/-- The oldest request of a hub is a good request 0x0B of the PF. -/
def State.warmAsked (s : State) (h : Nat) : Bool :=
  match (s.mgmt h).svc with
  | [] => false
  | x :: _ => x / 256 == 0 && leNat (s.mboxRead 0 (128 * (x % 256)) 2) == 0x10B

/-- WARM_START_REQUEST (R345, R352): the request is served, and the device starts warm. -/
def execWarmStartRequest (s : State) : Out :=
  let asked := s.warmAsked s.inp.a
  match service [0x0B] (fun _ _ s => (s, .done [])) s with
  | .next t => .next (if asked then t.warmUp s.inp.nums else t)
  | r => r

end Sys2Proof.Machine
end

