-- ==== Sys2Proof/Machine/Replay.lean ====
section
/-! DEFINITION. Epoch boundaries under determinism: the application, recording and replay of external inputs (R314 to R317). -/

namespace Sys2Proof.Machine

/-! ## Applying an input (R314) -/

/-- The register at an offset takes a value. -/
def State.inputReg (s : State) (o v : Nat) : State :=
  match regAt o with
  | some (r, w) => s.regSet r w v
  | none => s

/-- An action of a management core on a partition: a register write, a state word, a resume, a tlbinv or a page-table
write. -/
def State.applyAction (s : State) (p : Nat) (x : ExtInput) : State :=
  match x.op with
  | 0 => s.inputReg x.addr x.val.toNat
  | 1 => match s.parkedOf x.arg with | some c => s.putWord c x.addr x.val | none => s
  | 2 => match s.parkedOf x.arg with | some c => s.resume c | none => s
  | 4 =>
    s.writeBytes x.addr (leBytes (x.arg % 16) x.val.toNat)
  | _ => s.tlbInv p x.addr x.val.toNat

/-- An input takes effect. -/
def State.applyInput (s : State) (p : Nat) (x : ExtInput) : State :=
  match x.kind with
  | 1 => s.inputReg x.addr x.val.toNat
  | 2 => s.hostPut p x.addr x.data
  | 3 => s.packetIn x
  | 4 => s.applyAction p x
  | 5 => s.spoil x.op x.arg x.addr
  | _ => s

/-! ## Entries of the record (R315) -/

/-- ADDR of an input: an action packs its kind and operand above (log entry 24). -/
def ExtInput.word (x : ExtInput) : Nat :=
  match x.kind with
  | 4 => x.op % 8 * 2 ^ 60 + (if x.op = 1 ∨ x.op = 2 then x.arg % 2 ^ 32 * 2 ^ 16 + x.addr % 2 ^ 16
    else if x.op = 4 then x.arg % 2 ^ 8 * 2 ^ 48 + x.addr % 2 ^ 48 else x.addr % 2 ^ 57)
  | 5 => x.op % 4 * 2 ^ 62 + (if x.op = 0 then 0 else x.arg % 2 ^ 8 * 2 ^ 54) + x.addr * 32 % 2 ^ 54
  | 3 => 0
  | _ => x.addr

/-- The 64-byte entry of an input at an epoch. -/
def recordEntry (epoch ord : Nat) (x : ExtInput) : List Byte :=
  leBytes 8 epoch ++ leBytes 1 x.kind ++ zeros 3 ++ leBytes 4 ord ++ leBytes 8 x.word ++
    (if x.kind = 2 then (Config.shake256 32 x.data ++ zeros 32).take 32 else zeros 32) ++
    leBytes 8 (if x.kind = 1 ∨ x.kind = 2 ∨ x.kind = 4 then x.val.toNat else 0)

/-- The flit that follows the entry of a packet. -/
def ExtInput.flit (x : ExtInput) : List Byte :=
  if x.kind = 3 then (Config.flit [x.op, x.arg, x.addr, x.val.toNat] x.data ++ zeros 256).take 256 else []

/-- The input of an entry, without the data of a memory write. -/
def entryInput (e flit : List Byte) : ExtInput :=
  let kind := u8At e 8
  let w := u64At e 0x10
  let val := BitVec.ofNat 64 (u64At e 0x38)
  match kind with
  | 3 =>
    let f := Config.unflit flit
    { kind := 3, op := f.1.getD 0 0, arg := f.1.getD 1 0, addr := f.1.getD 2 0, val := BitVec.ofNat 64 (f.1.getD 3 0), data := f.2 }
  | 4 =>
    let op := w / 2 ^ 60 % 8
    if op = 1 ∨ op = 2 then { kind := 4, op := op, arg := w / 2 ^ 16 % 2 ^ 32, addr := w % 2 ^ 16, val := val }
    else if op = 4 then { kind := 4, op := op, arg := w / 2 ^ 48 % 2 ^ 8, addr := w % 2 ^ 48, val := val }
    else { kind := 4, op := op, addr := w % 2 ^ 57, val := val }
  | 5 => { kind := 5, op := w / 2 ^ 62 % 4, arg := w / 2 ^ 54 % 2 ^ 8, addr := w % 2 ^ 54 / 32 }
  | k => { kind := k, addr := w, val := val }

/-! ## Recording (R316) -/

/-- Bytes at offset o of the record ring: each 64-byte piece is contiguous. -/
def State.ringWrite (s : State) (p o : Nat) (bs : List Byte) : State :=
  let b := s.part p
  let size := 2 ^ fld b.rctl.toNat 7 3
  let base := fld b.rbase.toNat 47 12 * 4096
  ((chunks 64 bs.length bs).zip (span 0 bs.length)).foldl
    (fun (s : State) c => s.physWrite p (base + (o + 64 * c.2) % size) c.1) s

def State.advanceWp (s : State) (p n : Nat) : State :=
  s.setPart p { s.part p with rwp := (s.part p).rwp + BitVec.ofNat 64 n }

/-- An input is appended to the record, or the end of the record when it does not fit. -/
def State.recordInput (s : State) (p ord : Nat) (x : ExtInput) : State :=
  let b := s.part p
  if !bitAt b.rctl.toNat 0 then s
  else
    let bytes := recordEntry b.pstep.toNat ord x ++ x.flit
    let put := fun (bs : List Byte) => (s.ringWrite p b.rwp.toNat bs).advanceWp p bs.length
    if (b.rwp - b.rrp).toNat + bytes.length + 64 ≤ 2 ^ fld b.rctl.toNat 7 3 then put bytes
    else
      let s := put (recordEntry b.pstep.toNat ord { kind := 6 })
      (s.heat (.ovf p) 4).setPart p { s.part p with rctl := BitVec.ofNat 32 (setFld (setFld (s.part p).rctl.toNat 0 0 0) 2 2 1) }

/-- The inputs that have arrived apply in order, each recorded while REC is set. -/
def State.applyAll (s : State) (p : Nat) : Nat → List ExtInput → State
  | _, [] => s
  | ord, x :: t => ((s.recordInput p ord x).applyInput p x).applyAll p (ord + 1) t

/-! ## Replay (R316, R317) -/

/-- Bytes of the record ring at offset o. -/
def State.ringRead (s : State) (p o n : Nat) : List Byte :=
  let b := s.part p
  let size := 2 ^ fld b.rctl.toNat 7 3
  let base := fld b.rbase.toNat 47 12 * 4096
  (span 0 (n / 64)).flatMap (fun k =>
    match s.physRead p (base + (o + 64 * k) % size) 64 with
    | .ok bs => bs
    | _ => zeros 64)

/-- The replay ends: the partition is saved, with a reason. -/
def State.endReplay (s : State) (p reason : Nat) : State :=
  (s.beginSave p (fld (s.part p).pcmd.toNat 15 8)).setPcReason p reason

/-- The data supplied for a recorded memory write: the first live write of its address and length. -/
def supplied (live : List ExtInput) (x : ExtInput) : Option (List Byte) :=
  (live.find? (fun y => y.kind == 2 && y.addr == x.addr && y.val == x.val)).map (fun y => y.data)

def dropFirst (live : List ExtInput) (x : ExtInput) : List ExtInput :=
  match live with
  | [] => []
  | y :: t => if y.kind == 2 && y.addr == x.addr && y.val == x.val then t else y :: dropFirst t x

/-- The entries of the record that are due apply one after another. -/
def State.replayAll (s : State) (p : Nat) (live : List ExtInput) : Nat → State
  | 0 => s
  | n + 1 =>
    let b := s.part p
    let e := s.ringRead p b.rrp.toNat 64
    if b.rrp = b.rwp ∨ b.pstep.toNat < u64At e 0 ∨ s.pcState p ≠ 4 then s
    else if u8At e 8 = 6 then s.endReplay p 7
    else
      let fl := if u8At e 8 = 3 then s.ringRead p (b.rrp.toNat + 64) 256 else []
      let x := entryInput e fl
      let s := s.setPart p { b with rrp := b.rrp + BitVec.ofNat 64 (64 + fl.length) }
      if x.kind = 2 then
        match supplied live x with
        | some d =>
          if (Config.shake256 32 d ++ zeros 32).take 32 = (e.drop 0x18).take 32 then
            (s.applyInput p { x with data := d }).replayAll p (dropFirst live x) n
          else s.endReplay p 6
        | none => s.endReplay p 6
      else (s.applyInput p x).replayAll p live n

/-! ## The boundary (R314) -/

/-- PSTEP of a partition stands at an epoch boundary. -/
def Part.atEpoch (b : Part) : Bool := b.pstep.toNat % 4096 == 0

/-- The inputs of one partition. -/
def State.epochOf (s : State) (p : Nat) : State :=
  let b := s.part p
  let live := b.inputs
  if !b.atEpoch then s
  else
    let s := s.setPart p { b with inputs := [] }
    if bitAt b.rctl.toNat 1 then s.replayAll p live ((b.rwp - b.rrp).toNat / 64 + 1)
    else s.applyAll p 0 live

/-- EPOCH_BOUNDARY (R314): in determinism mode, the inputs of every partition whose PSTEP is a multiple of 4,096. -/
def execEpochBoundary (s : State) : Out :=
  .next (if s.determ then (span 0 s.mode).foldl (fun (s : State) p => s.epochOf p) s else s)

/-! ## The passage of time (R314) -/

/-- Cycles pass: TIME, and under determinism PSTEP of every partition of the mode. -/
def State.pass (s : State) (n : Nat) : State :=
  let s := { s with time := s.time + BitVec.ofNat 48 n, hot := if n = 0 then s.hot else [] }
  if s.determ then
    (span 0 s.mode).foldl (fun (s : State) p => s.setPart p { s.part p with pstep := (s.part p).pstep + BitVec.ofNat 64 n }) s
  else s

/-- Cycles up to the next epoch boundary of the device's partitions, which count together. -/
def State.toEpoch (s : State) : Nat := 4096 - (s.part 0).pstep.toNat % 4096

end Sys2Proof.Machine
end

