-- ==== Sys2Proof/Machine/ScalarMem.lean ====
section
/-! DEFINITION. Scalar loads, stores and atomics (R189, R191, R84 to R87, R342). -/

namespace Sys2Proof.Machine

/-! ## Operands -/

/-- Core-memory forms stand on edge cores alone (R189, R193). -/
def emPlace (f : EM) : Place := if f.c = 1 then .edge else .both

/-- A value of z bytes at a location of a management core: a register of the window, memory, or another device. -/
def State.mgmtRead (s : State) (c : Ctx) (a z : Nat) : State × Except MErr (List Byte) :=
  match s.mgmtLoc c.hub a with
  | .error e => (s, .error e)
  | .ok (.reg o) => (s, .ok (leBytes z (s.regRead o z)))
  | .ok (.hbm k) => if s.marked k z then (s, .error .uncorr) else (s, .ok (s.readBytes k z))
  | .ok (.remote d pa) => s.remoteRead c.iss c.sg d pa z false

/-- Bytes stored at an address of a management core. -/
def State.mgmtWrite (s : State) (c : Ctx) (a : Nat) (bs : List Byte) : Except MErr State :=
  match s.mgmtLoc c.hub a with
  | .error e => .error e
  | .ok (.reg o) => .ok (s.regWrite c.hub o bs.length (leNat bs))
  | .ok l => .ok (s.writeLoc c.iss l bs)

/-- The thread as it stands after an access, which on a management core may have told it of a failure. -/
def State.thNow (s : State) (c : Ctx) : Thread := if c.isMgmt then (s.mgmt c.hub).th else c.th

/-! ## Loads -/

/-- ld of z bytes (R189). -/
def scalarLoad (i : Instr) (f : EM) (z : Nat) (s : State) : Out :=
  scalarOp i .common (emPlace f) false (fun c s =>
    let a := emAddr c f z
    if a.toNat % z ≠ 0 then s.scalarTrap c i 0x06 a
    else if f.c = 1 then
      if c.crew.cmemOk a.toNat z then s.finish c (c.th.setX f.d.toNat (signBytes z (c.crew.cmemRead a.toNat z)))
      else s.scalarTrap c i 0x05 a
    else if c.th.laneFirst (f.s == 1) then s.wait
    else
      let r := if c.isMgmt then s.mgmtRead c a.toNat z
        else s.edgeLoad c c.sg a.toNat z (f.s == 1) f.o.toNat f.k.toNat 0
      match r with
      | (s, .error e) => s.memTrap c i e a
      | (s, .ok bs) => (s.clearRemote c.iss c.sg).finish c (c.th.setX f.d.toNat (signBytes z bs))) s

/-- ld.b (R189). -/
def execLdB (f : EM) (s : State) : Out := scalarLoad (.ldB f) f 1 s
/-- ld.h (R189). -/
def execLdH (f : EM) (s : State) : Out := scalarLoad (.ldH f) f 2 s
/-- ld.w (R189). -/
def execLdW (f : EM) (s : State) : Out := scalarLoad (.ldW f) f 4 s
/-- ld.d (R189). -/
def execLdD (f : EM) (s : State) : Out := scalarLoad (.ldD f) f 8 s

/-! ## Stores -/

/-- The device that an address names, when it is another one. -/
def State.addrDev (s : State) (c : Ctx) (a : Nat) : List Nat :=
  match if c.isMgmt then s.mgmtLoc c.hub a else s.translate c.part a true with
  | .ok (.remote d _) => [d]
  | _ => []

/-- The store performs, or fails. -/
def State.scalarPut (s : State) (c : Ctx) (f : EM) (a : Nat) (bs : List Byte) : Except MErr State :=
  if c.isMgmt then s.mgmtWrite c a bs else s.edgeStore c a bs (f.s == 1) f.k.toNat

/-- st of z bytes (R189); a release gathers its flush markers first (R103). -/
def scalarStore (i : Instr) (f : EM) (z : Nat) (s : State) : Out :=
  scalarOp i .commit (emPlace f) false (fun c s =>
    let a := emAddr c f z
    let bs := leBytes z (c.x f.d).toNat
    if a.toNat % z ≠ 0 then s.scalarTrap c i 0x06 a
    else if f.c = 1 then
      if c.crew.cmemOk a.toNat z then
        (s.updCrew c.ref.core c.gang.crew (fun cr => cr.cmemWrite a.toNat bs)).finish c c.th.clearSpin
      else s.scalarTrap c i 0x05 a
    else if c.th.laneFirst true then s.wait
    else
      match s.scalarPut c f a.toNat bs with
      | .error e => s.memTrap c i e a
      | .ok _ =>
        match if f.s = 1 ∧ f.o = 2 then s.releaseGate c f.k.toNat (s.addrDev c a.toNat) c.sg else (s, .done) with
        | (s, .wait) => .next s
        | (t, .error) => s.releaseTrap t c i a
        | (s, .done) =>
          match s.scalarPut c f a.toNat bs with
          | .error e => s.memTrap c i e a
          | .ok s => s.finish c (s.thNow c).clearSpin) s

/-- st.b (R189). -/
def execStB (f : EM) (s : State) : Out := scalarStore (.stB f) f 1 s
/-- st.h (R189). -/
def execStH (f : EM) (s : State) : Out := scalarStore (.stH f) f 2 s
/-- st.w (R189). -/
def execStW (f : EM) (s : State) : Out := scalarStore (.stW f) f 4 s
/-- st.d (R189). -/
def execStD (f : EM) (s : State) : Out := scalarStore (.stD f) f 8 s

/-! ## amo (R191) -/

/-- The new value of an atomic of z bytes; none where nothing is written. -/
def amoNew (op z old b e : Nat) : Option Nat :=
  let m := 2 ^ (8 * z)
  match op with
  | 0 => some ((old + b) % m)
  | 1 => some (if sx (8 * z) b < sx (8 * z) old then b else old)
  | 2 => some (if sx (8 * z) old < sx (8 * z) b then b else old)
  | 3 => some (Nat.land old b)
  | 4 => some (Nat.lor old b)
  | 5 => some (Nat.xor old b)
  | 6 => some b
  | 7 => if old = e then some b else none
  | 8 => some (if b < old then b else old)
  | _ => some (if old < b then b else old)

/-- The atomic at a location, with the old value. -/
def State.amoAt (s : State) (c : Ctx) (sc z : Nat) (nw : Nat → Option Nat) (payload : List Byte) (l : Loc) :
    State × Except MErr (List Byte) :=
  match l with
  | .remote d pa => (if c.isMgmt then s else s.flushLine c.ref.core l.line).remoteAtomic c.iss c.sg d pa z payload
  | .reg o =>
    if c.isMgmt then
      let old := s.regRead o z
      (match nw old with | some v => s.regWrite c.hub o z v | none => s, .ok (leBytes z old))
    else (s, .error .access)
  | .hbm k =>
    if c.isMgmt then
      if s.marked k z then (s, .error .uncorr)
      else
        let old := s.readBytes k z
        (match nw (leNat old) with | some v => s.writeLoc c.iss (.hbm k) (leBytes z v) | none => s, .ok old)
    else s.atomLocal c c.sg sc k z nw

/-- Where an atomic performs (R85, R342). -/
def State.amoLoc (s : State) (c : Ctx) (sc a : Nat) : Except MErr Loc :=
  if c.isMgmt then s.mgmtLoc c.hub a
  else if 3 ≤ sc then s.translate c.part a true else s.translateL1 c.part a true

/-- The atomic changes memory: it writes another value than it read (R52). -/
def changes (f : AmoF) (z old b e : Nat) : Bool := (amoNew f.o.toNat z old b e).any (fun v => v != old)

/-- amo.op.z.o.s (R191). -/
def execAmo (f : AmoF) (s : State) : Out :=
  scalarOp (.amo f) .commit .both false (fun c s =>
    let i := Instr.amo f
    let z := if f.z = 1 then 8 else 4
    let sc := f.s.toNat
    let a := c.x f.a
    let b := (c.x f.b).toNat % 2 ^ (8 * z)
    let e := (c.x f.d).toNat % 2 ^ (8 * z)
    if a.toNat % z ≠ 0 then s.scalarTrap c i 0x06 a
    else if c.th.laneFirst true then s.wait
    else
      match s.amoLoc c sc a.toNat with
      | .error x => s.memTrap c i x a
      | .ok l =>
        let rel : Bool := f.r == 2 || f.r == 3
        let sent := s.remoteOps.any (fun r => r.who == c.iss && r.sg == c.sg && r.atomic)
        match if rel && !sent then s.releaseGate c sc l.dev.toList c.sg else (s, .done) with
        | (s, .wait) => .next s
        | (t, .error) => s.releaseTrap t c i a
        | (s, .done) =>
          match s.amoAt c sc z (fun old => amoNew f.o.toNat z old b e) (leBytes z b ++ leBytes z e) l with
          | (s, .error x) => s.memTrap c i x a
          | (s, .ok old) =>
            let s := if (f.r = 1 ∨ f.r = 3) ∧ c.isMgmt = false then s.acquire c.ref.core sc else s
            let th := if changes f z (leNat old) b e then (s.thNow c).clearSpin else s.thNow c
            (s.clearRemote c.iss c.sg).finish c (th.setX f.d.toNat (signBytes z old))) s

end Sys2Proof.Machine
end

