-- ==== Sys2Proof/Machine/Dispatch.lean ====
section
/-! DEFINITION. The meaning of every instruction: one arm per constructor. -/

namespace Sys2Proof.Machine

/-- The effect of one instruction or unit step on the state. -/
def exec (i : Instr) (s : State) : Host.Outcome State Fault Refusal :=
  match i with
  | .add f => Sys2Proof.Machine.execAdd f s
  | .sub f => Sys2Proof.Machine.execSub f s
  | .and f => Sys2Proof.Machine.execAnd f s
  | .or f => Sys2Proof.Machine.execOr f s
  | .xor f => Sys2Proof.Machine.execXor f s
  | .andn f => Sys2Proof.Machine.execAndn f s
  | .shl f => Sys2Proof.Machine.execShl f s
  | .shr f => Sys2Proof.Machine.execShr f s
  | .sra f => Sys2Proof.Machine.execSra f s
  | .mul f => Sys2Proof.Machine.execMul f s
  | .mulh f => Sys2Proof.Machine.execMulh f s
  | .slt f => Sys2Proof.Machine.execSlt f s
  | .sltu f => Sys2Proof.Machine.execSltu f s
  | .min f => Sys2Proof.Machine.execMin f s
  | .max f => Sys2Proof.Machine.execMax f s
  | .addi f => Sys2Proof.Machine.execAddi f s
  | .andi f => Sys2Proof.Machine.execAndi f s
  | .ori f => Sys2Proof.Machine.execOri f s
  | .xori f => Sys2Proof.Machine.execXori f s
  | .shli f => Sys2Proof.Machine.execShli f s
  | .shri f => Sys2Proof.Machine.execShri f s
  | .srai f => Sys2Proof.Machine.execSrai f s
  | .slti f => Sys2Proof.Machine.execSlti f s
  | .lui d im => Sys2Proof.Machine.execLui d im s
  | .ldB f => Sys2Proof.Machine.execLdB f s
  | .ldH f => Sys2Proof.Machine.execLdH f s
  | .ldW f => Sys2Proof.Machine.execLdW f s
  | .ldD f => Sys2Proof.Machine.execLdD f s
  | .stB f => Sys2Proof.Machine.execStB f s
  | .stH f => Sys2Proof.Machine.execStH f s
  | .stW f => Sys2Proof.Machine.execStW f s
  | .stD f => Sys2Proof.Machine.execStD f s
  | .beq f => Sys2Proof.Machine.execBeq f s
  | .bne f => Sys2Proof.Machine.execBne f s
  | .blt f => Sys2Proof.Machine.execBlt f s
  | .bge f => Sys2Proof.Machine.execBge f s
  | .bltu f => Sys2Proof.Machine.execBltu f s
  | .bgeu f => Sys2Proof.Machine.execBgeu f s
  | .jal d c im => Sys2Proof.Machine.execJal d c im s
  | .jr d a c => Sys2Proof.Machine.execJr d a c s
  | .jrW d c n => Sys2Proof.Machine.execJrW d c n s
  | .ret => Sys2Proof.Machine.execRet s
  | .laneIss n => Sys2Proof.Machine.execLaneIss n s
  | .laneJmp im => Sys2Proof.Machine.execLaneJmp im s
  | .laneJmpInd a => Sys2Proof.Machine.execLaneJmpInd a s
  | .mpush p => Sys2Proof.Machine.execMpush p s
  | .minv => Sys2Proof.Machine.execMinv s
  | .mpop => Sys2Proof.Machine.execMpop s
  | .bzM im => Sys2Proof.Machine.execBzM im s
  | .part p im => Sys2Proof.Machine.execPart p im s
  | .regang => Sys2Proof.Machine.execRegang s
  | .fmt a => Sys2Proof.Machine.execFmt a s
  | .fmtImm im => Sys2Proof.Machine.execFmtImm im s
  | .bar a n => Sys2Proof.Machine.execBar a n s
  | .csrRd d c => Sys2Proof.Machine.execCsrRd d c s
  | .csrWr a c => Sys2Proof.Machine.execCsrWr a c s
  | .trap c => Sys2Proof.Machine.execTrap c s
  | .eret => Sys2Proof.Machine.execEret s
  | .exit => Sys2Proof.Machine.execExit s
  | .fence sc k => Sys2Proof.Machine.execFence sc k s
  | .amo f => Sys2Proof.Machine.execAmo f s
  | .wfe => Sys2Proof.Machine.execWfe s
  | .tlbinv a z => Sys2Proof.Machine.execTlbinv a z s
  | .gstRd f => Sys2Proof.Machine.execGstRd f s
  | .gstWr f => Sys2Proof.Machine.execGstWr f s
  | .gstRes a => Sys2Proof.Machine.execGstRes a s
  | .cpLd f => Sys2Proof.Machine.execCpLd f s
  | .cpSt f => Sys2Proof.Machine.execCpSt f s
  | .cpG2g f => Sys2Proof.Machine.execCpG2g f s
  | .cpMc f => Sys2Proof.Machine.execCpMc f s
  | .ringArm f => Sys2Proof.Machine.execRingArm f s
  | .ringArmInit f => Sys2Proof.Machine.execRingArmInit f s
  | .ringAwait f => Sys2Proof.Machine.execRingAwait f s
  | .ringRel f => Sys2Proof.Machine.execRingRel f s
  | .jn f => Sys2Proof.Machine.execJn f s
  | .rlkBind f => Sys2Proof.Machine.execRlkBind f s
  | .rlkAcq f => Sys2Proof.Machine.execRlkAcq f s
  | .rlkRel f => Sys2Proof.Machine.execRlkRel f s
  | .cairnOpen f => Sys2Proof.Machine.execCairnOpen f s
  | .cairnApp f => Sys2Proof.Machine.execCairnApp f s
  | .cairnQry f => Sys2Proof.Machine.execCairnQry f s
  | .cairnSave f => Sys2Proof.Machine.execCairnSave f s
  | .cairnRst f => Sys2Proof.Machine.execCairnRst f s
  | .cairnClose f => Sys2Proof.Machine.execCairnClose f s
  | .kvCmt f => Sys2Proof.Machine.execKvCmt f s
  | .wpUpd f => Sys2Proof.Machine.execWpUpd f s
  | .wpPre f => Sys2Proof.Machine.execWpPre f s
  | .launch f => Sys2Proof.Machine.execLaunch f s
  | .teAdd f => Sys2Proof.Machine.execTeAdd f s
  | .teSub f => Sys2Proof.Machine.execTeSub f s
  | .teAnd f => Sys2Proof.Machine.execTeAnd f s
  | .teOr f => Sys2Proof.Machine.execTeOr f s
  | .teXor f => Sys2Proof.Machine.execTeXor f s
  | .teAndn f => Sys2Proof.Machine.execTeAndn f s
  | .teShl f => Sys2Proof.Machine.execTeShl f s
  | .teShr f => Sys2Proof.Machine.execTeShr f s
  | .teSra f => Sys2Proof.Machine.execTeSra f s
  | .teMul f => Sys2Proof.Machine.execTeMul f s
  | .teMulh f => Sys2Proof.Machine.execTeMulh f s
  | .teMin f => Sys2Proof.Machine.execTeMin f s
  | .teMax f => Sys2Proof.Machine.execTeMax f s
  | .teMov f => Sys2Proof.Machine.execTeMov f s
  | .teSel g d a b p => Sys2Proof.Machine.execTeSel g d a b p s
  | .teLi g d im => Sys2Proof.Machine.execTeLi g d im s
  | .teLih g d im => Sys2Proof.Machine.execTeLih g d im s
  | .teCmp g pt pf a b c => Sys2Proof.Machine.execTeCmp g pt pf a b c s
  | .tePand f => Sys2Proof.Machine.execTePand f s
  | .tePor f => Sys2Proof.Machine.execTePor f s
  | .tePxor f => Sys2Proof.Machine.execTePxor f s
  | .tePnot f => Sys2Proof.Machine.execTePnot f s
  | .teLdS g d a im => Sys2Proof.Machine.execTeLdS g d a im s
  | .teStS g d a im => Sys2Proof.Machine.execTeStS g d a im s
  | .teLdp g d a w im => Sys2Proof.Machine.execTeLdp g d a w im s
  | .teBr g im => Sys2Proof.Machine.execTeBr g im s
  | .teBri g a => Sys2Proof.Machine.execTeBri g a s
  | .teLoop g n stg len => Sys2Proof.Machine.execTeLoop g n stg len s
  | .teLoopx g a stg len => Sys2Proof.Machine.execTeLoopx g a stg len s
  | .teTmark g im => Sys2Proof.Machine.execTeTmark g im s
  | .teHalt g => Sys2Proof.Machine.execTeHalt g s
  | .teRds g d spr => Sys2Proof.Machine.execTeRds g d spr s
  | .teWrs g a spr => Sys2Proof.Machine.execTeWrs g a spr s
  | .vld f => Sys2Proof.Machine.execVld f s
  | .vldB f => Sys2Proof.Machine.execVldB f s
  | .vldS f => Sys2Proof.Machine.execVldS f s
  | .vst f => Sys2Proof.Machine.execVst f s
  | .vstS f => Sys2Proof.Machine.execVstS f s
  | .vldSc f => Sys2Proof.Machine.execVldSc f s
  | .vstSc f => Sys2Proof.Machine.execVstSc f s
  | .vadd f => Sys2Proof.Machine.execVadd f s
  | .vsub f => Sys2Proof.Machine.execVsub f s
  | .vmul f => Sys2Proof.Machine.execVmul f s
  | .vfma f => Sys2Proof.Machine.execVfma f s
  | .vfms f => Sys2Proof.Machine.execVfms f s
  | .vmax f => Sys2Proof.Machine.execVmax f s
  | .vmin f => Sys2Proof.Machine.execVmin f s
  | .vabs f => Sys2Proof.Machine.execVabs f s
  | .vneg f => Sys2Proof.Machine.execVneg f s
  | .vrcp f => Sys2Proof.Machine.execVrcp f s
  | .vrsq f => Sys2Proof.Machine.execVrsq f s
  | .vexp2 f => Sys2Proof.Machine.execVexp2 f s
  | .vlog2 f => Sys2Proof.Machine.execVlog2 f s
  | .vcmp f => Sys2Proof.Machine.execVcmp f s
  | .vsel f => Sys2Proof.Machine.execVsel f s
  | .vcvt f => Sys2Proof.Machine.execVcvt f s
  | .vquant f => Sys2Proof.Machine.execVquant f s
  | .vmaxabs f => Sys2Proof.Machine.execVmaxabs f s
  | .vred f => Sys2Proof.Machine.execVred f s
  | .vperm f => Sys2Proof.Machine.execVperm f s
  | .vbcast f => Sys2Proof.Machine.execVbcast f s
  | .vext f => Sys2Proof.Machine.execVext f s
  | .vmov f => Sys2Proof.Machine.execVmov f s
  | .vIadd f => Sys2Proof.Machine.execVIadd f s
  | .vIsub f => Sys2Proof.Machine.execVIsub f s
  | .vIshl f => Sys2Proof.Machine.execVIshl f s
  | .vIshr f => Sys2Proof.Machine.execVIshr f s
  | .vIsra f => Sys2Proof.Machine.execVIsra f s
  | .vIand f => Sys2Proof.Machine.execVIand f s
  | .vIor f => Sys2Proof.Machine.execVIor f s
  | .vIxor f => Sys2Proof.Machine.execVIxor f s
  | .vImul f => Sys2Proof.Machine.execVImul f s
  | .mma g d a b msk topk km1 => Sys2Proof.Machine.execMma g d a b msk topk km1 s
  | .mz g d => Sys2Proof.Machine.execMz g d s
  | .mrd g d v a => Sys2Proof.Machine.execMrd g d v a s
  | .mwr g d v a => Sys2Proof.Machine.execMwr g d v a s
  | .mld g d a => Sys2Proof.Machine.execMld g d a s
  | .mst g d a fc => Sys2Proof.Machine.execMst g d a fc s
  | .mtree g a => Sys2Proof.Machine.execMtree g a s
  | .mkld g a => Sys2Proof.Machine.execMkld g a s
  | .rndPoly g d x n p nt => Sys2Proof.Machine.execRndPoly g d x n p nt s
  | .rndNs g x p nt => Sys2Proof.Machine.execRndNs g x p nt s
  | .rndIsr g y z p nt => Sys2Proof.Machine.execRndIsr g y z p nt s
  | .mtopkRd g d v => Sys2Proof.Machine.execMtopkRd g d v s
  | .fadd f => Sys2Proof.Machine.execFadd f s
  | .fsub f => Sys2Proof.Machine.execFsub f s
  | .fmul f => Sys2Proof.Machine.execFmul f s
  | .ffma f => Sys2Proof.Machine.execFfma f s
  | .ffms f => Sys2Proof.Machine.execFfms f s
  | .fmin f => Sys2Proof.Machine.execFmin f s
  | .fmax f => Sys2Proof.Machine.execFmax f s
  | .fabs f => Sys2Proof.Machine.execFabs f s
  | .fneg f => Sys2Proof.Machine.execFneg f s
  | .frcp f => Sys2Proof.Machine.execFrcp f s
  | .frsq f => Sys2Proof.Machine.execFrsq f s
  | .fexp2 f => Sys2Proof.Machine.execFexp2 f s
  | .flog2 f => Sys2Proof.Machine.execFlog2 f s
  | .fcmp f => Sys2Proof.Machine.execFcmp f s
  | .fsel f => Sys2Proof.Machine.execFsel f s
  | .cvt f => Sys2Proof.Machine.execCvt f s
  | .iadd f => Sys2Proof.Machine.execIadd f s
  | .isub f => Sys2Proof.Machine.execIsub f s
  | .imul f => Sys2Proof.Machine.execImul f s
  | .imulh f => Sys2Proof.Machine.execImulh f s
  | .imin f => Sys2Proof.Machine.execImin f s
  | .imax f => Sys2Proof.Machine.execImax f s
  | .iand f => Sys2Proof.Machine.execIand f s
  | .ior f => Sys2Proof.Machine.execIor f s
  | .ixor f => Sys2Proof.Machine.execIxor f s
  | .ishl f => Sys2Proof.Machine.execIshl f s
  | .ishr f => Sys2Proof.Machine.execIshr f s
  | .isra f => Sys2Proof.Machine.execIsra f s
  | .icmp f => Sys2Proof.Machine.execIcmp f s
  | .popc f => Sys2Proof.Machine.execPopc f s
  | .clz f => Sys2Proof.Machine.execClz f s
  | .bperm f => Sys2Proof.Machine.execBperm f s
  | .bfx f => Sys2Proof.Machine.execBfx f s
  | .bfi f => Sys2Proof.Machine.execBfi f s
  | .shfl f => Sys2Proof.Machine.execShfl f s
  | .bcast f => Sys2Proof.Machine.execBcast f s
  | .vote f => Sys2Proof.Machine.execVote f s
  | .lld f => Sys2Proof.Machine.execLld f s
  | .lst f => Sys2Proof.Machine.execLst f s
  | .lldc f => Sys2Proof.Machine.execLldc f s
  | .lstc f => Sys2Proof.Machine.execLstc f s
  | .lldp f => Sys2Proof.Machine.execLldp f s
  | .lblk f => Sys2Proof.Machine.execLblk f s
  | .aadd f => Sys2Proof.Machine.execAadd f s
  | .amin f => Sys2Proof.Machine.execAmin f s
  | .amax f => Sys2Proof.Machine.execAmax f s
  | .aand f => Sys2Proof.Machine.execAand f s
  | .aor f => Sys2Proof.Machine.execAor f s
  | .axor f => Sys2Proof.Machine.execAxor f s
  | .axchg f => Sys2Proof.Machine.execAxchg f s
  | .acas f => Sys2Proof.Machine.execAcas f s
  | .amaxvi f => Sys2Proof.Machine.execAmaxvi f s
  | .gumbel f => Sys2Proof.Machine.execGumbel f s
  | .nhash f => Sys2Proof.Machine.execNhash f s
  | .lmma f => Sys2Proof.Machine.execLmma f s
  | .laccRd f => Sys2Proof.Machine.execLaccRd f s
  | .laccWr f => Sys2Proof.Machine.execLaccWr f s
  | .hdot2 f => Sys2Proof.Machine.execHdot2 f s
  | .lerp f => Sys2Proof.Machine.execLerp f s
  | .isad f => Sys2Proof.Machine.execIsad f s
  | .illegalInstruction w => Sys2Proof.Machine.execIllegalInstruction w s
  | .coldStart => Sys2Proof.Machine.execColdStart s
  | .warmStart => Sys2Proof.Machine.execWarmStart s
  | .powerLoss => Sys2Proof.Machine.execPowerLoss s
  | .vfFunctionLevelReset => Sys2Proof.Machine.execVfFunctionLevelReset s
  | .dmodePclassWrite => Sys2Proof.Machine.execDmodePclassWrite s
  | .clockChangePoint => Sys2Proof.Machine.execClockChangePoint s
  | .dmodePartWrite => Sys2Proof.Machine.execDmodePartWrite s
  | .dmodeFabricWrite => Sys2Proof.Machine.execDmodeFabricWrite s
  | .fabricModeSwitch => Sys2Proof.Machine.execFabricModeSwitch s
  | .dmodeDetermWrite => Sys2Proof.Machine.execDmodeDetermWrite s
  | .registerWrite => Sys2Proof.Machine.execRegisterWrite s
  | .dmapWrite => Sys2Proof.Machine.execDmapWrite s
  | .qctlWrite => Sys2Proof.Machine.execQctlWrite s
  | .qtailWrite => Sys2Proof.Machine.execQtailWrite s
  | .ringEntryRead => Sys2Proof.Machine.execRingEntryRead s
  | .graphLaunchReady => Sys2Proof.Machine.execGraphLaunchReady s
  | .dlqAppend => Sys2Proof.Machine.execDlqAppend s
  | .launchBeginDispatch => Sys2Proof.Machine.execLaunchBeginDispatch s
  | .workItemDispatch => Sys2Proof.Machine.execWorkItemDispatch s
  | .bodyAdmission => Sys2Proof.Machine.execBodyAdmission s
  | .workItemRetire => Sys2Proof.Machine.execWorkItemRetire s
  | .teBundle => Sys2Proof.Machine.execTeBundle s
  | .bundleSkip => Sys2Proof.Machine.execBundleSkip s
  | .resultLand => Sys2Proof.Machine.execResultLand s
  | .loopPassEnd => Sys2Proof.Machine.execLoopPassEnd s
  | .signpostStop => Sys2Proof.Machine.execSignpostStop s
  | .quietPointStop => Sys2Proof.Machine.execQuietPointStop s
  | .tileEngineGrant => Sys2Proof.Machine.execTileEngineGrant s
  | .edgeSliceExpiry => Sys2Proof.Machine.execEdgeSliceExpiry s
  | .crewSwapIn => Sys2Proof.Machine.execCrewSwapIn s
  | .engineJoin => Sys2Proof.Machine.execEngineJoin s
  | .itemDeal => Sys2Proof.Machine.execItemDeal s
  | .matrixEntryPerform => Sys2Proof.Machine.execMatrixEntryPerform s
  | .roundaboutIteration => Sys2Proof.Machine.execRoundaboutIteration s
  | .copyPerform => Sys2Proof.Machine.execCopyPerform s
  | .ringDelivery => Sys2Proof.Machine.execRingDelivery s
  | .multicastPerform => Sys2Proof.Machine.execMulticastPerform s
  | .junctionPerform => Sys2Proof.Machine.execJunctionPerform s
  | .lockAcquirePerform => Sys2Proof.Machine.execLockAcquirePerform s
  | .lockBindPerform => Sys2Proof.Machine.execLockBindPerform s
  | .lockReleasePerform => Sys2Proof.Machine.execLockReleasePerform s
  | .cairnOpenPerform => Sys2Proof.Machine.execCairnOpenPerform s
  | .cairnAppendPerform => Sys2Proof.Machine.execCairnAppendPerform s
  | .cairnQueryPerform => Sys2Proof.Machine.execCairnQueryPerform s
  | .cairnSavePerform => Sys2Proof.Machine.execCairnSavePerform s
  | .cairnRestorePerform => Sys2Proof.Machine.execCairnRestorePerform s
  | .cairnClosePerform => Sys2Proof.Machine.execCairnClosePerform s
  | .kvCommitPerform => Sys2Proof.Machine.execKvCommitPerform s
  | .waypostUpdatePerform => Sys2Proof.Machine.execWaypostUpdatePerform s
  | .waypostPrefetchPerform => Sys2Proof.Machine.execWaypostPrefetchPerform s
  | .launchPerform => Sys2Proof.Machine.execLaunchPerform s
  | .pageWalk => Sys2Proof.Machine.execPageWalk s
  | .frespWalkAgain => Sys2Proof.Machine.execFrespWalkAgain s
  | .frespFail => Sys2Proof.Machine.execFrespFail s
  | .gtermWrite => Sys2Proof.Machine.execGtermWrite s
  | .pcmdSave => Sys2Proof.Machine.execPcmdSave s
  | .partitionSaveQuiesced => Sys2Proof.Machine.execPartitionSaveQuiesced s
  | .saveStopTimeout => Sys2Proof.Machine.execSaveStopTimeout s
  | .pcmdRestore => Sys2Proof.Machine.execPcmdRestore s
  | .slctlWrite => Sys2Proof.Machine.execSlctlWrite s
  | .trctlWrite => Sys2Proof.Machine.execTrctlWrite s
  | .rctlWrite => Sys2Proof.Machine.execRctlWrite s
  | .epochBoundary => Sys2Proof.Machine.execEpochBoundary s
  | .dlqctlWrite => Sys2Proof.Machine.execDlqctlWrite s
  | .drstGo => Sys2Proof.Machine.execDrstGo s
  | .dieQuiesceDone => Sys2Proof.Machine.execDieQuiesceDone s
  | .dieResetDone => Sys2Proof.Machine.execDieResetDone s
  | .dieRetrainDone => Sys2Proof.Machine.execDieRetrainDone s
  | .strayRequest => Sys2Proof.Machine.execStrayRequest s
  | .mailboxPost => Sys2Proof.Machine.execMailboxPost s
  | .instantiateGraph => Sys2Proof.Machine.execInstantiateGraph s
  | .destroyGraph => Sys2Proof.Machine.execDestroyGraph s
  | .setAperture => Sys2Proof.Machine.execSetAperture s
  | .hostCopy => Sys2Proof.Machine.execHostCopy s
  | .saveRequest => Sys2Proof.Machine.execSaveRequest s
  | .restoreRequest => Sys2Proof.Machine.execRestoreRequest s
  | .dieWarmResetRequest => Sys2Proof.Machine.execDieWarmResetRequest s
  | .setRankCeiling => Sys2Proof.Machine.execSetRankCeiling s
  | .powerClassRequest => Sys2Proof.Machine.execPowerClassRequest s
  | .bootConfiguration => Sys2Proof.Machine.execBootConfiguration s
  | .warmStartRequest => Sys2Proof.Machine.execWarmStartRequest s
  | .apertureRead => Sys2Proof.Machine.execApertureRead s
  | .apertureWrite => Sys2Proof.Machine.execApertureWrite s
  | .fabricInboundAccess => Sys2Proof.Machine.execFabricInboundAccess s
  | .flushMarkerArrival => Sys2Proof.Machine.execFlushMarkerArrival s
  | .flushAckArrival => Sys2Proof.Machine.execFlushAckArrival s
  | .alaicPortFailure => Sys2Proof.Machine.execAlaicPortFailure s
  | .loadBlockFill => Sys2Proof.Machine.execLoadBlockFill s
  | .spdmRequest => Sys2Proof.Machine.execSpdmRequest s
  | .scalarFetchOutOfRange => Sys2Proof.Machine.execScalarFetchOutOfRange s
  | .uncorrectableGranule => Sys2Proof.Machine.execUncorrectableGranule s
  | .fabricReplyArrival => Sys2Proof.Machine.execFabricReplyArrival s
  | .packagePowerLimit => Sys2Proof.Machine.execPackagePowerLimit s

end Sys2Proof.Machine
end

