-- ==== Sys2Proof/Machine/Rota.lean ====
section
/-! DEFINITION. The rota: every agent and every device step that may be due, one turn each, in station-number order. It
gives each of them its turn again and again (R51), and is the one order of turns under determinism (R25). -/

namespace Sys2Proof.Machine

/-- A device step and its inputs as a turn. -/
def stepTurn (i : Instr) (inp : Input) : Turn := { dt := 0, act := .event i, inp := inp }

def agentTurn (a : Act) : Turn := { dt := 0, act := a }

/-! ## Engine queues -/

/-- The device step in which a command performs (R96). -/
def performStep (i : Instr) : Option Instr :=
  match i with
  | .cpLd _ => some .copyPerform
  | .cpSt _ => some .copyPerform
  | .cpG2g _ => some .copyPerform
  | .cpMc _ => some .multicastPerform
  | .jn _ => some .junctionPerform
  | .rlkBind _ => some .lockBindPerform
  | .rlkAcq _ => some .lockAcquirePerform
  | .rlkRel _ => some .lockReleasePerform
  | .cairnOpen _ => some .cairnOpenPerform
  | .cairnApp _ => some .cairnAppendPerform
  | .cairnQry _ => some .cairnQueryPerform
  | .cairnSave _ => some .cairnSavePerform
  | .cairnRst _ => some .cairnRestorePerform
  | .cairnClose _ => some .cairnClosePerform
  | .kvCmt _ => some .kvCommitPerform
  | .wpUpd _ => some .waypostUpdatePerform
  | .wpPre _ => some .waypostPrefetchPerform
  | .launch _ => some .launchPerform
  | _ => none

/-- The steps of an issuer's queue heads, and of its oldest command that enters no queue. -/
def State.queueTurns (s : State) (who : Issuer) : List Turn :=
  let q := s.queues who
  let heads := q.qs.filterMap (fun x => x.2.head?.map (fun e => (x.1, e.cmd))) ++ (q.ordered.head?.map (fun e => (ordKey, e.cmd))).toList
  heads.filterMap (fun x => (performStep x.2).map (fun i => stepTurn i { iss := who, a := x.1 }))

/-! ## Stations -/

/-- A tile engine that holds something: its instance, its queues, its body's admission and what retires there. -/
def State.tileTurns (s : State) (e : Nat) : List Turn :=
  if s.tile e = {} then []
  else
    [agentTurn (.tile e)] ++ s.queueTurns (.tile e) ++
    (match (s.tile e).q.get 6 with
     | [] => []
     | q :: _ => [stepTurn (if isRound q.cmd then .roundaboutIteration else .matrixEntryPerform) { iss := .tile e, a := e }]) ++
    [stepTurn .bodyAdmission { iss := .tile e, a := e }, stepTurn .workItemRetire { iss := .tile e, a := e }]

/-- An edge core: its sub-gangs' scalar streams and lane queues, its crews' queues, its load-blocks, and its slice. -/
def State.coreTurns (s : State) (c : Nat) : List Turn :=
  let e := s.core c
  e.gangs.flatMap (fun g => g.2.subs.flatMap (fun t =>
    let r : SgRef := { core := c, slot := g.1, sub := t.1 }
    [agentTurn (.scalar r), agentTurn (.lane r)])) ++
  e.crews.flatMap (fun k => s.queueTurns (.crew c k.1)) ++
  (e.blocks.filter (fun b => !b.2.done)).map (fun b => stepTurn .loadBlockFill { iss := .crew c 0, a := c, b := b.1 }) ++
  (if e.crews = [] then [] else
    [stepTurn .workItemRetire { iss := .crew c 0, a := c, flag := true }, stepTurn .edgeSliceExpiry { a := c }]) ++
  (if e.out = [] ∧ s.swapped = [] then [] else [stepTurn .crewSwapIn { a := s.unitPart c, b := c }])

/-- The units of the device in station-number order: edge cores with true. -/
def stationOrder : List (Nat × Bool) :=
  sortBy (fun x => station x.1 x.2) ((span 0 192).flatMap (fun e => [(e, true), (e, false)]))

/-! ## Management cores, partitions and the device -/

/-- The service that answers a request code (R345). A host copy and a boot configuration wait for what the host sends. -/
def serviceStep (code : Nat) : Option Instr :=
  match code with
  | 4 => none
  | 5 => some .saveRequest
  | 6 => some .restoreRequest
  | 7 => some .dieWarmResetRequest
  | 8 => some .setRankCeiling
  | 9 => some .powerClassRequest
  | 0x0A => none
  | 0x0B => some .warmStartRequest
  | 2 => some .destroyGraph
  | 3 => some .setAperture
  | _ => some .instantiateGraph

def State.hubTurns (s : State) (h : Nat) : List Turn :=
  [agentTurn (.mgmt h)] ++ s.queueTurns (.mgmt h) ++
  (match (s.mgmt h).svc with
   | [] => []
   | x :: _ => ((serviceStep (leNat (s.mboxRead (x / 256) (128 * (x % 256)) 1))).map (fun i => stepTurn i { a := h })).toList)

/-- The steps of a launch. -/
def launchTurns (k : Nat) (l : Launch) : List Turn :=
  match l.st with
  | .arrived => [stepTurn .launchBeginDispatch { a := k }]
  | .closed => []
  | _ =>
    if l.desc.persist then
      [stepTurn .engineJoin { a := k }, stepTurn .engineJoin { a := k, flag := true }, stepTurn .itemDeal { a := k }]
    else [stepTurn .workItemDispatch { a := k }]

/-- The steps of a partition: its queues, graph runs, launches, tile-engine arbitration, save and restore. -/
def State.partTurns (s : State) (p : Nat) : List Turn :=
  (s.part p).queues.filterMap (fun q => if q.2.en && q.2.head != q.2.tail then some (stepTurn .ringEntryRead { a := p, b := q.1 }) else none) ++
  (s.part p).runs.map (fun r => stepTurn .graphLaunchReady { a := p, b := r.1 }) ++
  (s.ownDlqs p).map (fun n => stepTurn .dlqAppend { a := n }) ++
  (s.launches.filter (fun l => l.2.part == p)).flatMap (fun l => launchTurns l.1 l.2) ++
  [stepTurn .tileEngineGrant { a := p }] ++
  (match s.pcState p with
   | 1 => [stepTurn .partitionSaveQuiesced { a := p }, stepTurn .saveStopTimeout { a := p }]
   | 3 => [stepTurn .pcmdRestore { a := p, flag := true }]
   | _ => [])

/-- The steps of the device as a whole: modes that wait to change, and a die reset. -/
def State.deviceTurns (s : State) : List Turn :=
  (if s.classPending then [stepTurn .clockChangePoint {}] else []) ++
  (if s.fabricPending then [stepTurn .fabricModeSwitch {}] else []) ++
  (match s.drstState with
   | 1 => [stepTurn .dieQuiesceDone {}]
   | 2 => [stepTurn .dieResetDone {}]
   | 3 => [stepTurn .dieRetrainDone {}]
   | _ => [])

/-- A round: one turn of each, the first of which takes a cycle. Until a start has ended it is the cold start that is due. -/
def State.round (s : State) : List Turn :=
  if fld s.bstat.toNat 2 0 = 0 then [{ dt := 1, act := .event .coldStart }]
  else
    match stationOrder.flatMap (fun x => if x.2 then s.coreTurns x.1 else s.tileTurns x.1) ++
        s.hubTurns 0 ++ s.hubTurns 1 ++ (span 0 s.mode).flatMap s.partTurns ++ s.deviceTurns with
    | [] => []
    | t :: r => { t with dt := 1 } :: r

/-! ## What comes from outside -/

/-- Steps that something outside the device's own order brings about: starts, the host, another device, a management core's
register writes, errors and power. -/
def outside (i : Instr) : Bool :=
  match i with
  | .warmStart => true
  | .powerLoss => true
  | .vfFunctionLevelReset => true
  | .dmodePclassWrite => true
  | .dmodePartWrite => true
  | .dmodeFabricWrite => true
  | .dmodeDetermWrite => true
  | .registerWrite => true
  | .dmapWrite => true
  | .qctlWrite => true
  | .qtailWrite => true
  | .frespWalkAgain => true
  | .frespFail => true
  | .gtermWrite => true
  | .pcmdSave => true
  | .pcmdRestore => true
  | .slctlWrite => true
  | .trctlWrite => true
  | .rctlWrite => true
  | .dlqctlWrite => true
  | .drstGo => true
  | .dieRetrainDone => true
  | .strayRequest => true
  | .mailboxPost => true
  | .hostCopy => true
  | .bootConfiguration => true
  | .apertureRead => true
  | .apertureWrite => true
  | .fabricInboundAccess => true
  | .flushMarkerArrival => true
  | .flushAckArrival => true
  | .fabricReplyArrival => true
  | .alaicPortFailure => true
  | .spdmRequest => true
  | .uncorrectableGranule => true
  | .packagePowerLimit => true
  | _ => false

/-- A turn that comes from outside. -/
def Turn.outside (t : Turn) : Bool :=
  match t.act with
  | .event i => Sys2Proof.Machine.outside i
  | _ => false

end Sys2Proof.Machine
end

