-- ==== Sys2Proof/Machine/Turn.lean ====
section
/-! DEFINITION. One turn of the device: what the acting agent does next (R168, R170, R173, R145), the rule for spinning
gangs (R52), and the placing of one instruction where a turn fetches it. -/

namespace Sys2Proof.Machine

/-! ## The scalar stream (R168, R173) -/

/-- A thread that issues nothing now: parked, at a stop, or waiting for a handle (R184, R296). -/
def Ctx.held (c : Ctx) : Bool :=
  c.th.parked || (c.crew.stopReq && c.th.lq == [] && c.th.issRem == 0) || c.th.wait == .issued

/-- The instruction of a scalar word (R126). -/
def scalarInstr (w : Nat) : Instr := (decodeScalar w).getD (.illegalInstruction (BitVec.ofNat 32 w))

/-- Instructions whose packets of their own tell where the stream goes on (R313). -/
def ownPacket (c : Ctx) (i : Instr) : Bool :=
  match i with
  | .beq _ => true
  | .bne _ => true
  | .blt _ => true
  | .bge _ => true
  | .bltu _ => true
  | .bgeu _ => true
  | .bzM _ => true
  | .jal _ _ _ => true
  | .jr _ _ _ => true
  | .jrW _ _ _ => true
  | .ret => true
  | .part _ _ => true
  | .regang => c.th.path != []
  | .eret => true
  | _ => false

/-- The thread went on to the next instruction. -/
def Thread.wentOn (old new : Thread) : Bool := new.pc == old.pc + 4 && new.tmode == old.tmode && !new.parked

/-- The sub-gangs that an instruction may move on: its own, and those that wait at a barrier of the core. -/
def State.movers (s : State) (c : Ctx) : List SgRef :=
  c.ref :: (s.core c.ref.core).gangs.flatMap (fun g => g.2.subs.filterMap (fun t =>
    match t.2.wait with
    | .bar _ => some { c.ref with slot := g.1, sub := t.1 }
    | _ => none))

/-- The trace counts the instructions that completed in sequence between two states (R313). -/
def State.countUnits (s : State) (c : Ctx) (i : Instr) (t : State) : State :=
  if !bitAt (t.trc c.unit).ctl.toNat 31 || ownPacket c i then t
  else if c.isMgmt then (if c.th.wentOn (t.mgmt c.hub).th then t.traceNext c else t)
  else (s.movers c).foldl (fun (t : State) r =>
    match s.subGang r, t.subGang r with
    | some a, some b => if a.th.wentOn b.th then t.traceNext a else t
    | _, _ => t) t

def State.counted (s : State) (c : Ctx) (i : Instr) (o : Out) : Out :=
  match o with
  | .next t => .next (s.countUnits c i t)
  | o => o

/-- What the thread does next: the rest of a lane.iss (R173), a posted failure (R228), a fetch outside the section
(R168), or the instruction fetched at PC. -/
def State.scalarTurn (run : Instr → State → Out) (s : State) : Out :=
  match s.ctx with
  | none => .next s
  | some c =>
    if c.held then .next s
    else
      match c.dueFailures with
      | p :: rest => s.postedTrap c p rest
      | [] =>
        if c.th.issRem ≠ 0 then s.counted c (.laneIss 0) (run (.laneIss 0) s)
        else if c.th.pc.toNat % 4 ≠ 0 ∨ s.codeLen c ≤ c.th.pc.toNat then run .scalarFetchOutOfRange s
        else
          match s.fetchWord c with
          | (t, .ok w) => t.counted c (scalarInstr w) (run (scalarInstr w) t)
          | (t, .error (e, va)) => t.memTrap c .scalarFetchOutOfRange e (BitVec.ofNat 64 va)

/-! ## Spinning gangs (R52) -/

/-- The head of the lane queue leaves for execution (R170). -/
def State.laneTurn (run : Instr → State → Out) (s : State) : Out :=
  match s.ctx with
  | none => .next s
  | some c =>
    match c.th.lq with
    | [] => .next s
    | e :: _ =>
      match decodeLane e.word.toNat with
      | some i => run i s
      | none => .next s

/-- A turn changes something. -/
def changesAt (t : State) (o : Out) : Bool :=
  match o with
  | .next t' => t' != t
  | _ => false

/-- The thread at a place issues something at its scalar or its lane turn. -/
def State.canIssue (s : State) (r : SgRef) : Bool :=
  changesAt { s with cur := .scalar r } ({ s with cur := .scalar r }.scalarTurn exec) ||
    changesAt { s with cur := .lane r } ({ s with cur := .lane r }.laneTurn exec)

/-- A gang marked spinning, while an unmarked gang of its core can issue: a core is of one partition (R272). -/
def State.spinHeld (s : State) (r : SgRef) : Bool :=
  let gs := (s.core r.core).gangs
  match alGet gs r.slot with
  | none => false
  | some g =>
    g.subs.any (fun x => x.1 == r.sub && x.2.spin.marked) &&
      gs.any (fun h => h.1 != r.slot &&
        h.2.subs.any (fun x => !x.2.spin.marked && s.canIssue { r with slot := h.1, sub := x.1 }))

/-! ## Lane instructions, management cores and tile engines -/

/-- A management core runs once a start has ended (R352). -/
def State.mgmtTurn (run : Instr → State → Out) (s : State) : Out :=
  if fld s.bstat.toNat 2 0 = 1 then s.scalarTurn run else .next s

/-- What a tile engine does next: a pass end, a stop, a skipped bundle or a bundle, the results due at
its step landed first (R139, R145, R147, R150, R152, R153). -/
def Tile.due (t0 : Tile) : Instr :=
  let t := t0.land t0.t
  if t.passDue then .loopPassEnd
  else if t.quiet then .quietPointStop
  else if t.stopHere then .signpostStop
  else if t.pendErr.isNone && !t.predWait && t.skippable then .bundleSkip
  else .teBundle

/-- A station at a boundary is held while a change of power class waits for the others (R23). -/
def State.classHeld (s : State) : Bool :=
  s.classPending &&
  (match s.cur with
   | .scalar _ => true
   | .lane _ => true
   | .tile e => !(s.tile e).passDue
   | _ => false)

/-- A bundle's step, or an instruction of the acting agent, named as an event is held at the same boundary. -/
def State.eventHeld (s : State) (i : Instr) : Bool :=
  match i with
  | .teBundle => s.classPending && !(s.tile s.inp.a).passDue
  | .bundleSkip => s.classPending && !(s.tile s.inp.a).passDue
  | .signpostStop => s.classPending && !(s.tile s.inp.a).passDue
  | .quietPointStop => s.classPending && !(s.tile s.inp.a).passDue
  | .scalarFetchOutOfRange => s.classHeld
  | i => encode i != [] && s.classHeld

/-- The acting agent takes its turn. -/
def State.act (s : State) : Out :=
  if s.classHeld then .next s
  else
  match s.cur with
  | .scalar r => if s.spinHeld r then .next s else s.scalarTurn exec
  | .lane r => if s.spinHeld r then .next s else s.laneTurn exec
  | .mgmt _ => s.mgmtTurn exec
  | .tile e => exec (s.tile e).due { s with inp := { s.inp with a := e } }
  | .event i => exec i s

/-! ## Turns of the agenda -/

/-- The turn that is due from the rota, which begins a new round when the last is over, and the state without it. -/
def State.nextTurn (s : State) : Turn × State :=
  match s.rota with
  | t :: r => (t, { s with rota := r })
  | [] =>
    match s.round with
    | t :: r => (t, { s with rota := r })
    | [] => ({ act := s.cur }, s)

/-- The turn that is due: the head of the agenda, or else the rota's. Under determinism the agenda gives only what comes from
outside, which takes no cycle (R25, R317; log entry 1). -/
def State.due (s : State) : Turn × State :=
  match if s.determ then s.agenda.dropWhile (fun t => !t.outside) else s.agenda with
  | t :: r => (if s.determ then { t with dt := 0 } else t, { s with agenda := r })
  | [] => { s with agenda := [] }.nextTurn

/-- The station whose TLBs serve a turn (R300). -/
def Turn.via (t : Turn) : Nat :=
  match t.act with
  | .scalar r => station r.core true
  | .lane r => station r.core true
  | .tile e => station e false
  | .mgmt h => 512 + h
  | .event _ => whoStation t.inp.iss

/-- A turn begins: its cycles pass, and its agent and inputs are those it names. An event leaves the agent of the turns
to come as it was; what comes from outside under determinism draws no value (R317). -/
def State.begin (s : State) (t : Turn) : State :=
  let s := { s with draws := if s.determ && t.outside then s.draws else s.draws + 1, inp := t.inp, via := t.via }.pass t.dt
  match t.act with
  | .event _ => s
  | a => { s with cur := a }

/-- The turn runs. -/
def State.runTurn (s : State) (t : Turn) : Out :=
  match t.act with
  | .event i => if (s.begin t).eventHeld i then .next (s.begin t) else exec i (s.begin t)
  | _ => (s.begin t).act

/-- A turn whose cycles reach the next epoch boundary stops there first (R314). -/
def State.toBoundary (s : State) (t : Turn) : Out :=
  let n := s.toEpoch
  exec .epochBoundary ({ s with rota := { t with dt := t.dt - n } :: s.rota, draws := s.draws + 1 }.pass n)

/-- One step of the device. -/
def State.turn (s : State) : Out :=
  let d := s.due
  if s.determ = true ∧ s.toEpoch ≤ d.1.dt then d.2.toBoundary d.1 else d.2.runTurn d.1

/-! ## The placing of an instruction -/

/-- Whether a scalar word belongs to management cores alone (R122, R193). -/
def systemWord (w : Nat) : Bool :=
  match decodeScalar w with
  | some .wfe => true
  | some (.tlbinv _ _) => true
  | some (.gstRd _) => true
  | some (.gstWr _) => true
  | some (.gstRes _) => true
  | _ => false

/-- The bytes of an instruction of a number of bits. -/
def wordBytes (nbits w : Nat) : List Byte := leBytes (if nbits = 96 then 12 else 4) (w % 2 ^ 96)

/-- The launch of the placed gang: one edge gang of eight slices. -/
def placedDesc : Desc := { egangs := 1, eslices := 8, esaddr := 0, eslen := 64, eladdr := 4096, ellen := 192 }

/-- A page table that maps the low 512 GiB one to one, writable: a root at 64 KiB and one leaf table. -/
def State.placeTables (s : State) : State :=
  let s := (s.physWrite 0 0x10000 (leBytes 8 0x11001)).physWrite 0 0x11000 (leBytes 8 7)
  s.setPart 0 { s.part 0 with ptroot := 0x10001 }

/-- The next turn is an agent's, and no change of power class holds it. -/
def State.nextActs (s : State) (a : Act) : State :=
  { s with agenda := if s.determ then [] else [{ act := a }], rota := if s.determ then [{ dt := 0, act := a }] else [], cur := a
           dmode := BitVec.ofNat 32 (setFld s.dmode.toNat 11 10 (fld s.dmode.toNat 9 8)) }

/-- A gang on edge core 0 whose next instruction is the word given; a lane word stands at the head of its lane queue. -/
def State.placeEdge (s : State) (nbits w : Nat) : State :=
  let g := startGang placedDesc 0 0
  let th := startThread placedDesc 0
  let e : LaneEntry := { word := BitVec.ofNat 96 w, mask := th.m, fmt := 0, xop := 0, srctr := 0, pc := 0, uid := 0 }
  let g := if nbits = 96 then { g with subs := [(0, { th with lq := [e] })] } else g
  let s := s.placeTables.physWrite 0 0 (wordBytes 32 w)
  let s := { s with launches := [(0, { desc := placedDesc, st := .dispatched })] }
  let r : SgRef := { core := 0, slot := 0, sub := 0 }
  (s.setCore 0 { gangs := [(0, g)], crews := [(0, { egangs := 1 })] }).nextActs (if nbits = 96 then .lane r else .scalar r)

/-- Management core 0 of a device that has started, with the word at firmware offset 0. -/
def State.placeMgmt (s : State) (w : Nat) : State :=
  { s.setMgmt 0 (bootMgmt (wordBytes 32 w)) with bstat := 1 }.nextActs (.mgmt 0)

/-- The state whose next turn fetches and runs the instruction. -/
def State.placeWord (s : State) (nbits w : Nat) : State :=
  if nbits ≠ 96 ∧ systemWord (w % 2 ^ 32) = true then s.placeMgmt w else s.placeEdge nbits w

end Sys2Proof.Machine
end

