-- ==== Sys2Proof/Machine/Step.lean ====
section
/-! DEFINITION. One step of the machine, and the placing of an instruction where it is fetched next. -/

namespace Sys2Proof.Machine

/-- One step: the turn that is due (log entry 1). -/
def step (s : State) : Host.Outcome State Fault Refusal := s.turn

/-- The state with an instruction stored where the next step fetches (log entry 1). -/
def State.withFetchWord (s : State) (nbits w : Nat) : State := s.placeWord nbits w

end Sys2Proof.Machine
end

