-- ==== Sys2Proof/Certificates/Slice0/Obligations.lean ====
section
/-! DEFINITION. The statements about the Syolo model: the words they are made of (who is ready to run, what an
operation computes, in the numbers of the spec), then one definition per statement. -/

namespace Sys2Proof.Claims

open Sys2Proof.Machine

/-! ## Scalar threads -/

/-- The thread of context c acts and nothing holds it: it is not parked, no stop applies to it, it waits for nothing and
no failure is posted to it. -/
abbrev Ready (s : State) (c : Ctx) : Prop :=
  s.ctx = some c ∧ c.th.parked = false ∧ (c.crew.stopReq && c.th.lq == [] && c.th.issRem == 0) = false ∧
    c.th.wait = .none ∧ c.th.posted = []

/-- Ready, with its lane queue drained (R172). -/
abbrev Drained (s : State) (c : Ctx) : Prop := Ready s c ∧ c.th.lq = []

/-- Ready for an instruction of a role class and a place (R50, R122, R193). -/
abbrev May (s : State) (c : Ctx) (k : RoleClass) (pl : Place) : Prop :=
  Ready s c ∧ roleAllows c.gang.role k = true ∧ placeOk c pl = true

/-- The state in which the thread of c has x[d] := v and stands at PC + 4. -/
def wrote (s : State) (c : Ctx) (d : B5) (v : W64) : State :=
  s.setTh c (({ c.th.setX d.toNat v with pc := c.th.pc + 4 } : Thread).checkSpin)

/-- Operations of the format ER on the numbers that the registers hold (R188). -/
def erTable : List ((ER → Instr) × (W64 → W64 → W64)) := [
  (.add, fun a b => BitVec.ofNat 64 (a.toNat + b.toNat)),
  (.sub, fun a b => BitVec.ofInt 64 (a.toInt - b.toInt)),
  (.and, fun a b => a &&& b),
  (.or, fun a b => a ||| b),
  (.xor, fun a b => a ^^^ b),
  (.andn, fun a b => a &&& ~~~b),
  (.shl, fun a b => BitVec.ofNat 64 (a.toNat * 2 ^ (b.toNat % 64))),
  (.shr, fun a b => BitVec.ofNat 64 (a.toNat / 2 ^ (b.toNat % 64))),
  (.sra, fun a b => BitVec.ofInt 64 (a.toInt / 2 ^ (b.toNat % 64))),
  (.mul, fun a b => BitVec.ofNat 64 (a.toNat * b.toNat)),
  (.mulh, fun a b => BitVec.ofInt 64 (a.toInt * b.toInt / 2 ^ 64)),
  (.slt, fun a b => if a.toInt < b.toInt then 1 else 0),
  (.sltu, fun a b => if a.toNat < b.toNat then 1 else 0),
  (.min, fun a b => if a.toInt < b.toInt then a else b),
  (.max, fun a b => if a.toInt < b.toInt then b else a)]

/-- Operations of the format EI on a register and the sign-extended immediate (R188). -/
def eiTable : List ((EI → Instr) × (W64 → W64 → W64)) := [
  (.addi, fun a i => BitVec.ofInt 64 (a.toInt + i.toInt)),
  (.andi, fun a i => a &&& i),
  (.ori, fun a i => a ||| i),
  (.xori, fun a i => a ^^^ i),
  (.shli, fun a i => BitVec.ofNat 64 (a.toNat * 2 ^ (i.toNat % 64))),
  (.shri, fun a i => BitVec.ofNat 64 (a.toNat / 2 ^ (i.toNat % 64))),
  (.srai, fun a i => BitVec.ofInt 64 (a.toInt / 2 ^ (i.toNat % 64))),
  (.slti, fun a i => if a.toInt < i.toInt then 1 else 0)]

/-- Loads with their size in bytes (R189). -/
def loads : List ((EM → Instr) × Nat) := [(.ldB, 1), (.ldH, 2), (.ldW, 4), (.ldD, 8)]
/-- Stores with their size in bytes (R189). -/
def stores : List ((EM → Instr) × Nat) := [(.stB, 1), (.stH, 2), (.stW, 4), (.stD, 8)]

/-- x[A] + sign-extend(IMM8) × z (R189). -/
def emPlaceOf (c : Ctx) (f : EM) (z : Nat) : Nat :=
  (BitVec.ofInt 64 ((c.x f.a).toInt + f.i.toInt * z)).toNat

/-- The signed value of little-endian bytes in 64 bits (R2, R189). -/
def signedBytes (bs : List Byte) : W64 := BitVec.ofInt 64 (sx (8 * bs.length) (leNat bs))

/-- The low z bytes of a register, lowest first (R2). -/
def lowBytes (z : Nat) (v : W64) : List Byte := (span 0 z).map (fun i => BitVec.ofNat 8 (v.toNat / 2 ^ (8 * i)))

/-- The integer atomics of R191 by their code: the new value of z bytes, or none where nothing is written. -/
def atomicCodes : List (Nat × (Nat → Nat → Nat → Nat → Option Nat)) := [
  (0, fun z old b _ => some ((old + b) % 2 ^ (8 * z))),
  (1, fun z old b _ => some (if sx (8 * z) b < sx (8 * z) old then b else old)),
  (2, fun z old b _ => some (if sx (8 * z) old < sx (8 * z) b then b else old)),
  (3, fun _ old b _ => some (Nat.land old b)), (4, fun _ old b _ => some (Nat.lor old b)),
  (5, fun _ old b _ => some (Nat.xor old b)), (6, fun _ _ b _ => some b),
  (7, fun _ old b e => if old = e then some b else none),
  (8, fun _ old b _ => some (Min.min old b)), (9, fun _ old b _ => some (Max.max old b))]

/-- A release of the operation sg at scope sc that targets devices ds has written back the L1 of an edge core at die scope or wider, its markers
have been answered, and the state is g; no release does neither (R87, R88, R103). -/
abbrev Gated (rel : Bool) (s : State) (c : Ctx) (sg sc : Nat) (ds : List Nat) (g : State) : Prop :=
  if rel then (if c.isMgmt = false ∧ 3 ≤ sc then s.writeBackAll c.ref.core else s).flushGate c.iss sc ds sg = (g, .done)
  else g = s

/-- A thread that a program has written fmt or MSTS of: the bits that the device sets in this cycle are set (R3). -/
def hotKept (s : State) (c : Ctx) (th : Thread) : Thread :=
  { th with
    fmt := th.fmt ||| BitVec.ofNat 32 (s.hotBits (.fmt c.thread))
    msts := th.msts ||| BitVec.ofNat 32 (s.hotBits (.msts c.thread)) }

/-- The thread of c replaced by one at PC + 4 without a spin mark (R52). -/
def wentOnClear (s : State) (c : Ctx) (th : Thread) : State :=
  s.setTh c { th with pc := th.pc + 4, spin := {} }

/-- Conditions of the branches (R190). -/
def branchTable : List ((EB → Instr) × (W64 → W64 → Prop)) := [
  (.beq, fun a b => a = b),
  (.bne, fun a b => a ≠ b),
  (.blt, fun a b => a.toInt < b.toInt),
  (.bge, fun a b => b.toInt ≤ a.toInt),
  (.bltu, fun a b => a.toNat < b.toNat),
  (.bgeu, fun a b => b.toNat ≤ a.toNat)]

/-- The thread of c after a branch that falls through at PC: the mark of the loop that it closes is gone (R52). -/
def fellOn (s : State) (c : Ctx) : State :=
  s.setTh c { c.th with pc := c.th.pc + 4, spin := if c.th.spin.pc = c.th.pc then {} else c.th.spin }

/-- PC + 4 × displacement (R179, R190). -/
def jumpPc (c : Ctx) (disp : Int) : Int := c.th.pc.toNat + 4 * disp

/-- A target inside the scalar section, at a multiple of 4 (R168). -/
abbrev GoodTarget (s : State) (c : Ctx) (t : Nat) : Prop := t % 4 = 0 ∧ t < s.codeLen c

/-- The trace of the unit on which c runs is off (R311). -/
abbrev Untraced (s : State) (c : Ctx) : Prop := bitAt (s.trc c.unit).ctl.toNat 31 = false

/-! ### Jumps, masks and the lane stream -/

/-- The state after a jump of R179 to t: the push of a call, x[D] := PC + 4, PC := t. -/
def jumped (s : State) (c : Ctx) (d : B5) (call : B1) (t : Nat) : State :=
  let th := if call = 1 then { c.th with rstack := (c.th.pc + 4, c.th.lpc) :: c.th.rstack } else c.th
  s.setTh c { th.setX d.toNat (BitVec.ofNat 64 (c.th.pc.toNat + 4)) with pc := BitVec.ofNat 32 t, spin := {} }

/-- The push of a call has room (R179). -/
abbrev CallRoom (c : Ctx) (call : B1) : Prop := call = 1 → c.th.rstack.length < 16

/-- The thread of c replaced by one at PC + 4. -/
def wentOn (s : State) (c : Ctx) (th : Thread) : State :=
  s.setTh c ({ th with pc := c.th.pc + 4 } : Thread).checkSpin

/-- n lane instructions enter the queue one after another, or are skipped as retired with an empty mask (R173). -/
inductive Enqueues : Nat → State → Ctx → State → Ctx → Prop where
  | done (s : State) (c : Ctx) : Enqueues 0 s c s c
  | take (n : Nat) (s u t : State) (c c' : Ctx) (i : Instr) (w : Nat) :
      s.enqOne c = (u, .take i w) →
      Enqueues n (u.pushLane c i u.seq)
        { c with th := c.th.enqueue i w (if isMatrixLane i then u.seq else 0) (u.pushLane c i u.seq).seq c.th.pc } t c' →
      Enqueues (n + 1) s c t c'
  | skip (n : Nat) (s u t : State) (c c' : Ctx) :
      s.enqOne c = (u, .skip) →
      Enqueues n u { c with th := { c.th with lpc := c.th.lpc + 12 } } t c' →
      Enqueues (n + 1) s c t c'

/-- The slices of a sub-gang with a lane active and set in a predicate (R176). -/
def takenOf (th : Thread) (lp : W32) : BitVec 8 := takenSlices th lp

/-- One side of a part: its slices, the place it goes on, one level deeper, masks cut to its lanes (R176). -/
def SideOf (th o : Thread) (sl : BitVec 8) (taken : Bool) (pc : W32) : Prop :=
  th.slices = sl ∧ th.pc = pc ∧ th.path = taken :: o.path ∧ th.m = o.m &&& sliceMask sl ∧
    th.mstack = o.mstack.map (fun e => (e.1 &&& sliceMask sl, e.2)) ∧ th.x = o.x ∧ th.rstack = o.rstack ∧
    th.fmt = o.fmt ∧ th.msts = o.msts ∧ th.lpc = o.lpc

/-- Barrier n of the crew of c replaced (R181). -/
def setBar (s : State) (c : Ctx) (n : B4) (b : Barrier) : State :=
  s.updCrew c.ref.core c.gang.crew (fun cr => { cr with bars := SMap.set {} cr.bars n.toNat b })

/-! ### Control and status registers (R186) -/

/-- Registers that csr.rd reads on every core, with what they hold. -/
def csrTable : List (BitVec 12 × (State → Ctx → Nat)) := [
  (0x000, fun _ c => c.th.fmt.toNat), (0x001, fun _ c => c.th.msts.toNat), (0x002, fun _ c => c.th.srkey.toNat),
  (0x003, fun _ c => c.th.srctr.toNat), (0x005, fun s c => s.timeOf c.part), (0x006, fun _ c => c.th.m.toNat),
  (0x007, fun _ c => c.th.mstack.length + 256 * c.th.rstack.length + 65536 * c.th.path.length + 16777216 * c.th.lq.length),
  (0x008, fun _ c => c.th.lpc.toNat), (0x010, fun _ c => c.th.tvec.toNat), (0x011, fun _ c => c.th.tcause.toNat),
  (0x012, fun _ c => c.th.tepc.toNat), (0x013, fun _ c => c.th.tlpc.toNat), (0x014, fun _ c => c.th.tiss),
  (0x015, fun _ c => c.th.taddr.toNat), (0x016, fun _ c => c.th.tmaskr.toNat), (0x017, fun _ c => c.th.tenq.toNat),
  (0x018, fun _ c => c.th.tsaved.length), (0x01A, fun _ c => (c.th.tiw.getD 0 0).toNat),
  (0x01B, fun _ c => (c.th.tiw.getD 1 0).toNat), (0x01C, fun _ c => (c.th.tiw.getD 2 0).toNat),
  (0x01D, fun _ c => c.th.tsave.toNat)]

/-- Registers that csr.wr writes, with the thread after a write of v. -/
def csrWrites : List (BitVec 12 × (Thread → W64 → Thread)) := [
  (0x000, fun th v => { th with fmt := (v.truncate 32 &&& 0x0001FFFF#32) ||| (th.fmt &&& 0x0F000000#32 &&& ~~~v.truncate 32) }),
  (0x001, fun th v => { th with msts := (th.msts &&& 0x000000E0#32) ||| (th.msts &&& 0x0000001C#32 &&& ~~~v.truncate 32) }),
  (0x002, fun th v => { th with srkey := v }), (0x003, fun th v => { th with srctr := v }),
  (0x012, fun th v => { th with tepc := v.truncate 32 }), (0x013, fun th v => { th with tlpc := v.truncate 32 }),
  (0x019, fun th v => { th with tsaved := th.tsaved.drop v.toNat }), (0x01D, fun th v => { th with tsave := v })]

/-! ### Traps (R183, R184) -/

/-- The thread as a trap leaves it but for where it goes: the trap registers written, the lane queue empty. -/
def trapped (th : Thread) (t : TrapInfo) (cause : Nat) : Thread :=
  { th with
    tcause := BitVec.ofNat 32 (t.lane % 256 * 65536 + b2n t.enq * 32768 + b2n t.lq * 16384 + cause)
    tepc := t.tepc, tlpc := t.tlpc, tiss := t.tiss, taddr := t.taddr, tmaskr := t.tmaskr, tenq := t.tenq
    tsaved := t.saved, tiw := t.tiw, lq := [], issRem := 0, wait := .none, spin := {} }

/-- What a scalar fault at PC reports (R183): TEPC the instruction, TLPC the LPC, LANE the lowest lane of the mask (R187). -/
def faultAt (c : Ctx) (i : Instr) (cause : Nat) (addr : W64) (mask : W32) : TrapInfo :=
  { cause := cause, lane := ((span 0 32).find? (fun l => mask.getLsbD l)).getD 0xFF, tepc := c.th.pc, tlpc := c.th.lpc, taddr := addr, tmaskr := mask, tiw := tiwOf i }

end Sys2Proof.Claims

open Sys2Proof Sys2Proof.Machine Sys2Proof.Claims

/-- R188: each register operation of the scalar stream writes the result of its row to x[D] and goes on at PC + 4,
whatever the registers hold. A write to x0 is discarded (setX, R167). -/
def Sys2Proof.Claims.ScalarRegisterResults : Prop :=
  ∀ p ∈ erTable, ∀ (f : ER) (s : State) (c : Ctx), Ready s c →
    exec (p.1 f) s = .next (wrote s c f.d (p.2 (c.x f.a) (c.x f.b)))

/-- R188: each immediate operation writes its result with IMM15 sign-extended, and lui writes
sign-extend(IMM20) × 4,096; a shift immediate outside 0 to 63 is illegal. -/
def Sys2Proof.Claims.ScalarImmediateResults : Prop :=
  (∀ p ∈ eiTable, ∀ (f : EI) (s : State) (c : Ctx), Ready s c →
    exec (p.1 f) s = .next (wrote s c f.d (p.2 (c.x f.a) (f.i.signExtend 64)))) ∧
  (∀ (d : B5) (im : BitVec 20) (s : State) (c : Ctx), Ready s c →
    exec (.lui d im) s = .next (wrote s c d (BitVec.ofInt 64 (im.toInt * 4096)))) ∧
  (∀ (f : EI) (w : Nat), 64 ≤ f.i.toNat →
    scalarWord (.shli f) = some w ∨ scalarWord (.shri f) = some w ∨ scalarWord (.srai f) = some w → decodeScalar w = none)

/-- R167, R189: a load of z bytes at an aligned address writes the signed value of the bytes it reads to x[D]: those of
the crew's core memory, those that the edge core's access returns, or those of a management core's access. It waits for the queued
lane accesses that come before it (R86, R89; log entry 82). -/
def Sys2Proof.Claims.ScalarLoadResults : Prop :=
  ∀ p ∈ loads, ∀ (f : EM) (s : State) (c : Ctx), May s c .common (emPlace f) →
    emPlaceOf c f p.2 % p.2 = 0 →
    (f.c = 1 → emPlaceOf c f p.2 + p.2 ≤ 1024 * c.crew.cmemKiB →
      exec (p.1 f) s = .next (wrote s c f.d (signedBytes (SMap.getN 0 c.crew.cmem (emPlaceOf c f p.2) p.2)))) ∧
    (f.c = 0 → c.th.laneFirst (f.s == 1) = true → exec (p.1 f) s = .next s) ∧
    (∀ (u : State) (bs : List Byte), f.c = 0 → c.th.laneFirst (f.s == 1) = false → c.isMgmt = false → bs.length = p.2 →
      s.edgeLoad c c.sg (emPlaceOf c f p.2) p.2 (f.s == 1) f.o.toNat f.k.toNat 0 = (u, .ok bs) →
      exec (p.1 f) s = .next (wrote (u.clearRemote c.iss c.sg) c f.d (signedBytes bs))) ∧
    (∀ (u : State) (bs : List Byte), f.c = 0 → c.th.laneFirst (f.s == 1) = false → c.isMgmt = true → bs.length = p.2 →
      s.mgmtRead c (emPlaceOf c f p.2) p.2 = (u, .ok bs) →
      exec (p.1 f) s = .next (wrote (u.clearRemote c.iss c.sg) c f.d (signedBytes bs)))

/-- R189: a store of z bytes at an aligned address writes the low z bytes of x[D] to the crew's core memory, or by the
edge core's or the management core's access, and goes on at PC + 4 without a spin mark (R52). A release first writes back
the L1 and gathers its markers (R87, R103). It waits for the queued lane accesses that come before it (R86, R89; log entry 82). -/
def Sys2Proof.Claims.ScalarStoreResults : Prop :=
  ∀ p ∈ stores, ∀ (f : EM) (s : State) (c : Ctx), May s c .commit (emPlace f) →
    emPlaceOf c f p.2 % p.2 = 0 →
    (f.c = 1 → emPlaceOf c f p.2 + p.2 ≤ 1024 * c.crew.cmemKiB →
      exec (p.1 f) s = .next (wentOnClear (s.updCrew c.ref.core c.gang.crew (fun cr =>
        { cr with cmem := SMap.setN 0 cr.cmem (emPlaceOf c f p.2) (lowBytes p.2 (c.x f.d)) })) c c.th)) ∧
    (f.c = 0 → c.th.laneFirst true = true → exec (p.1 f) s = .next s) ∧
    (∀ v g u : State, f.c = 0 → c.th.laneFirst true = false → c.isMgmt = false → let bs := lowBytes p.2 (c.x f.d)
      s.edgeStore c (emPlaceOf c f p.2) bs (f.s == 1) f.k.toNat = .ok v →
      Gated (f.s == 1 && f.o == 2) s c c.sg f.k.toNat (s.addrDev c (emPlaceOf c f p.2)) g →
      g.edgeStore c (emPlaceOf c f p.2) bs (f.s == 1) f.k.toNat = .ok u →
      exec (p.1 f) s = .next (wentOnClear u c c.th)) ∧
    (∀ v g u : State, f.c = 0 → c.th.laneFirst true = false → c.isMgmt = true → let bs := lowBytes p.2 (c.x f.d)
      s.mgmtWrite c (emPlaceOf c f p.2) bs = .ok v →
      Gated (f.s == 1 && f.o == 2) s c c.sg f.k.toNat (s.addrDev c (emPlaceOf c f p.2)) g →
      g.mgmtWrite c (emPlaceOf c f p.2) bs = .ok u →
      exec (p.1 f) s = .next (wentOnClear u c (u.mgmt c.hub).th))

/-- R85, R87, R103, R191: an amo of z bytes at an aligned address whose place and access answer writes the old value,
sign-extended, to x[D]; the new value is that of its operation on the low z bytes of x[B] and x[D]. A release writes back the
L1 and gathers its markers before it is sent, an acquire drops the clean lines after, and one that writes another value than it
read clears the spin mark (R52; the model's reading of a change of memory, log entry 75). It performs once no lane access that
comes before it is queued (R86, R89; log entry 82). -/
def Sys2Proof.Claims.AtomicResults : Prop :=
  (∀ p ∈ atomicCodes, ∀ z old b e : Nat, amoNew p.1 z old b e = p.2 z old b e) ∧
  ∀ (f : AmoF) (s g u : State) (c : Ctx) (l : Loc) (old : List Byte), May s c .commit .both →
    let z := if f.z = 1 then 8 else 4
    let sc := f.s.toNat
    let b := (c.x f.b).toNat % 2 ^ (8 * z)
    let e := (c.x f.d).toNat % 2 ^ (8 * z)
    let sent := s.remoteOps.any (fun r => r.who == c.iss && r.sg == c.sg && r.atomic)
    (c.x f.a).toNat % z = 0 → c.th.laneFirst true = false → s.amoLoc c sc (c.x f.a).toNat = .ok l → old.length = z →
    Gated ((f.r == 2 || f.r == 3) && !sent) s c c.sg sc (match l with | .remote d _ => [d] | _ => []) g →
    g.amoAt c sc z (fun o => amoNew f.o.toNat z o b e) (lowBytes z (c.x f.b) ++ lowBytes z (c.x f.d)) l = (u, .ok old) →
    let v := if (f.r = 1 ∨ f.r = 3) ∧ c.isMgmt = false then u.acquire c.ref.core sc else u
    let th := if ∃ n, amoNew f.o.toNat z (leNat old) b e = some n ∧ n ≠ leNat old then { v.thNow c with spin := {} } else v.thNow c
    exec (.amo f) s = .next ((v.clearRemote c.iss c.sg).setTh c
      ({ th.setX f.d.toNat (signedBytes old) with pc := (v.thNow c).pc + 4 } : Thread).checkSpin)

/-- R190: a branch whose condition fails goes on at PC + 4; one whose condition holds goes to PC + 4 × DISP15 when that
lies in the section, and otherwise takes cause 0x13 at its PC. Only PC and the spin mark of the thread change: falling through the
branch that closes a loop clears the mark (R52). -/
def Sys2Proof.Claims.BranchResults : Prop :=
  ∀ p ∈ branchTable, ∀ (f : EB) (s : State) (c : Ctx), Ready s c → Untraced s c → s.codeLen c ≤ 2 ^ 32 →
    (¬ p.2 (c.x f.a) (c.x f.b) → exec (p.1 f) s = .next (fellOn s c)) ∧
    (p.2 (c.x f.a) (c.x f.b) → ∀ t : Nat, (t : Int) = jumpPc c f.i.toInt → GoodTarget s c t →
      ∃ sp : Spin, exec (p.1 f) s = .next
        (let u := s.setTh c { c.th with pc := BitVec.ofNat 32 t, spin := sp }
         if c.isMgmt then u else u.spinSwap c.ref.core)) ∧
    (p.2 (c.x f.a) (c.x f.b) → c.th.lq = [] → (∀ t : Nat, (t : Int) = jumpPc c f.i.toInt → ¬ GoodTarget s c t) →
      exec (p.1 f) s = .next (s.takeTrap c (faultAt c (p.1 f) 0x13 0 0)))

/-- R179, R180: jal, jr and jr.w push (PC + 4, LPC) when they call, write PC + 4 to x[D] and go to their target, which
jr reads before the link is written and jr.w takes from the active lanes; ret pops PC and LPC. -/
def Sys2Proof.Claims.JumpResults : Prop :=
  ∀ (s : State) (c : Ctx), Ready s c → Untraced s c →
    (∀ (d : B5) (call : B1) (im : BitVec 19) (t : Nat), (t : Int) = jumpPc c im.toInt → GoodTarget s c t → CallRoom c call →
      exec (.jal d call im) s = .next (jumped s c d call t)) ∧
    (∀ (d a : B5) (call : B1), GoodTarget s c (c.x a).toNat → CallRoom c call →
      exec (.jr d a call) s = .next (jumped s c d call (c.x a).toNat)) ∧
    (∀ (d : B5) (call : B1) (n : B7) (v : W32), c.isMgmt = false → c.th.lq = [] → c.th.m ≠ 0 →
      (∀ l < 32, c.th.m.getLsbD l = true → c.gang.getW l n.toNat = v) → GoodTarget s c v.toNat → CallRoom c call →
      exec (.jrW d call n) s = .next (jumped s c d call v.toNat)) ∧
    (∀ (p l : W32) (rest : List (W32 × W32)), c.th.rstack = (p, l) :: rest →
      exec .ret s = .next (s.setTh c { c.th with pc := p, lpc := l, rstack := rest, spin := {} }))

/-- R3, R59, R175, R190: fmt xA takes the RW bits and clears sticky bits written 1 but those set in this cycle; fmt imm sets [16:0]; mpush saves M and
fmt[16:0] and narrows M; minv takes the other side of the saved mask; mpop restores; bz.m branches on an empty mask. -/
def Obligations.MaskAndFormatResults : Prop :=
  ∀ (s : State) (c : Ctx), Ready s c →
    (∀ a : B5, exec (.fmt a) s = .next (wentOn s c (hotKept s c { c.th with
      fmt := ((c.x a).truncate 32 &&& 0x0001FFFF#32) ||| (c.th.fmt &&& 0x0F000000#32 &&& ~~~(c.x a).truncate 32) }))) ∧
    (∀ im : BitVec 17, exec (.fmtImm im) s = .next (wentOn s c { c.th with
      fmt := (c.th.fmt &&& 0xFFFE0000#32) ||| im.zeroExtend 32 })) ∧
    (c.isMgmt = false →
      (∀ p : B3, c.th.lq = [] → c.th.mstack.length < 16 → exec (.mpush p) s = .next (wentOn s c { c.th with
        mstack := (c.th.m, c.th.fmt.truncate 17) :: c.th.mstack, m := c.th.m &&& c.gang.getLp p.toNat })) ∧
      (∀ (m : W32) (k : BitVec 17) (rest : List (W32 × BitVec 17)), c.th.mstack = (m, k) :: rest →
        exec .minv s = .next (wentOn s c { c.th with
          m := m &&& ~~~c.th.m, fmt := (c.th.fmt &&& 0xFFFE0000#32) ||| k.zeroExtend 32 }) ∧
        exec .mpop s = .next (wentOn s c { c.th with
          m := m, mstack := rest, fmt := (c.th.fmt &&& 0xFFFE0000#32) ||| k.zeroExtend 32 })) ∧
      (∀ im : BitVec 19, c.th.m ≠ 0 → Untraced s c → exec (.bzM im) s = .next (fellOn s c)) ∧
      (∀ (im : BitVec 19) (t : Nat), c.th.m = 0 → Untraced s c → s.codeLen c ≤ 2 ^ 32 → (t : Int) = jumpPc c im.toInt → GoodTarget s c t →
        ∃ sp : Spin, exec (.bzM im) s = .next (State.spinSwap (s.setTh c { c.th with pc := BitVec.ofNat 32 t, spin := sp }) c.ref.core)))

/-- R173, R174: lane.iss enqueues its batch and goes on at PC + 4, each instruction with its copies of M, fmt[16:0] and
the scalar operand, LPC past it; lane.jmp sets LPC to a multiple of 12 within the section. -/
def Obligations.LaneStreamResults : Prop :=
  (∀ (n : B4) (s t : State) (c c' : Ctx), May s c .lane .edge → Untraced s c → c.th.issRem = 0 →
    Enqueues (n.toNat + 1) s { c with th := c.th.clearSpin } t c' →
    exec (.laneIss n) s = .next (t.setTh c' { c'.th with pc := c'.th.pc + 4, issRem := 0 })) ∧
  (∀ (th : Thread) (i : Instr) (w uid ord : Nat) (pc : W32), ∃ e : LaneEntry,
    (th.enqueue i w uid ord pc).lq = th.lq ++ [e] ∧ (th.enqueue i w uid ord pc).lpc = th.lpc + 12 ∧
    e.word = BitVec.ofNat 96 w ∧ e.mask = th.m ∧ e.fmt = th.fmt.truncate 17 ∧ e.pc = pc ∧ e.uid = uid ∧ e.srctr = th.srctr ∧
    (namesX i = true → e.xop = th.getX (w / 2 ^ 26 % 32))) ∧
  (∀ (s : State) (c : Ctx) (im : BitVec 19) (t : Nat), May s c .lane .edge →
    (t : Int) = c.th.lpc.toNat + 12 * im.toInt → t % 12 = 0 → t ≤ c.desc.ellen →
    exec (.laneJmp im) s = .next (wentOn s c { c.th with lpc := BitVec.ofNat 32 t, spin := {} })) ∧
  (∀ (s : State) (c : Ctx) (a : B5), May s c .lane .edge → (c.x a).toNat % 12 = 0 → (c.x a).toNat ≤ c.desc.ellen →
    exec (.laneJmpInd a) s = .next (wentOn s c { c.th with lpc := BitVec.ofNat 32 (c.x a).toNat, spin := {} }))

/-- R176: a part splits the sub-gang: the slices with an active lane set in the predicate go on at the label, the others
at PC + 4, one level deeper; a side with no slice does not exist. -/
def Sys2Proof.Claims.PartSplitsTheSubGang : Prop :=
  ∀ (p : B3) (im : BitVec 19) (s : State) (c : Ctx) (t : Nat), Drained s c → c.isMgmt = false → Untraced s c →
    c.th.path.length < 8 → (t : Int) = jumpPc c im.toInt → GoodTarget s c t →
    let tk := takenOf c.th (c.gang.getLp p.toNat)
    let fl := c.th.slices &&& ~~~tk
    ∃ (u : State) (g : Gang), exec (.part p im) s = .next u ∧ alGet (u.core c.ref.core).gangs c.ref.slot = some g ∧
      g.w = c.gang.w ∧ g.lp = c.gang.lp ∧ g.h = c.gang.h ∧
      (tk ≠ 0 → ∃ th, alGet g.subs (lowSlice tk) = some th ∧ SideOf th c.th tk true (BitVec.ofNat 32 t)) ∧
      (fl ≠ 0 → ∃ th, alGet g.subs (lowSlice fl) = some th ∧ SideOf th c.th fl false (c.th.pc + 4))

/-- R177, R181: regang has no effect at depth 0, goes on alone once its sibling has exited, waits for a sibling that runs,
and merges with one that waits at the same place; bar releases every arrived gang at the count, and waits below it. -/
def Sys2Proof.Claims.RegangAndBarrierResults : Prop :=
  ∀ (s : State) (c : Ctx), Drained s c → c.isMgmt = false → Untraced s c →
    (c.th.path = [] → exec .regang s = .next (wentOn s c c.th)) ∧
    (∀ (b : Bool) (rest : List Bool), c.th.path = b :: rest →
      (siblings c.gang c.th.path = [] →
        exec .regang s = .next (s.setTh c { c.th with pc := c.th.pc + 4, path := rest })) ∧
      (∀ (k : Nat) (o : Thread) (more : List (Nat × Thread)), siblings c.gang c.th.path = (k, o) :: more →
        (o.wait ≠ .regang → exec .regang s = .next (s.setTh c { c.th with wait := .regang })) ∧
        (o.wait = .regang → o.path.length = c.th.path.length → o.pc = c.th.pc → o.lpc = c.th.lpc →
          o.mstack.length = c.th.mstack.length →
          ∃ m : Thread, exec .regang s = .next (s.setGang c (fun g =>
            { g with subs := alPut (alDel (alDel g.subs k) c.ref.sub) (lowSlice m.slices) m })) ∧
          m.slices = c.th.slices ||| o.slices ∧ m.m = c.th.m ||| o.m ∧ m.path = rest ∧ m.pc = c.th.pc + 4 ∧
          m.x = (if lowSlice c.th.slices < lowSlice o.slices then c.th.x else o.x)))) ∧
    (∀ (a : B5) (n : B4) (cnt : Nat), c.th.path = [] →
      cnt = (if a = 0 then c.crew.egangs else (c.x a).toNat) → 0 < cnt → cnt ≤ c.crew.egangs →
      let bar := SMap.get {} c.crew.bars n.toNat
      (bar.arrived = [] ∨ bar.count = cnt) →
      (cnt ≤ (insKey c.gang.num bar.arrived).length →
        exec (.bar a n) s = .next (((setBar s c n {}).barRelease c.ref.core c.gang.crew n.toNat).setTh c
          { c.th with pc := c.th.pc + 4, spin := {} })) ∧
      ((insKey c.gang.num bar.arrived).length < cnt →
        exec (.bar a n) s = .next (((setBar s c n { count := cnt, arrived := insKey c.gang.num bar.arrived }).setTh c
          { c.th with wait := .bar n.toNat, waitWord := (tiwOf (.bar a n)).headD 0 }).barCheck c.ref.core c.gang.crew n.toNat)))

/-- R186: csr.rd writes what the register of its number holds to x[D], fmt and MSTS once the lane queue has drained;
csr.wr changes the register of its number alone, but that bits of fmt and MSTS set in this cycle end set (R3); MASID takes four bits on a management core. -/
def Obligations.CsrResults : Prop :=
  (∀ p ∈ csrTable, ∀ (d : B5) (s : State) (c : Ctx), Ready s c → (p.1.toNat < 2 → c.th.lq = []) →
    exec (.csrRd d p.1) s = .next (wrote s c d (BitVec.ofNat 64 (p.2 s c)))) ∧
  (∀ p ∈ csrWrites, ∀ (a : B5) (s : State) (c : Ctx), Ready s c → c.gang.role = 0 →
    exec (.csrWr a p.1) s = .next (wentOn s c (hotKept s c (p.2 c.th (c.x a))))) ∧
  (∀ (a : B5) (s : State) (c : Ctx), Ready s c → c.gang.role = 0 → (c.x a).toNat % 4 = 0 →
    exec (.csrWr a 0x010) s = .next (wentOn s c (hotKept s c { c.th with tvec := (c.x a).truncate 32 }))) ∧
  (∀ (a : B5) (s : State) (c : Ctx), Ready s c → c.gang.role = 0 → (c.x a).toNat ≤ 16 →
    exec (.csrWr a 0x014) s = .next (wentOn s c (hotKept s c { c.th with tiss := (c.x a).toNat }))) ∧
  (∀ (d : B5) (s : State) (c : Ctx), Ready s c → c.isMgmt = true →
    exec (.csrRd d 0x040) s = .next (wrote
      (s.setMgmt c.hub { s.mgmt c.hub with events := (s.mgmt c.hub).events.drop 1 }) c d ((s.mgmt c.hub).events.headD 0)) ∧
    exec (.csrRd d 0x042) s = .next (wrote s c d (BitVec.ofNat 64 (s.mgmt c.hub).events.length)) ∧
    exec (.csrRd d 0x041) s = .next (wrote s c d (BitVec.ofNat 64 (s.mgmt c.hub).masid.toNat))) ∧
  (∀ (d : B5) (s : State) (c : Ctx), Ready s c → ∃ v : Nat, exec (.csrRd d 0x004) s = .next (wrote s c d (BitVec.ofNat 64 v))) ∧
  (∀ (a : B5) (s : State) (c : Ctx), Ready s c → c.gang.role = 0 → c.isMgmt = true → exec (.csrWr a 0x041) s =
    .next (wentOn (s.setMgmt c.hub { s.mgmt c.hub with masid := BitVec.ofNat 32 ((c.x a).toNat % 16) }) c c.th))

/-- R88, R184, R185, R192: exit ends the sub-gang, or the crew's work in a handler; eret resumes a trapped thread;
a fence with release writes back the core's L1 and gathers its markers, one with acquire drops the clean lines, and both go on. -/
def Sys2Proof.Claims.ExitReturnFenceResults : Prop :=
  ∀ (s : State) (c : Ctx), Drained s c →
    (c.isMgmt = false → c.th.tmode = false → exec .exit s = .next (s.endSub c)) ∧
    (c.isMgmt = false → c.th.tmode = true → exec .exit s = .next (s.terminateCrew c.ref.core c.gang.crew)) ∧
    (c.th.tmode = true → Untraced s c → (∀ e ∈ c.th.tsaved, decodeLane e.word.toNat ≠ none) → ∃ (u : State) (q : List LaneEntry),
      exec .eret s = .next (u.setTh c { c.th with
        tmode := false, lpc := c.th.tlpc, pc := c.th.tepc, issRem := c.th.tiss, lq := q, tsaved := [], tiss := 0
        parked := false, wait := .none, spin := {} }) ∧
      u.mem = s.mem ∧ q.map (fun e => { e with uid := 0 }) = c.th.tsaved.map (fun e => { e with uid := 0 }) ∧
      ((∀ e ∈ c.th.tsaved, ∀ i, decodeLane e.word.toNat = some i → isMatrixLane i = false) → u = s ∧ q = c.th.tsaved)) ∧
    (∀ (sc : B3) (k : B2) (g : State), Gated (k != 0) s c c.sg sc.toNat [] g →
      exec (.fence sc k) s = .next (
        wentOn (if c.isMgmt = false ∧ k ≠ 1 ∧ 3 ≤ sc.toNat then g.invalClean c.ref.core (fun _ => true) else g) c c.th))

/-- R126, R168, R192: trap raises cause 0x15 with TADDR its code; an unassigned word raises cause 0x01 and a fetch outside
the section cause 0x13, at their PC. -/
def Sys2Proof.Claims.TrapInstructionResults : Prop :=
  ∀ (s : State) (c : Ctx), Drained s c →
    (∀ code : BitVec 16, exec (.trap code) s = .next (s.takeTrap c (faultAt c (.trap code) 0x15 (code.zeroExtend 64) 0))) ∧
    (∀ w : W32, exec (.illegalInstruction w) s = .next (s.takeTrap c { faultAt c (.illegalInstruction w) 0x01 0 0 with
      tiw := [w, 0, 0] })) ∧
    exec .scalarFetchOutOfRange s = .next (s.takeTrap c (faultAt c .scalarFetchOutOfRange 0x13 0 0))

/-- R126, R168, R174 to R181, R185, R186: where the control instructions trap, at their PC and with nothing changed: a
target outside its section, the lane stream's too, with cause 0x13, a full or an empty stack with 0x0A to 0x0D, a jump over no lane or unlike lanes with
0x09, a part too deep with 0x16, a barrier count out of range or a bar at a depth above 0 with 0x0F, both sub-gangs of a regang at unlike
places with 0x0E, and eret outside a handler or a register that may not be
read or written with 0x01. -/
def Sys2Proof.Claims.ControlFaultResults : Prop :=
  ∀ (s : State) (c : Ctx), Drained s c →
    let traps := fun (i : Instr) (cause : Nat) (mask : W32) => exec i s = .next (s.takeTrap c (faultAt c i cause 0 mask))
    (c.th.rstack = [] → traps .ret 0x0B 0) ∧ (c.th.tmode = false → traps .eret 0x01 0) ∧
    (∀ (d a : B5) (call : B1) (im : BitVec 19), s.codeLen c ≤ 2 ^ 32 →
      ((∀ t : Nat, (t : Int) = jumpPc c im.toInt → ¬ GoodTarget s c t) → traps (.jal d call im) 0x13 0 ∧
        (c.isMgmt = false → c.th.m = 0 → traps (.bzM im) 0x13 0) ∧
        (∀ p : B3, c.isMgmt = false → c.th.path.length < 8 → traps (.part p im) 0x13 0)) ∧
      (¬ GoodTarget s c (c.x a).toNat → traps (.jr d a call) 0x13 0) ∧
      (call = 1 → 16 ≤ c.th.rstack.length → (∀ t : Nat, (t : Int) = jumpPc c im.toInt → GoodTarget s c t → traps (.jal d call im) 0x0A 0) ∧
        (GoodTarget s c (c.x a).toNat → traps (.jr d a call) 0x0A 0))) ∧
    (∀ (d : B5) (n : BitVec 12), 0x042 < n.toNat ∨ (c.isMgmt = false ∧ 0x040 ≤ n.toNat) → traps (.csrRd d n) 0x01 0) ∧
    (∀ x : B5, ((c.x x).toNat % 4 ≠ 0 → traps (.csrWr x 0x010) 0x01 0) ∧ (16 < (c.x x).toNat → traps (.csrWr x 0x014) 0x01 0)) ∧
    (∀ (x : B5) (n : BitVec 12), n.toNat ∈ [0x004, 0x005, 0x006, 0x007, 0x008, 0x011, 0x015, 0x016, 0x017, 0x018, 0x01A, 0x01B, 0x01C, 0x042] →
      traps (.csrWr x n) 0x01 0) ∧
    (c.isMgmt = false →
      (∀ (d : B5) (call : B1) (n : B7), (CallRoom c call → c.th.m = 0 → traps (.jrW d call n) 0x09 0) ∧
        (¬ CallRoom c call → c.th.m = 0 → traps (.jrW d call n) 0x0A 0) ∧
        (CallRoom c call → ∀ l < 32, c.th.m.getLsbD l = true → (∀ k < l, c.th.m.getLsbD k = false) →
          let bad := (span 0 32).filter (fun k => c.th.m.getLsbD k && c.gang.getW k n.toNat != c.gang.getW l n.toNat)
          bad ≠ [] → traps (.jrW d call n) 0x09 (maskOf bad))) ∧
      (∀ (p : B3) (im : BitVec 19), (16 ≤ c.th.mstack.length → traps (.mpush p) 0x0C 0) ∧
        (8 ≤ c.th.path.length → traps (.part p im) 0x16 0)) ∧
      (c.th.mstack = [] → traps .minv 0x0D 0 ∧ traps .mpop 0x0D 0) ∧
      (∀ (a : B5) (n : B4), let cnt := if a = 0 then c.crew.egangs else (c.x a).toNat
        cnt = 0 ∨ c.crew.egangs < cnt ∨ c.th.path ≠ [] → traps (.bar a n) 0x0F 0) ∧
      (c.gang.role ≠ 1 → c.desc.ellen < 2 ^ 32 →
        (∀ im : BitVec 19, (∀ t : Nat, (t : Int) = c.th.lpc.toNat + 12 * im.toInt → t % 12 ≠ 0 ∨ c.desc.ellen < t) →
          traps (.laneJmp im) 0x13 0) ∧
        (∀ a : B5, (c.x a).toNat % 12 ≠ 0 ∨ c.desc.ellen < (c.x a).toNat → traps (.laneJmpInd a) 0x13 0)) ∧
      (∀ (k : Nat) (o : Thread) (more : List (Nat × Thread)), c.th.path ≠ [] → siblings c.gang c.th.path = (k, o) :: more →
        o.wait = .regang → o.path.length = c.th.path.length →
        o.pc ≠ c.th.pc ∨ o.lpc ≠ c.th.lpc ∨ o.mstack.length ≠ c.th.mstack.length →
        let v := s.takeTrap c (faultAt c .regang 0x0E 0 0)
        (v.subGang { c.ref with sub := k } = none → exec .regang s = .next v) ∧
        (∀ oc : Ctx, v.subGang { c.ref with sub := k } = some oc →
          exec .regang s = .next (v.takeTrap oc (faultAt oc .regang 0x0E 0 0)))))

/-- R183, R184, R187: TAKING A TRAP. A sub-gang with a handler writes its trap registers, enters TVEC with TMODE 1 and an
empty lane queue; one whose cause goes to the management core, or with no handler, parks and raises a kind-1 event with its
handle; a management core with no handler halts. Everything else of the thread stands, and what it has outstanding on other
devices is dropped (R185). -/
def Sys2Proof.Claims.TakingATrap : Prop :=
  ∀ (s : State) (c : Ctx) (t : TrapInfo), c.th.wait = .none → Untraced s c → c.th.tmode = false →
    let r := s.dropRemotes c
    (c.isMgmt = false → c.th.tvec ≠ 0 → t.cause ≠ 4 → t.cause ≠ 0x14 → t.cause ≠ 0x17 →
      s.takeTrap c t = r.setTh c { trapped c.th t t.cause with tmode := true, pc := c.th.tvec }) ∧
    (c.isMgmt = false → (c.th.tvec = 0 ∨ t.cause = 4 ∨ t.cause = 0x14 ∨ t.cause = 0x17) →
      s.takeTrap c t = (let u := r.setTh c { trapped c.th t t.cause with parked := true }
        let u := u.setTrc c.unit { u.trc c.unit with needSync := true }
        u.pushEvent (u.shub c.part) (2 ^ 56 + (c.ref.core * 256 + c.ref.slot * 16 + c.ref.sub)))) ∧
    (c.isMgmt = true → c.th.tvec ≠ 0 →
      s.takeTrap c t = r.setTh c { trapped c.th t t.cause with tmode := true, pc := c.th.tvec }) ∧
    (c.isMgmt = true → c.th.tvec = 0 →
      s.takeTrap c t = (r.setMgmt c.hub { r.mgmt c.hub with th := trapped c.th t t.cause, halted := true }).raiseHf c.hub)

/-- R182, R184: a trap taken while TMODE is 1 has cause 0x17 whatever raised it: a sub-gang parks, a management core halts. -/
def Sys2Proof.Claims.TrapInAHandler : Prop :=
  ∀ (s : State) (c : Ctx) (t : TrapInfo), c.th.wait = .none → Untraced s c → c.th.tmode = true →
    let r := s.dropRemotes c
    (c.isMgmt = false →
      s.takeTrap c t = (let u := r.setTh c { trapped c.th t 0x17 with parked := true }
        let u := u.setTrc c.unit { u.trc c.unit with needSync := true }
        u.pushEvent (u.shub c.part) (2 ^ 56 + (c.ref.core * 256 + c.ref.slot * 16 + c.ref.sub)))) ∧
    (c.isMgmt = true →
      s.takeTrap c t = (r.setMgmt c.hub { r.mgmt c.hub with th := trapped c.th t 0x17, halted := true }).raiseHf c.hub)

/-- R189, R191: an access at an address that is no multiple of its size takes cause 0x06 with TADDR the address, and
nothing is read or written. -/
def Sys2Proof.Claims.MisalignedScalarAccess : Prop :=
  (∀ p ∈ loads, ∀ (f : EM) (s : State) (c : Ctx), May s c .common (emPlace f) → c.th.lq = [] →
    emPlaceOf c f p.2 % p.2 ≠ 0 →
    exec (p.1 f) s = .next (s.takeTrap c (faultAt c (p.1 f) 0x06 (BitVec.ofNat 64 (emPlaceOf c f p.2)) 0))) ∧
  (∀ p ∈ stores, ∀ (f : EM) (s : State) (c : Ctx), May s c .commit (emPlace f) → c.th.lq = [] →
    emPlaceOf c f p.2 % p.2 ≠ 0 →
    exec (p.1 f) s = .next (s.takeTrap c (faultAt c (p.1 f) 0x06 (BitVec.ofNat 64 (emPlaceOf c f p.2)) 0))) ∧
  (∀ (f : AmoF) (s : State) (c : Ctx), May s c .commit .both → c.th.lq = [] →
    (c.x f.a).toNat % (if f.z = 1 then 8 else 4) ≠ 0 →
    exec (.amo f) s = .next (s.takeTrap c (faultAt c (.amo f) 0x06 (c.x f.a) 0)))

/-- The input by which a tlbinv reaches the epoch boundary (R314). -/
def Sys2Proof.Claims.invalInput (c : Ctx) (a : B5) (z : B3) : ExtInput :=
  { kind := 4, op := 3, addr := (c.x a).toNat, val := z.zeroExtend 64, arg := c.hub }

/-- R194 to R197: on a management core, wfe goes on when an event is pending; tlbinv empties the TLBs of a page; gst.rd
reads a state word of a parked sub-gang, gst.wr writes one and gst.res resumes it. Under determinism the last two, and
tlbinv for a partition of the mode, wait for the epoch boundary. -/
def Sys2Proof.Claims.SystemResults : Prop :=
  ∀ (s : State) (c : Ctx), Ready s c → c.isMgmt = true →
    ((s.mgmt c.hub).events ≠ [] → exec .wfe s = .next (wentOn s c c.th)) ∧
    (∀ (a : B5) (z : B3), s.determ = false ∨ s.isPart c.part = false →
      exec (.tlbinv a z) s = .next (wentOn (s.tlbInv c.part (c.x a).toNat z.toNat) c c.th)) ∧
    (∀ (f : ER) (g : Ctx) (v : Nat), s.parkedOf (c.x f.a).toNat = some g → stateWord g (c.x f.b).toNat = some v →
      exec (.gstRd f) s = .next (wrote s c f.d (BitVec.ofNat 64 v))) ∧
    (∀ (f : ER) (g : Ctx), s.parkedOf (c.x f.d).toNat = some g → stateWord g (c.x f.b).toNat ≠ none →
      ((c.x f.b).toNat = 0x22 → (c.x f.a).toNat ≤ 16) → s.determ = false →
      exec (.gstWr f) s = .next (wentOn (s.putWord g (c.x f.b).toNat (c.x f.a)) c c.th)) ∧
    (∀ (a : B5) (g : Ctx), s.parkedOf (c.x a).toNat = some g → s.determ = false →
      exec (.gstRes a) s = .next (wentOn (s.resume g) c c.th)) ∧
    (s.determ = true →
      (∀ (a : B5) (z : B3), s.isPart c.part = true → exec (.tlbinv a z) s = .next
        ((s.deferInput c.part (invalInput c a z)).setTh c { c.th with wait := .inval })) ∧
      (∀ (f : ER) (g : Ctx), s.parkedOf (c.x f.d).toNat = some g → stateWord g (c.x f.b).toNat ≠ none →
        ((c.x f.b).toNat = 0x22 → (c.x f.a).toNat ≤ 16) →
        exec (.gstWr f) s = .next (wentOn (s.deferInput g.part
          { kind := 4, op := 1, addr := (c.x f.b).toNat, arg := (c.x f.d).toNat, val := c.x f.a }) c c.th)) ∧
      (∀ (a : B5) (g : Ctx), s.parkedOf (c.x a).toNat = some g →
        exec (.gstRes a) s = .next (wentOn (s.deferInput g.part { kind := 4, op := 2, arg := (c.x a).toNat }) c c.th)))

/-- R195, R314: a tlbinv that waits under determinism goes on once the epoch boundary has taken its input. -/
def Sys2Proof.Claims.InvalidationWaitsForTheEpoch : Prop :=
  ∀ (s : State) (c : Ctx) (a : B5) (z : B3), s.ctx = some c → c.isMgmt = true → c.th.parked = false →
    (c.crew.stopReq && c.th.lq == [] && c.th.issRem == 0) = false → c.th.posted = [] → c.th.wait = .inval → s.determ = true → s.isPart c.part = true →
    exec (.tlbinv a z) s = .next
      (if invalInput c a z ∈ (s.part c.part).inputs then s else wentOn s c { c.th with wait := .none })

/-! ## Tile engines -/

namespace Sys2Proof.Claims

/-- Tile engine e acts and its instance runs. -/
abbrev Runs (s : State) (e : Nat) : Prop := s.cur = .tile e ∧ (s.tile e).run = .running

/-- The instance of engine e at its step, the results due landed (R139, R145). -/
def atStep (s : State) (e : Nat) : Tile := (s.tile e).land (s.tile e).t

/-- The instance of engine e becomes t, and one operation more has issued. -/
def tileAfter (s : State) (e : Nat) (t : Tile) : State := { s.setTile e t with seq := s.seq + 1 }

/-- The instance with results in flight: one of latency L lands L steps on, and at the next step in P-form (R139, R154). -/
def inFlight (t : Tile) (order : Nat) (xs : List (Nat × Land)) : Tile :=
  { t with flights := t.flights ++ xs.map (fun x =>
      { step := t.t + (if t.form = 1 then 1 else x.1), order := order, what := x.2 }) }

/-- The operation launches results and does nothing else. -/
def launches (s : State) (e : Nat) (xs : List (Nat × Land)) : State :=
  tileAfter s e (inFlight (atStep s e) s.seq xs)

/-- The bytes w of the scratchpad from a on written (R140). -/
def padStored (s : State) (e : Nat) (ws : List (Nat × List Byte)) : State :=
  tileAfter s e (ws.foldl (fun t w => t.padWrite w.1 w.2) (atStep s e))

/-- Av of R155. -/
def saLeft (t : Tile) (f : SA) : W64 := if f.qa = 1 then t.latch (f.a.toNat % 4) else t.sreg f.a.toNat

/-- Bv of R155: [9:5] of the field is the register or latch, bit 4 is QB. -/
def saRight (t : Tile) (f : SA) : W64 :=
  if f.i = 1 then BitVec.ofInt 64 f.lo.toInt
  else if f.lo.toNat / 16 % 2 = 1 then t.latch (f.lo.toNat / 32 % 4) else t.sreg (f.lo.toNat / 32)

/-- The two-operand operations with their latencies (R141, R155). -/
def saTable : List ((SA → Instr) × Nat × (W64 → W64 → W64)) := [
  (.teAdd, 1, fun a b => BitVec.ofNat 64 (a.toNat + b.toNat)),
  (.teSub, 1, fun a b => BitVec.ofInt 64 (a.toInt - b.toInt)),
  (.teAnd, 1, fun a b => a &&& b),
  (.teOr, 1, fun a b => a ||| b),
  (.teXor, 1, fun a b => a ^^^ b),
  (.teAndn, 1, fun a b => a &&& ~~~b),
  (.teShl, 1, fun a b => BitVec.ofNat 64 (a.toNat * 2 ^ (b.toNat % 64))),
  (.teShr, 1, fun a b => BitVec.ofNat 64 (a.toNat / 2 ^ (b.toNat % 64))),
  (.teSra, 1, fun a b => BitVec.ofInt 64 (a.toInt / 2 ^ (b.toNat % 64))),
  (.teMul, 3, fun a b => BitVec.ofNat 64 (a.toNat * b.toNat)),
  (.teMulh, 3, fun a b => BitVec.ofInt 64 (a.toInt * b.toInt / 2 ^ 64)),
  (.teMin, 1, fun a b => if b.toInt < a.toInt then b else a),
  (.teMax, 1, fun a b => if a.toInt < b.toInt then b else a),
  (.teMov, 1, fun a _ => a)]

/-- The conditions of cmp, COND 0 to 5 (R156). -/
def condTable : List (B3 × (W64 → W64 → Prop)) := [
  (0, fun a b => a = b), (1, fun a b => a ≠ b), (2, fun a b => a.toInt < b.toInt), (3, fun a b => a.toInt ≤ b.toInt),
  (4, fun a b => a.toNat < b.toNat), (5, fun a b => a.toNat ≤ b.toNat)]

/-- The predicate operations (R156). -/
def spTable : List ((SP → Instr) × (Bool → Bool → Bool)) := [
  (.tePand, fun a b => a && b), (.tePor, fun a b => a || b), (.tePxor, fun a b => a != b), (.tePnot, fun a _ => !a)]

/-- The special registers that rds reads beside k, q and TIME (R116, R159). -/
def sprTable : List (BitVec 8 × (Tile → Nat)) := [
  (0x00, fun t => t.fmt.toNat), (0x01, fun t => t.msts.toNat), (0x02, fun t => t.srkey.toNat), (0x03, fun t => t.srctr.toNat),
  (0x04, fun t => t.lc.toNat), (0x05, fun t => t.le), (0x06, fun t => t.lsWord), (0x08, fun t => t.ric.toNat),
  (0x09, fun t => t.rcap.toNat), (0x0A, fun t => t.rthr.toNat), (0x0B, fun t => t.rdiv.toNat), (0x0C, fun t => t.rres.toNat)]

/-- s[A] + the signed offset, modulo 2^64 (R157, R160). -/
def padPlace (v : W64) (off : Int) : Nat := (BitVec.ofInt 64 (v.toInt + off)).toNat

/-- The word of 32 bits at a scratchpad offset. -/
def padWord (t : Tile) (a : Nat) : W32 := BitVec.ofNat 32 (leNat (t.padRead a 4))

/-- The offsets of the 32 lanes of an L-slot operation (R160). -/
def rowPlaces (t : Tile) (f : LF) : List Nat := (span 0 32).map (fun i => padPlace (t.sreg f.a.toNat) (128 * f.lo.toInt + 4 * i))
def bcastPlaces (t : Tile) (f : LF) : List Nat := (span 0 32).map (fun _ => padPlace (t.sreg f.a.toNat) (4 * f.lo.toInt))
def stridePlaces (t : Tile) (f : LF) : List Nat :=
  (span 0 32).map (fun i => padPlace (t.sreg f.a.toNat) (i * (t.sreg (f.lo.toNat / 64)).toInt))
def indexPlaces (t : Tile) (f : LF) : List Nat :=
  (span 0 32).map (fun i => padPlace (t.sreg f.a.toNat) (t.vlane (f.lo.toNat / 32) i).toNat)

/-- The vector loads with the offsets of their lanes (R160). -/
def vloads : List ((LF → Instr) × (Tile → LF → List Nat)) := [
  (.vld, rowPlaces), (.vldB, bcastPlaces), (.vldS, stridePlaces), (.vldSc, indexPlaces)]
/-- The vector stores with the offsets of their lanes (R160). -/
def vstores : List ((LF → Instr) × (Tile → LF → List Nat)) := [
  (.vst, rowPlaces), (.vstS, stridePlaces), (.vstSc, indexPlaces)]

/-- Accesses of n bytes within the scratchpad at multiples of n (R74, R142). -/
abbrev PadOk (n : Nat) (as : List Nat) : Prop := ∀ a ∈ as, a + n ≤ 2 ^ 20 ∧ a % n = 0

/-- The physical register of a vector name under the rotation TURN (R148). -/
def physical (t : Tile) (n : B6) : Nat := if n.toNat < 32 then n.toNat else 32 + (n.toNat - 32 + t.turn) % 32

/-- The sticky bits that lanes raise, landing with the result (R59, R141). -/
def stickyOf (lat : Nat) (gs : List FFlags) : List (Nat × Land) :=
  let g := gs.foldl FFlags.or {}
  if g = {} then [] else [(lat, .flags g.bits 0)]

/-- An operation on v[D] by lanes: each lane's value, with the flags all lanes raise. -/
def vecLands (t : Tile) (f : VF) (lat : Nat) (val : Nat → W32 × FFlags) : List (Nat × Land) :=
  let rs := (span 0 32).map val
  (lat, Land.v (physical t f.d) (rs.map Prod.fst)) :: stickyOf lat (rs.map Prod.snd)

/-- The engine with SRCTR moved on, when RND is 4 (R63). -/
def drew (t : Tile) : Tile := if fmtRnd t.fmt.toNat = 4 then { t with srctr := t.srctr + 32#64 } else t

/-- The operation on v[D] by lanes as a whole, one that reads RND or one that does not. -/
def vecAfter (s : State) (e : Nat) (f : VF) (lat : Nat) (rnd : Bool) (val : Nat → W32 × FFlags) : State :=
  let t := atStep s e
  tileAfter s e (inFlight (if rnd then drew t else t) s.seq (vecLands t f lat val))

/-- The rounding mode of element l (R62, R63), and FLUSH (R65). -/
def modeOf (t : Tile) (l : Nat) : Rnd := rndOf t.fmt.toNat t.srkey t.srctr l
def flushOf (t : Tile) : Bool := t.fmt.getLsbD 16

/-- Lane l of an operand. -/
def laneA (t : Tile) (f : VF) (l : Nat) : W32 := t.vlane f.a.toNat l
def laneB (t : Tile) (f : VF) (l : Nat) : W32 := t.vlane f.b.toNat l
def laneD (t : Tile) (f : VF) (l : Nat) : W32 := t.vlane f.d.toNat l

/-- The elements of a lane under TY: two BF16 values or one FP32 value (R161). -/
def elemsOf (f : VF) : Nat × NumFmt := if f.m.toNat % 4 = 1 then (2, .bf16) else if f.m.toNat % 4 = 0 then (1, .fp32) else (1, .fp16)

/-- The rounding operations of two and three operands on elements (R161). -/
def vfTable : List ((VF → Instr) × (NumFmt → Rnd → Bool → Nat → Nat → Nat → Nat × FFlags)) := [
  (.vadd, fun k m fl a b _ => eAdd k m fl a b),
  (.vsub, fun k m fl a b _ => eSub k m fl a b),
  (.vmul, fun k m fl a b _ => eMul k m fl a b),
  (.vfma, fun k m fl a b d => eFma k m fl false a b d),
  (.vfms, fun k m fl a b d => eFma k m fl true a b d)]
/-- The operations that select or change a sign (R161). -/
def vmTable : List ((VF → Instr) × (NumFmt → Bool → Nat → Nat → Nat)) := [
  (.vmax, fun k fl a b => eMinMax k fl true a b), (.vmin, fun k fl a b => eMinMax k fl false a b),
  (.vabs, fun k fl a _ => eAbs k fl a), (.vneg, fun k fl a _ => eNeg k fl a)]
/-- The transcendentals (R72, R161). -/
def vtTable : List ((VF → Instr) × (Rnd → Bool → FVal → Nat × FFlags)) := [
  (.vrcp, fRcp), (.vrsq, fRsq), (.vexp2, fExp2), (.vlog2, fLog2)]

/-- An integer operation on elements of w bits (R166). -/
def viTable : List ((VF → Instr) × (Nat → Nat → Nat → Nat)) := [
  (.vIadd, fun w a b => (a + b) % 2 ^ w),
  (.vIsub, fun w a b => (a + 2 ^ w - b) % 2 ^ w),
  (.vIshl, fun w a b => a * 2 ^ (b % w) % 2 ^ w),
  (.vIshr, fun w a b => a / 2 ^ (b % w) % 2 ^ w),
  (.vIsra, fun w a b => wrapN w (sx w a / 2 ^ (b % w)) % 2 ^ w),
  (.vIand, fun w a b => Nat.land a b % 2 ^ w),
  (.vIor, fun w a b => Nat.lor a b % 2 ^ w),
  (.vIxor, fun w a b => Nat.xor a b % 2 ^ w),
  (.vImul, fun w a b => a * b % 2 ^ w)]

/-- The FP32 bits of a value that an FP32 element holds. -/
def keptBits (v : FVal) : W32 := BitVec.ofNat 32 (deliver .fp32 .rne false v).1

/-- The order of vmax and vmin on values that are not NaN: +0 above −0 (R161). -/
def above (a b : FVal) : Bool := fLt b a || (fEq b a && b.isNeg && !a.isNeg)

/-- Byte j of a lane. -/
def byteOf32 (w : W32) (j : Nat) : Nat := w.toNat / 256 ^ j % 256

/-- MAXF of a target of quantisation (R70): VAL6(31) for L6. -/
def maxF (k : NumFmt) : ℚ :=
  if k = .l6 then 0xD745 / 2 ^ 15 else if k = .e4m3 then 448 else if k = .e5m2 then 57344 else if k = .int8 then 127 else 255

/-- The largest code of a target by sign (R164). -/
def largestCode (k : NumFmt) (neg : Bool) : Nat :=
  if k = .l6 then (if neg then 63 else 31) else if k = .e4m3 then (if neg then 0xFE else 0x7E)
  else if k = .e5m2 then (if neg then 0xFB else 0x7B) else if k = .int8 then (if neg then 0x81 else 0x7F) else if neg then 0 else 255

/-- M of vquant: by lanes 0 and 1 of B (R164). -/
def givenMax (k : NumFmt) (fl : Bool) (b0 b1 : W32) : FVal :=
  let x := NumFmt.fp32.read fl b0.toNat
  if x.isNan then .nan else if x.isInf then .inf false
  else if k = .uint8 then (NumFmt.fp32.read fl b1.toNat).abs else x.abs

/-- The scale, the exponent E, whether the elements are quantised, and the flags, for a block maximum (R70). -/
def BlockScale (k : NumFmt) (mx : FVal) (sc : Nat) (ex : Int) (on : Bool) (fl : FFlags) : Prop :=
  match mx with
  | .nan => sc = 0xFF ∧ on = false ∧ fl = { nv := true }
  | .inf _ => sc = 0xFF ∧ on = false ∧ fl = { of_ := true }
  | .fin _ m e => ∃ least : Int, (m = 0 → least = -127) ∧
      (m ≠ 0 → (m : ℚ) * 2 ^ (e - least) ≤ maxF k ∧ maxF k < (m : ℚ) * 2 ^ (e - least + 1)) ∧
      if 127 < least then sc = 0xFF ∧ on = false ∧ fl = { of_ := true }
      else ex = max least (-127) ∧ (sc : Int) = ex + 127 ∧ on = true ∧ fl = {}

/-- One element's code under an exponent E (R70, R164): the largest code of its sign where its scaled magnitude exceeds
MAXF. -/
noncomputable def blockCode (k : NumFmt) (fl : Bool) (x : FVal) (ex : Int) : Nat × FFlags :=
  match x with
  | .nan => (0, { nv := true })
  | .inf neg => if neg && k == .uint8 then (0, { sat := true }) else (largestCode k neg, { of_ := true })
  | .fin neg m e =>
    if (neg && k == .uint8) = false ∧ maxF k < (m : ℚ) * 2 ^ (e - ex) then (largestCode k neg, { of_ := true })
    else qround k fl x ex

/-- Part j of n of a lane. -/
def partOf (n j : Nat) (w : W32) : Nat := w.toNat / 2 ^ (32 / n * j) % 2 ^ (32 / n)

/-- An operation by lanes with no flags. -/
def plainLanes (s : State) (e : Nat) (f : VF) (lat : Nat) (val : Nat → W32) : State :=
  vecAfter s e f lat false (fun l => (val l, {}))

/-- The engine e stops on an error of an operation in a slot (R142). -/
def errorAt (s : State) (e slot cause detail : Nat) : State :=
  let u := s.setTile e (atStep s e)
  u.engineError e (atStep s e).b slot (cause + slot * 2 ^ 8 + detail % 2 ^ 20 * 2 ^ 12)

/-- The queue entry of an M operation with its captured operands (R251). -/
def matrixEntry (t : Tile) (i : Instr) (a b : W64) (vals : List Nat) : QEntry :=
  { seq := 0, cmd := i, a := a, b := b, fmt := t.fmt, srkey := t.srkey, srctr := t.srctr, vals := vals, pc := t.b }

/-- The entry stands at the end of the matrix queue; SRCTR moves on by adv. -/
def queued (s : State) (e : Nat) (q : QEntry) (adv : Nat) : State :=
  (tileAfter s e { atStep s e with srctr := (atStep s e).srctr + BitVec.ofNat 64 adv }).qPush (.tile e) 6 q

/-- The k registers, rcap, rthr and rdiv, captured for a roundabout (R251). -/
def roundCapture (t : Tile) : List Nat :=
  (span 0 16).map (fun n => (t.kreg n).toNat) ++ [t.rcap.toNat, t.rthr.toNat, t.rdiv.toNat]

/-- fmt has the operand class of the roundabout (R266): A and B alike, BF16 or FP16, FP32 accumulate, no scales. -/
abbrev RoundClass (t : Tile) : Prop :=
  fmtA t.fmt.toNat = fmtB t.fmt.toNat ∧ (fmtA t.fmt.toNat = 1 ∨ fmtA t.fmt.toNat = 2) ∧ fmtAcc t.fmt.toNat = 0 ∧
    fmtScale t.fmt.toNat = 0

/-- An operand area of n bytes at a multiple of 128 within the scratchpad (R255, R257). -/
abbrev Area (a : W64) (n : Nat) : Prop := a.toNat + n ≤ 2 ^ 20 ∧ a.toNat % 128 = 0

/-- The M operations that enter the matrix queue, and those that read at issue (R251). -/
def queuedOps (g : B4) : Set Instr :=
  { i | (∃ d a b msk topk km1, i = .mma g d a b msk topk km1) ∨ (∃ d, i = .mz g d) ∨ (∃ d v a, i = .mwr g d v a) ∨
    (∃ d a, i = .mld g d a) ∨ (∃ d a fc, i = .mst g d a fc) ∨ (∃ a, i = .mtree g a) ∨ (∃ d x n p nt, i = .rndPoly g d x n p nt) ∨
    (∃ x p nt, i = .rndNs g x p nt) ∨ (∃ y z p nt, i = .rndIsr g y z p nt) }
def readingOps (g : B4) : Set Instr :=
  { i | (∃ d v a, i = .mrd g d v a) ∨ (∃ d v, i = .mtopkRd g d v) ∨ (∃ a, i = .mkld g a) }

/-- The matrix queue takes an entry (R251). -/
abbrev QueueRoom (s : State) (e : Nat) : Prop := ((s.tile e).q.get 6).length < 16

end Sys2Proof.Claims

/-- R114, R141, R155: each two-operand operation of the S slot with a true guard launches the result of its row into
s[D], which lands after the latency of its row, and does nothing else. -/
def Sys2Proof.Claims.TileArithmetic : Prop :=
  ∀ p ∈ saTable, ∀ (f : SA) (s : State) (e : Nat), Runs s e → (atStep s e).preg f.g.toNat = true →
    exec (p.1 f) s = .next (launches s e [(p.2.1, .s f.d.toNat (p.2.2 (saLeft (atStep s e) f) (saRight (atStep s e) f)))])

/-- R156, R159: sel, li, lih, cmp, the predicate operations, rds and wrs: what each launches, landing one step on. -/
def Sys2Proof.Claims.TileScalarResults : Prop :=
  ∀ (s : State) (e : Nat), Runs s e → let t := atStep s e
    (∀ (g : B4) (d a b : B5) (p : B4), t.preg g.toNat = true → exec (.teSel g d a b p) s =
      .next (launches s e [(1, .s d.toNat (if t.preg p.toNat then t.sreg a.toNat else t.sreg b.toNat))])) ∧
    (∀ (g : B4) (d : B5) (i : BitVec 16), t.preg g.toNat = true →
      exec (.teLi g d i) s = .next (launches s e [(1, .s d.toNat (BitVec.ofInt 64 i.toInt))]) ∧
      exec (.teLih g d i) s =
        .next (launches s e [(1, .s d.toNat (BitVec.ofNat 64 ((t.sreg d.toNat).toNat * 65536 + i.toNat)))])) ∧
    (∀ k ∈ condTable, ∀ (g pt pf : B4) (a b : B5) (r : Bool), t.preg g.toNat = true →
      (r = true ↔ k.2 (t.sreg a.toNat) (t.sreg b.toNat)) →
      exec (.teCmp g pt pf a b k.1) s = .next (launches s e [(1, .p pt.toNat r), (1, .p pf.toNat (!r))])) ∧
    (∀ k ∈ spTable, ∀ f : SP, t.preg f.g.toNat = true →
      exec (k.1 f) s = .next (launches s e [(1, .p f.pd.toNat (k.2 (t.preg f.pa.toNat) (t.preg f.pb.toNat)))])) ∧
    (∀ k ∈ sprTable, ∀ (g : B4) (d : B5), t.preg g.toNat = true →
      exec (.teRds g d k.1) s = .next (launches s e [(1, .s d.toNat (BitVec.ofNat 64 (k.2 t)))])) ∧
    (∀ (g : B4) (d : B5) (n : Nat), t.preg g.toNat = true → n < 16 →
      exec (.teRds g d (BitVec.ofNat 8 (0x10 + n))) s = .next (launches s e [(1, .s d.toNat (BitVec.ofNat 64 (t.kreg n).toNat))])) ∧
    (∀ (g : B4) (a : B5) (n : BitVec 8), t.preg g.toNat = true →
      exec (.teWrs g a n) s = .next (launches s e [(1, .spr n.toNat (t.sreg a.toNat))]))

/-- R157: ld.s launches the 8 bytes at its aligned offset, st.s writes 8 bytes there, and ldp launches what the window
read gives; an offset outside the scratchpad is engine error 0x20, and a misaligned one 0x21, 0x22 for ldp. -/
def Sys2Proof.Claims.TileScratchpadAccess : Prop :=
  ∀ (s : State) (e : Nat), Runs s e → let t := atStep s e
    (∀ (g : B4) (d a : B5) (i : BitVec 12), t.preg g.toNat = true →
      let x := padPlace (t.sreg a.toNat) i.toInt
      (PadOk 8 [x] →
        exec (.teLdS g d a i) s = .next (launches s e [(4, .s d.toNat (BitVec.ofNat 64 (leNat (t.padRead x 8))))]) ∧
        exec (.teStS g d a i) s = .next (padStored s e [(x, lowBytes 8 (t.sreg d.toNat))])) ∧
      (2 ^ 20 < x + 8 → exec (.teLdS g d a i) s = .next (errorAt s e 0 0x20 x) ∧
        exec (.teStS g d a i) s = .next (errorAt s e 0 0x20 x)) ∧
      (x + 8 ≤ 2 ^ 20 → x % 8 ≠ 0 → exec (.teLdS g d a i) s = .next (errorAt s e 0 0x21 x) ∧
        exec (.teStS g d a i) s = .next (errorAt s e 0 0x21 x))) ∧
    (∀ (g : B4) (d a : B5) (w : B3) (i : BitVec 9), t.preg g.toNat = true →
      let x := (BitVec.ofNat 64 ((t.sreg a.toNat).toNat + 8 * i.toNat)).toNat
      (∀ (u : State) (v : W64) (beyond : Bool), (s.setTile e t).tileWindow e 0 w.toNat x = (u, .bytes v beyond) →
        exec (.teLdp g d a w i) s = .next (u.applyEff e { lands := (6, .s d.toNat v) ::
          (if beyond then [(6, .pwb w.toNat)] else []) })) ∧
      (x % 8 ≠ 0 → exec (.teLdp g d a w i) s = .next (errorAt s e 0 0x22 0)))

/-- R143, R144, R146, R149, R158: a branch is taken two bundles later, at once in P-form; bri to a place it may not name is
engine error 0x23, a bundle past the body's end or one of a loop that the branch does not stand in; a loop of n passes sets lc, le, TURN, FILL, TAIL and the stage predicates, one of 0 does nothing;
loopx of 2^32 or more is error 0x24; tmark has no effect but its mark, a packet of the trace with the bundle and IMM16 (R313); halt lands what is in flight and ends. -/
def Sys2Proof.Claims.TileControl : Prop :=
  ∀ (s : State) (e : Nat), Runs s e → let t := atStep s e
    (∀ (g : B4) (i : BitVec 22) (x : Nat), t.preg g.toNat = true → (x : Int) = t.b + i.toInt →
      exec (.teBr g i) s = .next (tileAfter s e { t with rd := t.rd ++ [(t.t + (if t.form = 1 then 1 else 3), x)] })) ∧
    (∀ (g : B4) (a : B5), t.preg g.toNat = true → let x := (t.sreg a.toNat).toNat
      (x < t.body.length → (∀ l ∈ loopBodies t.body, l.1 ≤ x → x < l.1 + l.2 → l.1 ≤ t.b ∧ t.b < l.1 + l.2) →
        exec (.teBri g a) s = .next (tileAfter s e { t with rd := t.rd ++ [(t.t + (if t.form = 1 then 1 else 3), x)] })) ∧
      (t.body.length ≤ x → exec (.teBri g a) s = .next (errorAt s e 0 0x23 0)) ∧
      (∀ l ∈ loopBodies t.body, l.1 ≤ x → x < l.1 + l.2 → ¬ (l.1 ≤ t.b ∧ t.b < l.1 + l.2) →
        exec (.teBri g a) s = .next (errorAt s e 0 0x23 0))) ∧
    (∀ (n : Nat) (i : Instr) (g : B4) (stg : B3) (len : BitVec 9), t.preg g.toNat = true → n < 2 ^ 32 →
      ((∃ c : BitVec 10, i = .teLoop g c stg len ∧ c.toNat = n) ∨
        (∃ a : B5, i = .teLoopx g a stg len ∧ (t.sreg a.toNat).toNat = n)) →
      (n = 0 → exec i s = .next (tileAfter s e t)) ∧
      (0 < n → ∃ p : SMap Bool, exec i s = .next (tileAfter s e { t with
        lc := BitVec.ofNat 32 (n - 1), le := stg.toNat, turn := 0, fill := 0, tail := 0, act := true, drain := t.stopReq
        bodyStart := t.b + 1, bodyLen := len.toNat, passes := 0, p := p }) ∧
        (SMap.wf false t.p = true → ∀ k < 16, SMap.get false p k = (if 8 ≤ k then k == 8 else SMap.get false t.p k)))) ∧
    (∀ (g : B4) (a : B5) (stg : B3) (len : BitVec 9), t.preg g.toNat = true → 2 ^ 32 ≤ (t.sreg a.toNat).toNat →
      exec (.teLoopx g a stg len) s = .next (errorAt s e 0 0x24 0)) ∧
    (∀ (g : B4) (i : BitVec 16), t.preg g.toNat = true →
      (bitAt (s.trc (teStation e)).ctl.toNat 31 = false → exec (.teTmark g i) s = .next (tileAfter s e t)) ∧
      exec (.teTmark g i) s = .next ((tileAfter s e t).trace (teStation e) (s.unitPart e) 0 0 0x0F (t.b * 65536 + i.toNat) [] t.b 0 false)) ∧
    (∀ g : B4, t.preg g.toNat = true →
      exec (.teHalt g) s = .next (tileAfter s e { t.landAll with run := .halting, rd := [], flights := [] }))

/-- R160: a vector load launches the words at the offsets of its lanes; a vector store writes lane i at the i-th offset, a
higher lane last; an offset outside the scratchpad, or else a misaligned one, is an engine error of the L slot for
the lowest such lane, and nothing is written. -/
def Sys2Proof.Claims.VectorLoadStoreResults : Prop :=
  ∀ (s : State) (e : Nat) (f : LF), Runs s e → (atStep s e).preg f.g.toNat = true → let t := atStep s e
    (∀ p ∈ vloads, PadOk 4 (p.2 t f) →
      exec (p.1 f) s = .next (launches s e [(6, .v (physical t f.v) ((p.2 t f).map (padWord t)))])) ∧
    (∀ p ∈ vstores, PadOk 4 (p.2 t f) →
      exec (p.1 f) s = .next (padStored s e (((p.2 t f).zip (span 0 32)).map (fun x => (x.1, lowBytes 4
        ((t.vlane f.v.toNat x.2).zeroExtend 64)))))) ∧
    (∀ p ∈ vloads ++ vstores, ∀ a : Nat,
      ((p.2 t f).find? (fun x => decide (2 ^ 20 < x + 4)) = some a → exec (p.1 f) s = .next (errorAt s e 2 0x20 a)) ∧
      ((∀ x ∈ p.2 t f, x + 4 ≤ 2 ^ 20) → (p.2 t f).find? (fun x => x % 4 != 0) = some a →
        exec (p.1 f) s = .next (errorAt s e 2 0x21 a)))

/-- R161: the floating operations of the V slots by lanes and elements: the rounding ones land after 4 steps and move SRCTR
on under RND 4, the selecting ones after 2, the transcendentals after 8; a reserved RND is a format error. -/
def Obligations.VectorFloatResults : Prop :=
  ∀ (s : State) (e : Nat) (f : VF), Runs s e → (atStep s e).preg f.g.toNat = true → let t := atStep s e
    (fmtRnd t.fmt.toNat < 5 →
      (∀ p ∈ vfTable, exec (p.1 f) s = .next (vecAfter s e f 4 true (fun l =>
        perPart3 (elemsOf f).1 (p.2 (elemsOf f).2 (modeOf t l) (flushOf t)) (laneA t f l) (laneB t f l) (laneD t f l)))) ∧
      (∀ p ∈ vtTable, exec (p.1 f) s = .next (vecAfter s e f 8 true (fun l =>
        let r := p.2 (modeOf t l).noSr (flushOf t) (NumFmt.fp32.read (flushOf t) (laneA t f l).toNat)
        (BitVec.ofNat 32 r.1, r.2))))) ∧
    (∀ p ∈ vmTable, exec (p.1 f) s = .next (vecAfter s e f 2 false (fun l =>
      perPart (elemsOf f).1 (fun a b => (p.2 (elemsOf f).2 (flushOf t) a b, {})) (laneA t f l) (laneB t f l)))) ∧
    (5 ≤ fmtRnd t.fmt.toNat → ∀ i ∈ vfTable.map (fun p => p.1 f) ++ vtTable.map (fun p => p.1 f),
      exec i s = .next (errorAt s e 4 0x26 0))

/-- R162, R165, R166: compare, select, the movements and the integer operations: what each lane of v[D] takes. -/
def Sys2Proof.Claims.VectorIntegerAndMoveResults : Prop :=
  ∀ (s : State) (e : Nat) (f : VF), Runs s e → (atStep s e).preg f.g.toNat = true → let t := atStep s e
    exec (.vcmp f) s = .next (plainLanes s e f 2 (fun l =>
      if (if f.m.toNat % 2 = 1 then iCmp (f.m.toNat / 2) (laneA t f l).toInt (laneB t f l).toInt
          else eCmp (f.m.toNat / 2) (flushOf t) (laneA t f l).toNat (laneB t f l).toNat) then 0xFFFFFFFF#32 else 0#32)) ∧
    exec (.vsel f) s = .next (plainLanes s e f 2 (fun l =>
      (laneA t f l &&& laneD t f l) ||| (laneB t f l &&& ~~~(laneD t f l)))) ∧
    exec (.vperm f) s = .next (plainLanes s e f 2 (fun l => laneA t f ((laneB t f l).toNat % 32))) ∧
    exec (.vbcast f) s = .next (plainLanes s e f 2 (fun _ => (t.sreg (f.a.toNat / 2)).truncate 32)) ∧
    exec (.vext f) s = .next (plainLanes s e f 2 (fun l =>
      if l + f.b.toNat / 2 < 32 then laneA t f (l + f.b.toNat / 2) else laneD t f (l + f.b.toNat / 2 - 32))) ∧
    exec (.vmov f) s = .next (plainLanes s e f 2 (fun l => laneA t f l)) ∧
    (∀ p ∈ viTable, f.m.toNat < 3 → ∃ r : Nat → W32, exec (p.1 f) s = .next (plainLanes s e f 2 r) ∧
      ∀ l < 32, ∀ j < 2 ^ f.m.toNat, partOf (2 ^ f.m.toNat) j (r l) =
        p.2 (32 / 2 ^ f.m.toNat) (partOf (2 ^ f.m.toNat) j (laneA t f l)) (partOf (2 ^ f.m.toNat) j (laneB t f l)))

/-- R163, R164: vcvt converts element by element; vmaxabs gives the greatest magnitude and the greatest value above zero of
48 elements; vquant gives 48 codes and a scale, with the largest code of its sign where the scale given is too small. -/
def Sys2Proof.Claims.VectorConvertBlockResults : Prop :=
  ∀ (s : State) (e : Nat) (f : VF), Runs s e → (atStep s e).preg f.g.toNat = true → let t := atStep s e
    let blk := (span 0 48).map (fun k => NumFmt.fp32.read (flushOf t) (t.vlane (f.a.toNat + k / 32) (k % 32)).toNat)
    (∀ src dst : NumFmt, NumFmt.ofCode (f.b.toNat / 4) = some src → NumFmt.ofCode f.m.toNat = some dst →
      fmtRnd t.fmt.toNat < 5 →
      exec (.vcvt f) s = .next (vecAfter s e f 3 true (fun l => cvtLane src dst (perLane (f.b.toNat / 4)) (perLane f.m.toNat)
        (f.b.toNat % 4) (modeOf t) (t.fmt.getLsbD 15) (flushOf t) (laneA t f) (laneD t f l) l))) ∧
    (∃ m0 m1 : W32, exec (.vmaxabs f) s = .next (launches s e
        [(2, .v (physical t f.d) (m0 :: m1 :: List.replicate 30 0))]) ∧
      ((∃ x ∈ blk, x.isNan = true) → m0 = 0x7FC00000#32 ∧ m1 = 0x7FC00000#32) ∧
      ((∀ x ∈ blk, x.isNan = false) →
        (∃ x ∈ blk, m0 = keptBits x.abs ∧ ∀ y ∈ blk, fLt x.abs y.abs = false) ∧
        ((∃ x ∈ blk, fLt (.fin false 0 0) x = true ∧ m1 = keptBits x ∧ ∀ y ∈ blk, fLt x y = false) ∨
          ((∀ y ∈ blk, fLt (.fin false 0 0) y = false) ∧ m1 = 0#32)))) ∧
    (∀ k ∈ ([.l6, .e4m3, .e5m2, .int8, .uint8] : List NumFmt), NumFmt.ofCode f.m.toNat = some k →
      ∃ (ls : List W32) (gs : List FFlags) (sc : Nat) (ex : Int) (on : Bool) (fl : FFlags), ls.length = 32 ∧
        exec (.vquant f) s = .next (tileAfter s e (inFlight t s.seq ((3, .v (physical t f.d) ls) :: stickyOf 3 gs))) ∧
        BlockScale k (givenMax k (flushOf t) (laneB t f 0) (laneB t f 1)) sc ex on fl ∧
        ls.drop 13 = List.replicate 19 0 ∧ ls.getD 12 0 = BitVec.ofNat 32 sc ∧
        gs = fl :: (blk.map (fun x => if on then blockCode k (flushOf t) x ex else (0, {}))).map Prod.snd ∧
        ∀ j < 48, byteOf32 (ls.getD (j / 4) 0) (j % 4) =
          ((blk.map (fun x => if on then blockCode k (flushOf t) x ex else (0, {}))).getD j (0, {})).1)

/-- R165: vred gives every lane the exact sum rounded once, or the maximum or the minimum with the rules of vmax and vmin for NaN and for
zeros. -/
def Sys2Proof.Claims.VectorReduceResults : Prop :=
  ∀ (s : State) (e : Nat) (f : VF), Runs s e → (atStep s e).preg f.g.toNat = true → let t := atStep s e
    let lanesA := (span 0 32).map (fun l => NumFmt.fp32.read (flushOf t) (laneA t f l).toNat)
    (∀ up : Bool, f.m.toNat % 4 = (if up then 1 else 2) → ∃ v : W32,
      exec (.vred f) s = .next (launches s e [(6, .v (physical t f.d) (List.replicate 32 v))]) ∧
      ((∀ x ∈ lanesA, x.isNan = true) → v = 0x7FC00000#32) ∧
      ((∃ x ∈ lanesA, x.isNan = false) → ∃ x ∈ lanesA, x.isNan = false ∧ v = keptBits x ∧
        ∀ y ∈ lanesA, y.isNan = true ∨ (if up then above y x else above x y) = false)) ∧
    (f.m.toNat % 4 = 0 → fmtRnd t.fmt.toNat < 5 →
      let x := sumVals (modeOf t 0).noSr lanesA
      let r := deliver .fp32 (modeOf t 0).noSr (flushOf t) x.1
      exec (.vred f) s = .next (vecAfter s e f 6 true (fun _ => (BitVec.ofNat 32 r.1, x.2.or r.2))))

/-- R251, R253, R255, R257, R261 to R265: an M operation whose areas and format pass enters the matrix queue with its
captured operands; mrd, mtopk.rd and mkld read at issue once the queue is empty; an operation waits for room, and one that
reads at issue for the empty queue. rnd.poly takes no notice of a NaN in rthr (the model's choice, log entry 43). -/
def Obligations.MatrixIssueResults : Prop :=
  (∀ (s : State) (e : Nat) (i : Instr), Runs s e → (atStep s e).preg (guardOf i) = true →
    (i ∈ queuedOps (guardOf i) → 16 ≤ ((s.tile e).q.get 6).length → exec i s = .next s) ∧
    (i ∈ readingOps (guardOf i) → (s.tile e).q.get 6 ≠ [] → exec i s = .next s)) ∧
  ∀ (s : State) (e : Nat) (g : B4), Runs s e → (atStep s e).preg g.toNat = true →
    QueueRoom s e → let t := atStep s e
    (∀ (d : B2) (a b : B5) (msk topk : B1) (km1 : B3), Area (t.sreg a.toNat) (panelArea (scaleA t.fmt.toNat)) →
      Area (t.sreg b.toNat) (panelArea (scaleB t.fmt.toNat)) → matClass t.fmt.toNat ≠ none →
      (fmtAcc t.fmt.toNat = 1 → msk = 0 ∧ topk = 0) →
      exec (.mma g d a b msk topk km1) s =
        .next (queued s e (matrixEntry t (.mma g d a b msk topk km1) (t.sreg a.toNat) (t.sreg b.toNat) []) 0)) ∧
    (∀ d : B2, exec (.mz g d) s = .next (queued s e (matrixEntry t (.mz g d) 0 0 []) 0)) ∧
    (∀ (d : B2) (v : B6) (a : B5), exec (.mwr g d v a) s = .next (queued s e (matrixEntry t (.mwr g d v a)
      (t.sreg a.toNat) 0 ((span 0 32).map (fun l => (t.vlane v.toNat l).toNat))) 0)) ∧
    (∀ (d : B2) (a : B5), Area (t.sreg a.toNat) 65536 →
      exec (.mld g d a) s = .next (queued s e (matrixEntry t (.mld g d a) (t.sreg a.toNat) 0 []) 0)) ∧
    (∀ (d : B2) (a : B5) (fc : B4), fmtAcc t.fmt.toNat < 2 → (mstQuant fc.toNat = true → fmtAcc t.fmt.toNat = 0) →
      fmtRnd t.fmt.toNat < 5 → Area (t.sreg a.toNat) (128 * mstRow fc.toNat + (if mstQuant fc.toNat then 512 else 0)) →
      exec (.mst g d a fc) s = .next (queued s e (matrixEntry t (.mst g d a fc) (t.sreg a.toNat) 0 [])
        (if mstConv fc.toNat (fmtAcc t.fmt.toNat) = true ∧ fmtRnd t.fmt.toNat = 4 then 16384 else 0))) ∧
    (∀ a : B5, Area (t.sreg a.toNat) 128 →
      exec (.mtree g a) s = .next (queued s e (matrixEntry t (.mtree g a) (t.sreg a.toNat) 0 []) 0)) ∧
    (RoundClass t → isNan32 t.rdiv.toNat = false →
      (∀ (d x : B2) (n p : B4) (nt : B1),
        exec (.rndPoly g d x n p nt) s = .next (queued s e (matrixEntry t (.rndPoly g d x n p nt) 0 0 (roundCapture t)) 0)) ∧
      (isNan32 t.rthr.toNat = false →
        (∀ (x : B2) (p : B4) (nt : B1),
          exec (.rndNs g x p nt) s = .next (queued s e (matrixEntry t (.rndNs g x p nt) 0 0 (roundCapture t)) 0)) ∧
        (∀ (y z : B2) (p : B4) (nt : B1),
          exec (.rndIsr g y z p nt) s = .next (queued s e (matrixEntry t (.rndIsr g y z p nt) 0 0 (roundCapture t)) 0)))) ∧
    ((s.tile e).q.get 6 = [] →
      (∀ (d : B2) (v : B6) (a : B5), let sel := (t.sreg a.toNat).toNat
        exec (.mrd g d v a) s = .next (launches s e [(6, .v (physical t v)
          (SMap.getN 0 (t.accOf d.toNat).val (sel % 128 * 128 + 32 * (sel / 128 % 4)) 32))])) ∧
      (∀ (d : B2) (v : B6), let tk := (t.accOf d.toNat).tk
        ∃ u : State, exec (.mtopkRd g d v) s = .next u ∧ (u.tile e).flights = ((launches s e [(6, .v (physical t v)
          ((span 0 32).map (fun l => if tk.ksel = 0 then 0 else tk.word (tk.rpt + l))))]).tile e).flights) ∧
      (∀ a : B5, (t.sreg a.toNat).toNat + 64 ≤ 2 ^ 20 → (t.sreg a.toNat).toNat % 64 = 0 →
        exec (.mkld g a) s = .next (launches s e [(4, .k ((bytesWords (t.padRead (t.sreg a.toNat).toNat 64)).map
          (BitVec.ofNat 32)))])))

/-- R142: an operation of a slot with a false guard issues nothing and raises no error. -/
def Sys2Proof.Claims.FalseGuardHasNoEffect : Prop :=
  ∀ (s : State) (e : Nat) (i : Instr), Runs s e → commandOf i = none → (atStep s e).preg (guardOf i) = false →
    exec i s = .next (s.setTile e (atStep s e))

/-! ## Lane instructions -/

namespace Sys2Proof.Claims

/-- Entry e is at the head of the lane queue of the sub-gang of c, which acts (R170). -/
abbrev AtHead (s : State) (c : Ctx) (e : LaneEntry) : Prop :=
  s.laneCtx = some c ∧ ∃ rest, c.th.lq = e :: rest

/-- An instruction of the matrix queue is also the first there (R224). -/
abbrev AtBothHeads (s : State) (c : Ctx) (e : LaneEntry) : Prop :=
  AtHead s c e ∧ ((s.queues c.iss).get 6).head?.map QEntry.uid = some e.uid

/-- E[l] of R200: the copied mask, and the guard predicate as it is now. -/
def activeLane (c : Ctx) (f : LaneF) (e : LaneEntry) (l : Nat) : Bool :=
  e.mask.getLsbD l && (f.ge == 0 || ((c.gang.getLp f.g.toNat).getLsbD l != (f.gn == 1)))

/-- The lanes with E = 1, lowest first. -/
def lanes (c : Ctx) (f : LaneF) (e : LaneEntry) : List Nat := (span 0 32).filter (activeLane c f e)

/-- The sticky bits that the active lanes raise (R203). -/
def flagsOver (c : Ctx) (f : LaneF) (e : LaneEntry) (fl : Nat → FFlags) : FFlags :=
  (lanes c f e).foldl (fun a l => a.or (fl l)) {}

/-- The instruction has retired: it is off the lane queue and the matrix queue, the sticky bits stand, set in this
cycle (R3), and the gang's registers are changed as given. -/
def laneAfter (s : State) (c : Ctx) (e : LaneEntry) (fl : FFlags) (g : Gang → Gang) : State :=
  let u := (if e.uid = 0 then s else s.qRemoveUid c.iss e.uid).heat (.fmt c.thread) fl.bits
  (u.setTh c ({ c.th with lq := c.th.lq.drop 1, fmt := c.th.fmt ||| BitVec.ofNat 32 fl.bits } : Thread).checkSpin).setGang c g

/-- The gang's lane registers and predicates are in canonical form, as every write keeps them. -/
abbrev GangWf (c : Ctx) : Prop := SMap.wf 0 c.gang.w = true ∧ SMap.wf 0 c.gang.lp = true ∧ SMap.wf 0 c.gang.h = true

/-- The outcome retires the instruction with w[d] := val in the active lanes and every other lane register as it was. -/
def WritesReg (s : State) (c : Ctx) (f : LaneF) (e : LaneEntry) (d : Nat) (val : Nat → W32) (fl : FFlags) (o : Out) : Prop :=
  ∃ w : SMap W32, o = .next (laneAfter s c e fl (fun g => { g with w := w })) ∧
    ∀ l < 32, ∀ n < 128, SMap.get 0 w (l * 128 + n) =
      if activeLane c f e l = true ∧ n = d then val l else c.gang.getW l n

/-- The outcome retires it with bit l of lp[d] := val l in the active lanes, every other bit and predicate as it was. -/
def WritesPred (s : State) (c : Ctx) (f : LaneF) (e : LaneEntry) (d : Nat) (val : Nat → Bool) (o : Out) : Prop :=
  ∃ lp : SMap W32, o = .next (laneAfter s c e {} (fun g => { g with lp := lp })) ∧
    ∀ k < 8, ∀ l < 32, (SMap.get 0 lp k : W32).getLsbD l =
      if activeLane c f e l = true ∧ k = d then val l else (c.gang.getLp k).getLsbD l

/-- The operand registers of lane l, and the B operand: w[B] or IMM (R199). -/
def wA (c : Ctx) (f : LaneF) (l : Nat) : W32 := c.gang.getW l f.a.toNat
def wB (c : Ctx) (f : LaneF) (l : Nat) : W32 := c.gang.getW l f.b.toNat
def wC (c : Ctx) (f : LaneF) (l : Nat) : W32 := c.gang.getW l f.c.toNat
def wD (c : Ctx) (f : LaneF) (l : Nat) : W32 := c.gang.getW l f.d.toNat
def bOf (c : Ctx) (f : LaneF) (l : Nat) : W32 := if f.i = 1 then f.imm else wB c f l

/-- The copies of RND and FLUSH that the entry holds (R173). -/
def modeAt (c : Ctx) (e : LaneEntry) (l : Nat) : Rnd := rndOf e.fmt.toNat c.th.srkey e.srctr l
def flushAt (e : LaneEntry) : Bool := e.fmt.getLsbD 16

/-- The floating operations by elements (R204). -/
def lfTable : List ((LaneF → Instr) × (NumFmt → Rnd → Bool → Nat → Nat → Nat → Nat × FFlags)) := [
  (.fadd, fun k m fl a b _ => eAdd k m fl a b), (.fsub, fun k m fl a b _ => eSub k m fl a b),
  (.fmul, fun k m fl a b _ => eMul k m fl a b), (.ffma, fun k m fl a b c => eFma k m fl false a b c),
  (.ffms, fun k m fl a b c => eFma k m fl true a b c), (.fmin, fun k _ fl a b _ => (eMinMax k fl false a b, {})),
  (.fmax, fun k _ fl a b _ => (eMinMax k fl true a b, {})), (.fabs, fun k _ fl a _ _ => (eAbs k fl a, {})),
  (.fneg, fun k _ fl a _ _ => (eNeg k fl a, {}))]
/-- The transcendentals (R72, R204). -/
def ltTable : List ((LaneF → Instr) × (Rnd → Bool → FVal → Nat × FFlags)) := [
  (.frcp, fRcp), (.frsq, fRsq), (.fexp2, fExp2), (.flog2, fLog2)]
/-- Elements of a lane under T (R204). -/
def elemsT (f : LaneF) : Nat × NumFmt := if f.t = 0 then (1, .fp32) else if f.t = 1 then (2, .bf16) else (2, .fp16)

/-- A lane value as the integer of T (R207). -/
def intT (f : LaneF) (v : W32) : Int := if f.t = 3 then v.toInt else v.toNat
/-- The range of T. -/
def loT (f : LaneF) : Int := if f.t = 3 then -(2 ^ 31) else 0
def hiT (f : LaneF) : Int := if f.t = 3 then 2 ^ 31 - 1 else 2 ^ 32 - 1
/-- Clamped to the range of T under SATI, wrapped otherwise (R207). -/
def clampT (f : LaneF) (x : Int) : W32 × FFlags :=
  if f.f0 = 1 then (BitVec.ofInt 32 (max (loT f) (min (hiT f) x)), { sat := decide (x < loT f ∨ hiT f < x) })
  else (BitVec.ofInt 32 x, {})

/-- The integer operations without flags (R207). -/
def liTable : List ((LaneF → Instr) × (LaneF → W32 → W32 → W32)) := [
  (.imul, fun _ a b => BitVec.ofNat 32 (a.toNat * b.toNat)),
  (.imulh, fun f a b => BitVec.ofInt 32 (intT f a * intT f b / 2 ^ 32)),
  (.imin, fun f a b => if intT f b < intT f a then b else a),
  (.imax, fun f a b => if intT f a < intT f b then b else a),
  (.iand, fun _ a b => a &&& b), (.ior, fun _ a b => a ||| b), (.ixor, fun _ a b => a ^^^ b),
  (.ishl, fun _ a b => BitVec.ofNat 32 (a.toNat * 2 ^ (b.toNat % 32))),
  (.ishr, fun _ a b => BitVec.ofNat 32 (a.toNat / 2 ^ (b.toNat % 32))),
  (.isra, fun _ a b => BitVec.ofInt 32 (a.toInt / 2 ^ (b.toNat % 32)))]

/-- Byte j of a lane value. -/
def byteOf (v : W32) (j : Nat) : Nat := v.toNat / 256 ^ j % 256

/-- Position and length of a field (R209). -/
def fieldPos (v : W32) : Nat := v.toNat % 32
def fieldLen (v : W32) : Nat := min (v.toNat / 256 % 64) (32 - fieldPos v)

/-- The lane that shfl names, before the check (R210). -/
def shflLane (c : Ctx) (f : LaneF) (l : Nat) : Int :=
  let n := (bOf c f l).toNat % 32
  let x : Int := if f.f0.toNat = 0 then n else if f.f0.toNat = 1 then (l : Int) - n else if f.f0.toNat = 2 then l + n
    else Nat.xor l n
  if c.desc.legacy = true ∧ 16 ≤ x ∧ x ≤ 31 then x - 16 else x
/-- A lane of the sub-gang's slices (R176). -/
def ownLane (c : Ctx) (x : Int) : Prop := 0 ≤ x ∧ x ≤ 31 ∧ c.th.slices.getLsbD (x.toNat / 4) = true
/-- The lane that bcast reads, before the check (R211). -/
def bcastLane (c : Ctx) (f : LaneF) (e : LaneEntry) : Nat :=
  let k := if f.f0 = 1 then (lanes c f e).headD 0 else f.imm.toNat % 32
  if c.desc.legacy = true ∧ 16 ≤ k then k - 16 else k

/-- x[C] + w[A] + IMM, the last two sign-extended (R213). -/
def placeOf (c : Ctx) (f : LaneF) (e : LaneEntry) (l : Nat) : W64 :=
  BitVec.ofInt 64 (e.xop.toInt + (wA c f l).toInt + f.imm.toInt)
/-- Bytes of an access (R213). -/
def accBytes (f : LaneF) : Nat := 2 ^ (f.f0.toNat % 8)
/-- The run of registers that an access names lies in the file (R199). -/
abbrev RunOk (f : LaneF) (n : B7) : Prop := accBytes f ≤ 16 ∧ n.toNat + (accBytes f + 3) / 4 ≤ 128

/-- What register D + k of a lane receives from its bytes (R214). -/
def loaded (f : LaneF) (bs : List Byte) (k : Nat) : W32 :=
  if accBytes f < 4 then (if bitAt f.f0.toNat 3 then BitVec.ofInt 32 (sx (8 * accBytes f) (leNat bs)) else BitVec.ofNat 32 (leNat bs))
  else BitVec.ofNat 32 (leNat ((bs.drop (4 * k)).take 4))

/-- The outcome retires a load: the run at D of each active lane receives its bytes, nothing else of the gang changes. -/
def Loads (s : State) (c : Ctx) (f : LaneF) (e : LaneEntry) (th : Thread) (bs : Nat → List Byte) (o : Out) : Prop :=
  ∃ w : SMap W32, o = .next (laneAfter s { c with th := th } e {} (fun g => { g with w := w })) ∧
    ∀ l < 32, ∀ n < 128, SMap.get 0 w (l * 128 + n) =
      if activeLane c f e l = true ∧ f.d.toNat ≤ n ∧ n < f.d.toNat + (accBytes f + 3) / 4 then loaded f (bs l) (n - f.d.toNat)
      else c.gang.getW l n

/-- The places of the active lanes, and what each of them gave. -/
def atLanes {α : Type} (c : Ctx) (f : LaneF) (e : LaneEntry) (v : Nat → α) : List (Nat × W64 × α) :=
  (lanes c f e).map (fun l => (l, placeOf c f e l, v l))
def okLanes {α : Type} (c : Ctx) (f : LaneF) (e : LaneEntry) (v : Nat → α) : List (Nat × W64 × Except LErr α) :=
  (lanes c f e).map (fun l => (l, placeOf c f e l, .ok (v l)))

/-- The bytes that a store takes from the run of registers at B. -/
def stored (c : Ctx) (f : LaneF) (l : Nat) : List Byte :=
  (span 0 (accBytes f)).map (fun j => BitVec.ofNat 8 (byteOf (c.gang.getW l (f.b.toNat + j / 4)) (j % 4)))

/-- The key of a value and index pair (R220). -/
def pairKey (v i : Nat) : Nat :=
  (if 0x7F800000 < v % 2 ^ 31 then 0 else if 2 ^ 31 ≤ v then 2 ^ 32 - 1 - v else v + 2 ^ 31) * 2 ^ 32 + (0xFFFFFFFF - i)

/-- The lane atomics: the new value by T, the size in bytes, old, B and D; none writes nothing (R219, R220). -/
def atomTable : List ((LaneF → Instr) × (Nat → Nat → Nat → Nat → Nat → Option Nat)) := [
  (.aadd, fun t z old b _ => some (if t = 0 then (eAdd .fp32 .rne false old b).1 else (old + b) % 2 ^ (8 * z))),
  (.amin, fun t z old b _ => some (if t = 0 then eMinMax .fp32 false false old b
    else if t = 3 then (if sx (8 * z) b < sx (8 * z) old then b else old) else Min.min old b)),
  (.amax, fun t z old b _ => some (if t = 0 then eMinMax .fp32 false true old b
    else if t = 3 then (if sx (8 * z) old < sx (8 * z) b then b else old) else Max.max old b)),
  (.aand, fun _ _ old b _ => some (Nat.land old b)), (.aor, fun _ _ old b _ => some (Nat.lor old b)),
  (.axor, fun _ _ old b _ => some (Nat.xor old b)), (.axchg, fun _ _ _ b _ => some b),
  (.acas, fun _ _ old b d => if old = d then some b else none),
  (.amaxvi, fun _ _ old b _ => if old < pairKey (b % 2 ^ 32) (b / 2 ^ 32) then some (pairKey (b % 2 ^ 32) (b / 2 ^ 32)) else none)]

/-- The operand of 4 or 8 bytes from register n of lane l (R218). -/
def laneWord (c : Ctx) (f : LaneF) (l n : Nat) : Nat :=
  (c.gang.getW l n).toNat + (if accBytes f = 8 then (c.gang.getW l (n + 1)).toNat * 2 ^ 32 else 0)

/-- The value that lane l's atomic writes over an old one. -/
def atomValue (op : Nat → Nat → Nat → Nat → Nat → Option Nat) (c : Ctx) (f : LaneF) (l old : Nat) : Option Nat :=
  op f.t.toNat (accBytes f) old (laneWord c f l f.b.toNat) (laneWord c f l f.d.toNat)

/-- What the reads of a load leave: each line read from L1 or a load-block counts one read (R83), an acquire drops the clean
lines (R87), and the replies are taken. -/
def afterLoad (u : State) (c : Ctx) (f : LaneF) (e : LaneEntry) (loc : Nat → Loc) : State :=
  let near := (lanes c f e).filter (fun l => !laneHome f (loc l))
  let v := (near.foldl (fun a l => insKey (loc l).line a) []).foldl (fun v k => v.countTouch c.ref.core k) u
  (if memStrong f = 1 ∧ memOrd f = 1 ∧ 3 ≤ memSc f then v.invalClean c.ref.core (fun _ => true) else v).clearRemote c.iss c.laneSg

end Sys2Proof.Claims

/-- R200, R203, R204, R206: the floating lane instructions and cvt: each active lane's w[D] takes its value, each other lane
and register keeps its own, the sticky bits of the active lanes are set, and the entry is freed. -/
def Sys2Proof.Claims.LaneFloatResults : Prop :=
  ∀ (s : State) (c : Ctx) (f : LaneF) (e : LaneEntry), AtHead s c e → GangWf c →
    (∀ p ∈ lfTable, let val := fun l => perPart3 (elemsT f).1 (p.2 (elemsT f).2 (modeAt c e l) (flushAt e)) (wA c f l) (bOf c f l) (wC c f l)
      WritesReg s c f e f.d.toNat (fun l => (val l).1) (flagsOver c f e (fun l => (val l).2)) (exec (p.1 f) s)) ∧
    (∀ p ∈ ltTable, let val := fun l => p.2 (modeAt c e l).noSr (flushAt e) (NumFmt.fp32.read (flushAt e) (wA c f l).toNat)
      WritesReg s c f e f.d.toNat (fun l => BitVec.ofNat 32 (val l).1) (flagsOver c f e (fun l => (val l).2)) (exec (p.1 f) s)) ∧
    (∀ src dst : NumFmt, NumFmt.ofCode (f.f8.toNat % 16) = some src → NumFmt.ofCode f.f0.toNat = some dst →
      let val := fun l => cvtLane src dst (perLane (f.f8.toNat % 16)) (perLane f.f0.toNat) (f.f8.toNat / 16) (modeAt c e)
        (e.fmt.getLsbD 15) (flushAt e) (wA c f) (wD c f l) l (if c.desc.legacy then 16 else 32)
      WritesReg s c f e f.d.toNat (fun l => (val l).1) (flagsOver c f e (fun l => (val l).2)) (exec (.cvt f) s))

/-- R207 to R209: the integer and bit instructions: iadd and isub wrap, or clamp to the range of T under SATI and set SAT;
the others compute the value of their row. -/
def Sys2Proof.Claims.LaneIntegerResults : Prop :=
  ∀ (s : State) (c : Ctx) (f : LaneF) (e : LaneEntry), AtHead s c e → GangWf c →
    (let val := fun l => clampT f (intT f (wA c f l) + intT f (bOf c f l))
     WritesReg s c f e f.d.toNat (fun l => (val l).1) (flagsOver c f e (fun l => (val l).2)) (exec (.iadd f) s)) ∧
    (let val := fun l => clampT f (intT f (wA c f l) - intT f (bOf c f l))
     WritesReg s c f e f.d.toNat (fun l => (val l).1) (flagsOver c f e (fun l => (val l).2)) (exec (.isub f) s)) ∧
    (∀ p ∈ liTable, WritesReg s c f e f.d.toNat (fun l => p.2 f (wA c f l) (bOf c f l)) {} (exec (p.1 f) s)) ∧
    WritesReg s c f e f.d.toNat (fun l => BitVec.ofNat 32 ((span 0 32).filter (fun i => (wA c f l).getLsbD i)).length) {}
      (exec (.popc f) s) ∧
    (∃ v : Nat → W32, WritesReg s c f e f.d.toNat v {} (exec (.clz f) s) ∧
      ∀ l < 32, (v l).toNat ≤ 32 ∧ (wA c f l).toNat < 2 ^ (32 - (v l).toNat) ∧
        ((v l).toNat < 32 → 2 ^ (31 - (v l).toNat) ≤ (wA c f l).toNat)) ∧
    (∃ v : Nat → W32, WritesReg s c f e f.d.toNat v {} (exec (.bperm f) s) ∧
      ∀ l < 32, ∀ j < 4, let n := (if f.f0 = 1 then f.imm else wC c f l).toNat / 16 ^ j % 16
        byteOf (v l) j = if 8 ≤ n then 0 else if n < 4 then byteOf (wA c f l) n else byteOf (wB c f l) (n - 4)) ∧
    (∃ v : Nat → W32, WritesReg s c f e f.d.toNat v {} (exec (.bfx f) s) ∧
      ∀ l < 32, ∀ j < 32, let p := fieldPos (bOf c f l); let n := fieldLen (bOf c f l)
        (v l).getLsbD j = if j < n then (wA c f l).getLsbD (p + j)
          else decide (f.t = 3 ∧ 0 < n) && (wA c f l).getLsbD (p + n - 1)) ∧
    (∃ v : Nat → W32, WritesReg s c f e f.d.toNat v {} (exec (.bfi f) s) ∧
      ∀ l < 32, ∀ j < 32, let p := fieldPos (bOf c f l); let n := fieldLen (bOf c f l)
        (v l).getLsbD j = if p ≤ j ∧ j < p + n then (wA c f l).getLsbD (j - p) else (wD c f l).getLsbD j) ∧
    ((Instr.bperm f).wf = true → f.f0 = 1 → f.c = 0 ∧ f.imm.toNat < 2 ^ 16) ∧
    ((Instr.bfx f).wf = true ∨ (Instr.bfi f).wf = true → f.i = 1 → f.imm.toNat < 2 ^ 14 ∧ f.imm.toNat / 32 % 8 = 0)

/-- R205, R207, R210 to R212: comparisons write all ones or zero to w[D], or the bits of lp[D]; fsel, shfl and bcast move
lane values; vote combines the predicate over the active lanes. -/
def Sys2Proof.Claims.LaneCompareAndMoveResults : Prop :=
  ∀ (s : State) (c : Ctx) (f : LaneF) (e : LaneEntry), AtHead s c e → GangWf c →
    (∀ (i : Instr) (hold : Nat → Bool),
      (i = .fcmp f ∧ hold = fun l => eCmp f.f0.toNat (flushAt e) (wA c f l).toNat (bOf c f l).toNat) ∨
        (i = .icmp f ∧ hold = fun l => iCmp f.f0.toNat (intT f (wA c f l)) (intT f (bOf c f l))) →
      (f.pw = 0 → WritesReg s c f e f.d.toNat (fun l => if hold l then 0xFFFFFFFF#32 else 0) {} (exec i s)) ∧
      (f.pw = 1 → f.d.toNat < 8 → WritesPred s c f e f.d.toNat hold (exec i s))) ∧
    WritesReg s c f e f.d.toNat (fun l => if (c.gang.getLp (f.f0.toNat % 8)).getLsbD l then wA c f l else bOf c f l) {}
      (exec (.fsel f) s) ∧
    (∃ v : Nat → W32, WritesReg s c f e f.d.toNat v {} (exec (.shfl f) s) ∧ ∀ l < 32, let x := shflLane c f l
      (ownLane c x → v l = wA c f x.toNat) ∧ (¬ ownLane c x → v l = wA c f l)) ∧
    (∃ v : Nat → W32, WritesReg s c f e f.d.toNat v {} (exec (.bcast f) s) ∧ ∀ l < 32, let k := bcastLane c f e
      (ownLane c k → v l = wA c f k) ∧ (¬ ownLane c k → v l = wA c f l)) ∧
    (let on := (lanes c f e).filter (fun l => (c.gang.getLp (f.a.toNat % 8)).getLsbD l)
     (f.f0 = 0 → f.d.toNat < 8 → WritesPred s c f e f.d.toNat (fun _ => decide (on ≠ [])) (exec (.vote f) s)) ∧
     (f.f0 = 1 → f.d.toNat < 8 → WritesPred s c f e f.d.toNat (fun _ => decide (on = lanes c f e)) (exec (.vote f) s)) ∧
     (f.f0 = 2 → ∃ v : W32, WritesReg s c f e f.d.toNat (fun _ => v) {} (exec (.vote f) s) ∧
       ∀ j < 32, v.getLsbD j = decide (j ∈ on)) ∧
     (f.f0 = 3 → f.d.toNat < 8 → WritesPred s c f e f.d.toNat (fun l => decide (on.head? = some l)) (exec (.vote f) s))) ∧
    ((Instr.fcmp f).wf = true → f.f0.toNat < 7) ∧ ((Instr.icmp f).wf = true → f.f0.toNat < 6) ∧
    ((Instr.shfl f).wf = true → f.f0.toNat < 4 ∧ (f.i = 1 → f.imm.toNat < 32)) ∧
    ((Instr.bcast f).wf = true → f.f0.toNat < 2 ∧ (f.f0 = 0 → f.imm.toNat < 32) ∧ (f.f0 = 1 → f.imm = 0)) ∧
    ((Instr.vote f).wf = true → f.f0.toNat < 4 ∧ (f.pw = 0 ↔ f.f0 = 2))

/-- R71, R221, R225: gumbel and nhash write the noise of the key x[C] and the counter in w[B] and w[A]; lacc.rd and lacc.wr
move between a lane register and accumulator h0 or h1, at the head of both queues. -/
def Obligations.NoiseAndAccumulatorResults : Prop :=
  ∀ (s : State) (c : Ctx) (f : LaneF) (e : LaneEntry), AtHead s c e → GangWf c →
    let ctr := fun l => (wB c f l).toNat * 2 ^ 32 + (wA c f l).toNat
    WritesReg s c f e f.d.toNat (fun l => BitVec.ofNat 32 (gumbelBits e.xop.toNat (ctr l))) {} (exec (.gumbel f) s) ∧
    (f.d.toNat < 127 → ∃ w : SMap W32, exec (.nhash f) s = .next (laneAfter s c e {} (fun g => { g with w := w })) ∧
      ∀ l < 32, ∀ n < 128, SMap.get 0 w (l * 128 + n) =
        if activeLane c f e l = true ∧ n = f.d.toNat then BitVec.ofNat 32 (hash64 e.xop.toNat (ctr l))
        else if activeLane c f e l = true ∧ n = f.d.toNat + 1 then BitVec.ofNat 32 (hash64 e.xop.toNat (ctr l) / 2 ^ 32)
        else c.gang.getW l n) ∧
    (AtBothHeads s c e →
      WritesReg s c f e f.d.toNat (fun l => c.gang.getH (f.f0.toNat % 2) l) {} (exec (.laccRd f) s) ∧
      ∃ h : SMap W32, exec (.laccWr f) s = .next (laneAfter s c e {} (fun g => { g with h := h })) ∧
        ∀ j < 2, ∀ l < 32, SMap.get 0 h (32 * j + l) =
          if activeLane c f e l = true ∧ j = f.f0.toNat % 2 then wA c f l else c.gang.getH j l)

/-- R214 to R216: the loads and stores of lanes. When every lane's place and access answers, a load writes each active lane's
bytes to its run of registers, zero- or sign-extended below four bytes, and a store writes the run at B; lldp reads
zeros beyond the window and sets PWB. -/
def Sys2Proof.Claims.LaneLoadStoreResults : Prop :=
  ∀ (s : State) (c : Ctx) (f : LaneF) (e : LaneEntry), AtHead s c e → GangWf c →
    (∀ l ∈ lanes c f e, (placeOf c f e l).toNat % accBytes f = 0) →
    (RunOk f f.d → (∀ l ∈ lanes c f e, (placeOf c f e l).toNat + accBytes f ≤ 1024 * c.crew.cmemKiB) →
      Loads s c f e c.th (fun l => SMap.getN 0 c.crew.cmem (placeOf c f e l).toNat (accBytes f)) (exec (.lldc f) s)) ∧
    (RunOk f f.b → (∀ l ∈ lanes c f e, (placeOf c f e l).toNat + accBytes f ≤ 1024 * c.crew.cmemKiB) →
      exec (.lstc f) s = .next (laneAfter (s.updCrew c.ref.core c.gang.crew (fun cr => (lanes c f e).foldl (fun cr l =>
        { cr with cmem := SMap.setN 0 cr.cmem (placeOf c f e l).toNat (stored c f l) }) cr)) c e {} id)) ∧
    (RunOk f f.d → ∀ (loc : Nat → Loc) (bs : Nat → List Byte) (u : State),
      s.laneLocs c f e (accBytes f) false (laneWide f) = okLanes c f e loc → (∀ l, (bs l).length = accBytes f) →
      s.laneReads c f (accBytes f) (atLanes c f e loc) = (u, okLanes c f e bs) →
      Loads (afterLoad u c f e loc) c f e c.th bs (exec (.lld f) s)) ∧
    (RunOk f f.b → ∀ loc : Nat → Loc, s.laneLocs c f e (accBytes f) true (laneWide f) = okLanes c f e loc →
      let rel := memStrong f == 1 && memOrd f == 2
      ∀ g : State, Gated rel s c c.laneSg (memSc f) ((lanes c f e).filterMap (fun l => (loc l).dev)) g → c.isMgmt = false →
      exec (.lst f) s = .next (laneAfter ((lanes c f e).foldl (fun s l => s.laneWrite c f (loc l) (stored c f l)) g) c e {} id)) ∧
    (RunOk f f.d → ∀ (bs : Nat → List Byte) (u : State), let w := c.desc.pwin.getD (f.f8.toNat % 8) (0, 0)
      w.2 ≠ 0 → (∀ l, (bs l).length = accBytes f) →
      s.winReads c w (accBytes f) ((lanes c f e).map (fun l => (l, placeOf c f e l))) = (u, okLanes c f e bs) →
      let beyond := (lanes c f e).any (fun l => decide (w.2 < (placeOf c f e l).toNat + accBytes f))
      Loads ((if beyond then u.heat (.msts c.thread) 16 else u).clearRemote c.iss c.laneSg) c f e
        (if beyond then
          { c.th with msts := BitVec.ofNat 32 (mstsPwb c.th.msts.toNat (f.f8.toNat % 8)) } else c.th) bs (exec (.lldp f) s))

/-- R82, R217: lblk with an active lane at a line starts one load-block of its lines, tagged and outstanding; with no active
lane it does nothing. -/
def Sys2Proof.Claims.LoadBlockResults : Prop :=
  ∀ (s : State) (c : Ctx) (f : LaneF) (e : LaneEntry), AtHead s c e →
    let b := (BitVec.ofInt 64 (e.xop.toInt + f.imm.toInt) : W64)
    (lanes c f e = [] → exec (.lblk f) s = .next (laneAfter s c e {} id)) ∧
    (lanes c f e ≠ [] → b.toNat % 128 = 0 → ∀ ls : List Nat, s.blockLocs c.part b.toNat (f.f8.toNat % 64 + 1) = .ok ls →
      exec (.lblk f) s = .next (laneAfter (s.addBlock c.ref.core ls (f.f0.toNat / 16)) c e {} id))

/-- R87, R202, R218 to R220: a lane atomic of 4 or 8 bytes performs lane by lane in rising order, each on what the one before
left, and writes the old values to D: in core memory, and in the device's own memory when every place and access answers,
after its release has gathered, the clean lines dropped by an acquire. One active lane writes the value of its operation
over the old one, or nothing where the operation writes nothing. -/
def Obligations.LaneAtomicResults : Prop :=
  ∀ p ∈ atomTable, ∀ (s : State) (c : Ctx) (f : LaneF) (e : LaneEntry), AtHead s c e → c.isMgmt = false →
    accBytes f = 4 ∨ accBytes f = 8 →
    (∀ l ∈ lanes c f e, (placeOf c f e l).toNat % accBytes f = 0) →
    let nw := fun l old => atomValue p.2 c f l old
    (f.f8.toNat / 2 % 2 = 1 → (∀ l ∈ lanes c f e, (placeOf c f e l).toNat + accBytes f ≤ 1024 * c.crew.cmemKiB) →
      let r := cmemAtoms (accBytes f) nw c.crew (atLanes c f e (fun l => .hbm (placeOf c f e l).toNat))
      exec (p.1 f) s = .next (laneAfter (s.updCrew c.ref.core c.gang.crew (fun _ => r.1)) c e {} (putOld f r.2)) ∧
      (∀ l, lanes c f e = [l] → let old := SMap.getN 0 c.crew.cmem (placeOf c f e l).toNat (accBytes f)
        r.2 = [(l, old)] ∧
        (∀ v, nw l (leNat old) = some v → r.1 = { c.crew with
          cmem := SMap.setN 0 c.crew.cmem (placeOf c f e l).toNat (leBytes (accBytes f) v) }) ∧
        (nw l (leNat old) = none → r.1 = c.crew))) ∧
    (f.f8.toNat / 2 % 2 = 0 → let rel := memOrd f == 2 || memOrd f == 3
      ∀ (k : Nat → Nat) (old : Nat → List Byte) (g u : State),
      s.laneLocs c f e (accBytes f) true (3 ≤ memSc f) = okLanes c f e (fun l => .hbm (k l)) →
      s.atomBegun c (lanes c f e) = false → g.atomBegun c (lanes c f e) = false → Gated rel s c c.laneSg (memSc f) [] g →
      (∀ x ∈ g.atomCheck c f (accBytes f) (atLanes c f e (fun l => .hbm (k l))), ∃ b, x.2.2 = .ok b) →
      g.atomLocals c f (accBytes f) nw (atLanes c f e (fun l => .hbm (k l))) = (u, okLanes c f e old) →
      let v := if (memOrd f = 1 ∨ memOrd f = 3) ∧ 3 ≤ memSc f then u.invalClean c.ref.core (fun _ => true) else u
      exec (p.1 f) s = .next (laneAfter (v.atomClear c (lanes c f e)) c e {}
        (putOld f ((lanes c f e).map (fun l => (l, old l))))))

/-- R202, R213: an access with a misaligned active lane takes effect in no lane: the trap reports cause 0x06, the mask of the
misaligned lanes, the lowest of them and its address. -/
def Sys2Proof.Claims.MisalignedLaneAccess : Prop :=
  ∀ i ∈ ([.lld, .lst, .lldc, .lstc] ++ atomTable.map Prod.fst : List (LaneF → Instr)),
    ∀ (s : State) (c : Ctx) (f : LaneF) (e : LaneEntry), AtHead s c e → s.scalarBusy c = false →
      let bad := (lanes c f e).filter (fun l => (placeOf c f e l).toNat % accBytes f != 0)
      ∀ l rest, bad = l :: rest → exec (i f) s = s.laneTrap c e 0x06 l (maskOf bad) (placeOf c f e l)

/-- R222 to R225: an lmma whose records and rows can be read, every line translated first, gives h0 and h1 of each active lane the accumulation of its A row
with B rows NC and NC + 1, from zero when INIT is set, and touches the home lines it read; with no active lane it does
nothing. Its coordinates are signed (the model's choice, log entry 44). -/
def Obligations.LaneMatrixResults : Prop :=
  ∀ (s : State) (c : Ctx) (f : LaneF) (e : LaneEntry), AtBothHeads s c e → GangWf c →
    (lanes c f e = [] → exec (.lmma f) s = .next (laneAfter s c e {} id)) ∧
    (∀ (nk : Nat) (s1 s2 s3 s4 : State) (la lb : Layout) (xa xb : List Nat) (b0 b1 : List (Option Nat))
        (row : Nat → List (Option Nat)),
      lanes c f e ≠ [] → matClass e.fmt.toNat = some nk →
      let kb := sx 32 (e.xop.toNat % 2 ^ 32)
      let nc := sx 32 (e.xop.toNat / 2 ^ 32)
      let spanB := fun (j : Int) => lmmaSpan lb xb (fmtB e.fmt.toNat) nk kb (nc + j) f.imm.toInt
      let spanA := fun (l : Nat) => lmmaSpan la xa (fmtA e.fmt.toNat) nk kb (wA c f l).toInt f.imm.toInt
      let spans := [spanB 0, spanB 1] ++ (lanes c f e).map spanA
      kb % 48 = 0 →
      (∀ x ∈ spans, s2.spanErrs c x = []) →
      s.lmmaRecord c (f.f0.toNat % 8) f.imm.toInt = (s1, .ok (la, xa)) →
      s1.lmmaRecord c (f.f0.toNat / 8 % 8) f.imm.toInt = (s2, .ok (lb, xb)) →
      s2.lmmaRows c lb xb (fmtB e.fmt.toNat) nk kb f.imm.toInt [nc, nc + 1] = (s3, [.ok b0, .ok b1]) →
      s3.lmmaRows c la xa (fmtA e.fmt.toNat) nk kb f.imm.toInt ((lanes c f e).map (fun l => (wA c f l).toInt)) =
        (s4, (lanes c f e).map (fun l => .ok (row l))) →
      let elem := fun (l j : Nat) => lmmaElem c.gang f e.fmt.toNat (row l) (if j = 0 then b0 else b1) l j
      let v := s4.l2Reads c.part (f.f8.toNat / 2 % 16) (spans.filterMap (fun r => r.map (fun x => (x.1, x.2.2.1))))
      ∃ h : SMap W32, exec (.lmma f) s = .next (laneAfter (v.clearRemote c.iss (lmmaSg c)) c e
          ((lanes c f e).foldl (fun a l => (a.or (elem l 0).2).or (elem l 1).2) {}) (fun g => { g with h := h })) ∧
        ∀ j < 2, ∀ l < 32, SMap.get 0 h (32 * j + l) =
          if activeLane c f e l = true then (elem l j).1 else c.gang.getH j l)

/-- R125: the effects of the retired opcodes that firmware emulates: hdot2 rounds D plus two FP16 products once, lerp rounds
A + C × (B − A) once, isad adds |A − B| to D modulo 2^32. -/
def Sys2Proof.Claims.RetiredLaneResults : Prop :=
  ∀ (s : State) (c : Ctx) (f : LaneF) (e : LaneEntry), AtHead s c e → GangWf c →
    (∀ (i : Instr) (op : Bool → Nat → Nat → Nat → Nat → FVal × FFlags), (i = .hdot2 f ∧ op = hdot2Val) ∨ (i = .lerp f ∧ op = lerpVal) →
      let x := fun l => op (flushAt e) (wD c f l).toNat (wA c f l).toNat (wB c f l).toNat (wC c f l).toNat
      let r := fun l => deliver .fp32 .rne (flushAt e) (x l).1
      WritesReg s c f e f.d.toNat (fun l => BitVec.ofNat 32 (r l).1) (flagsOver c f e (fun l => (x l).2.or (r l).2)) (exec i s)) ∧
    WritesReg s c f e f.d.toNat (fun l => BitVec.ofInt 32 ((wD c f l).toInt + ((wA c f l).toInt - (wB c f l).toInt).natAbs)) {}
      (exec (.isad f) s)

/-! ## Engine commands at issue -/

namespace Sys2Proof.Claims

/-- The entry of a command of the scalar stream: its captured registers, its place and its word (R96, R227). -/
def commandEntry (c : Ctx) (i : Instr) (a b d : B5) : QEntry :=
  { seq := 0, cmd := i, a := c.x a, b := c.x b, c := c.x d, pc := c.th.pc.toNat, word := (tiwOf i).headD 0
    sg := c.gang.num * 8 + c.ref.sub }

/-- The command has issued in state u: the thread goes on at PC + 4. -/
def issuedAt (u : State) (c : Ctx) : State := u.setTh c { c.th with pc := c.th.pc + 4, spin := {} }

/-- The command stands in state u and its thread waits for it (R227). -/
def heldAt (u : State) (c : Ctx) (w : Wait) : State := u.setTh c { c.th with wait := w, spin := {} }

/-- A queue of the issuer with room for one entry (R227). -/
abbrev Room (s : State) (c : Ctx) (n : Nat) : Prop := ((s.queues c.iss).get n).length < 16

/-- The key of a Cairn handle's queue (R243). -/
def handleKey (s : State) (c : Ctx) (h : W64) : Nat := s.cairnKey c.part h.toNat

/-- Commands that enter a queue as they stand: constructor, registers, role class, place and queue (R96, R227). -/
def queueTable : List ((EC → Instr) × (EC → B5 × B5 × B5) × RoleClass × Place × (State → Ctx → EC → Nat)) := [
  (.jn, fun f => (0, 0, f.c), .copy, .edge, fun s c f => if f.m.toNat % 8 = 7 then handleKey s c (c.x f.c) else f.m.toNat % 8),
  (.cairnApp, fun f => (f.a, f.b, f.c), .commit, .both, fun s c f => handleKey s c (c.x f.a)),
  (.cairnQry, fun f => (f.a, f.b, 0), .commit, .both, fun s c f => handleKey s c (c.x f.a)),
  (.cairnSave, fun f => (f.a, f.b, 0), .commit, .both, fun s c f => handleKey s c (c.x f.a)),
  (.cairnClose, fun f => (f.a, 0, 0), .commit, .both, fun s c f => handleKey s c (c.x f.a)),
  (.wpPre, fun f => (f.a, f.b, 0), .commit, .both, fun _ _ _ => 4)]

/-- Commands that enter no queue and let their issuer go on (R96). -/
def orderedTable : List ((EC → Instr) × (EC → B5 × B5 × B5)) := [
  (.kvCmt, fun f => (f.a, f.b, 0)), (.wpUpd, fun f => (f.a, f.b, f.c)), (.launch, fun f => (f.a, f.b, 0))]
/-- The commands whose issuer waits until a handle is written (R227, R244). -/
def handleTable : List ((EC → Instr) × (EC → B5 × B5 × B5)) := [
  (.cairnOpen, fun f => (f.a, f.b, 0)), (.cairnRst, fun f => (f.a, f.b, 0))]
/-- The lock commands, and whether the issuer waits (R227, R241). -/
def lockTable : List ((EC → Instr) × (EC → B5 × B5 × B5) × Bool) := [
  (.rlkBind, fun f => (f.a, f.b, f.c), false), (.rlkRel, fun f => (f.a, 0, 0), false), (.rlkAcq, fun f => (f.a, 0, 0), true)]

/-- The pointers of a ring: slots in range, WP at most one lap ahead of RP (R100). -/
abbrev RingWf (r : Ring) : Prop :=
  1 ≤ r.count ∧ r.count ≤ 16 ∧ r.rp < 32 ∧ r.wp < 32 ∧ r.rp % 16 < r.count ∧ r.wp % 16 < r.count ∧
    ((r.wp / 16 = r.rp / 16 ∧ r.rp % 16 ≤ r.wp % 16) ∨ (r.wp / 16 ≠ r.rp / 16 ∧ r.wp % 16 ≤ r.rp % 16))

/-- WP stands at a slot that is not full, or it has lapped RP (R101). -/
abbrev WpRests (r : Ring) : Prop := (r.slot (r.wp % 16)).full = false ∨ (r.wp % 16 = r.rp % 16 ∧ r.wp ≠ r.rp)

end Sys2Proof.Claims

/-- R96, R227: a command with room in its queue enters it with its captured registers, and the stream goes on at PC + 4. -/
def Sys2Proof.Claims.CommandsEnterTheirQueue : Prop :=
  (∀ p ∈ queueTable, ∀ (f : EC) (s : State) (c : Ctx), May s c p.2.2.1 p.2.2.2.1 → Room s c (p.2.2.2.2 s c f) →
    let r := p.2.1 f
    exec (p.1 f) s = .next (issuedAt (s.qPush c.iss (p.2.2.2.2 s c f) (commandEntry c (p.1 f) r.1 r.2.1 r.2.2)) c)) ∧
  (∀ (f : EC) (s : State) (c : Ctx), May s c .copy .edge → Room s c 4 →
    exec (.cpMc f) s = .next (issuedAt (s.qPush c.iss 4 { commandEntry c (.cpMc f) f.a f.b f.c with
      blk := (s.localRead c.iss (c.x f.c).toNat 64).getD [] }) c))

/-- R91, R96, R227, R241, R244, R246 to R248: commands that enter no queue stand in issue order; the stream goes on, but for
cairn.open, cairn.rst and rlk.acq, whose issuer waits; a lock record on another device takes the fabric queue. -/
def Sys2Proof.Claims.OrderedCommandResults : Prop :=
  ∀ (s : State) (c : Ctx) (f : EC), May s c .commit .both →
    (∀ p ∈ orderedTable, (p.1 f = .launch f → (c.x f.b).toNat < 32 → (s.dlq (c.x f.b).toNat).entries.length < 64) →
      let r := p.2 f
      exec (p.1 f) s = .next (issuedAt (s.ordPush c.iss (commandEntry c (p.1 f) r.1 r.2.1 r.2.2)) c)) ∧
    (∀ p ∈ handleTable, let r := p.2 f
      exec (p.1 f) s = .next (heldAt (s.ordPush c.iss (commandEntry c (p.1 f) r.1 r.2.1 r.2.2)) c .issued)) ∧
    (∀ p ∈ lockTable, let r := p.2.1 f
      let e : QEntry := { commandEntry c (p.1 f) r.1 r.2.1 r.2.2 with vals := [c.gang.num] }
      let go := fun (u : State) => if p.2.2 then heldAt u c .acq else issuedAt u c
      (s.isRemote c.part (c.x f.a).toNat true = .ok false → exec (p.1 f) s = .next (go (s.ordPush c.iss e))) ∧
      (s.isRemote c.part (c.x f.a).toNat true = .ok true → Room s c 5 → exec (p.1 f) s = .next (go (s.qPush c.iss 5 e))))

/-- R96, R227, R231, R236: a copy enters the queue that M[5:4] names, or the fabric queue when its device memory lies on
another device; cp.ld and cp.st capture their coordinate block, cp.st its source and its ring's geometry as well; a
cp.g2g of no bytes does nothing. The record's base is read at issue. -/
def Sys2Proof.Claims.CopyIssueResults : Prop :=
  ∀ (s u : State) (c : Ctx) (f : EC), (∀ x ∈ s.issueFail, ¬ (x.1 = c.iss ∧ x.2.1 = c.sg)) → s.stalled (.issue c.iss c.sg) = false →
    let n := fun (remote : Bool) => if remote then 5 else f.m.toNat / 16
    let at_ := fun (i : Instr) (remote : Bool) => s.copyRemote (c.issCtx i) i (c.x f.a).toNat (c.x f.b).toNat = (u, .ok remote)
    let put := fun (remote : Bool) (e : QEntry) => Host.Outcome.next (issuedAt ((u.qPush c.iss (n remote) e).clearRemote c.iss (80000 + c.sg)) c)
    (∀ remote : Bool, May s c .copy .edge → at_ (.cpLd f) remote → Room u c (n remote) →
      exec (.cpLd f) s = put remote { commandEntry c (.cpLd f) f.a f.b f.c with
        blk := (s.localRead c.iss (c.x f.c).toNat 32).getD [] }) ∧
    (∀ remote : Bool, May s c .copy .edge → at_ (.cpSt f) remote → Room u c (n remote) →
      s.crewOf c.ref.core c.gang.crew = some c.crew →
      exec (.cpSt f) s = put remote { commandEntry c (.cpSt f) f.a f.b f.c with
        blk := (s.localRead c.iss (c.x f.c).toNat 32).getD [], snap := c.crew.cmem
        vals := s.ringGeom c.iss ((c.x f.a).toNat / 2 ^ 24 % 16) }) ∧
    (∀ remote : Bool, May s c .copy .both → c.x f.c ≠ 0 → at_ (.cpG2g f) remote → Room u c (n remote) →
      exec (.cpG2g f) s = put remote (commandEntry c (.cpG2g f) f.a f.b f.c)) ∧
    (May s c .copy .both → c.x f.c = 0 → exec (.cpG2g f) s = .next (issuedAt s c))

/-- R101, R102, R239: the ring commands of a crew perform at issue: arm sets the slot's count and fills it, or puts it in
error, by what was delivered; await gives the slot's place when it is full; rel frees the slot at RP; init sets the ring anew, and
is illegal in any role when its geometry is malformed (R110, R292); an error sets MSTS.RNGE and takes cause 0x10. -/
def Sys2Proof.Claims.RingCommandResults : Prop :=
  ∀ (s : State) (c : Ctx) (f : EC), c.isMgmt = false → let n := f.m.toNat % 16
    let r := s.ring c.iss n
    (∀ i : Nat, May s c .copy .edge → 1 ≤ r.count → ¬ (n = 0 ∧ c.desc.persist = true) → (c.x f.a).toNat = i → i < r.count → i < 16 →
      (r.slot i).arm = false → (r.slot i).full = false → (r.slot i).err = false →
      1 ≤ (c.x f.b).toNat → (c.x f.b).toNat ≤ r.size →
      ∃ q : Ring, exec (.ringArm f) s = .next (issuedAt (s.setRing c.iss n q) c) ∧ q.rp = r.rp ∧
        (q.base, q.size, q.count) = (r.base, r.size, r.count) ∧ let x := r.slot i
        q.slot i = { x with arm := true, exp := (c.x f.b).toNat, full := decide (x.cnt = (c.x f.b).toNat)
                            err := decide ((c.x f.b).toNat < x.cnt)
                            ph := if x.cnt = (c.x f.b).toNat then !x.ph else x.ph }) ∧
    (May s c .common .edge → 1 ≤ r.count → (r.slot (r.rp % 16)).err = false →
      (r.rp ≠ r.wp → (r.slot (r.rp % 16)).full = true → exec (.ringAwait f) s = .next (s.setTh c
        { c.th.setX f.a.toNat (BitVec.ofNat 64 (r.base + r.rp % 16 * r.size)) with pc := c.th.pc + 4, spin := {} })) ∧
      (r.rp = r.wp → exec (.ringAwait f) s = .next (s.setTh c { c.th with wait := .ring }))) ∧
    (May s c .common .edge → 1 ≤ r.count → r.rp ≠ r.wp → ¬ (n = 0 ∧ c.desc.persist = true) →
      ∃ q : Ring, exec (.ringRel f) s = .next (issuedAt (s.setRing c.iss n q) c) ∧
        q.rp = (if r.rp % 16 + 1 = r.count then (r.rp / 16 + 1) % 2 * 16 else r.rp + 1) ∧
        (SMap.wf {} r.slots = true → q.slot (r.rp % 16) = { ph := (r.slot (r.rp % 16)).ph })) ∧
    (Ready s c → c.th.lq = [] → ringGeometry (c.x f.a).toNat (s.localSize c.iss) = none →
      exec (.ringArmInit f) s = .next (s.takeTrap c (faultAt c (.ringArmInit f) 0x01 0 0))) ∧
    (∀ q : Ring, May s c .copy .edge → ringGeometry (c.x f.a).toNat (s.localSize c.iss) = some q → s.ringBusy c.iss n = false →
      ¬ (n = 0 ∧ c.desc.persist = true) → exec (.ringArmInit f) s = .next (issuedAt (s.setRing c.iss n q) c)) ∧
    (May s c .common .edge → c.th.lq = [] →
      (r.count = 0 ∨ (r.slot (r.rp % 16)).err = true → exec (.ringAwait f) s = .next (s.takeTrap
        { c with th := { c.th with msts := c.th.msts ||| 8 } } (faultAt c (.ringAwait f) 0x10 0 0))) ∧
      (r.count = 0 ∨ r.rp = r.wp → exec (.ringRel f) s = .next (s.takeTrap
        { c with th := { c.th with msts := c.th.msts ||| 8 } } (faultAt c (.ringRel f) 0x10 0 0))))

/-- R100, R101: a delivery to a slot counts its bytes, fills an armed slot whose count is reached and flips its phase, puts one
beyond its count in error, and one to a full slot puts it in error; WP passes the full slots in order and stops at
the first that is not, or one lap ahead of RP; a ring keeps its form. -/
def Sys2Proof.Claims.RingDeliveryLaws : Prop :=
  ∀ (r : Ring) (i b : Nat), RingWf r → i < r.count → SMap.wf {} r.slots = true → 0 < b →
    let x := r.slot i
    let q := (r.deliver i b).1
    RingWf q ∧ q.rp = r.rp ∧
    (x.full = true ∨ x.err = true → (q.slot i).err = true ∧ (r.deliver i b).2 = true ∧ q.wp = r.wp) ∧
    (x.full = false → x.err = false → WpRests q ∧ (q.slot i).cnt = x.cnt + b ∧
      (x.arm = true → x.cnt + b = x.exp → (q.slot i).full = true ∧ (q.slot i).ph = !x.ph ∧ (r.deliver i b).2 = false) ∧
      (x.arm = true → x.exp < x.cnt + b → (q.slot i).err = true ∧ (r.deliver i b).2 = true) ∧
      (x.arm = true → x.cnt + b < x.exp → q.slot i = { x with cnt := x.cnt + b } ∧ (r.deliver i b).2 = false) ∧
      (x.arm = false → (q.slot i).full = false ∧ ((q.slot i).err = true ↔ r.size < x.cnt + b)))

/-- R113, R227, R242: a command of a tile engine's C slot with a true guard issues as its bundle: what it places stands, a value
for a register lands one step on, a wait changes what the issue changed and no more; one with a false guard does
nothing; a ring error sets MSTS.RNGE and is kept for the boundary as cause 0x3B with its ring and slot. -/
def Sys2Proof.Claims.TileCommandResults : Prop :=
  ∀ (i : Instr) (f : EC) (s u : State) (e : Nat), commandOf i = some f → Runs s e → let t := s.tile e
    (t.preg f.g.toNat = false → exec i s = .next s) ∧
    (t.preg f.g.toNat = true → let r := s.issueCmd (s.tileIss e) i (t.sreg f.a.toNat) (t.sreg f.b.toNat) (t.sreg f.c.toNat)
      (r = (u, .done none) → exec i s = .next u) ∧
      (r = (u, .wait) → exec i s = .next u) ∧
      (∀ v, r = (u, .done (some v)) → exec i s = .next { u.setTile e { u.tile e with
        flights := (u.tile e).flights ++ [{ step := (u.tile e).t + 1, order := u.seq, what := .s f.a.toNat v }] } with
        seq := u.seq + 1 }) ∧
      (∀ b, r = (u, .held b) → exec i s = .next (u.setTile e { u.tile e with cmdWait := true })) ∧
      (∀ n, r = (u, .ring n) → (u.tile e).pendErr = none → exec i s = .next (u.setTile e { u.tile e with
        msts := (u.tile e).msts ||| 8, hotMsts := (u.tile e).hotMsts ||| 8, pendErr := some (t.b, 6, 0x3B + 6 * 256 + (f.m.toNat % 16 + n * 16) * 4096) })))

/-! ## Starts, modes and registers -/

namespace Sys2Proof.Claims

/-- Bits [hi:lo] of a register (R1). -/
def bits {n : Nat} (w : BitVec n) (hi lo : Nat) : Nat := w.toNat / 2 ^ lo % 2 ^ (hi + 1 - lo)

/-- Two register values agree in every bit of a list of places apart. -/
def sameBut {n : Nat} (a b : BitVec n) (ks : List Nat) : Prop := ∀ k < n, k ∉ ks → a.getLsbD k = b.getLsbD k

/-- A stored configuration with every field in its range (R22, R343, R345). -/
abbrev ConfigOk (b : BootCfg) : Prop :=
  b.devid < 4608 ∧ b.pclass < 3 ∧ b.part < 4 ∧ b.fabric < 2 ∧ b.determ < 2 ∧ ∀ r ∈ b.rtab, r.1 < 4608 ∧ r.2 < 2 ^ 18

/-- The three images of the flash verify: signed under a fused key that is not revoked, and no older than the fuses allow (R349). -/
abbrev Verified (s : State) : Prop :=
  ∀ i ∈ [s.images.manifest, s.images.firmware, s.images.hub], i.signed = true ∧ s.fuses.minVersion ≤ i.version ∧
    ∃ k < 4, s.fuses.digests[k]? = some i.digest ∧ s.fuses.revoked.testBit k = false

/-- The five measurements of a start (R349). -/
abbrev Measured (s t : State) : Prop :=
  t.measures = [s.fuses.rom, s.images.manifest.bytes, s.images.firmware.bytes, s.images.hub.bytes, s.flashBlock].map (Config.shake256 64)

/-- The device is held in recovery with a REASON (R353). -/
abbrev Held (t : State) (reason : Nat) : Prop :=
  t.mem = [] ∧ t.mgmts = [] ∧ bits t.bstat 2 0 = 2 ∧ bits t.bstat 7 5 = 4 ∧ bits t.bstat 15 8 = reason % 256

/-- What the reset column of R352 leaves of a device that has started, whatever it held: nothing runs or is queued. -/
abbrev Fresh (t : State) : Prop :=
  t.mtlb = [] ∧ t.roCache = [] ∧ t.flushOut = [] ∧ t.flushIn = [] ∧ t.autoRels = [] ∧ t.cores = [] ∧ t.tiles = [] ∧ t.launches = [] ∧ t.stopped = [] ∧ t.swapped = [] ∧ t.dlqs = [] ∧ t.cairns = [] ∧
    t.wayposts = [] ∧ t.tlb = [] ∧ t.wcache = [] ∧ t.walkers = [] ∧ t.l2 = [] ∧ t.traces = [] ∧ t.time = 0 ∧ t.drst = 0 ∧
    t.fns = [] ∧ t.remoteOps = []

/-- Both management cores stand at firmware offset 0 with a firmware of the length given (R352). -/
abbrev Booted (t : State) (n : Nat) : Prop :=
  t.cur = .mgmt 0 ∧ ∀ h < 2, (t.mgmt h).th = {} ∧ (t.mgmt h).fwLen = n ∧ (t.mgmt h).events = [] ∧ (t.mgmt h).halted = false

/-- The registers of the configuration are in force (R22, R352). -/
abbrev Configured (t : State) (b : BootCfg) (determ : Nat) : Prop :=
  bits t.dmode 9 8 = b.pclass ∧ bits t.dmode 11 10 = b.pclass ∧ bits t.dmode 5 4 = b.part ∧ bits t.dmode 2 2 = b.fabric ∧
    bits t.dmode 0 0 = determ ∧ bits t.dmode 1 1 = determ ∧ bits t.dmode 7 6 = 0 ∧ t.fabOrdered = (b.fabric == 1) ∧
    t.devid.toNat = b.devid ∧ t.owner = b.owner ∧ t.flash = b

/-- A management core writes, with determinism off (R342). -/
abbrev Writes (s : State) (h : Nat) : Prop := s.inp.flag = false ∧ s.inp.iss = .mgmt h ∧ s.determ = false

/-- A write of DMODE is refused: MODE_ERR alone, set in this cycle (R3). -/
def modeRefused (s : State) : State := { s.heat .modeErr 128 with dmode := s.dmode ||| 0x80 }

/-- Only the block of partition p differs. -/
def onlyPart (s : State) (p : Nat) (b : Part) : State := s.setPart p b

end Sys2Proof.Claims

/-- R22, R24, R351 to R354: a cold start leaves memory listing nothing, the registers of the configuration, every unit
empty, the five measurements taken and both management cores at offset 0 with BSTAT.STATE 1; a warm start with the same owner and
PART keeps HBM and DETERM, another scrubs; four failures, an image that does not verify and a malformed configuration hold the
device in recovery; power loss leaves the flash and the fuses; a VF reset clears its mailbox.
The model's choices in it: TIME starts at 0 (log entry 6), every scalar register of a management core is 0 after a start, and the
owner is 0 after power loss (7), no Cairn context is open and every generation is 0 (28), the mailboxes
are zero (51), and the class in force is the stored one (54). -/
def Obligations.StartResults : Prop :=
  ∀ s : State,
    (bits s.bstat 2 0 = 0 → Verified s → ConfigOk s.flash → (s.inp.nums.filter (fun r => 3 ≤ r && r ≤ 6)).length < 4 → s.inp.v = 0 →
      ∃ t : State, exec .coldStart s = .next t ∧ t.mem = [] ∧ t.bad = [] ∧ t.keyGen = s.keyGen + 1 ∧ Fresh t ∧ Measured s t ∧
      Booted t s.images.firmware.bytes.length ∧ Configured t s.flash s.flash.determ ∧ t.bstat.toNat = 1 + 8 ∧ t.portsDown = []) ∧
    (bits s.bstat 2 0 = 0 → Verified s → ConfigOk s.flash → (∀ r ∈ s.inp.nums, 3 ≤ r ∧ r ≤ 6) → 4 ≤ s.inp.nums.length → ∃ t : State,
      exec .coldStart s = .next t ∧ Fresh t ∧ Held t (s.inp.nums.getD 3 0)) ∧
    (bits s.bstat 2 0 = 0 → ¬ Verified s → ∃ (t : State) (r : Nat), exec .coldStart s = .next t ∧ Fresh t ∧ Held t r ∧
      ((∀ i ∈ [s.images.manifest, s.images.firmware, s.images.hub], s.fuses.minVersion ≤ i.version) → r = 1) ∧ (r = 1 ∨ r = 2)) ∧
    (bits s.bstat 2 0 = 0 → Verified s → ¬ ConfigOk s.flash → ∃ t : State, exec .coldStart s = .next t ∧ Fresh t ∧ Held t 7) ∧
    (bits s.bstat 2 0 ≠ 0 → exec .coldStart s = .next s) ∧
    (bits s.bstat 2 0 ≠ 0 → Verified s → ConfigOk s.flash → s.inp.nums = [] → s.inp.v = 0 → ∃ t : State,
      exec .warmStart s = .next t ∧ Fresh t ∧ Measured s t ∧ Booted t s.images.firmware.bytes.length ∧ Configured t s.flash (bits s.dmode 0 0) ∧
      (s.owner = s.flash.owner → bits s.dmode 5 4 = s.flash.part →
        t.mem = s.mem ∧ t.bad = s.bad ∧ t.keyGen = s.keyGen ∧ t.memEpoch = s.memEpoch ∧ t.bstat.toNat = 1 + 16) ∧
      (s.owner ≠ s.flash.owner → t.mem = [] ∧ t.bad = [] ∧ t.keyGen = s.keyGen + 1 ∧ t.bstat.toNat = 1 + 8 + 16) ∧
      (s.owner = s.flash.owner → bits s.dmode 5 4 ≠ s.flash.part → t.mem = [] ∧ t.keyGen = s.keyGen + 1 ∧ t.bstat.toNat = 1 + 16)) ∧
    (∃ t : State, exec .powerLoss s = .next t ∧ t.flash = s.flash ∧ t.flashBlock = s.flashBlock ∧ t.images = s.images ∧
      t.fuses = s.fuses ∧ t.mem = [] ∧ t.bstat = 0 ∧ t.owner = 0 ∧ Fresh t ∧ t.mgmts = []) ∧
    (1 ≤ s.inp.a → s.inp.a ≤ 8 → exec .vfFunctionLevelReset s =
      .next (s.setFn s.inp.a { s.fn s.inp.a with mbox := [], abase := 0 }))

/-- R22 to R26: a write of a DMODE field takes the field and sets PENDING while a request is not in force; one of class 3,
one that changes PART while a partition is not idle, or one that changes a field while PENDING is 1, sets MODE_ERR and nothing
else; a change of PART makes memory and the partitions new; the clock change, once every station stands at a boundary, and the
fabric switch, once no packet that was injected before the write is on its way, bring the requests into force; under determinism
FABRIC is not written; idle cycles pass at the limit. The model's choices in it: after a change of PART, PTROOT is 0 and no queue is
configured (log entry 7), and the memory that lists nothing takes a new epoch of free values (log entry 4). -/
def Obligations.DeviceModeResults : Prop :=
  ∀ s : State,
    (s.classPending = false → s.fabricPending = false → s.determ = false →
      (∀ k ∈ ([(.dmodePclassWrite, 9, 8, 3), (.dmodeFabricWrite, 2, 2, 2), (.dmodeDetermWrite, 0, 0, 2)] : List (Instr × Nat × Nat × Nat)),
        s.inp.a < k.2.2.2 → ∃ (m : W32) (q : Nat), exec k.1 s = .next { s with dmode := m, fabSeq := q } ∧ bits m k.2.1 k.2.2.1 = s.inp.a ∧
          (q = if s.dmode.getLsbD 2 = m.getLsbD 2 then s.fabSeq else s.seq) ∧
          sameBut m s.dmode [6, k.2.1, k.2.2.1] ∧
          (bits m 6 6 = 1 ↔ bits m 9 8 ≠ bits m 11 10 ∨ s.fabOrdered ≠ m.getLsbD 2)) ∧
      (s.inp.a < 4 → s.inp.a ≠ bits s.dmode 5 4 → s.drstState = 0 → (∀ p < s.mode, s.partIdle p = true) → ∃ t : State,
        exec .dmodePartWrite s = .next t ∧ bits t.dmode 5 4 = s.inp.a ∧ t.mem = [] ∧ t.memEpoch = s.draws + 1 ∧
        t.keyGen = s.keyGen + 1 ∧ t.l2 = [] ∧ t.tlb = [] ∧ t.wcache = [] ∧ t.wayposts = [] ∧ t.bad = s.bad ∧
        (∀ p < 2 ^ s.inp.a, (t.part p).ptroot = 0 ∧ (t.part p).queues = [] ∧ bits (t.part p).pcst 2 0 = 4) ∧
        (∀ c, (t.core c).l1 = [] ∧ (t.core c).blocks = [])) ∧
      (s.inp.a < 4 → s.inp.a ≠ bits s.dmode 5 4 → (s.drstState ≠ 0 ∨ ∃ p < s.mode, s.partIdle p = false) →
        exec .dmodePartWrite s = .next (modeRefused s))) ∧
    (s.inp.a = 3 → exec .dmodePclassWrite s = .next (modeRefused s)) ∧
    (∀ k ∈ ([(.dmodePclassWrite, 9, 8, 4), (.dmodePartWrite, 5, 4, 4), (.dmodeFabricWrite, 2, 2, 2), (.dmodeDetermWrite, 0, 0, 2)] :
        List (Instr × Nat × Nat × Nat)),
      (s.classPending = true ∨ s.fabricPending = true) → s.inp.a < k.2.2.2 → s.inp.a ≠ bits s.dmode k.2.1 k.2.2.1 →
      (s.determ = true → k.2.1 ≠ 2) → exec k.1 s = .next (modeRefused s)) ∧
    (s.determ = true → ∃ m : W32, exec .dmodeFabricWrite s = .next { s with dmode := m } ∧ sameBut m s.dmode [6]) ∧
    (s.classPending = true → (∃ x ∈ s.tiles, s.dieBusy (unitDie x.1) = false ∧ x.2.passDue = true) → exec .clockChangePoint s = .next s) ∧
    (s.classPending = true → (∀ x ∈ s.tiles, s.dieBusy (unitDie x.1) = false → x.2.passDue = false) → ∃ m : W32, exec .clockChangePoint s = .next { s with dmode := m } ∧
      bits m 11 10 = bits s.dmode 9 8 ∧ sameBut m s.dmode [6, 10, 11] ∧ (bits m 6 6 = 1 ↔ s.fabricPending = true)) ∧
    (s.fabricPending = true → (∃ n ∈ s.inFlight, n < s.fabSeq) → exec .fabricModeSwitch s = .next s) ∧
    (s.fabricPending = true → (∀ n ∈ s.inFlight, s.fabSeq ≤ n) → ∃ m : W32,
      exec .fabricModeSwitch s = .next { s with dmode := m, fabOrdered := s.dmode.getLsbD 2 } ∧
      sameBut m s.dmode [6] ∧ (bits m 6 6 = 1 ↔ s.classPending = true)) ∧
    exec .packagePowerLimit s = .next { s with time := s.time + BitVec.ofNat 48 s.inp.a }

/-- R3, R4, R341, R342: a management core's write of a register takes its writable fields, clears the bits that a 1 clears
unless the device has set them in the same cycle, and leaves a read-only register, a reserved field and a place with no register alone. -/
def Sys2Proof.Claims.RegisterWriteResults : Prop :=
  ∀ (s : State) (h p : Nat), Writes s h → let v := s.inp.v
    let at_ := fun (o n : Nat) => s.inp.a = o ∧ s.inp.b = n
    let blk := fun (o n : Nat) => s.isPart p = true ∧ p < 8 ∧ at_ (0x100000 * (p + 1) + o) n
    (regFind s.inp.a s.inp.b = none → exec .registerWrite s = .next s) ∧
    ((at_ 0x008 8 ∨ at_ 0x020 4 ∨ at_ 0x040 8 ∨ blk 0x4024 4 ∨ blk 0x4034 4) → exec .registerWrite s = .next s) ∧
    (at_ 0x010 4 → ∃ m : W32, exec .registerWrite s = .next { s with hfstat := m } ∧
      ∀ k < 32, m.getLsbD k = ((decide (k < 6) && s.hfstat.getLsbD k && !v.getLsbD k) || (s.hotBits .hfstat).testBit k)) ∧
    (at_ 0x028 8 → exec .registerWrite s = .next { s with vfmap := v &&& 0xFFFFFFFFF }) ∧
    (at_ 0x030 4 → exec .registerWrite s = .next { s with fabctl := v.truncate 32 &&& 0x1F }) ∧
    (∀ id < 4608, at_ (0x4000000 + 4 * id) 4 →
      exec .registerWrite s = .next { s with rtab := SMap.set 0 s.rtab id (v.truncate 32 &&& 0x3FFFF) }) ∧
    (blk 0x4000 4 → exec .registerWrite s = .next (onlyPart s p { s.part p with psched := v.truncate 32 &&& 0xFFFFFF })) ∧
    (blk 0x4010 8 → exec .registerWrite s = .next (onlyPart s p { s.part p with ptroot := v &&& 0xFFFFFFFFF001 })) ∧
    (blk 0x4018 8 → exec .registerWrite s = .next (onlyPart s p { s.part p with pshad := v &&& 0xFFFFFFF00000 })) ∧
    (blk 0x4028 8 → exec .registerWrite s = .next (onlyPart s p { s.part p with slbase := v &&& 0x1FFFFFFFFFFFFE0 })) ∧
    (∀ n, tracedUnit n = true → at_ (0x1000000 + 0x20 * n) 8 →
      exec .registerWrite s = .next (s.setTrc n { s.trc n with base := v &&& 0x1FFFFFFFFFFF000 }))

/-- R272, R275, R276, R286, R295, R311, R316: the writes of DMAP, QCTL, QTAIL, DLQCTL, SLCTL, TRCTL and RCTL by a management
core: each takes its fields where the rule lets it, and otherwise sets its error in this cycle (R3) or is ignored; RCTL starts a recording or a
play whose ring fits. That the unit's SYNC packets stand in the
ring as tracing comes on is the model's choice (log entry 74). -/
def Sys2Proof.Claims.ControlRegisterResults : Prop :=
  ∀ (s : State) (h : Nat), Writes s h → let v := s.inp.v.toNat % 2 ^ 32
    let p := s.inp.a
    (s.inp.v.toNat < 2 ^ 32 → p < 8 → s.isPart p = true → SMap.wf {} s.parts = true →
      (dmapNames s.mode p v = true → bits s.bstat 2 0 ≠ 0 → (s.pcState p = 0 ∨ s.pcState p = 2) → v / 512 = 0 → ∃ m : W32,
        exec .dmapWrite s = .next (onlyPart s p { s.part p with dmap := m }) ∧ bits m 8 0 = v ∧
        bits m 31 9 = bits (s.part p).dmap 31 9) ∧
      (dmapNames s.mode p v = false → v / 512 = 0 →
        exec .dmapWrite s = .next ((onlyPart s p { s.part p with dmap := (s.part p).dmap ||| 0x200 }).heat (.mapErr p) 512)) ∧
      (∀ q < 256, s.inp.b = q → let hq := s.hwq p q
        (hq.ctl.getLsbD 31 = false → 2 ^ 31 ≤ v → v / 16 % 16 ≤ 8 → ∃ m : W32,
          exec .qctlWrite s = .next (s.setHwq p q { hq with
            ctl := m, head := hq.tail, arrivals := [], stat := hq.stat &&& 0xC0 }) ∧
          bits m 31 31 = 1 ∧ bits m 7 4 = v / 16 % 16 ∧ bits m 25 8 = v / 256 % 2 ^ 18 ∧ bits m 2 0 = v % 8 ∧
          bits m 30 26 = 0 ∧ bits m 3 3 = 0) ∧
        (hq.ctl.getLsbD 31 = true → 2 ^ 31 ≤ v → ∃ m : W32,
          exec .qctlWrite s = .next (s.setHwq p q { hq with ctl := m }) ∧ bits m 2 0 = v % 8 ∧
          bits m 31 31 = 1 ∧ bits m 7 4 = bits hq.ctl 7 4 ∧ bits m 25 8 = bits hq.ctl 25 8) ∧
        (v < 2 ^ 31 → ∃ m : W32, bits m 31 31 = 0 ∧
          exec .qctlWrite s = .next (s.setHwq p q { hq with ctl := m, arrivals := [] })) ∧
        (let n := (BitVec.ofNat 32 v - hq.head).toNat
         (hq.ctl.getLsbD 31 = true → n ≤ 16 * 2 ^ bits hq.ctl 7 4 → hq.arrivals.length ≤ n → ∃ k : Nat,
           exec .qtailWrite s = .next { s.setHwq p q { hq with
             tail := BitVec.ofNat 32 v, arrivals := hq.arrivals ++ span s.seq (n - hq.arrivals.length) } with seq := k }) ∧
         (hq.ctl.getLsbD 31 = true → 16 * 2 ^ bits hq.ctl 7 4 < n → ∃ (t : State) (hq' : HwQueue), exec .qtailWrite s = .next t ∧
           t = { (s.heat (.qerr p q) 64).setHwq p q hq' with seq := t.seq } ∧ hq'.ctl.getLsbD 31 = false ∧ hq'.stat.getLsbD 6 = true ∧
           hq'.tail = BitVec.ofNat 32 v))) ∧
      (v % 32 < 4 ∨ 16 < v % 32 → exec .slctlWrite s = .next s) ∧
      (4 ≤ v % 32 → v % 32 ≤ 16 → exec .slctlWrite s = .next (onlyPart s p { s.part p with slctl := BitVec.ofNat 32 v &&& 0x8000001F })) ∧
      (v % 4 = 3 → exec .rctlWrite s = .next s) ∧
      (v % 4 = 0 ∨ (v % 4 < 3 ∧ 16 ≤ v / 8 % 32 ∧ (s.part p).rbase.toNat % 2 ^ (v / 8 % 32) = 0) → ∃ m : W32,
        exec .rctlWrite s = .next (onlyPart s p { s.part p with rctl := m }) ∧ bits m 1 0 = v % 4 ∧ bits m 7 3 = v / 8 % 32 ∧
        bits m 2 2 = if v / 4 % 2 = 1 ∧ s.hotBits (.ovf p) = 0 then 0 else bits (s.part p).rctl 2 2) ∧
      (0 < v % 4 → v % 4 < 3 → (v / 8 % 32 < 16 ∨ (s.part p).rbase.toNat % 2 ^ (v / 8 % 32) ≠ 0) → exec .rctlWrite s = .next s)) ∧
    (s.inp.v.toNat < 2 ^ 32 → p < 32 →
      ((s.dlq p).entries = [] → exec .dlqctlWrite s = .next (s.setDlq p { s.dlq p with ctl := BitVec.ofNat 32 v &&& 0x87 })) ∧
      ((s.dlq p).entries ≠ [] → exec .dlqctlWrite s = .next s)) ∧
    (s.inp.v.toNat < 2 ^ 32 → tracedUnit p = true →
      (v % 32 < 12 ∨ 30 < v % 32 → exec .trctlWrite s = .next s) ∧
      (12 ≤ v % 32 → v % 32 ≤ 30 → let on := { s.trc p with ctl := BitVec.ofNat 32 v &&& 0xC000001F }
        (v < 2 ^ 31 ∨ (s.trc p).ctl.getLsbD 31 = true → exec .trctlWrite s = .next (s.setTrc p on)) ∧
        (2 ^ 31 ≤ v → (s.trc p).ctl.getLsbD 31 = false → exec .trctlWrite s = .next ((s.tracedAt p).foldl (fun (u : State) x =>
          u.traceRaw p (s.tracedPart p) x.1 x.2.1 1 0 [] x.2.2.1 x.2.2.2 (edgeUnit p) true)
          (s.setTrc p { on with needSync := true, run := 0 })))))

/-! ## Hardware queues, graphs and launches -/

namespace Sys2Proof.Claims

/-- The bytes bs stand at address va of partition p, and the unit that reads them under a number gets them. -/
abbrev Holds (s : State) (who : Issuer) (p va : Nat) (bs : List Byte) (sg : Nat := 10000) : Prop :=
  s.readVa who p va bs.length sg = (s, .ok bs)

/-- Launch number k arrives in queue q of partition p from a descriptor's bytes (R29, R30, R34). -/
abbrev Arrived (s t : State) (p q k : Nat) (bs : List Byte) (run : Option (Nat × Nat)) : Prop :=
  (∃ l : Launch, t.launch k = some l ∧ l.part = p ∧ l.queue = q ∧ l.desc = parseDesc bs ∧ l.st = .arrived ∧
    l.items = [] ∧ l.cause = 0 ∧ l.run = run ∧ l.bad = descCause bs) ∧ (t.hwq p q).fifo = insKey k (s.hwq p q).fifo

/-- The reader of partition p's queues is the serving hub's management core. -/
abbrev Front (s : State) (p q va : Nat) (bs : List Byte) : Prop := Holds s (.mgmt (s.shub p)) p va bs (frontSg p q)

/-- What other devices answered to reads that are over is forgotten, and nothing else differs. -/
abbrev Forgot (s t : State) : Prop := t = { s with remoteOps := t.remoteOps }

/-- A descriptor with no milestone address of its own: MSADDR of a graph's launch is ignored (R290). -/
def noMsaddr (bs : List Byte) : List Byte := bs.take 24 ++ List.replicate 8 0 ++ bs.drop 32

/-- The records of a state are listed in rising order of their numbers, and none is empty. -/
abbrev Listed (s : State) (p : Nat) : Prop := SMap.wf {} s.parts = true ∧ SMap.wf {} (s.part p).queues = true

/-- Every run of the partition has begun, so a run that begins is the step's own effect. -/
abbrev RunsBegun (s : State) (p : Nat) : Prop := ∀ r ∈ (s.part p).runs, r.2.started = true

/-- No memory, no unit and no other launch differs: the front end wrote only its own records. -/
abbrev SameUnits (s t : State) : Prop :=
  t.mem = s.mem ∧ t.bad = s.bad ∧ t.cores = s.cores ∧ t.tiles = s.tiles ∧ t.mgmts = s.mgmts ∧ t.cairns = s.cairns ∧
    t.wayposts = s.wayposts ∧ t.dmode = s.dmode ∧ t.time = s.time

end Sys2Proof.Claims

/-- R276, R287, R290: the front end reads the entry at QHEAD and its descriptor, advances QHEAD and takes the launch in its
order of arrival; a malformed entry is consumed and sets QERR; an unreadable one sets QERR, clears EN and stays; the oldest
entry of a device launch queue goes to its queue; a graph run's ready launches are sent, the first ready one first. -/
def Obligations.QueueEntryResults : Prop :=
  ∀ (s : State) (p q : Nat), Listed s p → s.inp.a = p → s.inp.b = q →
    (s.mayRead p q = true → let h := s.hwq p q
      let va := h.base.toNat + 16 * (h.head.toNat % (16 * 2 ^ bits h.ctl 7 4))
      (∀ en bs : List Byte, en.length = 16 → bs.length = 512 → Front s p q va en → u8At en 0 = 1 → zeroAt en 1 4 = true →
        u32At en 4 = 0 → u64At en 8 % 64 = 0 → Front s p q (u64At en 8) bs → u8At bs 4 = q → ∃ t : State,
        exec .ringEntryRead s = .next t ∧ (t.hwq p q).head = h.head + 1 ∧ (t.hwq p q).stat = h.stat ∧
        Arrived s t p q (h.arrivals.headD s.seq) bs none ∧ SameUnits s t) ∧
      (∀ en : List Byte, en.length = 16 → Front s p q va en →
        (3 ≤ u8At en 0 ∨ u8At en 0 = 0 ∨ zeroAt en 1 4 = false ∨ u64At en 8 % 64 ≠ 0 ∨
          (u8At en 0 = 1 ∧ u32At en 4 ≠ 0)) → ∃ t : State,
        exec .ringEntryRead s = .next t ∧ (t.hwq p q).head = h.head + 1 ∧ (t.hwq p q).stat = h.stat ||| 0x40 ∧
        t.launches = s.launches ∧ SameUnits s t) ∧
      (∀ (e : MErr) (a : Nat), e = .access ∨ e = .uncorr ∨ e = .fabric →
        s.readVa (.mgmt (s.shub p)) p va 16 (frontSg p q) = (s, .error (e, a)) →
        ∃ t : State, exec .ringEntryRead s = .next t ∧ t.hwq p q = { h with
          stat := h.stat ||| 0x40, ctl := h.ctl &&& 0x7FFFFFFF, arrivals := [] } ∧ t.launches = s.launches ∧ SameUnits s t)) ∧
    (∀ (bs : List Byte) (rest : List (List Byte)), let d := s.dlq p
      d.entries = bs :: rest → SMap.wf {} s.dlqs = true → let pa := bits d.ctl 2 0
      s.partLive pa = true → SMap.wf {} (s.part pa).queues = true → (s.hwq pa (u8At bs 4)).ctl.getLsbD 31 = true → ∃ t : State,
        exec .dlqAppend s = .next t ∧ (t.dlq p).entries = rest ∧ (t.dlq p).ctl = d.ctl ∧
        Arrived s t pa (u8At bs 4) s.seq bs none ∧ SameUnits s t) ∧
    (∀ (g : GraphRun) (x : Graph) (i : Nat), s.partLive p = true → RunsBegun s p → alGet (s.part p).runs q = some g →
      s.graphOf p g.graph = some x → (∀ d ∈ g.done, d.2 % 16 = 1) →
      (∀ y ∈ s.launches, y.2.part = p → (∃ j, y.2.run = some (q, j)) → y.2.cause = 0) → i < x.descs.length → i ∉ g.sent →
      (∀ j ∈ x.preds.getD i [], ∃ d ∈ g.done, d.1 = j) →
      (∀ j < x.descs.length, j ∉ g.sent → j ≠ i → ∃ k ∈ x.preds.getD j [], ∀ d ∈ g.done, d.1 ≠ k) → ∃ t : State,
        exec .graphLaunchReady s = .next t ∧ Arrived s t p g.queue s.seq (noMsaddr (x.descs.getD i [])) (some (q, i)) ∧
        (∃ g' : GraphRun, alGet (t.part p).runs q = some g' ∧ g'.sent = g.sent ++ [i] ∧ g'.done = g.done) ∧ SameUnits s t)

namespace Sys2Proof.Claims

/-- Launch k is first in its queue, its partition is resident, nothing stalls it, nothing it waits for is open, and it has read
none of its bounds and offsets yet (R29, R34). -/
abbrev Begins (s : State) (k : Nat) (l : Launch) : Prop :=
  s.launch k = some l ∧ s.inp.a = k ∧ l.st = .arrived ∧ s.partLive l.part = true ∧ s.firstInQueue k l = true ∧
    s.stalled (.splitter k) = false ∧ (l.desc.bwait = true → ∀ x ∈ l.links, s.linkOpen l.part x = false) ∧
    l.reads = [] ∧ l.vec = []

/-- Launch k and its queue as the launch begins, once: DEM is 0 and the rank its own (R277, R281). -/
def opened (s : State) (k : Nat) (l : Launch) : State :=
  if l.began = true then s
  else (s.setHwq l.part l.queue { s.hwq l.part l.queue with
    stat := (s.hwq l.part l.queue).stat &&& 0xFFFFF8FF, qrank := l.desc.qrank }).setLaunch k { l with began := true }

/-- Bounds of a space in dimension order, each given in the descriptor (R31). -/
abbrev GivenBounds (d : Desc) (bs : List Nat) : Prop :=
  1 ≤ d.rank ∧ d.rank ≤ 4 ∧ bs.length = d.rank ∧
    ∀ k < d.rank, d.bounds.getD k (0, 0) = (bs.getD k 0, 0) ∧ bs.getD k 0 < 2 ^ 32 ∧ 0 < d.tile.getD k 1 ∧
      (bs.getD k 0 + d.tile.getD k 1 - 1) / d.tile.getD k 1 ≤ 65536

/-- The least cause breaks a bound of the space: above 2^32 - 1, or too many tiles (R34). -/
abbrev BadBound (d : Desc) : Prop :=
  (∀ i < d.rank, (d.bounds.getD i (0, 0)).2 = 0 ∧ (d.bounds.getD i (0, 0)).1 < 2 ^ 64) ∧ ∃ i < d.rank, let b := (d.bounds.getD i (0, 0)).1
    2 ^ 32 ≤ b ∨ 65536 < (b + d.tile.getD i 1 - 1) / d.tile.getD i 1

/-- The launch of number k has ended: its record is written, its queue no longer holds it, it is gone, and no cache or engine
keeps what it read for it (R47, R79, R127). -/
def ended (s : State) (k : Nat) (l : Launch) : State :=
  let h := s.hwq l.part l.queue
  let s := s.setHwq l.part l.queue { h with fifo := h.fifo.filter (· != k) }
  ({ s with launches := alDel s.launches k }.roDrop k).dropBodies k

/-- The 64 bytes of the milestone record of R47. -/
def milestone (l : Launch) (outcome cause time : Nat) : List Byte :=
  ([(4, outcome + cause * 256), (4, l.firstbad), (8, l.nfull), (8, l.npart), (8, l.nmask), (8, l.nvoid), (4, l.nfall), (4, l.nabort),
    (8, time), (4, l.desc.ltag), (4, 0)] : List (Nat × Nat)).flatMap (fun x =>
      (span 0 x.1).map (fun i => BitVec.ofNat 8 (x.2 / 256 ^ i)))

end Sys2Proof.Claims

/-- R34, R37, R47: a launch that begins with its bounds given is classified, and dispatches when it has items; an empty
space writes outcome done at once; a failing field, a bad bound, and a part or masked tile without an edge body refuse it with
their causes. A milestone carries the outcome, the cause and the counts; one with no place to go tells the management core. -/
def Obligations.LaunchResults : Prop :=
  ∀ (s : State) (k : Nat) (l : Launch),
    (Begins s k l → let u := opened s k l
      (l.bad ≠ 0 → exec .launchBeginDispatch s = .next (u.refuseLaunch k l.bad 0xFFFFFFFF)) ∧
      (l.bad = 0 → BadBound l.desc → ∃ u' : State, Forgot u u' ∧
        exec .launchBeginDispatch s = .next (u'.refuseLaunch k 3 0xFFFFFFFF)) ∧
      (∀ bs : List Nat, l.bad = 0 → GivenBounds l.desc bs → l.desc.grouped = false → l.desc.mask ≠ 3 →
        let all := allTiles l.desc bs []
        let items := all.filterMap id
        (items ≠ [] → (l.desc.eslen ≠ 0 ∨ ∀ i ∈ items, i.onTile = true) → ∃ (t : State) (l' : Launch),
          exec .launchBeginDispatch s = .next t ∧ t.launch k = some l' ∧ l'.st = .dispatching ∧ l'.items = items ∧ l'.bounds = bs ∧
          l'.nvoid = (all.filter Option.isNone).length ∧ (l'.desc, l'.links, l'.cause) = (l.desc, l.links, l.cause) ∧ SameUnits s t) ∧
        (items = [] → l.cause = 0 → l.tiles = [] → l.cores = [] → ∃ (v : State) (l' : Launch), v.launch k = some l' ∧ SameUnits s v ∧
          l'.nvoid = all.length ∧ (l'.desc, l'.run, l'.part, l'.queue, l'.nfull, l'.npart, l'.nmask, l'.nfall, l'.nabort) =
            (l.desc, l.run, l.part, l.queue, l.nfull, l.npart, l.nmask, l.nfall, l.nabort) ∧
          exec .launchBeginDispatch s = .next (v.closeLaunch k 1 0)) ∧
        (l.desc.eslen = 0 → (∃ i ∈ items, i.onTile = false) → ∃ u' : State, Forgot u u' ∧
          exec .launchBeginDispatch s = .next (u'.refuseLaunch k 7 0xFFFFFFFF)))) ∧
    (s.launch k = some l → (∀ (u : State) (o c : Nat), l.run = none →
        s.writeOwn 600 l.part l.desc.msaddr (milestone l o c (s.timeOf l.part)) = .ok u →
        s.closeLaunch k o c = ended u k l) ∧
      (∀ (e : MErr) (a o c : Nat), l.run = none → e ≠ .stray → e ≠ .fault strayWalk →
        s.writeOwn 600 l.part l.desc.msaddr (milestone l o c (s.timeOf l.part)) = .error (e, a) →
        s.closeLaunch k o c =
          ended (s.pushEvent (s.shub l.part) (eventWord 3 (l.part * 2 ^ 12 + l.queue * 2 ^ 4))) k l) ∧
      (∀ cause fb : Nat, s.refuseLaunch k cause fb = (s.setLaunch k { l with
        nfull := 0, npart := 0, nmask := 0, nvoid := 0, nfall := 0, nabort := 0, firstbad := fb }).closeLaunch k 2 cause))

/-- R36: KEPT is ALL only when every element of the box is kept and NONE only when none is; under the causal and the banded
mask it is exactly so, and under the tree mask no tile is void. -/
def Obligations.KeptTellsWhichElementsRemain : Prop :=
  ∀ (d : Desc) (bs lo hi : List Nat), let r0 := lo.getD d.mi 0
    let r1 := hi.getD d.mi 0
    let c0 := lo.getD d.mj 0
    let c1 := hi.getD d.mj 0
    r0 ≤ r1 → c0 ≤ c1 → let k := kept d bs lo hi
    let all := fun (keep : Int → Int → Prop) => ∀ i j : Nat, r0 ≤ i → i ≤ r1 → c0 ≤ j → j ≤ c1 → keep i j
    (d.mask = 0 → k = 2) ∧
    (d.mask = 1 → (k = 2 ↔ all (fun i j => j ≤ i + d.moff)) ∧ (k = 0 ↔ all (fun i j => ¬ j ≤ i + d.moff))) ∧
    (d.mask = 2 → 1 ≤ d.mband → let keep := fun (i j : Int) => i + d.moff - d.mband < j ∧ j ≤ i + d.moff
      (k = 2 ↔ all keep) ∧ (k = 0 ↔ all (fun i j => ¬ keep i j))) ∧
    (d.mask = 3 → k ≠ 0 ∧ (k = 2 ↔ d.mband ≤ r0 ∨ (c1 : Int) < (bs.getD d.mj 0 : Int) - d.mband))

/-! ## Work items on their engines -/

namespace Sys2Proof.Claims

/-- The next item of an ordinary launch that dispatches is item i, and no item that it depends on is unretired (R44, R45). -/
abbrev NextItem (s : State) (k i : Nat) (l : Launch) (it : Item) : Prop :=
  s.launch k = some l ∧ s.inp.a = k ∧ s.mayDispatch l = true ∧ nextItem l = some (i, it) ∧ l.items[i]? = some it ∧
    s.heldBack l (i, it) = none

/-- The item as it runs on a unit, with its entry on the board of the unit's die (R44). -/
def running (it : Item) (u : Nat) : Item :=
  { it with st := .running, boarded := true, unit := u, die := if it.boarded then it.die else u / 48 }

/-- Item i of launch k runs on unit u in t, and the launch's other items are as they were. -/
abbrev RunsItem (t : State) (k i u : Nat) (l : Launch) (it : Item) : Prop :=
  ∃ l' : Launch, t.launch k = some l' ∧ l'.items = setAt l.items i (running it u) ∧ l'.desc = l.desc ∧ l'.cause = l.cause ∧
    l'.nfull = l.nfull + (if it.cls = 0 ∧ it.boarded = false then 1 else 0) ∧
    l'.npart = l.npart + (if it.cls = 1 ∧ it.boarded = false then 1 else 0) ∧
    l'.nmask = l.nmask + (if it.cls ∉ [0, 1, 3] ∧ it.boarded = false then 1 else 0) ∧
    l'.nfall = l.nfall + (if it.cls = 3 then 1 else 0) ∧
    (l'.st = .dispatched ↔ l.st = .dispatched ∨ ∀ x ∈ setAt l.items i (running it u), x.st ≠ .todo)

/-- The instance of engine e stands at its start: every register zero, its first bundle due (R39, R135). -/
abbrev AtStart (s : State) (e : Nat) : Prop :=
  let t := s.tile e
  t.run = .running ∧ t.b = 0 ∧ t.t = 0 ∧ t.s = [] ∧ t.p = [] ∧ t.v = [] ∧ t.k = [] ∧ t.fmt = 0 ∧ t.msts = 0 ∧ t.flights = [] ∧
    t.rd = [] ∧ t.q = {} ∧ t.act = false ∧ t.locks = []

/-- Crew k stands on a core from its start: gang n is at the first instruction with x2 = n and x3 = EGANGS (R41). -/
abbrev CrewAtStart (s t : State) (core ck k : Nat) (d : Desc) : Prop :=
  (∃ cr : Crew, t.crewOf core ck = some cr ∧ cr.launch = k ∧ cr.egangs = d.egangs ∧ cr.cmemKiB = d.ecmem ∧ cr.q = {} ∧ cr.locks = []) ∧
    ∀ n < d.egangs, ∃ slot < 16, alGet (s.core core).gangs slot = none ∧ ∃ g : Gang,
      alGet (t.core core).gangs slot = some g ∧ g.num = n ∧ g.crew = ck ∧ g.role = d.role.getD n 0 ∧ g.w = [] ∧ ∃ th : Thread,
      g.subs = [(0, th)] ∧ th.pc = 0 ∧ th.lpc = 0 ∧ th.getX 2 = BitVec.ofNat 64 n ∧ th.getX 3 = BitVec.ofNat 64 d.egangs ∧
      (∀ r < 32, r ≠ 2 → r ≠ 3 → th.getX r = 0) ∧ th.lq = [] ∧ th.rstack = [] ∧ ∀ j < 8, th.slices.getLsbD j = decide (j < d.eslices)

/-- The gangs resident on a core stand in slots apart, below sixteen. -/
abbrev Slotted (s : State) (core : Nat) : Prop :=
  ((s.core core).gangs.map Prod.fst).Pairwise (· < ·) ∧ ∀ x ∈ (s.core core).gangs, x.1 < 16

/-- A tile engine that an entry has reached, into an empty q0 or behind it (R39). -/
def fedTile (t : Tile) (v : W64) (i : Nat) : Tile :=
  if t.q0Valid then { t with qmore := t.qmore ++ [(v, i)] } else { t with q0 := v, q0Valid := true, q0Item := i }

/-- Ring 0 of a persistent crew: sixteen slots of 64 bytes from offset 0 (R42). -/
abbrev RingZero (r : Ring) : Prop :=
  r.base = 0 ∧ r.size = 64 ∧ r.count = 16 ∧ r.rp < 32 ∧ r.wp < 32 ∧ SMap.wf {} r.slots = true

/-- The units are listed in rising order of their numbers. -/
abbrev Units (s : State) : Prop := SMap.wf {} s.tiles = true ∧ SMap.wf {} s.cores = true

end Sys2Proof.Claims

/-- R38 to R41, R44, R45, R47, R285: a full tile begins on its granted engine with its entry in q0; an edge item begins in a new
crew with its record at offset 0; a persistent launch's engine joins and its items are dealt behind q0 and into ring 0, and the end entry follows the last
tile; each counts in its class once; an item that must wait changes nothing but the note that it waits. -/
def Sys2Proof.Claims.DispatchResults : Prop :=
  ∀ (s : State) (k i e : Nat) (l : Launch) (it : Item), Units s → NextItem s k i l it →
    (l.desc.persist = false → it.onTile = true → s.grantedEngine k l.part l.cursor = some e → s.boardRoom it (unitDie e) = true → ∃ t : State,
      exec .workItemDispatch s = .next t ∧ RunsItem t k i e l it ∧ AtStart t e ∧ (t.tile e).q0 = tileEntry l.desc it ∧
      (t.tile e).q0Valid = true ∧ (t.tile e).q0Item = i ∧ (t.tile e).body = (s.tile e).body ∧ ∀ e' ≠ e, t.tile e' = s.tile e') ∧
    (l.desc.persist = false → it.onTile = true → s.grantedEngine k l.part l.cursor = none → exec .workItemDispatch s = .next s) ∧
    (l.desc.persist = false → it.onTile = false → s.coreFor l [] = some e → s.boardRoom it (unitDie e) = true → Slotted s e →
      1 ≤ l.desc.egangs → ∃ t : State,
      exec .workItemDispatch s = .next t ∧ RunsItem t k i e l it ∧ CrewAtStart s t e s.seq k l.desc ∧
      (∃ cr : Crew, t.crewOf e s.seq = some cr ∧ cr.items = [{ item := i }] ∧ cr.cmemRead 0 64 = itemRecord l.desc it)) ∧
    (l.desc.persist = false → it.onTile = false → s.coreFor l [] = none → exec .workItemDispatch s = .next s) ∧
    (l.desc.persist = true → s.inp.flag = false → s.grantedEngine k l.part 0 = some e → ∃ t : State,
      exec .engineJoin s = .next t ∧ AtStart t e ∧ (t.tile e).q0Valid = false ∧
      t.launch k = some { l with tiles := insKey e l.tiles } ∧ ∀ e' ≠ e, t.tile e' = s.tile e') ∧
    (l.desc.persist = true → s.inp.flag = true → 0 < l.askCores → s.coreFor l l.cores = some e → Slotted s e →
      1 ≤ l.desc.egangs → ∃ t : State,
      exec .engineJoin s = .next t ∧ CrewAtStart s t e s.seq k l.desc ∧
      t.launch k = some { l with cores := l.cores ++ [e], askCores := l.askCores - 1, cursor := s.logUnit l.part e + 1 } ∧
      ∃ cr : Crew, t.crewOf e s.seq = some cr ∧ cr.items = [] ∧
        SMap.get {} cr.rings 0 = { base := 0, size := 64, count := 16 }) ∧
    (l.desc.persist = true → it.onTile = true → s.tileTaker k l = some e → s.boardRoom it (unitDie e) = true →
      let rest := fun (kind : Bool) => ∃ x ∈ setAt l.items i (running it e), x.st = .todo ∧ x.onTile = kind
      let fed := s.setTile e (fedTile (s.tile e) (tileEntry l.desc it) i)
      ∃ t : State, exec .itemDeal s = .next t ∧ RunsItem t k i e l it ∧
      (rest true → ∀ e', t.tile e' = fed.tile e') ∧
      (∀ e2, ¬ rest true → (s.takers k l).find? (fun x => decide ((fed.tile x).load < 5)) = some e2 →
        t.tile e2 = { fedTile (fed.tile e2) 0xFFFFFFFFFFFFFFFF endItem with ended := true } ∧ ∀ e' ≠ e2, t.tile e' = fed.tile e')) ∧
    (∀ (ck : Nat) (cr : Crew), l.desc.persist = true → it.onTile = false → s.crewTaker k l = some (e, ck, cr) → s.crewOf e ck = some cr →
      s.boardRoom it (unitDie e) = true → SMap.wf 0 cr.cmem = true → RingZero (SMap.get {} cr.rings 0) →
      let rest := fun (kind : Bool) => ∃ x ∈ setAt l.items i (running it e), x.st = .todo ∧ x.onTile = kind
      let w := (SMap.get {} cr.rings 0).wp % 16
      rest false → ∃ (t : State) (cr' : Crew), exec .itemDeal s = .next t ∧ RunsItem t k i e l it ∧ t.crewOf e ck = some cr' ∧
        cr'.items = cr.items ++ [{ item := i, slot := w }] ∧ cr'.cmemRead (64 * w) 64 = itemRecord l.desc it ∧
        ((SMap.get {} cr'.rings 0).slot w).full = true ∧ cr'.ended = cr.ended ∧ (rest true → t.tiles = s.tiles) ∧
        (∀ e2, ¬ rest true → (s.takers k l).find? (fun x => decide ((s.tile x).load < 5)) = some e2 →
          t.tile e2 = { fedTile (s.tile e2) 0xFFFFFFFFFFFFFFFF endItem with ended := true } ∧ ∀ e' ≠ e2, t.tile e' = s.tile e'))

/-- R39, R42, R285: when no item of a kind is left to deal, each joined engine of the kind gets its end entry or end record. -/
def Sys2Proof.Claims.EndEntriesAndRecords : Prop :=
  ∀ (s : State) (k e : Nat) (l : Launch), Units s → s.launch k = some l → s.inp.a = k → l.desc.persist = true → s.partLive l.part = true →
    l.st = .dispatched → (∀ x ∈ l.items, x.st ≠ .todo) →
    ((s.takers k l).find? (fun e => decide ((s.tile e).load < 5)) = some e → ∃ t : State, exec .itemDeal s = .next t ∧
      (∀ e' ≠ e, t.tile e' = s.tile e') ∧ t.launches = s.launches ∧ (t.tile e).ended = true ∧
      if (s.tile e).q0Valid then (t.tile e).qmore = (s.tile e).qmore ++ [(0xFFFFFFFFFFFFFFFF, endItem)] ∧ (t.tile e).q0 = (s.tile e).q0
        else (t.tile e).q0 = 0xFFFFFFFFFFFFFFFF ∧ (t.tile e).q0Valid = true) ∧
    (∀ (ck : Nat) (cr : Crew), (∀ e ∈ s.takers k l, 5 ≤ (s.tile e).load) →
      (s.joinedCrews k l).find? (fun c => !c.2.2.ended && decide (0 < (SMap.get {} c.2.2.rings 0).freeSlots)) = some (e, ck, cr) →
      s.crewOf e ck = some cr → SMap.wf 0 cr.cmem = true → RingZero (SMap.get {} cr.rings 0) →
      let w := (SMap.get {} cr.rings 0).wp % 16
      ∃ (t : State) (cr' : Crew), exec .itemDeal s = .next t ∧ t.crewOf e ck = some cr' ∧ cr'.ended = true ∧ cr'.items = cr.items ∧
        cr'.cmemRead (64 * w) 64 = endRecord l.desc ∧ ((SMap.get {} cr'.rings 0).slot w).full = true ∧ t.tiles = s.tiles)

/-- R39, R40, R42: an entry packs the tile's indices in sixteen bits each, with the group in the highest of a grouped
launch; a record gives indices, origin, valid extents, class, mask and group at their offsets; the end record has class 0xFF and
the descriptor's mask fields; that its indices, origin, extents and group number are zero is the model's choice (log entry 70). -/
def Obligations.EntriesAndRecords : Prop :=
  (∀ (d : Desc) (it : Item), (∀ i < 4, it.t.getD i 0 < 65536) → it.group < 65536 →
    (∀ i < 3, bits (tileEntry d it) (16 * i + 15) (16 * i) = it.t.getD i 0) ∧
    bits (tileEntry d it) 63 48 = if d.grouped then it.group else it.t.getD 3 0) ∧
  (∀ (d : Desc) (it : Item), (∀ i < 4, it.t.getD i 0 < 2 ^ 32 ∧ it.lo.getD i 0 < 2 ^ 32 ∧ it.vext.getD i 0 < 65536) →
    it.cls < 256 → d.mask < 256 → it.group < 65536 → d.mband < 2 ^ 32 → let r := itemRecord d it
    r.length = 64 ∧ (∀ i < 4, u32At r (4 * i) = it.t.getD i 0 ∧ u32At r (16 + 4 * i) = it.lo.getD i 0 ∧
      u16At r (32 + 2 * i) = it.vext.getD i 0) ∧ u8At r 0x28 = it.cls ∧ u8At r 0x29 = d.mask ∧
    u32At r 0x2C = (if d.grouped then it.group else 2 ^ 32 - 1) ∧ u32At r 0x34 = d.mband ∧
    (-(2 : Int) ^ 31 ≤ d.moff → d.moff < 2 ^ 31 → sx 32 (u32At r 0x30) = d.moff) ∧ (it.cls ≠ 3 → zeroAt r 0x38 0x40 = true)) ∧
  (∀ d : Desc, d.mask < 256 → d.mband < 2 ^ 32 → let r := endRecord d
    r.length = 64 ∧ u8At r 0x28 = 255 ∧ u8At r 0x29 = d.mask ∧ u32At r 0x34 = d.mband ∧
    (-(2 : Int) ^ 31 ≤ d.moff → d.moff < 2 ^ 31 → sx 32 (u32At r 0x30) = d.moff) ∧
    u32At r 0x2C = (if d.grouped then 0 else 2 ^ 32 - 1) ∧ zeroAt r 0 0x28 = true ∧ zeroAt r 0x2A 0x2C = true ∧ zeroAt r 0x38 0x40 = true)

namespace Sys2Proof.Claims

/-- The stopped instance x goes on on engine e in t: its registers, scratchpad and queues as they were, at its place, or at an iteration
of its loop from the quiet point it stopped at (R152, R153, R256). -/
abbrev TakenUp (t : State) (e : Nat) (x : Tile) (slice : Nat) : Prop :=
  let y := t.tile e
  y.run = .running ∧ y.sliceLeft = slice ∧ y.runStart = x.runStart ∧ y.launch = x.launch ∧
    (y.s, y.v, y.k, y.pad, y.q0, y.qmore, y.q) = (x.s, x.v, x.k, x.pad, x.q0, x.qmore, x.q) ∧
    (if x.resumeKind = 2 ∧ x.savedLc ≠ 0 then y.lc = x.savedLc - 1 ∧ y.b = x.bodyStart ∧ y.act = true ∧ y.turn = 0
     else y.b = x.b ∧ y.lc = x.lc ∧ y.turn = x.turn)

end Sys2Proof.Claims

/-- R39, R127, R278, R279: the checked image of a granted engine becomes its body; one that fails a check refuses the launch
with its code and, in its stop record, the entry of the tile it was read for (the model's reading of the record, log entry 33); the
arbiter gives the free engine to the candidate of the greatest ER among those that fit the slice, the next queue after its last on a
tie, and a fresh tile's engine awaits its tile; a stopped instance goes on once its engine has checked the body; what is granted on
an engine whose halted instance still has entries waits for them (the model's reading, log entry 37). -/
def Sys2Proof.Claims.AdmissionAndGrantResults : Prop :=
  (∀ (s : State) (e : Nat) (l : Launch) (bs : List Byte), Units s → s.inp.a = e → (s.tile e).run = .ready → (s.tile e).admitted = false →
    s.launch (s.tile e).launch = some l → l.cause = 0 ∨ s.awaited e = true → s.stalled (.issue (.tile e) 0) = false →
    (∀ x ∈ s.issueFail, x.1 = .tile e → x.2.1 ≠ 0) →
    bs.length = l.desc.ilen → Holds s (.tile e) l.part l.desc.iaddr bs admitSg →
    (∀ (form : Nat) (body : List Bundle) (rings : SMap Ring), admitBody l.desc bs = .ok (form, body, rings) →
      ((∀ x ∈ s.stopped, x.2.resumeOn ≠ some e) → ∃ t : State,
        exec .bodyAdmission s = .next t ∧ t.tile e = { s.tile e with form := form, body := body, rings := rings, admitted := true } ∧
        SameUnits s { t with tiles := s.tiles } ∧ ∀ e' ≠ e, t.tile e' = s.tile e') ∧
      (∀ (old : Nat) (x : Tile), s.stopped.find? (fun y => y.2.resumeOn == some e) = some (old, x) → ∃ t : State,
        exec .bodyAdmission s = .next t ∧ t.stopped = s.stopped.erase (old, x) ∧ TakenUp t e x (s.tslice (s.unitPart e)) ∧
        (t.tile e).body = body ∧ (t.tile e).form = form)) ∧
    (∀ r : Refused, admitBody l.desc bs = .error r → ∃ u : State, Forgot s u ∧
      exec .bodyAdmission s = .next (u.admissionRefused e r.bun (r.code + r.slot * 256) (s.nextEntry e (s.tile e).launch)))) ∧
  (∀ (s : State) (p e k : Nat) (c : Cand) (l : Launch), Units s → s.inp.a = p →
    (s.cyclic p (s.part p).cursor).find? s.engineFree = some e →
    chooseCand (s.tslice p) (s.tile e).lastQueue (s.candidates p (unitDie e)) = some c → c.fresh = some k → s.launch k = some l →
    ∃ t : State, exec .tileEngineGrant s = .next t ∧ (t.tile e).lastQueue = c.queue ∧
      (if (s.tile e).run = .halting then
        t.tile e = { s.tile e with nextGrant := some (k, c.queue, if s.determ then 0 else s.time.toNat), lastQueue := c.queue }
       else (t.tile e).run = .ready ∧ (t.tile e).launch = k ∧ (t.tile e).sliceLeft = s.tslice p ∧
        (t.tile e).runStart = if s.determ then 0 else s.time.toNat) ∧
      t.launch k = some { l with askTiles := l.askTiles - 1 } ∧ ∀ e' ≠ e, t.tile e' = s.tile e') ∧
  (∀ (s : State) (p e old : Nat) (c : Cand) (x : Tile), Units s → s.inp.a = p →
    (s.cyclic p (s.part p).cursor).find? s.engineFree = some e →
    chooseCand (s.tslice p) (s.tile e).lastQueue (s.candidates p (unitDie e)) = some c → c.fresh = none →
    s.stopped[c.inst]? = some (old, x) → (∀ z ∈ s.stopped, z.2.resumeOn ≠ some e) →
    let y := { x with resumeOn := some e, lastQueue := c.queue, runStart := if s.determ then x.t else s.time.toNat }
    let g := (s.tile e).grantTo x.launch c.queue (s.tslice (s.unitPart e)) (s.pointOf e) y.runStart
    ((s.tile e).run = .halting → ∃ t : State, exec .tileEngineGrant s = .next t ∧ t.stopped = s.stopped.set c.inst (old, y) ∧
      t.tile e = { s.tile e with lastQueue := c.queue }) ∧
    ((s.tile e).run ≠ .halting → g.admitted = false → ∃ t : State, exec .tileEngineGrant s = .next t ∧
      t.stopped = s.stopped.set c.inst (old, y) ∧ t.tile e = g) ∧
    ((s.tile e).run ≠ .halting → g.admitted = true → ∃ t : State, exec .tileEngineGrant s = .next t ∧
      t.stopped = s.stopped.eraseIdx c.inst ∧ TakenUp t e y (s.tslice (s.unitPart e)) ∧ (t.tile e).body = g.body)) ∧
  (∀ (slice last : Nat) (cs : List Cand) (c : Cand), (∀ x ∈ cs, x.er < 8 ∧ x.queue < 256) → last < 256 →
    chooseCand slice last cs = some c → let fits := fun (x : Cand) => x.run ≤ slice ∨ ∀ y ∈ cs, slice < y.run
    let far := fun (x : Cand) => (x.queue + 255 - last) % 256
    c ∈ cs ∧ fits c ∧ ∀ x ∈ cs, fits x → x.er < c.er ∨ (x.er = c.er ∧
      (far c < far x ∨ (x.queue = c.queue ∧ (c.fresh.isNone = true ∨ x.fresh.isSome = true)))))

namespace Sys2Proof.Claims

/-- Item i of launch k has retired in t: it holds no board entry, and the launch's other items are as they were. -/
abbrev Retired (t : State) (k i : Nat) (l : Launch) : Prop :=
  ∃ l' : Launch, t.launch k = some l' ∧ l'.items = updAt l.items i (fun x => { x with st := .retired, boarded := false }) ∧
    l'.desc = l.desc ∧ l'.cause = l.cause ∧ l'.st = l.st

/-- Some other item of the launch has still to end, so no milestone is due. -/
abbrev MoreToDo (l : Launch) (i : Nat) : Prop := ∃ j : Nat, j ≠ i ∧ ∃ x : Item, l.items[j]? = some x ∧ x.st = .running

end Sys2Proof.Claims

/-- R41, R46, R47, R53, R284: an item retires when its engine has halted or its crew has exited and every entry has performed;
the last one closes the launch; at the end of a slice the longest resident crew of least rank is asked to stop for a waiter
that ranks no lower, and leaves whole once it has stopped; it returns to a core with room, and a single gang that had left
returns to a free slot of its core first (the model's order, log entry 75). A crew whose writes to another device have not all
performed does not retire yet. -/
def Sys2Proof.Claims.RetirementAndSwapResults : Prop :=
  ∀ (s : State) (e k : Nat), Units s → s.inp.a = e →
    (∀ (i : Nat) (l : Launch), s.inp.flag = false → (s.tile e).run = .halting → (s.tile e).q = {} → (s.tile e).pendErr = none →
      (s.tile e).launch = k → (s.tile e).q0Valid = true → (s.tile e).q0Item = i → i ≠ endItem → (s.tile e).retiring = [] →
      (s.tile e).qmore = [] → (s.tile e).locks = [] → (s.tile e).nextGrant = none → (∀ x ∈ s.stopped, x.2.resumeOn ≠ some e) →
      (∀ x ∈ s.stopped, x.1 = e → x.2.launch ≠ k) → s.launch k = some l →
      (MoreToDo l i → ∃ t : State, exec .workItemRetire s = .next t ∧ Retired t k i l ∧ (t.tile e).run = .idle ∧
        (t.tile e).pad = (s.tile e).pad ∧ ∀ e' ≠ e, t.tile e' = s.tile e') ∧
      (l.st = .dispatched → l.tiles ⊆ [e] → l.cores = [] → l.run = none → (∀ j ≠ i, ∀ x : Item, l.items[j]? = some x → x.st = .retired) →
        ∃ t u : State, exec .workItemRetire s = .next t ∧ t = u.closeLaunch k (if l.cause = 0 then 1 else 3) l.cause ∧
          (t.tile e).run = .idle ∧ t.launch k = none)) ∧
    ((s.tile e).run = .running → (∀ r ∈ (s.tile e).retiring, (s.tile e).q.doneBefore r.2 = false) → s.inp.flag = false →
      exec .workItemRetire s = .next s) ∧
    (∀ (i ck : Nat) (cr : Crew) (l : Launch), s.inp.flag = true → SMap.wf {} (s.core e).l1 = true → (s.core e).crews = [(ck, cr)] → cr.finished = true → cr.q = {} →
      cr.launch = k → cr.items = [{ item := i }] → cr.retiring = [] → cr.locks = [] → s.launch k = some l → MoreToDo l i →
      (let w := s.writeBackAll e
       w.unperformed (.crew e ck) = true → exec .workItemRetire s = .next w) ∧
      ((s.writeBackAll e).unperformed (.crew e ck) = false → ∃ t : State, exec .workItemRetire s = .next t ∧ Retired t k i l ∧ (t.core e).crews = [] ∧ (∀ x ∈ (t.core e).gangs, x.2.crew ≠ ck) ∧
      ∀ lk, ((t.core e).line lk).dirty = 0)) ∧
    (s.timeOf (s.unitPart e) < (s.core e).sliceStart + s.eslice (s.unitPart e) → exec .edgeSliceExpiry s = .next s) ∧
    (∀ (er ck : Nat) (cr : Crew), (s.core e).sliceStart + s.eslice (s.unitPart e) ≤ s.timeOf (s.unitPart e) → s.partLive (s.unitPart e) = true →
      s.dieBusy (unitDie e) = false → s.edgeWaiter (s.unitPart e) e = some er → s.victim e = some (ck, cr) → s.crewOf e ck = some cr →
      (er < s.queueRank cr.launch → ∃ t : State, exec .edgeSliceExpiry s = .next t ∧ (t.core e).sliceStart = s.timeOf (s.unitPart e) ∧
        t.swapped = s.swapped ∧ (t.core e).gangs = (s.core e).gangs) ∧
      (s.queueRank cr.launch ≤ er → cr.stopReq = false → ∃ t : State, exec .edgeSliceExpiry s = .next t ∧
        t.crewOf e ck = some { cr with stopReq := true } ∧ t.swapped = s.swapped ∧ (t.core e).gangs = (s.core e).gangs) ∧
      (s.queueRank cr.launch ≤ er → cr.stopReq = true → s.crewStopped e ck = true → ∃ (t : State) (w : Swapped),
        exec .edgeSliceExpiry s = .next t ∧ t.swapped = s.swapped ++ [w] ∧ w.launch = cr.launch ∧ w.crew.cmem = cr.cmem ∧
        w.crew.rings = cr.rings ∧ w.crew.items = cr.items ∧ w.since = s.timeOf (s.unitPart e) ∧ t.crewOf e ck = none ∧
        w.gangs.length = (((s.core e).gangs ++ (s.core e).out).filter (fun g => g.2.crew == ck)).length ∧
        (∀ x ∈ (t.core e).gangs, x.2.crew ≠ ck) ∧ (t.core e).sliceStart = s.timeOf (s.unitPart e))) ∧
    (∀ (p slot : Nat) (x : Nat × Gang), s.inp.b = k → s.inp.a = p → (s.partUnits p).contains k = true → s.partLive p = true →
      s.dieBusy (unitDie k) = false → x ∈ (s.core k).out → (s.core k).out.Nodup → (∀ y ∈ (s.core k).out, y ≠ x → x.1 < y.1) →
      pickSlot ((s.core k).gangs.map Prod.fst) (((s.core k).crewGangs x.2.crew).map Prod.fst) = some slot →
      ∃ t : State, exec .crewSwapIn s = .next t ∧ alGet (t.core k).gangs slot = some x.2 ∧ (t.core k).out = (s.core k).out.erase x ∧
        (t.core k).crews = (s.core k).crews ∧ t.swapped = s.swapped) ∧
    (∀ (p : Nat) (w : Swapped), s.inp.b = k → s.inp.a = p → (s.core k).out = [] → s.nextSwapped p = some w → (s.partUnits p).contains k = true →
      s.partLive p = true → s.dieBusy (unitDie k) = false → (s.core k).hasRoom w.gangs.length w.crew.cmemKiB = true → Slotted s k →
      ∃ (t : State) (cr : Crew), exec .crewSwapIn s = .next t ∧ t.swapped = s.swapped.erase w ∧ t.crewOf k s.seq = some cr ∧
        cr.cmem = w.crew.cmem ∧ cr.launch = w.crew.launch ∧ cr.since = s.timeOf (s.unitPart k) ∧
        ∀ g ∈ w.gangs, ∃ slot < 16, alGet (s.core k).gangs slot = none ∧ alGet (t.core k).gangs slot = some { g with crew := s.seq })

/-! ## The tile engine's sequencer -/

namespace Sys2Proof.Claims

/-- The bundle of engine e is due and nothing holds it: the instance runs, no pass end, quiet point, posted failure, latch, queued
predicate or stop stands in its way, and it has neither signpost nor pops (R137, R145, R253). -/
abbrev BundleDue (s : State) (e : Nat) (b : Bundle) : Prop :=
  s.inp.a = e ∧ (s.tile e).run = .running ∧ (s.tile e).passDue = false ∧ (s.tile e).quiet = false ∧ (s.tile e).pendErr = none ∧
    (s.tile e).cmdWait = false ∧ (s.tile e).cmdDone = false ∧ (s.tile e).awaitVal = none ∧
    let t := atStep s e
    t.bundle = b ∧ t.b < t.body.length ∧ t.predWait = false ∧ t.latchCause = none ∧ t.mustWait = false ∧ b.pop = 0 ∧ b.sign = false

/-- No redirect falls due, and the bundle is no last one of an active body (R145, R147). -/
abbrev Straight (t : Tile) : Prop := (∀ x : Nat, (t.t + 1, x) ∉ t.rd) ∧ t.atPassEnd = false ∧ t.b + 1 < t.body.length

/-- The instance one step and one bundle on. -/
def stepped (t : Tile) : Tile := { t with b := t.b + 1, t := t.t + 1, passDue := false, hotFmt := 0, hotMsts := 0 }

/-- One result lands (R139). -/
def landed (t : Tile) (w : Land) : Tile := t.landOne { step := 0, order := 0, what := w }

end Sys2Proof.Claims

/-- R139, R142, R145, R150: a due bundle of one operation issues it at the step, with the results due landed, and the step ends
with the next bundle due; one whose operation fails stops on the engine error; one with false guards is skipped and takes
its step; a redirect due at the step names the next bundle; one past the body is an engine error. -/
def Sys2Proof.Claims.BundleResults : Prop :=
  ∀ (s : State) (e : Nat) (b : Bundle), SMap.wf {} s.tiles = true → BundleDue s e b → let t := atStep s e
    (∀ (k : Nat) (i : Instr) (f : TEff), b.ops = [(k, i)] → t.preg (guardOf i) = true → commandOf i = none → Straight t →
      tileSem i (s.tctx e t) = .ok f → f.ctl = .none → f.mat = none → f.acc = none → f.mark = none → ∃ (u : State) (n : Nat), s.seq ≤ n ∧
      exec .teBundle s = .next u ∧ u.tile e = stepped (t.effect n f) ∧ u.seq = n + 1 ∧ ∀ e' ≠ e, u.tile e' = s.tile e') ∧
    (∀ (k c d : Nat) (i : Instr), b.ops = [(k, i)] → t.preg (guardOf i) = true → commandOf i = none →
      tileSem i (s.tctx e t) = .err c d →
      exec .teBundle s = .next ((s.setTile e t).engineError e t.b k (issueStatus c k d))) ∧
    ((∀ o ∈ b.ops, t.preg (guardOf o.2) = false) → exec .teBundle s = .next (s.setTile e t)) ∧
    ((∀ o ∈ b.ops, t.preg (guardOf o.2) = false ∧ falseCtl o.2 = .none) →
      (Straight t → ∃ u : State, exec .bundleSkip s = .next u ∧ u.tile e = stepped t ∧ ∀ e' ≠ e, u.tile e' = s.tile e') ∧
      (t.atPassEnd = true → ∃ u : State, exec .bundleSkip s = .next u ∧ u.tile e = { t with passDue := true } ∧
        ∀ e' ≠ e, u.tile e' = s.tile e') ∧
      (∀ x : Nat, t.rd = [(t.t + 1, x)] → t.act = false → x < t.body.length → t.atPassEnd = false → ∃ u : State,
        exec .bundleSkip s = .next u ∧ (u.tile e).b = x ∧ (u.tile e).t = t.t + 1 ∧ (u.tile e).rd = [] ∧ (u.tile e).s = t.s) ∧
      ((∀ x : Nat, (t.t + 1, x) ∉ t.rd) → t.atPassEnd = false → t.b + 1 = t.body.length →
        ∃ u : State, u.tile e = { t with passDue := false } ∧ u.launches = s.launches ∧
        exec .bundleSkip s = .next (u.engineError e t.b 7 (issueStatus 0x25 7 0))))

/-- R139, R147, R149, R152, R153: results land in order of their step and issue, each in its register; a pass that ends counts an
iteration off or drains, moves fill, turn and tail, sets the stage predicates and goes back or leaves the loop; a stop lands
every result, saves the instance and frees the engine. -/
def Sys2Proof.Claims.LoopAndStopResults : Prop :=
  (∀ (s : State) (e : Nat), s.inp.a = e → (s.tile e).run = .running →
    exec .resultLand s = .next (s.setTile e (atStep s e))) ∧
  (∀ (t : Tile) (n d a b : Nat) (v w : W64), d < 64 → a < b → SMap.wf 0 t.s = true → (t.flights = [{ step := n, order := a, what := .s d v }] →
      t.land n = { landed t (.s d v) with flights := [] } ∧ (t.land n).sreg d = v) ∧
    (t.flights = [{ step := n + 1, order := a, what := .s d v }] → t.land n = t) ∧
    (t.flights = [{ step := n, order := b, what := .s d v }, { step := n, order := a, what := .s d w }] → (t.land n).sreg d = v)) ∧
  (∀ (s : State) (e : Nat), let t := s.tile e
    SMap.wf {} s.tiles = true → s.inp.a = e → t.run = .running → t.passDue = true → (∀ x : Nat, (t.t + 1, x) ∉ t.rd) →
    t.bodyStart + t.bodyLen < t.body.length → SMap.wf false t.p = true → let go := decide (t.tail = 0) && decide (t.lc ≠ 0) && !t.drain
    let tail := if go then t.tail else t.tail + 1
    let fill := min (t.fill + 1) 7
    ∃ u : State, exec .loopPassEnd s = .next u ∧ let x := u.tile e
      x.lc = (if go then t.lc - 1 else t.lc) ∧ x.tail = tail ∧ x.fill = fill ∧ x.turn = (t.turn + 1) % 32 ∧ x.t = t.t + 1 ∧
      x.le = t.le ∧ x.s = t.s ∧ x.flights = t.flights ∧ (∀ j < 8, x.preg j = t.preg j) ∧
      (t.le < tail → x.act = false ∧ x.b = t.bodyStart + t.bodyLen ∧ (∀ j < 8, x.preg (8 + j) = false)) ∧
      (tail ≤ t.le → x.act = t.act ∧ x.b = t.bodyStart ∧
        (∀ j < 8, x.preg (8 + j) = decide (tail ≤ j ∧ j ≤ fill ∧ j ≤ t.le)))) ∧
  (∀ (s : State) (e : Nat), let t := s.tile e
    SMap.wf {} s.tiles = true → s.inp.a = e → t.run = .running → t.passDue = false → t.pendErr = none → t.q.idleButMatrix = true →
    (let y := atStep s e;
      y.stopReq = true → y.bundle.sign = true → y.rd = [] → y.act = false → y.drain = false → y.predWait = false →
      y.mustWait = false → y.latchCause = none → ((s.setTile e y).bundleReady e).2 = true → ∃ (u : State) (x : Tile),
      exec .signpostStop s = .next u ∧ u.stopped = s.stopped ++ [(e, x)] ∧ (u.tile e).run = .idle ∧ x.resumeKind = 1 ∧ x.flights = [] ∧
      (x.s, x.v, x.p) = (y.landAll.s, y.landAll.v, y.landAll.p) ∧ (x.b, x.lc, x.q, x.qmore, x.rings) = (y.b, y.landAll.lc, y.q, y.qmore, y.rings)) ∧
    (t.drain = true → t.act = false → ∃ (u : State) (x : Tile), exec .quietPointStop s = .next u ∧
      u.stopped = s.stopped ++ [(e, x)] ∧ (u.tile e).run = .idle ∧ x.resumeKind = 2 ∧ x.flights = [] ∧ x.drain = false ∧
      (x.s, x.v, x.p) = (t.landAll.s, t.landAll.v, t.landAll.p) ∧ (x.b, x.savedLc, x.q, x.qmore, x.rings) = (t.b, t.landAll.lc, t.q, t.qmore, t.rings)))

/-! ## The matrix queue -/

namespace Sys2Proof.Claims

/-- Entry q heads the matrix queue of engine e. -/
abbrev HeadsMatrix (s : State) (e : Nat) (q : QEntry) (rest : List QEntry) : Prop :=
  s.inp.a = e ∧ SMap.wf {} s.tiles = true ∧ SMap.wf {} (s.tile e).acc = true ∧ (s.tile e).q.get 6 = q :: rest

/-- Element (i, j) of the committed values of accumulator d (R249). -/
def accAt (t : Tile) (d i j : Nat) : W32 := SMap.get 0 (t.accOf d).val (128 * i + j)

/-- The head entry has performed: the queue is its rest, and other engines are as they were. -/
abbrev HasPerformed (s u : State) (e : Nat) (rest : List QEntry) : Prop :=
  (u.tile e).q.get 6 = rest ∧ (u.tile e).pendErr = (s.tile e).pendErr ∧ (u.tile e).s = (s.tile e).s ∧ (u.tile e).v = (s.tile e).v ∧
    (∀ e' ≠ e, u.tile e' = s.tile e') ∧ u.mem = s.mem

/-- Accumulators other than one are as they were, and the scratchpad with them. -/
abbrev OnlyAcc (s u : State) (e d : Nat) : Prop :=
  (∀ d' ≠ d, (u.tile e).accOf d' = (s.tile e).accOf d') ∧ (u.tile e).pad = (s.tile e).pad

/-- No granule of the scratchpad that entry q fetches is uncorrectable (R108). -/
abbrev Sound (t : Tile) (q : QEntry) : Prop := ∀ x ∈ q.fetches, ∀ g ∈ t.padBad, ¬ (g * 32 < x.1 + x.2 ∧ x.1 < g * 32 + 32)

/-- None of the entries is a cp.st, which keeps the bytes it is to copy (R252). -/
abbrev NoStores (qs : List QEntry) : Prop := ∀ x ∈ qs, ∀ f : EC, x.cmd ≠ .cpSt f

end Sys2Proof.Claims

/-- R249, R251, R258 to R264: the entry at the head performs on the committed values: mz clears, mwr writes a quarter of a row, mld
a whole buffer, mma accumulates each element from its row and column, mst stores the elements and mtree sets the tree state; the old
values become the working buffer; an entry that finds a bad table or no tree fails with its cause. A cp.st placed behind mst copies what
it stored. One that fetches an uncorrectable granule fails (R108), with cause 0x34 of slot 3: the model's choice, log entry 72. -/
def Sys2Proof.Claims.MatrixPerformResults : Prop :=
  ∀ (s : State) (e : Nat) (q : QEntry) (rest : List QEntry), HeadsMatrix s e q rest → let t := s.tile e
    (∀ (g : B4) (d : B2), q.cmd = .mz g d → ∃ u : State, exec .matrixEntryPerform s = .next u ∧ HasPerformed s u e rest ∧
      OnlyAcc s u e d.toNat ∧ (∀ i < 128, ∀ j < 128, accAt (u.tile e) d.toNat i j = 0) ∧
      ((u.tile e).accOf d.toNat).work = (t.accOf d.toNat).val) ∧
    (∀ (g : B4) (d : B2) (v : B6) (a : B5), q.cmd = .mwr g d v a → q.vals.length = 32 → SMap.wf 0 (t.accOf d.toNat).val = true →
      let r := q.a.toNat % 128
      let c := 32 * (q.a.toNat / 128 % 4)
      ∃ u : State, exec .matrixEntryPerform s = .next u ∧ HasPerformed s u e rest ∧ OnlyAcc s u e d.toNat ∧
      ∀ i < 128, ∀ j < 128, accAt (u.tile e) d.toNat i j =
        if i = r ∧ c ≤ j ∧ j < c + 32 then BitVec.ofNat 32 (q.vals.getD (j - c) 0) else accAt t d.toNat i j) ∧
    (∀ (g : B4) (d : B2) (a : B5), q.cmd = .mld g d a → (t.pad.map Prod.fst).Pairwise (· < ·) → q.a.toNat + 65536 ≤ 2 ^ 20 →
      Sound t q → ∃ u : State, exec .matrixEntryPerform s = .next u ∧ HasPerformed s u e rest ∧ OnlyAcc s u e d.toNat ∧
      ∀ i < 128, ∀ j < 128, accAt (u.tile e) d.toNat i j =
        BitVec.ofNat 32 (leNat (t.padRead (q.a.toNat + 4 * (128 * i + j)) 4))) ∧
    (∀ (g : B4) (d : B2) (a b : B5) (k : B3), q.cmd = .mma g d a b 0 0 k → SMap.wf 0 (t.accOf d.toNat).val = true → Sound t q → let fm := q.fmt.toNat
      let as := t.panel fm (fmtA fm) q.a.toNat (scaleA fm)
      let bs := t.panel fm (fmtB fm) q.b.toNat (scaleB fm)
      ∃ u : State, exec .matrixEntryPerform s = .next u ∧ HasPerformed s u e rest ∧ OnlyAcc s u e d.toNat ∧
      (∀ i < 128, ∀ j < 128, accAt (u.tile e) d.toNat i j =
        (accumulateRow fm (accAt t d.toNat i j) (as.getD i []) (bs.getD j [])).1) ∧
      ((u.tile e).accOf d.toNat).work = (t.accOf d.toNat).val) ∧
    (∀ (g : B4) (d : B2) (a b : B5) (topk : B1) (k : B3), q.cmd = .mma g d a b 1 topk k → t.tree.present = false → Sound t q →
      exec .matrixEntryPerform s = .next (s.matrixError e q 0x45 0)) ∧
    (∀ (g : B4) (d : B2) (a : B5), q.cmd = .mst g d a 0 → fmtAcc q.fmt.toNat = 0 → SMap.wf 0 (t.accOf d.toNat).val = true → NoStores rest →
      q.a.toNat + 65536 ≤ 2 ^ 20 → ∃ u : State, exec .matrixEntryPerform s = .next u ∧ HasPerformed s u e rest ∧
      (∀ d', (u.tile e).accOf d' = t.accOf d') ∧
      ∀ i < 128, ∀ j < 128, (u.tile e).padRow (q.a.toNat + 4 * (128 * i + j)) 4 = leBytes 4 (accAt t d.toNat i j).toNat) ∧
    (∀ (g : B4) (a : B5), q.cmd = .mtree g a → Sound t q → NoStores rest → let tb := t.padRow q.a.toNat 128
      (u8At tb 0 = 0 ∨ 16 < u8At tb 0 → exec .matrixEntryPerform s = .next (s.matrixError e q 0x48 0)) ∧
      (u8At tb 0 = 1 → u8At tb 1 < 128 → u8At tb 2 < 128 → u8At tb 3 = 0 → zeroAt tb 0x38 0x40 = true → u8At tb 8 = 0xFF → u16At tb 0x18 = 1 →
        (∀ n < 15, u8At tb (9 + n) = 0 ∧ u16At tb (0x1A + 2 * n) = 0) → ∃ u : State, exec .matrixEntryPerform s = .next u ∧
        HasPerformed s u e rest ∧ (u.tile e).tree = { present := true, nnode := 1, row0 := u8At tb 1, col0 := u8At tb 2, amask := [1] } ∧
        (∀ d', (u.tile e).accOf d' = t.accOf d') ∧ u32At ((u.tile e).padRow (q.a.toNat + 0x40) 64) 0 = u32At tb 4)) ∧
    (∀ (g : B4) (d : B2) (a : B5) (n : Nat) (x y : QEntry) (f : EC), q.cmd = .mst g d a 0 → fmtAcc q.fmt.toNat = 0 →
      SMap.wf 0 (t.accOf d.toNat).val = true → q.a.toNat + 65536 ≤ 2 ^ 20 → n ≠ 6 → t.q.get n = [x] → x.cmd = .cpSt f → q.seq < x.seq →
      exec .matrixEntryPerform s = .next (s.matPerform e q) ∧ (((s.matPerform e q).tile e).q.get n = [y] → ∀ i < 128, ∀ j < 128,
        denseFrom (padDefault y.snapEpoch) 4 (q.a.toNat + 4 * (128 * i + j)) (y.snap.filter (fun z =>
          q.a.toNat + 4 * (128 * i + j) ≤ z.1 && z.1 < q.a.toNat + 4 * (128 * i + j) + 4)) = leBytes 4 (accAt t d.toNat i j).toNat)) ∧
    (¬ Sound t q → exec .matrixEntryPerform s = .next (s.matrixError e q 0x34 0))

namespace Sys2Proof.Claims

/-- The roundabout q with the accumulators of its iterates, the primary one first, its limit, and whether convergence ends it
(R268 to R270). -/
def Rounds (q : QEntry) (g p : B4) (nt : B1) (ds : List Nat) (lim : Nat) (ct : Bool) : Prop :=
  (∃ x : B2, q.cmd = .rndNs g x p nt ∧ ds = [x.toNat] ∧ lim = q.vals.getD 16 0 ∧ ct = true) ∨
  (∃ y z : B2, y ≠ z ∧ q.cmd = .rndIsr g y z p nt ∧ ds = [y.toNat, z.toNat] ∧ lim = q.vals.getD 16 0 ∧ ct = true) ∨
  (∃ (d x : B2) (n : B4), d ≠ x ∧ q.cmd = .rndPoly g d x n p nt ∧ ds = [d.toNat] ∧ lim = n.toNat ∧ ct = false)

/-- The engine as the roundabout at the head goes on: one that begins counts from 0, and rnd.poly from its highest coefficient
on the diagonal (R267, R268). -/
def begun (t : Tile) (q : QEntry) : Tile :=
  if q.sub = 4 then t
  else match q.cmd with
    | .rndPoly _ d _ n _ _ =>
      ({ t with ric := 0 } : Tile).commitAcc d.toNat (ofRows (diag (BitVec.ofNat 32 (coef q.fmt.toNat (q.vals.getD n.toNat 0)))))
    | _ => { t with ric := 0 }

/-- The iteration that is due of the roundabout, and its residual (R266, R267). -/
def iteration (t : Tile) (q : QEntry) : List (List (List W32)) × FFlags := t.iter q t.ric.toNat
def residual (t : Tile) (q : QEntry) (d : Nat) : Nat :=
  frob2 ((iteration t q).1.headD []) (rowsOf (t.accOf d).val)

end Sys2Proof.Claims

/-- R267 to R270: an iteration of rnd.poly, rnd.ns or rnd.isr, in course or the first, commits the new iterates, sets rres and counts
ric; the last one the limit allows ends the operation with its predicate false, and so does one whose residual has converged, but of
rnd.poly; one whose residual diverges commits nothing and ends it, with the predicate true in the .nt form and with cause 0x44 else; a
limit of zero does nothing; rnd.poly starts from its highest coefficient. The sticky bits of every iteration are set as the operation
performs (R251). -/
def Sys2Proof.Claims.RoundaboutResults : Prop :=
  ∀ (s : State) (e : Nat) (q : QEntry) (rest : List QEntry) (g p : B4) (nt : B1) (ds : List Nat) (lim : Nat) (ct : Bool),
    HeadsMatrix s e q rest → q.sub = 4 ∨ q.sub = 7 → Rounds q g p nt ds lim ct → let t := begun (s.tile e) q
      let r := residual t q (ds.headD 0)
      let vr := NumFmt.fp32.decode r
      let thr := NumFmt.fp32.decode (q.vals.getD 17 0)
      let conv := ct && (fLt vr thr || fEq vr thr)
      (lim ≤ t.ric.toNat → ∃ u : State, exec .roundaboutIteration s = .next u ∧ (u.tile e).q.get 6 = rest ∧
        (∀ d', (u.tile e).accOf d' = t.accOf d') ∧ (u.tile e).ric = t.ric ∧ (u.tile e).rres = t.rres) ∧
      (t.ric.toNat < lim → diverges q r (iteration t q).1 = false → ∃ u : State, exec .roundaboutIteration s = .next u ∧
        (u.tile e).ric = t.ric + 1 ∧ (u.tile e).rres = BitVec.ofNat 32 r ∧
        (∀ i < ds.length, ((u.tile e).accOf (ds.getD i 0)).val = ofRows ((iteration t q).1.getD i []) ∧
          ((u.tile e).accOf (ds.getD i 0)).work = (t.accOf (ds.getD i 0)).val) ∧
        (∀ d' ∉ ds, (u.tile e).accOf d' = t.accOf d') ∧
        (conv = false → t.ric.toNat + 1 < lim → ((u.tile e).q.get 6).map QEntry.cmd = q.cmd :: rest.map QEntry.cmd ∧
          (u.tile e).fmt = t.fmt) ∧
        (conv = true ∨ lim ≤ t.ric.toNat + 1 → (u.tile e).q.get 6 = rest ∧
          (nt = 1 → p ≠ 0 → SMap.wf false t.p = true → (u.tile e).preg p.toNat = false) ∧
          (u.tile e).fmt = BitVec.ofNat 32 (t.fmt.toNat ||| (q.sticky ||| (iteration t q).2.bits)))) ∧
      (t.ric.toNat < lim → diverges q r (iteration t q).1 = true →
        (nt = 1 → ∃ u : State, exec .roundaboutIteration s = .next u ∧ (u.tile e).q.get 6 = rest ∧
          (∀ d', (u.tile e).accOf d' = t.accOf d') ∧ (u.tile e).rres = BitVec.ofNat 32 r ∧ (p ≠ 0 → (u.tile e).preg p.toNat = true)) ∧
        (nt = 0 → ∃ v : State, exec .roundaboutIteration s = .next (v.matrixError e q 0x44 t.ric.toNat) ∧
          ∀ d', (v.tile e).accOf d' = t.accOf d')) ∧
      (∀ (d x : B2) (n : B4), q.cmd = .rndPoly g d x n p nt → q.sub = 7 → t.ric = 0 ∧
        ∀ i < 128, ∀ j < 128, accAt t d.toNat i j =
          if i = j then BitVec.ofNat 32 (coef q.fmt.toNat (q.vals.getD n.toNat 0)) else 0)

/-! ## Copies, deliveries, multicast and junctions -/

namespace Sys2Proof.Claims

/-- Entry q heads queue k of an issuer in partition p: its translation has not failed, no fault stalls it, and it has work left
to do (R97, R227, R301). -/
abbrev AtQueueHead (s : State) (who : Issuer) (p k : Nat) (q : QEntry) : Prop :=
  s.inp.iss = who ∧ s.issPart who = p ∧ s.entryAt who k = some q ∧ s.stalled (.entry who k) = false ∧ q.failed = false ∧ q.wrote = false

/-- An entry performs under its own number, by which the accesses it makes on other devices are known (R97, R99). -/
def tagged (s : State) (q : QEntry) : State := { s with opTag := q.tag }

/-- The bytes bs stand at an address of partition p, and the entry that performs reads them. -/
abbrev EntryReads (s : State) (who : Issuer) (p va : Nat) (bs : List Byte) : Prop := Holds s who p va bs s.opTag

/-- A copy queue or the fabric queue (R227). -/
abbrev CopyKey (k : Nat) : Prop := k < 4 ∨ k = 5

/-- Bytes written at an address of partition p by an issuer, giving state u. -/
abbrev Wrote (s : State) (who : Issuer) (p va : Nat) (bs : List Byte) (u : State) : Prop := s.writeVa who p va bs s.opTag = .ok u

/-- What a load of entry q of queue k has read when it begins, in state v: its record, coordinates and extents, its place in local
memory and the elements of the box; those delivered before, in part at least, are not read again and keep the value they were read
with (R237). -/
abbrev LoadsAt (s v : State) (who : Issuer) (p k : Nat) (q : QEntry) (pl : Plan) (off : Nat) (vs : List Nat) : Prop :=
  s.copyPlan who p k q 32 = (v, .ok pl) ∧ v.dest who q.a.toNat pl.l = some off ∧
    let js := span 0 pl.l.boxElems
    (q.sent = 0 → v.boxRead who p pl js = (v, .ok vs)) ∧
    (q.sent ≠ 0 → ∃ now : List Nat, v.boxRead who p pl (js.filter (fun j => !pl.l.moved q.sent j)) = (v, .ok now) ∧
      vs = keepElems (js.map (pl.l.moved q.sent)) q.box now)

/-- The stack bits that the elements of a store cover (R107). -/
def covers (s : State) (p : Nat) (pl : Plan) : List (Nat × Nat) :=
  (span 0 pl.l.boxElems).flatMap (fun j => match pl.place j with | some x => s.elemMasks p pl.l.fmt x.1 x.2 | none => [])

/-- The marks of the granules that a store covers whole are gone (R107). -/
def uncovered (s : State) (p : Nat) (pl : Plan) : State := if s.bad = [] then s else s.clearCovered (covers s p pl)

/-- Element j of a store takes bytes of an uncorrectable granule of its source (R108). -/
def badSource (q : QEntry) (pl : Plan) (off j : Nat) : Bool := (pl.l.elemOffs j).any (fun o => q.snapBad.contains ((off + o) / 32))

/-- The slot that a destination word names has taken n bytes without an error (R101, R234). -/
def credited (u : State) (who : Issuer) (w n : Nat) : State :=
  u.setRing who (w / 2 ^ 24 % 16) ((u.ring who (w / 2 ^ 24 % 16)).deliver (w / 2 ^ 20 % 16) n).1

end Sys2Proof.Claims

/-- R101, R102, R107, R108, R230, R233, R234, R236, R237: a copy that performs leaves its queue: cp.g2g writes the bytes it read;
cp.ld writes what is left of its box into local memory and credits the slot its word names, whole or by pieces; cp.st writes each
element that lies inside, clears the marks of the granules it covers and marks those whose source is bad; a bad record, a ring error
and a store past the speculation bound fail with their causes. -/
def Sys2Proof.Claims.CopyPerformResults : Prop :=
  ∀ (s0 v u : State) (who : Issuer) (p k : Nat) (q : QEntry), AtQueueHead s0 who p k q → CopyKey k → s0.inp.a = k → let s := tagged s0 q
    (∀ (f : EC) (bs : List Byte), q.cmd = .cpG2g f → bs.length = q.c.toNat → bs.length ≤ 2 ^ 40 → EntryReads s who p q.b.toNat bs →
      Wrote s who p q.a.toNat bs u →
      exec .copyPerform s0 = .next ((u.l2Reads p (f.m.toNat % 16) [(q.b.toNat, bs.length)]).performed who k)) ∧
    (∀ (f : EC) (pl : Plan) (off : Nat) (vs : List Nat), q.cmd = .cpLd f → LoadsAt s v who p k q pl off vs → let pos := off + q.sent
      let bs := (pl.l.packed vs).drop q.sent
      v.localWrite who pos bs = some u → let w := q.a.toNat
      let slot := u.ring who (w / 2 ^ 24 % 16)
      (w.testBit 28 = false ∨ bs = [] → exec .copyPerform s0 = .next ((u.l2Reads p (f.m.toNat % 16) pl.ranges).performed who k)) ∧
      (w.testBit 28 = true → bs ≠ [] → (slot.deliver (w / 2 ^ 20 % 16) bs.length).2 = false →
        exec .copyPerform s0 = .next (((credited u who w bs.length).l2Reads p (f.m.toNat % 16) pl.ranges).performed who k)) ∧
      (w.testBit 28 = true → bs ≠ [] → (slot.deliver (w / 2 ^ 20 % 16) bs.length).2 = true →
        exec .copyPerform s0 = .next (((credited u who w bs.length).setRnge who q.sg).failEntry who k q 0x35 k pos))) ∧
    (∀ (f : EC) (pl : Plan) (off n : Nat) (vs : List Nat), q.cmd = .cpLd f → LoadsAt s v who p k q pl off vs → q.a.toNat.testBit 28 = true →
      s0.inp.c = n → 0 < n → let piece := ((pl.l.packed vs).drop q.sent).take n
      v.localWrite who (off + q.sent) piece = some u → piece ≠ [] →
      ((u.ring who (q.a.toNat / 2 ^ 24 % 16)).deliver (q.a.toNat / 2 ^ 20 % 16) piece.length).2 = false →
      exec .ringDelivery s0 = .next ((credited u who q.a.toNat piece.length).setEntry who k { q with
        sent := q.sent + piece.length, recd := pl.raw, box := vs, ext0 := if pl.l.esrc = 1 then pl.ext.head? else none })) ∧
    (∀ (f : EC) (pl : Plan) (off : Nat) (bs : List Byte), q.cmd = .cpSt f → s.copyPlan who p k q 32 = (v, .ok pl) →
      dwOffset q.a.toNat (issIsTile who) (q.vals.getD 0 0) (q.vals.getD 1 0) (q.vals.getD 2 0) pl.l = some off →
      v.snapRead who q off pl.l.boxBytes = some bs →
      (specBad pl = false → v.storeCheck p pl (span 0 pl.l.boxElems) = .ok () →
        (uncovered v p pl).storeAll who p pl (swizzle pl.l.swz bs) (badSource q pl off) (span 0 pl.l.boxElems) = (u, .ok ()) →
        exec .copyPerform s0 = .next (u.performed who k)) ∧
      (specBad pl = true → exec .copyPerform s0 = .next (v.failEntry who k q 0x36 k pl.l.kvaddr))) ∧
    (∀ f : EC, q.cmd = .cpLd f ∨ q.cmd = .cpSt f → q.b.toNat % 128 ≠ 0 →
      exec .copyPerform s0 = .next (s.failEntry who k q 0x32 k q.b.toNat)) ∧
    (∀ f : EC, q.cmd = .cpG2g f → 2 ^ 40 < q.c.toNat → exec .copyPerform s0 = .next (s.failEntry who k q 0x31 k q.a.toNat))

/-- R97, R98, R238, R240, R243: a multicast delivers its box to each consumer of the list and leaves its queue, or fails with the
first cause a consumer meets; a junction leaves its queue when every earlier entry of the queues it names has performed,
and waits until then; one on a context that is not open fails with cause 0x39; an entry whose writes on another device are
outstanding waits for their replies. -/
def Sys2Proof.Claims.MulticastAndJunctionResults : Prop :=
  ∀ (s0 : State) (who : Issuer) (p k : Nat) (q : QEntry) (f : EC), s0.inp.a = k → let s := tagged s0 q
    (∀ (v u : State) (pl : Plan) (vs : List Nat) (c : Nat), AtQueueHead s0 who p k q → k = 4 → q.cmd = .cpMc f →
      s.copyPlan who p 4 q 64 = (v, .ok pl) →
      (v.consumersOk p q.blk = false → exec .multicastPerform s0 = .next (v.failEntry who 4 q 0x31 4 q.c.toNat)) ∧
      (v.consumersOk p q.blk = true → v.boxRead who p pl (span 0 pl.l.boxElems) = (v, .ok vs) →
        v.castAll who q.sg q.a.toNat pl.l (pl.l.packed vs) ((consumers q.blk).map (v.consumer p ((v.issLaunch who).getD 0))) = (u, c) →
        exec .multicastPerform s0 = .next (if c = 0 then (u.l2Reads p (f.m.toNat % 16) pl.ranges).performed who 4
          else u.failEntry who 4 q c 4 q.a.toNat))) ∧
    (AtQueueHead s0 who p k q → q.cmd = .jn f → k ≠ ordKey → let mask := f.a.toNat * 8 + f.b.toNat / 4
      let clear := fun (n : Nat) => ∀ x ∈ (s.queues who).get n, q.seq ≤ x.seq
      (8 ≤ k → s.cairnOk p q.c.toNat = false → exec .junctionPerform s0 = .next (s.failEntry who k q 0x39 7 q.c.toNat)) ∧
      (k < 8 ∨ s.cairnOk p q.c.toNat = true →
        (((∀ n < 7, mask.testBit n = true → n ≠ k → clear n) ∧
          (mask.testBit 7 = true → ∀ y ∈ (s.queues who).qs, 8 ≤ y.1 → y.1 ≠ k → ∀ x ∈ y.2, q.seq ≤ x.seq)) →
          exec .junctionPerform s0 = .next (s.popEntry who k)) ∧
        ((∃ n < 7, mask.testBit n = true ∧ n ≠ k ∧ ¬ clear n) → exec .junctionPerform s0 = .next s))) ∧
    (s0.inp.iss = who → s0.entryAt who k = some q → s0.stalled (.entry who k) = false → q.failed = false → q.wrote = true →
      q.cmd = .cpG2g f → k < 4 ∨ k = 5 → let mine := fun (x : RemoteOp) => x.posted = true ∧ x.who = who ∧ x.sg = q.tag
      ((∀ x ∈ s0.remoteOps, ¬ mine x) → exec .copyPerform s0 = .next (s0.popEntry who k)) ∧
      ((∃ x ∈ s0.remoteOps, mine x) → (∀ x ∈ s0.remoteOps, mine x → x.answered = false ∨ x.ok = true) → exec .copyPerform s0 = .next s0) ∧
      (∀ x : RemoteOp, s0.remoteOps = [x] → mine x → x.answered = true → x.ok = false →
        exec .copyPerform s0 = .next (s0.failEntry who k q 0x37 k x.va)))

/-- R55, R229, R232, R233: box element j stands at its coordinates, dimension 0 first, with the sampling steps of the first three
dimensions; its address is the base plus the positions times the strides; elements of a box pack in order and the
swizzle is its own inverse; rule 3 clamps a position outside the extents, and an element left outside reads as the fill of the
record's rule, minus infinity under rule 2 and zero else, and is not stored; one inside reads the bytes at its address; an element
delivered in part keeps the value it was read with, and of the others each takes the next value read (R237). -/
def Obligations.BoxLaws : Prop :=
  (∀ (l : Layout) (c : List Int) (j d : Nat), l.rank ≤ l.win.length → d < l.rank →
    (l.position c j).getD d 0 = c.getD d 0 +
      ((j / ((l.win.take d).foldl (· * ·) 1) % l.win.getD d 0 : Nat) : Int) * (if d < 3 then (l.samp.getD d 1 : Int) else 1)) ∧
  (∀ (l : Layout) (p : List Int), l.fmt ≠ 5 → p ≠ [] → l.stride.length = 7 → p.length ≤ 7 → (l.addr l.fmt false p).2 = 0 ∧
    BitVec.ofNat 64 (l.addr l.fmt false p).1 = BitVec.ofInt 64 ((l.base : Int) + p.getD 0 0 *
      (if l.stride.getD 0 0 = 0 then (elemBytes l.fmt : Int) else l.stride.getD 0 0) +
      ((span 1 (p.length - 1)).map (fun d => p.getD d 0 * l.stride.getD d 0)).sum)) ∧
  (∀ (fmt j : Nat) (vs : List Nat), j < vs.length → (∀ v ∈ vs, v < 2 ^ elemWidth fmt) → (fmt = 5 → vs.length % 4 = 0) →
    packedElem fmt (packElems fmt vs) j = vs.getD j 0) ∧
  (∀ (z : Nat) (bs : List Byte), z ≤ 3 → bs.length % 128 = 0 → swizzle z (swizzle z bs) = bs) ∧
  (∀ (l : Layout) (ext : List Nat) (p : List Int), p.length = ext.length → let inside := ∀ d < p.length, 0 ≤ p.getD d 0 ∧ p.getD d 0 < ext.getD d 0
    (inside → l.bound ext p = some p) ∧
    (¬ inside → l.oob ≠ 3 ∨ 0 ∈ ext → l.bound ext p = none) ∧
    (¬ inside → l.oob = 3 → 0 ∉ ext → ∃ p' : List Int, l.bound ext p = some p' ∧ p'.length = p.length ∧
      ∀ d < p.length, p'.getD d 0 = min (max (p.getD d 0) 0) ((ext.getD d 0 : Int) - 1))) ∧
  (∀ (s : State) (who : Issuer) (p : Nat) (pl : Plan) (j : Nat), let x := pl.l.position pl.co j
    (pl.l.bound pl.ext x = none → s.boxRead who p pl [j] = (s, .ok [if pl.l.oob = 2 then
      (if pl.l.fmt = 0 then 0xFF800000 else if pl.l.fmt = 1 then 0xFF80 else if pl.l.fmt = 2 then 0xFC00 else if pl.l.fmt = 4 then 0xFC else 0)
      else 0])) ∧
    (∀ (y : List Int) (bs : List Byte), pl.l.bound pl.ext x = some y → let a := pl.l.addr pl.l.fmt false y
      bs.length = elemSpan pl.l.fmt a.2 → Holds s who p a.1 bs s.opTag →
      s.boxRead who p pl [j] = (s, .ok [if pl.l.fmt = 5 then leNat bs / 2 ^ a.2 % 64 else leNat bs])) ∧
    (∀ (src : List Byte) (bad : Nat → Bool), x.length = pl.ext.length → (∃ d < x.length, ¬ (0 ≤ x.getD d 0 ∧ x.getD d 0 < pl.ext.getD d 0)) →
      s.storeAll who p pl src bad [j] = (s, .ok ()))) ∧
  (∀ (l : Layout) (n j : Nat), l.moved n j = true ↔ ∃ o ∈ l.elemOffs j, o < n) ∧
  (∀ (ms : List Bool) (old now : List Nat) (j : Nat), j < ms.length → (keepElems ms old now).getD j 0 =
    if ms.getD j false = true then old.getD j 0 else now.getD ((ms.take j).count false) 0)

/-! ## Region locks, commits, wayposts and device launches -/

namespace Sys2Proof.Claims

/-- A command that enters no queue is due: every earlier entry of every queue of its issuer has performed (R96). -/
abbrev OrderedDue (s : State) (who : Issuer) (p : Nat) (q : QEntry) : Prop :=
  AtQueueHead s who p ordKey q ∧ (s.queues who).clearBefore q.seq = true ∧ s.inp.a ≠ 5

/-- A lock record of 64 bytes lies at local memory place a, its granules unmarked, with the three words given (R90). -/
abbrev LockAt (s : State) (p va a w base len : Nat) : Prop :=
  va % 64 = 0 ∧ s.translate p va true = .ok (.hbm a) ∧ s.marked a 64 = false ∧ s.marked a 24 = false ∧
    ∃ bs : List Byte, s.readBytes a 64 = bs ∧ u64At bs 0 = w ∧ u64At bs 8 = base ∧ u64At bs 16 = len ∧ zeroAt bs 0x18 0x40 = true

/-- The issuer already owns the lock: by its list of held locks, and a management core by the owner fields (R91, R93). -/
abbrev Owns (s : State) (who : Issuer) (va w num : Nat) : Prop :=
  match who with
  | .mgmt _ => w % 2 = 1 ∧ w / 2 % 2 ^ 31 * 2 = s.ownerBits who 0
  | _ => ∃ h ∈ s.heldLocks who, h.va = va ∧ h.gang = num

/-- The release of an issuer's writes at a scope by the entry that performs, before a store of its own (R87, R91, R103). -/
def releasedAt (s : State) (who : Issuer) (sc : Nat) : State × Gate :=
  (match who with | .crew c _ => s.releaseWb c sc | _ => s).flushGate who sc [] s.opTag

/-- The acquirer's side of a lock taken: ABANDONED sets LABN, and an edge core drops the clean data of its L1 (R91, R93). -/
def acquired (s : State) (who : Issuer) (sg sc w : Nat) : State :=
  let s := if w / 2 ^ 63 % 2 = 1 then s.setLabn who sg else s
  match who with
  | .crew c _ => s.acquire c sc
  | _ => s

end Sys2Proof.Claims

/-- R90 to R93, R241: an rlk.acq on a free bound lock sets held and the owner fields in one update, keeps the count and clears
ABANDONED; on a held one it waits; one whose issuer has a failure posted to it, or whose crew is asked to stop, does not acquire
(R228, R296); rlk.rel of the owner releases its writes, clears held and counts the release, waits for its
markers and fails when one failed; rlk.bind of a free lock sets the region; each other case is a lock error. -/
def Obligations.LockResults : Prop :=
  ∀ (s0 : State) (who : Issuer) (p a w base len : Nat) (q : QEntry) (f : EC), OrderedDue s0 who p q → let s := tagged s0 q
    LockAt s p q.a.toNat a w base len → let va := q.a.toNat
    let num := q.vals.getD 0 0
    let owner := s.ownerBits who (s.gangSlot who num)
    (q.cmd = .rlkAcq f → s.acqBarred who q.sg = true → s.swapSent who q.sg = false → exec .lockAcquirePerform s0 = .next s) ∧
    (q.cmd = .rlkAcq f → s.acqBarred who q.sg = false →
      (1 ≤ f.m.toNat → len ≠ 0 → ¬ Owns s who va w num → (s.heldLocks who).length < 16 → w % 2 = 0 → owner < 2 ^ 32 →
        let u := (s.writeBytes a (leBytes 8 (1 + owner + w / 2 ^ 32 % 2 ^ 31 * 2 ^ 32))).setHeld who
          (s.heldLocks who ++ [{ va := va, gang := num, seq := q.seq }])
        exec .lockAcquirePerform s0 = .next (((acquired u who q.sg f.m.toNat w).endAcq who q.sg none).performed who ordKey)) ∧
      (1 ≤ f.m.toNat → len ≠ 0 → ¬ Owns s who va w num → (s.heldLocks who).length < 16 → w % 2 = 1 →
        exec .lockAcquirePerform s0 = .next (s.clearRemote who q.tag)) ∧
      (f.m = 0 → exec .lockAcquirePerform s0 = .next (s.lockError who ordKey q)) ∧
      (1 ≤ f.m.toNat → len = 0 ∨ Owns s who va w num ∨ 16 ≤ (s.heldLocks who).length →
        exec .lockAcquirePerform s0 = .next (s.lockError who ordKey q))) ∧
    (q.cmd = .rlkRel f →
      (∀ u : State, len ≠ 0 → w % 2 = 1 → Owns s who va w num → releasedAt s who f.m.toNat = (u, .done) →
        exec .lockReleasePerform s0 = .next (((u.writeBytes a (leBytes 8 (w / 2 % 2 ^ 31 * 2 + (w / 2 ^ 32 % 2 ^ 31 + 1) % 2 ^ 31 * 2 ^ 32 +
          w / 2 ^ 63 % 2 * 2 ^ 63))).setHeld who ((s.heldLocks who).filter (fun h => !(h.va == va && h.gang == num)))).performed who ordKey)) ∧
      (∀ u : State, len ≠ 0 → w % 2 = 1 → Owns s who va w num →
        (releasedAt s who f.m.toNat = (u, .wait) → exec .lockReleasePerform s0 = .next u) ∧
        (releasedAt s who f.m.toNat = (u, .error) → exec .lockReleasePerform s0 = .next (u.failEntry who ordKey q 0x37 5 va))) ∧
      (len = 0 ∨ w % 2 = 0 ∨ ¬ Owns s who va w num → exec .lockReleasePerform s0 = .next (s.lockError who ordKey q))) ∧
    (q.cmd = .rlkBind f → let b := q.b.toNat
      let n := q.c.toNat
      let good := w % 2 = 0 ∧ b % 128 = 0 ∧ n % 128 = 0 ∧ 0 < n ∧ n ≤ 2 ^ 47
      (good → ∀ u : State, Wrote s who p (va + 8) (leBytes 8 b ++ leBytes 8 n) u →
        exec .lockBindPerform s0 = .next (u.performed who ordKey)) ∧
      (¬ good → exec .lockBindPerform s0 = .next (s.lockError who ordKey q)))

namespace Sys2Proof.Claims

/-- The training of a row (R247): the same successor counts up, at 7 the others count down, a new one takes the least entry. -/
abbrev Trained (es es' : List WpEntry) (x : Nat) : Prop :=
  es'.length = es.length ∧
  (∀ i < es.length, (es.getD i {}).set = true → (es.getD i {}).succ = x →
    (∀ j < i, ¬ ((es.getD j {}).set = true ∧ (es.getD j {}).succ = x)) →
    ((es.getD i {}).count ≠ 7 → es' = es.set i { es.getD i {} with count := (es.getD i {}).count + 1 }) ∧
    ((es.getD i {}).count = 7 → ∀ j < es.length, es'.getD j {} =
      if j = i then es.getD j {} else { es.getD j {} with count := (es.getD j {}).count - 1 })) ∧
  ((∀ y ∈ es, ¬ (y.set = true ∧ y.succ = x)) → ∃ i < es.length, es' = es.set i { set := true, succ := x, count := 1 } ∧
    (∀ j < es.length, (es.getD i {}).count ≤ (es.getD j {}).count) ∧ ∀ j < i, (es.getD i {}).count < (es.getD j {}).count)

end Sys2Proof.Claims

/-- R106, R246 to R248, R338: kv.cmt releases, then moves the commit position within the bounds and the oldest live one with the
window; wp.upd trains its row, which its partition takes; wp.pre makes lines present in their home slices while those have room and changes no byte;
launch releases and appends the descriptor to its device launch queue; each failing operand posts its cause. -/
def Obligations.CommitAndLaunchResults : Prop :=
  ∀ (s0 u : State) (who : Issuer) (p : Nat) (q : QEntry) (f : EC), let va := q.a.toNat
    let s := tagged s0 q
    (OrderedDue s0 who p q →
      (∀ (a : Nat) (bs : List Byte), q.cmd = .kvCmt f → va % 64 = 0 → s.translate p va true = .ok (.hbm a) → releasedAt s who 4 = (u, .done) →
        bs.length = 64 → EntryReads u who p va bs → kvOk bs = true → let k := kvOf bs
        let n := q.b.toNat
        let old := if k.win = 0 then k.oldest else max k.oldest (n - k.win)
        (k.commit ≤ n → n ≤ k.commit + k.spec → n ≤ k.cap → ∀ u1 : State, Wrote u who p (va + 0x18) (leBytes 4 n) u1 →
          (old = k.oldest → exec .kvCommitPerform s0 = .next (u1.performed who ordKey)) ∧
          (old ≠ k.oldest → ∀ u2 : State, Wrote u1 who p (va + 0x1C) (leBytes 4 old) u2 →
            exec .kvCommitPerform s0 = .next (u2.performed who ordKey))) ∧
        (n < k.commit ∨ k.commit + k.spec < n ∨ k.cap < n →
          exec .kvCommitPerform s0 = .next (u.failEntry who ordKey q 0x36 8 va))) ∧
      (q.cmd = .kvCmt f → va % 64 ≠ 0 → exec .kvCommitPerform s0 = .next (s.failEntry who ordKey q 0x32 8 va)) ∧
      (q.cmd = .wpUpd f → q.a.toNat < 256 → q.b.toNat < 256 → q.c.toNat < 256 → SMap.wf {} s.wayposts = true →
        let k := s.shub p * 65536 + q.a.toNat * 256 + q.b.toNat
        let r := SMap.get {} s.wayposts k
        (r.es = [] ∨ r.es.length = 8) → let es := if r.owned = true ∧ r.owner = p ∧ r.es ≠ [] then r.es else List.replicate 8 {}
        ∃ (t : State) (es' : List WpEntry), exec .waypostUpdatePerform s0 = .next t ∧ Trained es es' q.c.toNat ∧
          SMap.get {} t.wayposts k = { owned := true, owner := p, es := es' } ∧
          (∀ k' ≠ k, SMap.get {} t.wayposts k' = SMap.get {} s.wayposts k') ∧ t.mem = s.mem) ∧
      (q.cmd = .wpUpd f → 256 ≤ q.a.toNat ∨ 256 ≤ q.b.toNat ∨ 256 ≤ q.c.toNat →
        exec .waypostUpdatePerform s0 = .next (s.failEntry who ordKey q 0x31 8 q.a.toNat)) ∧
      (q.cmd = .launch f → let n := q.b.toNat
        (va % 64 ≠ 0 → exec .launchPerform s0 = .next (s.failEntry who ordKey q 0x32 8 va)) ∧
        (va % 64 = 0 → 32 ≤ n ∨ (s.dlq n).ctl.getLsbD 7 = false ∨ bits (s.dlq n).ctl 2 0 ≠ p →
          exec .launchPerform s0 = .next (s.failEntry who ordKey q 0x30 8 va)) ∧
        (∀ bs : List Byte, va % 64 = 0 → n < 32 → (s.dlq n).ctl.getLsbD 7 = true → bits (s.dlq n).ctl 2 0 = p → (s.dlq n).entries.length < 64 →
          releasedAt s who 4 = (u, .done) → bs.length = 512 → EntryReads u who p va bs →
          exec .launchPerform s0 = .next ((u.setDlq n { u.dlq n with entries := (u.dlq n).entries ++ [bs] }).performed who ordKey)) ∧
        (va % 64 = 0 → n < 32 → (s.dlq n).ctl.getLsbD 7 = true → bits (s.dlq n).ctl 2 0 = p → 64 ≤ (s.dlq n).entries.length →
          exec .launchPerform s0 = .next s))) ∧
    (AtQueueHead s0 who p 4 q → q.cmd = .wpPre f → (∀ x ∈ (s.queues who).ordered, q.seq ≤ x.seq) →
      (256 ≤ q.a.toNat ∨ 256 ≤ q.b.toNat → exec .waypostPrefetchPerform s0 = .next (s.popEntry who 4)) ∧
      (q.a.toNat < 256 → q.b.toNat < 256 → let r := SMap.get {} s.wayposts (s.shub p * 65536 + q.a.toNat * 256 + q.b.toNat)
        let ctl := (s.part p).wptctl
        (ctl.getLsbD 0 = false ∨ r.owned = false ∨ r.owner ≠ p → exec .waypostPrefetchPerform s0 = .next (s.popEntry who 4)) ∧
        (∀ bs : List Byte, ctl.getLsbD 0 = true → r.owned = true → r.owner = p → bs.length = 32 →
          EntryReads s who p ((canonVa (bits ctl 56 13 * 8192) + 32 * q.a.toNat) % 2 ^ 64) bs → zeroAt bs 0x1D 0x20 = true →
          u64At bs 0 % 128 = 0 → u64At bs 8 % 128 = 0 → u64At bs 0x10 % 128 = 0 → u32At bs 0x18 % 128 = 0 →
          (u8At bs 0x1C = 0 → exec .waypostPrefetchPerform s0 = .next (s.performed who 4)) ∧
          (u8At bs 0x1C = 1 → ∃ t : State, exec .waypostPrefetchPerform s0 = .next (t.performed who 4) ∧
            t.mem = s.mem ∧ t.bad = s.bad ∧ (s.l2.length + r.es.length * s.dies * (u32At bs 0x18 / 128) ≤ 8192 →
            (∀ x ∈ s.l2, x.1 ∈ t.l2.map Prod.fst) ∧
            ∀ y ∈ r.es, y.set = true → max (f.m.toNat % 8) 1 ≤ y.count → ∀ d < s.dies, ∀ i < u32At bs 0x18 / 128, ∀ k : Nat,
              s.translate p (BitVec.ofInt 64 ((u64At bs 0 : Int) + y.succ * (BitVec.ofNat 64 (u64At bs 8)).toInt +
                d * (BitVec.ofNat 64 (u64At bs 0x10)).toInt + 128 * i)).toNat false = .ok (.hbm k) → k / 128 ∈ t.l2.map Prod.fst)))))

/-! ## Cairn memory -/

namespace Sys2Proof.Claims

/-- A handle names open context n of a die of the issuer's partition, whose queue has key k (R243). -/
abbrev HandleOk (s : State) (p k : Nat) (h : W64) : Prop := 8 ≤ k ∧ k < ordKey ∧ s.cairnKey p h.toNat = k ∧ s.cairnOk p h.toNat = true

/-- A context keeps whole blocks of history within its quota (R319, R322). -/
abbrev HistoryOk (c : CairnCtx) : Prop :=
  c.quota % 256 = 0 ∧ 256 ≤ c.quota ∧ c.quota ≤ c.hcap ∧ c.old % 256 = 0 ∧ c.old ≤ c.ntok ∧ c.ntok - c.old ≤ c.quota

/-- A parameter block of 32 bytes for a context on die d (R243). -/
abbrev ParamsOk (s : State) (who : Issuer) (p d : Nat) (bs : List Byte) : Prop :=
  bs.length = 32 ∧ s.cairnDie who p (u32At bs 0x10) = some d ∧ u64At bs 0 % 64 = 0 ∧ zeroAt bs 0x14 0x20 = true ∧
    u32At bs 8 % 256 = 0 ∧ 256 ≤ u32At bs 8 ∧ u32At bs 0x0C % 256 = 0 ∧ 256 ≤ u32At bs 0x0C ∧ u32At bs 0x0C ≤ u32At bs 8

end Sys2Proof.Claims

/-- R243 to R245, R318, R319, R326 to R328: opening takes the lowest free context that can reserve its quota and writes its handle,
or 0 when there is none; closing frees it and keeps its generation; a query of what it finds writes its record; saving writes the
image; restoring one takes a context with the image's state; a query that meets an uncorrectable token sets ERR beside CONT and KEY
(R324); the entries of one context perform one at a time, each whole (R325); a bad handle, address or block fails with its cause. -/
def Sys2Proof.Claims.CairnResults : Prop :=
  ∀ (s0 u : State) (who : Issuer) (p : Nat) (q : QEntry) (f : EC), let s := tagged s0 q
    (OrderedDue s0 who p q → q.cmd = .cairnOpen f → let va := q.b.toNat
      (va % 32 ≠ 0 → exec .cairnOpenPerform s0 = .next (s.failEntry who ordKey q 0x32 7 va)) ∧
      (∀ (bs : List Byte) (d : Nat), va % 32 = 0 → EntryReads s who p va bs → ParamsOk s who p d bs →
        (∀ n, s.cairnFree d (u32At bs 0x0C) = some n → let g := nextGen (s.cairn (d * 1024 + n)).gen
          let c : CairnCtx := {
            isOpen := true, gen := g, part := p, haddr := u64At bs 0, hcap := u32At bs 8, quota := u32At bs 0x0C }
          exec .cairnOpenPerform s0 = .next (((s.setCairn (d * 1024 + n) c).finishHeld who q
            (some (BitVec.ofNat 64 (g * 4096 + s.logDie p d * 1024 + n)))).performed who ordKey)) ∧
        (s.cairnFree d (u32At bs 0x0C) = none →
          exec .cairnOpenPerform s0 = .next ((s.finishHeld who q (some 0)).performed who ordKey))) ∧
      (∀ bs : List Byte, va % 32 = 0 → bs.length = 32 → EntryReads s who p va bs → (∀ d, ¬ ParamsOk s who p d bs) →
        exec .cairnOpenPerform s0 = .next (s.failEntry who ordKey q 0x39 7 0))) ∧
    (∀ k : Nat, AtQueueHead s0 who p k q → s0.inp.a = k → 8 ≤ k → k < ordKey → s0.contextBusy who k = true →
      (q.cmd = .cairnApp f → exec .cairnAppendPerform s0 = .next s) ∧ (q.cmd = .cairnQry f → exec .cairnQueryPerform s0 = .next s) ∧
      (q.cmd = .cairnSave f → exec .cairnSavePerform s0 = .next s) ∧ (q.cmd = .cairnClose f → exec .cairnClosePerform s0 = .next s)) ∧
    (∀ k : Nat, AtQueueHead s0 who p k q → s0.inp.a = k → s0.contextBusy who k = false → let c := s.cairn (k - 8)
      (q.cmd = .cairnClose f → HandleOk s p k q.a → exec .cairnClosePerform s0 =
        .next ((s.setCairn (k - 8) { gen := c.gen }).performed who k)) ∧
      (q.cmd = .cairnClose f → 8 ≤ k → k < ordKey → s.cairnOk p q.a.toNat = false → exec .cairnClosePerform s0 = .next (s.performed who k)) ∧
      (q.cmd = .cairnSave f → HandleOk s p k q.a →
        (q.b.toNat % 64 ≠ 0 → exec .cairnSavePerform s0 = .next (s.failEntry who k q 0x32 7 q.b.toNat)) ∧
        (q.b.toNat % 64 = 0 → Wrote s who p q.b.toNat (imageBytes c) u →
          exec .cairnSavePerform s0 = .next ((u.setCairn (k - 8) { c with index := ixLive c.index c.old }).performed who k))) ∧
      (q.cmd = .cairnQry f → HandleOk s p k q.a →
        (q.b.toNat % 16 ≠ 0 → exec .cairnQueryPerform s0 = .next (s.failEntry who k q 0x32 7 q.b.toNat)) ∧
        (∀ x : Found, q.b.toNat % 16 = 0 → s.find who p c = (s, .ok x) →
          (x.mlen = 0 → x.cont = false → Wrote s who p q.b.toNat (queryBytes 0 0 0 0 c.ntok []) u → ∃ v : State,
            exec .cairnQueryPerform s0 = .next (v.performed who k) ∧
            (SMap.wf {} u.cairns = true → v.cairn (k - 8) = { c with index := x.index, cmv := false }) ∧ v.tiles = u.tiles ∧ v.cores = u.cores) ∧
          (∀ ts : List Nat, 0 < x.mlen ∨ x.cont = true → let n := min 16 (c.ntok - x.src)
            s.tokens who p c [] (span x.src n) = (s, .ok ts) →
            Wrote s who p q.b.toNat (queryBytes x.mlen n ((if x.cont then 1 else 0) * 2 + x.key * 4) (if n = 0 then 0 else x.src) c.ntok ts) u →
            ∃ v : State, exec .cairnQueryPerform s0 = .next (v.performed who k) ∧
            (SMap.wf {} u.cairns = true → v.cairn (k - 8) = { c with
              index := x.index, cm := x.src, cml := x.mlen, ckey := x.key, cmv := true }) ∧ v.tiles = u.tiles ∧ v.cores = u.cores) ∧
          (∀ (va : Nat) (w : Bool), 0 < x.mlen ∨ x.cont = true →
            s.tokens who p c [] (span x.src (min 16 (c.ntok - x.src))) = (s, .error (.mem .uncorr va w)) →
            Wrote s who p q.b.toNat (queryBytes 0 0 (1 + (if x.cont then 1 else 0) * 2 + x.key * 4) 0 c.ntok []) u →
            ∃ v : State, exec .cairnQueryPerform s0 = .next (v.performed who k)))) ∧
      (8 ≤ k → k < ordKey → s.cairnOk p q.a.toNat = false →
        (q.cmd = .cairnSave f → exec .cairnSavePerform s0 = .next (s.failEntry who k q 0x39 7 q.a.toNat)) ∧
        (q.cmd = .cairnQry f → exec .cairnQueryPerform s0 = .next (s.failEntry who k q 0x39 7 q.a.toNat)) ∧
        (q.cmd = .cairnApp f → exec .cairnAppendPerform s0 = .next (s.failEntry who k q 0x39 7 q.a.toNat)))) ∧
    (OrderedDue s0 who p q → q.cmd = .cairnRst f → let va := q.b.toNat
      (va % 64 ≠ 0 → exec .cairnRestorePerform s0 = .next (s.failEntry who ordKey q 0x32 7 va)) ∧
      (∀ (bs es : List Byte) (d : Nat), va % 64 = 0 → bs.length = 64 → EntryReads s who p va bs → s.cairnDie who p (u32At bs 0x28) = some d →
        (imageOk bs = false → exec .cairnRestorePerform s0 = .next (s.failEntry who ordKey q 0x39 7 0)) ∧
        (imageOk bs = true → u32At bs 0x2C ≠ 0 → es.length = 8 * u32At bs 0x2C → EntryReads s who p (va + 64) es →
          let ws := (chunks 8 (u32At bs 0x2C) es).map leNat
          let c := imageCtx bs
          (entriesOk c ws = false → exec .cairnRestorePerform s0 = .next (s.failEntry who ordKey q 0x39 7 0)) ∧
          (entriesOk c ws = true → s.cairnFree d c.quota = none →
            exec .cairnRestorePerform s0 = .next ((s.finishHeld who q (some 0)).performed who ordKey)) ∧
          (∀ i, entriesOk c ws = true → s.cairnFree d c.quota = some i → let g := nextGen (s.cairn (d * 1024 + i)).gen
            ∃ ix : List (Nat × List Nat), exec .cairnRestorePerform s0 =
              .next (((s.setCairn (d * 1024 + i) { c with gen := g, part := p, index := ix }).finishHeld who q
                (some (BitVec.ofNat 64 (g * 4096 + s.logDie p d * 1024 + i)))).performed who ordKey)))))

/-- R320 to R322: an append takes the tokens of its buffer: NTOK counts them, blocks of 256 positions are evicted so that the quota
holds, and the history's words are stored at their places; an index key keeps at most four positions and the newest stays. -/
def Sys2Proof.Claims.AppendResults : Prop :=
  (∀ (s0 u : State) (who : Issuer) (p k : Nat) (q : QEntry) (f : EC) (ts : List Nat) (c' : CairnCtx) (ov : Overlay),
    AtQueueHead s0 who p k q → s0.inp.a = k → s0.contextBusy who k = false → let s := tagged s0 q
    q.cmd = .cairnApp f → HandleOk s p k q.a → let c := s.cairn (k - 8)
    q.c.toNat = ts.length → 1 ≤ ts.length → ts.length ≤ 4096 → q.b.toNat % 4 = 0 → s.bufTokens who p q.b.toNat ts.length = (s, .ok (ts, false)) →
      s.histCheck p c (span c.ntok ts.length) = .ok () → s.takeAll who p c [] ts = (u, .ok (c', ov, 0)) →
      exec .cairnAppendPerform s0 = .next (((u.storeHist who p c ov).setCairn (k - 8) c').performed who k)) ∧
  (∀ (s u : State) (who : Issuer) (p : Nat) (c c' : CairnCtx) (ts : List Nat) (ov : Overlay), HistoryOk c →
    c.ntok + ts.length < 2 ^ 32 → ts.length ≤ c.hcap → s.takeAll who p c [] ts = (u, .ok (c', ov, 0)) → HistoryOk c' ∧
      c'.ntok = c.ntok + ts.length ∧ c.old ≤ c'.old ∧ (c'.haddr, c'.hcap, c'.quota, c'.gen) = (c.haddr, c.hcap, c.quota, c.gen) ∧
      (∀ i < ts.length, ov.find? (fun x => x.1 == (c.ntok + i) % c.hcap) = some ((c.ntok + i) % c.hcap, ts.getD i 0))) ∧
  (∀ (ix : List (Nat × List Nat)) (cap k pos : Nat), 0 < cap → (∀ x ∈ ix, x.2.length ≤ 4 ∧ ∀ y ∈ x.2, y < 2 ^ 32) → let r := ixInsert ix cap k pos
    (∀ x ∈ r, x.2.length ≤ 4) ∧ ∃ l : List Nat, alGet r k = some (pos :: l))

/-! ## Translation, faults, saves and epochs -/

namespace Sys2Proof.Claims

/-- The 8-byte entry of a table at local physical address t that an address uses at a level stands in memory, its granule
unmarked on a die that answers (R298, R299). -/
abbrev EntryAt (s : State) (p t va lvl e : Nat) : Prop :=
  ∃ k : Nat, s.physLoc p (t + 8 * (va / 2 ^ (12 + 9 * lvl) % 512)) = some (.hbm k) ∧ s.dieDown (keyDie k) = false ∧
    s.marked k 8 = false ∧ leNat (s.readBytes k 8) = e

/-- A walker slot of a die holds fault w of a consumer (R301). -/
abbrev SlotHeld (s : State) (d n : Nat) (w : Walker) : Prop :=
  d < 4 ∧ n < 64 ∧ s.inp.a = d ∧ s.inp.b = n ∧ s.walker d n = w ∧ w ≠ {} ∧ SMap.wf {} s.walkers = true ∧ w.part < 8 ∧ s.isPart w.part = true

/-- The slot is free again. -/
def freed (s : State) (d n : Nat) : State := { s with walkers := SMap.set {} s.walkers (d * 64 + n) {} }

end Sys2Proof.Claims

/-- R74, R298 to R300: a walk without EN faults with reason 5 and one of an address that is not canonical with reason 1; an invalid
entry faults with 1, a malformed one with 2, an uncorrectable one or one homed on a die in reset with 4, and a write through a leaf
without W with 3; a leaf gives its frame and the page offset; a page walk keeps its translation in the TLB of its die, of at most
16,384 entries, and in the micro-TLB of the die's station it serves, of at most 64, and changes no byte; a walker's read that a die in
reset answers with an error counts (R19, R357). -/
def Sys2Proof.Claims.TranslationResults : Prop :=
  ∀ (s : State) (p va : Nat) (wr : Bool), let root := (s.part p).ptroot
    (va / 2 ^ 56 ≠ 0 → va / 2 ^ 56 ≠ 255 → s.walkRoot p va wr = .fault 1) ∧
    (va < 2 ^ 56 → root.getLsbD 0 = false → s.walkRoot p va wr = .fault 5) ∧
    (∀ e : Nat, va < 2 ^ 56 → root.getLsbD 0 = true → let t := bits root 47 12 * 4096
      (EntryAt s p t va 4 e → e % 2 = 0 → s.walkRoot p va wr = .fault 1) ∧
      (EntryAt s p t va 4 e → e % 2 = 1 → (e / 2 % 2 = 1 ∨ e / 4 % 32 ≠ 0 ∨ e / 2 ^ 48 ≠ 0) → s.walkRoot p va wr = .fault 2) ∧
      (∀ k, s.physLoc p (t + 8 * (va / 2 ^ 48 % 512)) = some (.hbm k) →
        (s.dieDown (keyDie k) = false → s.marked k 8 = true → s.walkRoot p va wr = .fault 4) ∧
        (s.dieDown (keyDie k) = true → s.walkRoot p va wr = .fault strayWalk ∧ strayWalk % 8 = 4)) ∧
      (∀ f w : Nat, EntryAt s p t va 4 e → e = 1 + f * 4096 → f < 2 ^ 36 → w < 2 ^ 36 → w * 4096 % 2 ^ 39 = 0 →
        (EntryAt s p (f * 4096) va 3 (7 + w * 4096) → s.walkRoot p va wr = .ok none (w * 4096 + va % 2 ^ 39) 39 true) ∧
        (EntryAt s p (f * 4096) va 3 (3 + w * 4096) →
          s.walkRoot p va wr = if wr then .fault 3 else .ok none (w * 4096 + va % 2 ^ 39) 39 false))) ∧
    (∀ d : Nat, s.inp.c = d → s.inp.a = p → s.inp.v.toNat = va → s.inp.flag = wr → s.walkerFree d = true → s.dieDown d = false →
      (∀ why : Nat, s.walkRoot p va wr = .fault why → exec .pageWalk s = .next (if why = strayWalk then s.stray else s)) ∧
      (∀ (pa size : Nat) (w : Bool), s.walkRoot p va wr = .ok none pa size w → let mine := s.tlb.filter (fun x => x.die == d)
        let e : TlbEntry := { part := p, va := va % 2 ^ 57 / 2 ^ size * 2 ^ size, size := size, pa := pa - va % 2 ^ size, w := w, die := d }
        ∃ (tl : List TlbEntry) (mt : SMap (List TlbEntry)) (wc : List WcEntry),
        exec .pageWalk s = .next { s with tlb := tl, mtlb := mt, wcache := wc } ∧ e ∈ tl ∧ (∀ x ∈ s.wcache, x ∈ wc) ∧
        (∀ x ∈ s.tlb, x.die ≠ d ∨ mine.length < 16384 → x ∈ tl) ∧ (tl.filter (fun x => x.die == d)).length ≤ 16384 ∧
        (s.inp.b / 128 ≠ d → mt = s.mtlb) ∧
        (s.inp.b / 128 = d → SMap.wf [] s.mtlb = true → e ∈ SMap.get [] mt s.inp.b ∧ (SMap.get [] mt s.inp.b).length ≤ 64)))

/-- R301, R302: a walk asked for again frees its slot when it succeeds and is reported anew when it faults; a slot failed lets its
consumer fail: an entry with cause 0x33, a launch with 0x02, a queue with QERR; GTERM ends the crew of the parked sub-gang it
names, each of its items, and its launch with cause 0x12; another handle sets the hub fault status. -/
def Sys2Proof.Claims.FaultResponseResults : Prop :=
  ∀ (s : State) (h d n : Nat), Writes s h →
    (∀ w : Walker, SlotHeld s d n w → let va := canonVa w.va
      (∀ why : Nat, s.walkRoot w.part va w.wr = .fault why → let u := if why = strayWalk then s.stray else s
        exec .frespWalkAgain s = .next (({ u with walkers := SMap.set {} u.walkers (d * 64 + n) { w with why := why } } : State).pushEvent
          (s.shub w.part) (2 * 2 ^ 56 + d * 64 + n))) ∧
      (∀ (pa size : Nat) (ok : Bool), s.walkRoot w.part va w.wr = .ok none pa size ok → ∃ t : State, exec .frespWalkAgain s = .next t ∧
        t.walker d n = {} ∧ ((s.tlb.filter (fun x => x.die == d)).length < 16384 → ∀ x ∈ s.tlb, x ∈ t.tlb) ∧ t.mem = s.mem ∧ t.mgmts = s.mgmts) ∧
      (∀ (who : Issuer) (key : Nat) (q : QEntry), w.who = .entry who key → s.entryAt who key = some q → handleReg q.cmd = none →
        exec .frespFail s = .next ((freed s d n).failEntry who key q 0x33 (queueCode key) va)) ∧
      (∀ k : Nat, w.who = .splitter k → exec .frespFail s = .next ((freed s d n).refuseLaunch k 2 0xFFFFFFFF)) ∧
      (∀ p q : Nat, w.who = .front p q → let u := freed s d n
        let x := s.hwq p q
        exec .frespFail s = .next ((u.heat (.qerr p q) 64).setHwq p q { x with stat := x.stat ||| 0x40, ctl := x.ctl &&& 0x7FFFFFFF, arrivals := [] })) ∧
      (∀ (who : Issuer) (sg : Nat), w.who = .issue who sg →
        exec .frespFail s = .next { freed s d n with issueFail := s.issueFail ++ [(who, sg, va)] })) ∧
    (∀ (c : Ctx) (i : Nat) (l : Launch), s.inp.a = d → d < 2 ^ 16 → s.parkedOf d = some c → SMap.wf {} s.cores = true →
      (s.core c.ref.core).crews = [(c.gang.crew, c.crew)] → c.crew.items = [{ item := i }] → c.crew.retiring = [] → c.crew.locks = [] →
      s.launch c.crew.launch = some l → l.cause = 0 → MoreToDo l i → ∃ (t : State) (l' : Launch), exec .gtermWrite s = .next t ∧
        (t.core c.ref.core).crews = [] ∧ (∀ x ∈ (t.core c.ref.core).gangs, x.2.crew ≠ c.gang.crew) ∧
        t.launch c.crew.launch = some l' ∧ l'.cause = 0x12 ∧ (∀ it, l.items[i]? = some it → ∃ it', l'.items[i]? = some it' ∧
          it'.st = .aborted ∧ it'.boarded = false) ∧ l'.nabort = l.nabort) ∧
    (s.inp.a = d → d < 2 ^ 16 → s.parkedOf d = none → s.hfstat.getLsbD 2 = false → ∃ t : State, exec .gtermWrite s = .next t ∧
      t.hfstat = s.hfstat ||| 4 ∧ t.cores = s.cores ∧ t.launches = s.launches)

/-- R296, R304, R305, R309: a save stops the work of a resident partition and holds it in state 1; with everything stopped it is
saved, holds no work and no translation; at its limit the stops are withdrawn with REASON 1; a restore with a good header holds the
partition in state 3 and then makes it resident; one with a bad header leaves the state and gives its REASON, and a bad granule gives
state 0 and REASON 4; a read that a die in reset answers with an error counts (R357); an operation that the state does not allow sets REASON 5 and nothing else. -/
def Sys2Proof.Claims.SaveAndRestoreResults : Prop :=
  ∀ (s : State) (p : Nat), s.inp.a = p → s.isPart p = true → SMap.wf {} s.parts = true → Units s → let b := s.part p
    let only := fun (t : State) (v : W32) => ∃ b' : Part, t = s.setPart p b' ∧ b'.pcst = v ∧ b'.queues = b.queues ∧ b'.ptroot = b.ptroot
    let reason := fun (r : Nat) => (b.pcst &&& 0xFFFF00FF) ||| BitVec.ofNat 32 (r * 256)
    (s.partInReset p = false → s.pcState p = 4 → s.inp.b < 256 → ∃ t : State, exec .pcmdSave s = .next t ∧
      t.pcState p = 1 ∧ t.partLive p = false ∧ t.mem = s.mem ∧ t.launches = s.launches ∧
      (t.part p).saveBy = (if s.inp.b = 0 then 0 else s.timeOf p + s.inp.b * 65536) ∧
      ∀ e ∈ s.partUnits p, (∀ x ∈ (t.core e).crews, x.2.stopReq = true) ∧
        ((s.tile e).run = .running → (t.tile e).stopReq = true ∧ ((s.tile e).act = true → (t.tile e).drain = true))) ∧
    (s.partInReset p = false → s.pcState p ≠ 4 → ∃ t : State, exec .pcmdSave s = .next t ∧ only t (reason 5)) ∧
    (s.inp.flag = false → s.partInReset p = true ∨ (s.pcState p ≠ 0 ∧ s.pcState p ≠ 2) → ∃ t : State, exec .pcmdRestore s = .next t ∧ only t (reason 5)) ∧
    (s.pcState p = 1 → s.quiesced p = true → b.saveBy = 0 ∨ s.timeOf p ≤ b.saveBy → ∃ t : State, exec .partitionSaveQuiesced s = .next t ∧ t.pcState p = 2 ∧
      (∀ x ∈ t.launches, x.2.part ≠ p) ∧ (∀ x ∈ t.tlb, x.part ≠ p) ∧ (∀ x ∈ t.mtlb, ∀ y ∈ x.2, y.part ≠ p) ∧ (∀ x ∈ t.wcache, x.part ≠ p) ∧ (t.part p).gen = (b.gen + 1) % 2 ^ 32 ∧
      ∀ e ∈ s.partUnits p, t.tile e = {} ∧ t.core e = {}) ∧
    (s.pcState p = 1 → b.saveBy ≠ 0 → (b.saveBy < s.timeOf p ∨ (b.saveBy = s.timeOf p ∧ s.quiesced p = false)) → ∃ t : State, exec .saveStopTimeout s = .next t ∧
      t.pcState p = 4 ∧ bits (t.part p).pcst 15 8 = 1 ∧ t.tiles = s.tiles ∧ t.mem = s.mem ∧
      ∀ e ∈ s.partUnits p, ∀ x ∈ (t.core e).crews, x.2.stopReq = false) ∧
    (s.pcState p = 1 → s.quiesced p = false ∨ (b.saveBy ≠ 0 ∧ b.saveBy < s.timeOf p) → exec .partitionSaveQuiesced s = .next s) ∧
    (s.inp.flag = false → s.partInReset p = false → s.pcState p = 0 ∨ s.pcState p = 2 →
      (s.physRead p (s.shadowBase p) 64 = .bad → ∃ t : State, exec .pcmdRestore s = .next t ∧ only t ((b.pcst &&& 0xFFFF00F8) ||| 0x400)) ∧
      (s.physRead p (s.shadowBase p) 64 = .gone → ∃ t : State, exec .pcmdRestore s = .next t ∧ only t (reason 2)) ∧
      (s.physRead p (s.shadowBase p) 64 = .stray → ∃ (t : State) (b' : Part), exec .pcmdRestore s = .next t ∧ t = s.stray.setPart p b' ∧
        b'.pcst = reason 2 ∧ b'.queues = b.queues) ∧
      (∀ hd : List Byte, s.physRead p (s.shadowBase p) 64 = .ok hd →
        (u32At hd 0 ≠ 0x53595801 → ∃ t : State, exec .pcmdRestore s = .next t ∧ only t (reason 2)) ∧
        (u32At hd 0 = 0x53595801 → zeroAt hd 0x10 0x40 = true → u8At hd 4 ≠ bits s.dmode 5 4 →
          ∃ t : State, exec .pcmdRestore s = .next t ∧ only t (reason 3)) ∧
        (u32At hd 0 = 0x53595801 → zeroAt hd 0x10 0x40 = true → u8At hd 4 = bits s.dmode 5 4 → u8At hd 5 = s.dies → u8At hd 6 = s.halfByte p →
          ∃ t : State, exec .pcmdRestore s = .next t ∧ only t ((b.pcst &&& 0xFFFFFFF8) ||| 3)))) ∧
    (s.inp.flag = true → let whole := s.physRead p (s.shadowBase p) (s.shadowSize p * 2 ^ 20)
      (s.pcState p ≠ 3 → exec .pcmdRestore s = .next s) ∧
      (s.pcState p = 3 → whole = .gone → exec .pcmdRestore s = .next s) ∧
      (s.pcState p = 3 → whole = .stray → exec .pcmdRestore s = .next s.stray) ∧
      (s.pcState p = 3 → whole = .bad → ∃ t : State, exec .pcmdRestore s = .next t ∧ only t ((b.pcst &&& 0xFFFF00F8) ||| 0x400)) ∧
      (∀ bs : List Byte, s.pcState p = 3 → whole = .ok bs → ∃ t : State, exec .pcmdRestore s = .next t ∧ t.pcState p = 4 ∧
        (t.part p).gen = u32At bs 0x0C))

/-- R82, R107, R314: an input kept under determinism takes effect at the epoch boundary of its partition and not before; without
determinism nothing waits; a granule marked at its home, in an L1 line or in a scratchpad (R108) stays so; the fill of a load-block takes the bytes of its lines from their homes under
those that stores have written since, and the marked lines fail. -/
def Obligations.EpochAndFillResults : Prop :=
  ∀ s : State,
    (s.determ = false → exec .epochBoundary s = .next s) ∧
    (s.determ = false → s.inp.b = 0 → ∃ t : State, exec .uncorrectableGranule s = .next t ∧ t = { s with bad := t.bad } ∧
      ∀ k n, t.marked k n = true ↔ s.marked k n = true ∨ (s.inp.a * 32 < k + n ∧ k < s.inp.a * 32 + 32)) ∧
    (∀ (c lk : Nat) (ln : L1Line), s.determ = false → s.inp.b = 1 → s.inp.c = c → lk = s.inp.a / 4 → SMap.wf {} s.cores = true →
      SMap.wf {} (s.core c).l1 = true → alGet (s.core c).l1 lk = some ln → ∃ (t : State) (ln' : L1Line),
        exec .uncorrectableGranule s = .next t ∧ t.core c = { s.core c with l1 := SMap.set {} (s.core c).l1 lk ln' } ∧
        ln' = { ln with bad := ln'.bad } ∧ (∀ g, g ∈ ln'.bad ↔ g ∈ ln.bad ∨ g = s.inp.a % 4) ∧ t = { s with cores := t.cores }) ∧
    (∀ e : Nat, s.determ = false → s.inp.b = 2 → s.inp.c = e → s.inp.a < 32768 → SMap.wf {} s.tiles = true → ∃ t : State,
      exec .uncorrectableGranule s = .next t ∧ t.tile e = { s.tile e with padBad := (t.tile e).padBad } ∧
      (∀ g, g ∈ (t.tile e).padBad ↔ g ∈ (s.tile e).padBad ∨ g = s.inp.a) ∧ t = { s with tiles := t.tiles }) ∧
    (s.determ = true → (∀ p < s.mode, (s.part p).pstep.toNat % 4096 ≠ 0) → exec .epochBoundary s = .next s) ∧
    (s.determ = true → exec .uncorrectableGranule s = .next (let p := if s.inp.b = 0 then s.keyPart (s.inp.a * 32) else s.unitPart s.inp.c
      s.setPart p { s.part p with inputs := (s.part p).inputs ++ [{ kind := 5, op := s.inp.b, arg := s.inp.c, addr := s.inp.a }] })) ∧
    (∀ x : ExtInput, s.determ = true → s.mode = 1 → SMap.wf {} s.parts = true → (s.part 0).pstep.toNat % 4096 = 0 → (s.part 0).inputs = [x] →
      bits (s.part 0).rctl 1 0 = 0 → exec .epochBoundary s = .next ((s.setPart 0 { s.part 0 with inputs := [] }).applyInput 0 x)) ∧
    (∀ (c b lk : Nat) (blk : LoadBlock), SMap.wf {} s.cores = true → SMap.wf {} (s.core c).l1 = true → s.inp.a = c → s.inp.b = b →
      alGet (s.core c).blocks b = some blk → blk.done = false → blk.lines = [lk] → lk * 128 < 2 ^ 60 → s.dieDown (keyDie (lk * 128)) = false →
      SMap.wf 0 ((s.core c).line lk).vals = true → ∃ (t : State) (blk' : LoadBlock), exec .loadBlockFill s = .next t ∧
        alGet (t.core c).blocks b = some blk' ∧ blk'.done = true ∧ blk'.lost = [] ∧ t.mem = s.mem ∧ t.tiles = s.tiles ∧
        (s.marked (lk * 128) 128 = true → blk'.bad = [lk]) ∧
        (s.marked (lk * 128) 128 = false → blk'.bad = [] ∧ ∀ i < 128, SMap.get 0 ((t.core c).line lk).vals i =
          if ((s.core c).line lk).valid.testBit i then SMap.get 0 ((s.core c).line lk).vals i else s.byte (lk * 128 + i)))

/-! ## The reset of one die -/

/-- R355 to R357: a GO with no reset under way and no partition left without a die begins to quiesce it and clears the counts;
others give REASON 2 or 1 and RERR; a quiet die closes its Cairn contexts and empties its caches; then it trains, and comes back
with empty engines, no open context and no translation, or stays out with REASON 3; a request homed on a die in reset is counted. -/
def Sys2Proof.Claims.DieResetResults : Prop :=
  ∀ (s : State) (d : Nat), d < 4 → Units s → let err := fun (t : State) (r : Nat) => bits t.drst 11 8 = r ∧ t.drst.getLsbD 3 = true ∧
      t = { s.heat .rerr 8 with drst := t.drst }
    (s.inp.a = d → s.inp.flag = false →
      (bits s.drst 7 4 ≠ 0 → ∃ t : State, exec .drstGo s = .next t ∧ err t 2 ∧ bits t.drst 1 0 = d ∧ bits t.drst 7 4 = bits s.drst 7 4) ∧
      (bits s.drst 7 4 = 0 → s.onlyDie d = true → ∃ t : State, exec .drstGo s = .next t ∧ err t 1 ∧ bits t.drst 7 4 = 0) ∧
      (bits s.drst 7 4 = 0 → s.onlyDie d = false → ∃ t : State, exec .drstGo s = .next t ∧ bits t.drst 7 4 = 1 ∧ bits t.drst 1 0 = d ∧
        t.drcnt = 0 ∧ t.rstDie = d ∧ t.dieBusy d = true ∧
        (∀ x ∈ t.stopped, ∀ e, x.2.resumeOn = some e → e / 48 ≠ d) ∧ t.mem = s.mem ∧ t.launches = s.launches ∧
        ∀ e, e / 48 = d → (∀ x ∈ (t.core e).crews, x.2.stopReq = true) ∧ ((s.tile e).run = .running → (t.tile e).stopReq = true))) ∧
    (s.rstDie = d → bits s.drst 7 4 = 1 → s.dieQuiet d = true → SMap.wf {} s.cairns = true → ∃ t : State,
      exec .dieQuiesceDone s = .next t ∧ bits t.drst 7 4 = 2 ∧ t.dieDown d = true ∧
      (∀ x ∈ t.tlb, x.die ≠ d) ∧ (∀ x ∈ t.mtlb, x.1 / 128 ≠ d) ∧
      (s.dirtyLines d < 2 ^ 31 → s.dirtyLines d ≤ t.drcnt.toNat / 2 ^ 32 ∧ t.drcnt.toNat / 2 ^ 32 ≤ s.dirtyLines d + 96 * 8192) ∧
      (∀ x ∈ t.l2, keyDie (x.1 * 128) ≠ d) ∧ (∀ k, k / 1024 = d → (t.cairn k).isOpen = false ∧
        (t.cairn k).gen = (s.cairn k).gen) ∧ ∀ e, e / 48 = d → (t.core e).l1 = [] ∧ (t.core e).blocks = [] ∧ (t.core e).crews = []) ∧
    (bits s.drst 7 4 = 1 → s.dieQuiet s.rstDie = false → exec .dieQuiesceDone s = .next s) ∧
    (bits s.drst 7 4 = 2 → ∃ m : W32, exec .dieResetDone s = .next { s with drst := m } ∧ bits m 7 4 = 3 ∧ sameBut m s.drst [4, 5, 6, 7]) ∧
    (bits s.drst 7 4 ≠ 2 → exec .dieResetDone s = .next s) ∧
    (s.rstDie = d → bits s.drst 7 4 = 3 → s.inp.flag = false → SMap.wf {} s.cairns = true → ∃ t : State, exec .dieRetrainDone s = .next t ∧ bits t.drst 7 4 = 0 ∧
      t.deadDies = s.deadDies ∧ t.mem = s.mem ∧ (∀ x ∈ t.tlb, x.die ≠ d) ∧ (∀ x ∈ t.mtlb, x.1 / 128 ≠ d) ∧
      (∀ k, t.cairn k = if k / 1024 = d then { gen := (s.cairn k).gen } else s.cairn k) ∧ (∀ e, e / 48 = d → t.tile e = {} ∧ t.core e = {}) ∧
      ∀ e, e / 48 ≠ d → t.tile e = s.tile e ∧ t.core e = s.core e) ∧
    (s.rstDie = d → bits s.drst 7 4 = 3 → s.inp.flag = true → s.hfstat.getLsbD 5 = false → ∃ t : State,
      exec .dieRetrainDone s = .next t ∧ bits t.drst 7 4 = 0 ∧ bits t.drst 11 8 = 3 ∧ t.drst.getLsbD 3 = true ∧ d ∈ t.deadDies ∧
      t.dieDown d = true ∧ t.hfstat = s.hfstat ||| 0x20 ∧ t.tiles = s.tiles ∧ t.mem = s.mem) ∧
    (s.inp.a = d → s.dieDown d = true → ∃ c : W64, exec .strayRequest s = .next { s with drcnt := c } ∧
      c.toNat % 2 ^ 32 = (s.drcnt.toNat + 1) % 2 ^ 32 ∧ c.toNat / 2 ^ 32 = s.drcnt.toNat / 2 ^ 32) ∧
    (s.inp.a = d → s.dieDown d = false → exec .strayRequest s = .next s)

/-! ## Services of the management cores, and the ports -/

namespace Sys2Proof.Claims

/-- The oldest request at hub h is slot i of function f, posted, with a code that the function may ask, of a device that is
not in recovery (R345, R353). -/
abbrev Asked (s : State) (h f i code : Nat) : Prop :=
  s.inp.a = h ∧ (s.mgmt h).svc.head? = some (256 * f + i) ∧ i < 32 ∧ f ≤ 8 ∧ leNat (s.mboxRead f (128 * i) 1) = code ∧
    leNat (s.mboxRead f (128 * i + 1) 1) = 1 ∧ bits s.bstat 2 0 ≠ 2 ∧ (5 ≤ code → f = 0) ∧
    SMap.wf {} s.mgmts = true ∧ SMap.wf {} s.fns = true ∧ SMap.wf 0 (s.fn f).mbox = true

/-- The request has ended in t: its STATUS and ERR are written, its results stand in the slot, the next request is the oldest,
and vector 0 of the function is raised (R344, R345). -/
abbrev Ended (s t : State) (h f i status err : Nat) (res : List Nat) : Prop :=
  leNat (t.mboxRead f (128 * i + 1) 1) = status ∧ leNat (t.mboxRead f (128 * i + 2) 2) = err ∧
    (∀ k < res.length, leNat (t.mboxRead f (128 * i + 0x40 + 8 * k) 8) = res.getD k 0) ∧
    (t.mgmt h).svc = (s.mgmt h).svc.tail ∧ (t.mgmt h).svcOn = false ∧ 0 ∈ (t.fn f).msix

/-- The request goes on: its slot stays posted (R345). -/
abbrev GoesOn (s t : State) (h f : Nat) : Prop := (t.mgmt h).svcOn = true ∧ (t.mgmt h).svc = (s.mgmt h).svc ∧ t.fn f = s.fn f

/-- The argument words of the slot. -/
def argOf (s : State) (f i k : Nat) : Nat := leNat (s.mboxRead f (128 * i + 8 + 8 * k) 8)

end Sys2Proof.Claims

/-- R345, R353: a posted request of a partition's function takes the code and STATUS 1, joins its hub's requests and sends an event;
a busy slot and a function of no partition take nothing; a request of the PF alone from a VF ends with ERR 1, one of no known
code with ERR 2, and one that recovery does not take with ERR 4. -/
def Sys2Proof.Claims.MailboxResults : Prop :=
  ∀ (s : State) (h f i c : Nat), SMap.wf {} s.mgmts = true → SMap.wf {} s.fns = true → SMap.wf 0 (s.fn f).mbox = true → i < 32 → f ≤ 8 →
    (∀ p : Nat, s.inp.a = f → s.inp.b = i → s.inp.c = c → c < 256 → s.fnPart f = some p → let hub := s.shub p
      let st := leNat (s.mboxRead f (128 * i + 1) 1)
      (st = 0 ∨ st = 2 ∨ st = 3 → ∃ t : State, exec .mailboxPost s = .next t ∧ leNat (t.mboxRead f (128 * i) 1) = c ∧
        leNat (t.mboxRead f (128 * i + 1) 1) = 1 ∧ (t.mgmt hub).svc = (s.mgmt hub).svc ++ [256 * f + i] ∧
        (t.mgmt hub).events = (s.mgmt hub).events ++ [BitVec.ofNat 64 (4 * 2 ^ 56 + (256 * f + i))] ∧ t.mem = s.mem) ∧
      (st = 1 → exec .mailboxPost s = .next s)) ∧
    (s.inp.a = f → s.fnPart f = none → exec .mailboxPost s = .next s) ∧
    (s.inp.a = h → (s.mgmt h).svc.head? = some (256 * f + i) → leNat (s.mboxRead f (128 * i) 1) = c → leNat (s.mboxRead f (128 * i + 1) 1) = 1 →
      ∀ svc ∈ ([.instantiateGraph, .destroyGraph, .setAperture, .hostCopy, .saveRequest, .restoreRequest, .dieWarmResetRequest,
        .setRankCeiling, .powerClassRequest, .bootConfiguration] : List Instr),
      (bits s.bstat 2 0 ≠ 2 → 5 ≤ c → c ≤ 11 → f ≠ 0 → ∃ t : State, exec svc s = .next t ∧ Ended s t h f i 3 1 []) ∧
      (bits s.bstat 2 0 ≠ 2 → c = 0 ∨ 11 < c → ∃ t : State, exec svc s = .next t ∧ Ended s t h f i 3 2 []) ∧
      (bits s.bstat 2 0 = 2 → c ≠ 10 → c ≠ 11 → ∃ t : State, exec svc s = .next t ∧ Ended s t h f i 3 4 []))

/-- R288, R289, R344: the requests of any function: a good graph image becomes an executable with a handle of its own, a graph
that no run uses goes, and an aperture takes an aligned base; what is malformed ends with ERR 3 or 4 and changes nothing else. -/
def Sys2Proof.Claims.FunctionServiceResults : Prop :=
  ∀ (s : State) (h f i p : Nat), s.fnPart f = some p → SMap.wf {} s.parts = true → let arg := argOf s f i
    (Asked s h f i 1 → let b := s.part p
      (arg 0 % 64 ≠ 0 → ∃ t : State, exec .instantiateGraph s = .next t ∧ Ended s t h f i 3 3 [] ∧ t.parts = s.parts) ∧
      (∀ bs : List Byte, arg 0 % 64 = 0 → bs.length = 64 + 512 * (u16At bs 4 % 1024 + 1) + 4 * (u16At bs 6 % 4097) →
        Holds s (.mgmt (s.shub p)) p (arg 0) (bs.take 64) (hostSg f) → Holds s (.mgmt (s.shub p)) p (arg 0) bs (hostSg f) →
        (imageGraph bs = none ∨ 4096 ≤ b.graphs.length → ∃ t : State, exec .instantiateGraph s = .next t ∧ Ended s t h f i 3 4 [] ∧
          t.parts = s.parts) ∧
        (∀ (re : Bool) (ds : List (List Byte)) (ps : List (List Nat)), imageGraph bs = some (re, ds, ps) → b.graphs.length < 4096 →
          ∃ (t : State) (g : Nat), exec .instantiateGraph s = .next t ∧ Ended s t h f i 2 0 [g] ∧ g < 2 ^ 32 ∧ g ≠ 0 ∧
          (∀ x ∈ b.graphs, x.handle ≠ g) ∧ (t.part p).graphs = b.graphs ++ [{ handle := g, part := p, reent := re, descs := ds, preds := ps }]))) ∧
    (Asked s h f i 2 → let b := s.part p
      (∀ x ∈ b.graphs, x.handle = arg 0 →
        ((∀ r ∈ b.runs, r.2.graph ≠ arg 0) → ∃ t : State, exec .destroyGraph s = .next t ∧ Ended s t h f i 2 0 [] ∧
          (t.part p).graphs = b.graphs.filter (fun g => g.handle != arg 0)) ∧
        ((∃ r ∈ b.runs, r.2.graph = arg 0) → ∃ t : State, exec .destroyGraph s = .next t ∧ Ended s t h f i 3 4 [] ∧ t.parts = s.parts)) ∧
      ((∀ x ∈ b.graphs, x.handle ≠ arg 0) → ∃ t : State, exec .destroyGraph s = .next t ∧ Ended s t h f i 3 3 [] ∧ t.parts = s.parts)) ∧
    (Asked s h f i 3 →
      (arg 0 % 2 ^ 36 = 0 → ∃ t : State, exec .setAperture s = .next t ∧ Ended s t h f i 2 0 [] ∧ (t.fn f).abase.toNat = arg 0) ∧
      (arg 0 % 2 ^ 36 ≠ 0 → ∃ t : State, exec .setAperture s = .next t ∧ Ended s t h f i 3 3 [] ∧ (t.fn f).abase = (s.fn f).abase))

/-- R314, R346: a host copy moves its bytes in order from where it stands; it ends when they have all moved, and with ERR 3 after a
length or direction out of range, a PCIe error or a translation fault that the management core cannot resolve, what has moved staying
written; a fault that it can resolve leaves the request posted; under determinism the bytes for the device wait for the epoch boundary. -/
def Sys2Proof.Claims.HostCopyResults : Prop :=
  ∀ (s : State) (h f i p : Nat), s.fnPart f = some p → SMap.wf {} s.parts = true → Asked s h f i 4 → let va := argOf s f i 1
    let n := argOf s f i 2
    let dir := argOf s f i 3
    let pos := (s.mgmt h).svcPos
    let bs := s.inp.data.take (n - pos)
    (2 ^ 40 < n ∨ 1 < dir → ∃ t : State, exec .hostCopy s = .next t ∧ Ended s t h f i 3 3 [] ∧ t.mem = s.mem) ∧
    (∀ u : State, n ≤ 2 ^ 40 → dir = 0 → s.determ = false → u.fns = s.fns → (u.mgmt h).svc = (s.mgmt h).svc → SMap.wf {} u.mgmts = true →
      (s.copyIn h p (piecesOf (va + pos) bs.length) bs = (u, .done) → ∃ t : State, exec .hostCopy s = .next t ∧ t.mem = u.mem ∧
        (n - pos ≤ s.inp.data.length → Ended s t h f i 2 0 []) ∧ (s.inp.data.length < n - pos → Ended s t h f i 3 3 [])) ∧
      (s.copyIn h p (piecesOf (va + pos) bs.length) bs = (u, .failed) → ∃ t : State, exec .hostCopy s = .next t ∧ t.mem = u.mem ∧
        Ended s t h f i 3 3 []) ∧
      (s.copyIn h p (piecesOf (va + pos) bs.length) bs = (u, .later) → n - pos ≤ s.inp.data.length → ∃ t : State,
        exec .hostCopy s = .next t ∧ t.mem = u.mem ∧ (t.mgmt h).svcOn = true ∧ (t.mgmt h).svc = (s.mgmt h).svc ∧ t.fns = s.fns)) ∧
    (∀ (a k : Nat) (rest : List (Nat × Nat)) (d : List Byte),
      (∀ u : State, s.writeVa (.mgmt h) p a (d.take k) = .ok u → s.copyIn h p ((a, k) :: rest) d =
        (u.setMgmt h { u.mgmt h with svcPos := (u.mgmt h).svcPos + k }).copyIn h p rest (d.drop k)) ∧
      (∀ why x : Nat, why ≠ strayWalk → s.writeVa (.mgmt h) p a (d.take k) = .error (.fault why, x) →
        s.copyIn h p ((a, k) :: rest) d = (s, if s.inp.flag then .failed else .later))) ∧
    (dir = 1 → pos = 0 → 0 < n → n ≤ 128 - va % 128 → ∀ b : List Byte, b.length = n → Holds { s with rdata := [] } (.mgmt h) p va b (hostSg f) →
      ∃ t : State, exec .hostCopy s = .next t ∧ Ended s t h f i 2 0 [] ∧ t.rdata = b ∧ t.mem = s.mem) ∧
    (∀ ls : List (Loc × Nat), dir = 0 → s.determ = true → pos = 0 → n ≤ 2 ^ 40 → n = s.inp.data.length → s.locs p true (piecesOf va n) = .ok ls →
      ∃ t : State, exec .hostCopy s = .next t ∧ GoesOn s t h f ∧ t.mem = s.mem ∧ (t.part p).inputs = (s.part p).inputs ++
        [{ kind := 2, op := 1, arg := h, addr := va, val := BitVec.ofNat 64 n, data := s.inp.data }])

/-- R345, R349, R350, R352: the requests of the PF: a save and a die reset begin and stay posted, a rank ceiling and a power class
take their values, a boot block is stored for the next start, a warm start ends the request and starts the device; what
is out of range ends with ERR 3, a die reset that is refused or whose links did not retrain with ERR 4. Seven SPDM requests are
answered, the measurements in blocks that carry the values of R349, and the alias key follows from measurements 1 to 3; their codes
are the model's choice, log entry 78, and so are the step in which a request is served (log entries 6 and 61) and, in the start that a
warm start request makes, the zero registers of a management core (7), that no Cairn context is open (28) and the mailboxes at zero
(51). -/
def Obligations.DeviceServiceResults : Prop :=
  ∀ (s : State) (h i : Nat), SMap.wf {} s.parts = true → let arg := argOf s 0 i
    (Asked s h 0 i 5 → s.isPart (arg 0) = true → let p := arg 0
      ((s.mgmt h).svcOn = false → s.pcState p = 4 → s.partInReset p = false → ∃ t : State, exec .saveRequest s = .next t ∧
        GoesOn s t h 0 ∧ t.pcState p = 1) ∧
      ((s.mgmt h).svcOn = true → s.pcState p = 2 → ∃ t : State, exec .saveRequest s = .next t ∧ Ended s t h 0 i 2 0 [] ∧ t.parts = s.parts)) ∧
    (Asked s h 0 i 6 → s.isPart (arg 0) = true → let p := arg 0
      (∀ hd : List Byte, (s.mgmt h).svcOn = false → s.pcState p = 0 ∨ s.pcState p = 2 → s.partInReset p = false →
        s.physRead p (s.shadowBase p) 64 = .ok hd →
        (u32At hd 0 ≠ 0x53595801 → ∃ t : State, exec .restoreRequest s = .next t ∧ Ended s t h 0 i 3 4 [] ∧ bits (t.part p).pcst 15 8 = 2) ∧
        (u32At hd 0 = 0x53595801 → zeroAt hd 0x10 0x40 = true → u8At hd 4 = bits s.dmode 5 4 → u8At hd 5 = s.dies → u8At hd 6 = s.halfByte p →
          ∃ t : State, exec .restoreRequest s = .next t ∧ GoesOn s t h 0 ∧ t.pcState p = 3)) ∧
      ((s.mgmt h).svcOn = true →
        (s.pcState p = 3 → ∃ t : State, exec .restoreRequest s = .next t ∧ GoesOn s t h 0 ∧ t.parts = s.parts) ∧
        (s.pcState p = 4 → ∃ t : State, exec .restoreRequest s = .next t ∧ Ended s t h 0 i 2 0 [] ∧ t.parts = s.parts) ∧
        (s.pcState p ≠ 3 → s.pcState p ≠ 4 → ∃ t : State, exec .restoreRequest s = .next t ∧ Ended s t h 0 i 3 4 [] ∧ t.parts = s.parts))) ∧
    (Asked s h 0 i 7 → let d := arg 0
      (4 ≤ d → ∃ t : State, exec .dieWarmResetRequest s = .next t ∧ Ended s t h 0 i 3 3 [] ∧ t.drst = s.drst) ∧
      (d < 4 → (s.mgmt h).svcOn = false →
        (bits s.drst 7 4 = 0 → s.onlyDie d = false → ∃ t : State, exec .dieWarmResetRequest s = .next t ∧ GoesOn s t h 0 ∧
          bits t.drst 7 4 = 1 ∧ t.rstDie = d) ∧
        (bits s.drst 7 4 ≠ 0 ∨ s.onlyDie d = true → ∃ t : State, exec .dieWarmResetRequest s = .next t ∧ Ended s t h 0 i 3 4 [] ∧
          bits t.drst 7 4 = bits s.drst 7 4)) ∧
      (d < 4 → (s.mgmt h).svcOn = true →
        (bits s.drst 7 4 ≠ 0 → ∃ t : State, exec .dieWarmResetRequest s = .next t ∧ GoesOn s t h 0 ∧ t.drst = s.drst) ∧
        (bits s.drst 7 4 = 0 → d ∉ s.deadDies → ∃ t : State, exec .dieWarmResetRequest s = .next t ∧ Ended s t h 0 i 2 0 []) ∧
        (bits s.drst 7 4 = 0 → d ∈ s.deadDies → ∃ t : State, exec .dieWarmResetRequest s = .next t ∧ Ended s t h 0 i 3 4 []))) ∧
    (Asked s h 0 i 8 → let q := arg 1
      (s.isPart (arg 0) = true → q < 256 → arg 2 < 8 → SMap.wf {} (s.part (arg 0)).queues = true → ∃ (t : State) (m : W32),
        exec .setRankCeiling s = .next t ∧ Ended s t h 0 i 2 0 [] ∧ t.hwq (arg 0) q = { s.hwq (arg 0) q with ctl := m } ∧ bits m 2 0 = arg 2 ∧
        sameBut m (s.hwq (arg 0) q).ctl [0, 1, 2]) ∧
      (s.isPart (arg 0) = false ∨ 256 ≤ q ∨ 8 ≤ arg 2 → ∃ t : State, exec .setRankCeiling s = .next t ∧ Ended s t h 0 i 3 3 [] ∧
        t.parts = s.parts)) ∧
    (Asked s h 0 i 9 →
      (arg 0 < 3 → s.classPending = false → s.fabricPending = false → ∃ t : State, exec .powerClassRequest s = .next t ∧
        Ended s t h 0 i 2 0 [] ∧ bits t.dmode 9 8 = arg 0) ∧
      (2 < arg 0 → ∃ t : State, exec .powerClassRequest s = .next t ∧ Ended s t h 0 i 3 3 [] ∧ t.dmode = s.dmode)) ∧
    (Asked s h 0 i 10 → ∀ (p : Nat) (bs : List Byte), s.fnPart 0 = some p → bs.length = 4096 →
      Holds s (.mgmt (s.shub p)) p (arg 0) bs (hostSg 0) → ∃ t : State, exec .bootConfiguration s = .next t ∧ Ended s t h 0 i 2 0 [] ∧
      t.flashBlock = bs ∧ t.dmode = s.dmode ∧ t.parts = s.parts) ∧
    (Asked s h 0 i 11 → leNat (s.mboxRead 0 (128 * i) 2) = 0x10B → Verified s → s.inp.nums = [] → s.inp.v = 0 → ConfigOk s.flash →
      s.owner = s.flash.owner → bits s.dmode 5 4 = s.flash.part → ∃ t : State, exec .warmStartRequest s = .next t ∧ Fresh t ∧ Measured s t ∧
      Booted t s.images.firmware.bytes.length ∧ t.mem = s.mem ∧ t.bstat.toNat = 1 + 16) ∧
    (∀ code ∈ [0x84, 0xE1, 0xE3, 0x81, 0x82, 0x83, 0xE0], u8At s.inp.data 1 = code → ∃ body : List Byte,
      exec .spdmRequest s = .next { s with doe := Config.spdmHead s.inp.data ++ body ++ Config.spdmTail s.inp.data } ∧
      (code = 0xE0 → s.measures.length = 5 → (∀ m ∈ s.measures, m.length = 64) → ∀ k < 5,
        (body.drop (71 * k)).take 1 = leBytes 1 (k + 1) ∧ (body.drop (71 * k + 7)).take 64 = s.measures.getD k [])) ∧
    (u8At s.inp.data 1 ∉ [0x84, 0xE1, 0xE3, 0x81, 0x82, 0x83, 0xE0] → exec .spdmRequest s = .next { s with doe := Config.spdmHead s.inp.data }) ∧
    s.aliasKey = Config.aliasKey s.fuses.secret (s.measures.take 3).flatten

/-! ## Ports: apertures, inbound packets, links -/

namespace Sys2Proof.Claims

/-- A packet has gone out to device d: nothing else has changed. -/
def sent (s : State) (d : Nat) (bs : List Byte) : State := { s with outFabric := s.outFabric ++ [(d, bs)] }

/-- An input of partition p waits for the next epoch boundary (R314). -/
def awaits (s : State) (p : Nat) (x : ExtInput) : State :=
  s.setPart p { s.part p with inputs := (s.part p).inputs ++ [x] }

end Sys2Proof.Claims

/-- R314, R342, R344, R353: a host read of the aperture of function f at offset o reaches ABASE + o in its partition; one of a function
of no partition, or that cannot be translated, answers all ones; one of BAR0 answers the registers of the PF's window or of the VF's own
areas, and all ones for a function of no partition and for a VF in recovery; a write there reaches the same bytes, one that cannot be translated
sets HWIGN and changes no byte; under determinism a write waits for the boundary. -/
def Sys2Proof.Claims.ApertureResults : Prop :=
  ∀ (s : State) (f : Nat), s.inp.a = f → let va := ((s.fn f).abase.toNat + s.inp.v.toNat % 2 ^ 36) % 2 ^ 64
    let bs := s.inp.data
    (s.fnPart f = none → exec .apertureWrite s = .next s) ∧
    (s.inp.c ≠ 1 → s.inp.flag = false → s.fnPart f = none → exec .apertureRead s = .next { s with rdata := List.replicate s.inp.b 255 }) ∧
    (s.inp.c ≠ 1 → s.inp.flag = true → let o := s.inp.v.toNat
      (s.fnPart f = none → f ≠ 0 → exec .apertureRead s = .next { s with rdata := List.replicate s.inp.b 255 }) ∧
      (∀ p : Nat, s.fnPart f = some p →
        (bits s.bstat 2 0 = 2 → f ≠ 0 → exec .apertureRead s = .next { s with rdata := List.replicate s.inp.b 255 }) ∧
        (bits s.bstat 2 0 ≠ 2 → exec .apertureRead s = .next { s with rdata := leBytes s.inp.b (s.regRead
          (if f = 0 then o else if o < 0x4000 then 0x100000 * (p + 1) + o else if o < 0x5000 then 0x1000 * (f + 1) + (o - 0x4000)
            else 2 ^ 40) s.inp.b) }))) ∧
    (∀ p : Nat, s.fnPart f = some p → let who := Issuer.mgmt (s.shub p)
      (∀ r : List Byte, s.inp.c ≠ 1 → s.inp.flag = false → r.length = s.inp.b → Holds s who p va r (hostSg f) → ∃ t : State,
        exec .apertureRead s = .next t ∧ t.rdata = r ∧ t.mem = s.mem) ∧
      (∀ why x : Nat, s.inp.c ≠ 1 → s.inp.flag = false → s.readVa who p va s.inp.b (hostSg f) = (s, .error (.fault why, x)) → ∃ t : State,
        exec .apertureRead s = .next t ∧ t.rdata = List.replicate s.inp.b 255 ∧ t.mem = s.mem) ∧
      (∀ u : State, s.determ = false → s.writeOwn 601 p va bs = .ok u → exec .apertureWrite s = .next u) ∧
      (∀ why x : Nat, s.determ = false → s.writeOwn 601 p va bs = .error (.fault why, x) → ∃ t : State, exec .apertureWrite s = .next t ∧
        t.hfstat.getLsbD 3 = true ∧ t.mem = s.mem) ∧
      (s.determ = true → ∃ x : ExtInput, exec .apertureWrite s = .next (awaits s p x) ∧ x.kind = 2 ∧ x.addr = va ∧ x.data = bs))

/-- R314, R348: an inbound access of another device reaches the bytes of FABCTL's partition when FABEN admits it: a read and an
atomic answer the bytes, a write and an atomic store theirs, and every one is answered; one that is not admitted, or whose address
has no home, has an error reply and changes no byte, and one homed on a die in reset counts too (R357); under determinism it waits for
the boundary. -/
def Sys2Proof.Claims.InboundResults : Prop :=
  ∀ (s : State) (kind src n : Nat), s.inp.a = kind → kind < 4 → s.inp.b < 16 → s.inp.c = src → s.inp.nums = [n] → n < 2 ^ 64 →
    let a := s.inp.v.toNat % 2 ^ 48
    let p := s.fabctl.toNat % 16
    let refused := exec .fabricInboundAccess s = .next (sent s src [1])
    (s.determ = true → ∃ x : ExtInput, exec .fabricInboundAccess s = .next (awaits s p x) ∧ x.kind = 3 ∧ x.data = s.inp.data) ∧
    (s.determ = false →
      (s.fabctl.getLsbD 4 = false → refused) ∧ (s.isPart p = false → refused) ∧ (s.inp.v.toNat / 2 ^ 48 % 8 ≠ 0 → refused) ∧
      (s.inboundLocs p (piecesOf a n) = none → refused) ∧
      (∀ ks : List (Nat × Nat), s.fabctl.getLsbD 4 = true → s.isPart p = true → s.inp.v.toNat / 2 ^ 48 % 8 = 0 →
        s.inboundLocs p (piecesOf a n) = some ks → ((∃ k ∈ ks, s.dieDown (keyDie k.1) = true) →
          exec .fabricInboundAccess s = .next (sent s.stray src [1])) ∧
        ((∀ k ∈ ks, s.dieDown (keyDie k.1) = false) →
        let old := ks.flatMap (fun k => s.readBytes k.1 k.2)
        let put := fun (bs : List Byte) => s.writeLocs (deviceIss 601 p) 10000 (kind == 3) 0 (ks.map (fun k => (Loc.hbm k.1, k.2))) bs
        (kind = 1 ∨ kind = 3 → exec .fabricInboundAccess s = .next (sent (put (s.inp.data.take n)) src [0])) ∧
        (kind = 0 ∨ kind = 2 → (∃ k ∈ ks, s.marked k.1 k.2 = true) → refused) ∧
        (kind = 0 → (∀ k ∈ ks, s.marked k.1 k.2 = false) → exec .fabricInboundAccess s = .next (sent s src (0 :: old))) ∧
        (kind = 2 → (∀ k ∈ ks, s.marked k.1 k.2 = false) → ∀ x ∈ atomicCodes, s.inp.b = x.1 →
          let b := leNat (s.inp.data.take n)
          exec .fabricInboundAccess s = .next (match x.2 n (leNat old) b (leNat ((s.inp.data.drop n).take n)) with
            | some v => sent (put (leBytes n v)) src (0 :: old)
            | none => sent s src (0 :: old))))))

/-- R103, R104, R347: a flush marker that completes its count sends one acknowledgement, and one before it is counted; an
acknowledgement and a reply settle what waits for them, and the last acknowledgement of an automatic release sends it (R93); a
posted write that came back with an error is kept for the release that covers it (R348); SLCNT counts the stop records whose writes
have all been answered (R295); a failed port leaves every mask, sets LINKF
and ends the releases whose markers it carries, and no other. The forms of the
packets are the model's choice (log entry 52). -/
def Obligations.LinkResults : Prop :=
  ∀ s : State, s.determ = false →
    (∀ d q m : Nat, s.inp.a = d → s.inp.b = q → s.inp.c = m → m < 2 ^ 64 →
      (s.flushIn = [] → m ≤ 1 → exec .flushMarkerArrival s = .next (sent s d (leBytes 8 q))) ∧
      (s.flushIn = [] → 1 < m → exec .flushMarkerArrival s = .next { s with flushIn := [{ seq := q, dev := d, need := m, got := 1 }] }) ∧
      (∀ x : Flush, s.flushIn = [x] → x.dev = d → x.seq = q →
        exec .flushMarkerArrival s = .next (if x.need ≤ x.got + 1 then sent { s with flushIn := [] } d (leBytes 8 q)
          else { s with flushIn := [{ x with got := x.got + 1 }] }))) ∧
    (s.autoRels = [] → ∃ t : State, exec .flushAckArrival s = .next t ∧ t = { s with flushOut := t.flushOut, inFlight := s.inFlight.filter (· != s.inp.a) } ∧
      t.flushOut.length = s.flushOut.length ∧ ∀ (i : Nat) (x y : Flush), s.flushOut[i]? = some x → t.flushOut[i]? = some y →
        y = { x with acked := x.acked || x.seq == s.inp.a }) ∧
    (∀ (r : AutoRel) (f : Flush), s.autoRels = [r] → s.flushOut = [f] → f.sg = r.tag → f.seq = s.inp.a → f.failed = false →
      exec .flushAckArrival s = .next (sent { s with
        autoRels := [], flushOut := [], inFlight := s.inFlight.filter (· != s.inp.a) ++ [s.seq], seq := s.seq + 1 } r.dev (leBytes 8 r.pa ++ [14]))) ∧
    (SMap.wf {} s.parts = true → ∃ t : State, exec .fabricReplyArrival s = .next t ∧ t = { s with
        remoteOps := t.remoteOps, traces := t.traces, parts := t.parts, inFlight := s.inFlight.filter (· != s.inp.a) } ∧
      (∀ p : Nat, t.part p = { s.part p with
        slcnt := if p < 8 ∧ t.ownOut 600 p = false then (s.part p).slSent else (s.part p).slcnt }) ∧
      ∀ x ∈ s.remoteOps, (x.id ≠ s.inp.a → x ∈ t.remoteOps) ∧
        (x.id = s.inp.a → x.posted = false → x.answered = true → x ∈ t.remoteOps) ∧
        (x.id = s.inp.a → x.posted = false → x.answered = false → { x with
          answered := true, ok := !s.inp.flag && s.inp.data.length == x.len, data := s.inp.data } ∈ t.remoteOps) ∧
        (x.id = s.inp.a → x.posted = true → s.inp.flag = false → ∀ y ∈ t.remoteOps, y.id = s.inp.a → y.posted = false) ∧
        (x.id = s.inp.a → x.posted = true → s.inp.flag = true → isDevice x.who = false → x.answered = false → { x with
          answered := true, ok := false, data := s.inp.data } ∈ t.remoteOps)) ∧
    (∀ n : Nat, s.inp.a = n → s.autoRels = [] →
      (18 ≤ n → exec .alaicPortFailure s = .next s) ∧
      (n < 18 → SMap.wf 0 s.rtab = true → ∃ t : State, exec .alaicPortFailure s = .next t ∧ n ∈ t.portsDown ∧ t.hfstat.getLsbD 4 = true ∧
        (∀ d i : Nat, i < 32 → (SMap.get 0 t.rtab d : W32).getLsbD i = ((SMap.get 0 s.rtab d : W32).getLsbD i && i != n)) ∧
        (∀ x ∈ s.flushOut, (x.acked = false → x.ports.testBit n = true → { x with failed := true } ∈ t.flushOut) ∧
          (x.acked = true ∨ x.ports.testBit n = false → x ∈ t.flushOut)) ∧
        t.mem = s.mem))

/-! ## What an instruction leaves as it was -/

namespace Sys2Proof.Claims

/-- Every byte of device memory reads as before. -/
def SameMemory (s t : State) : Prop := ∀ k, t.byte k = s.byte k

/-- The device's maps of cores, management cores and tile engines are in canonical form, as every write keeps them. -/
abbrev UnitsWf (s : State) : Prop := SMap.wf {} s.cores = true ∧ SMap.wf {} s.mgmts = true ∧ SMap.wf {} s.tiles = true

/-- Only the thread of c has changed, and of it only the registers in ds, the PC and the spin mark. -/
def OnlyRegisters (s t : State) (c : Ctx) (ds : List B5) : Prop :=
  (∃ c' : Ctx, t.ctx = some c' ∧ (∀ n : B5, n ∉ ds → c'.x n = c.x n) ∧ c'.x 0 = 0 ∧
    c'.th = { c.th with x := c'.th.x, pc := c'.th.pc, spin := c'.th.spin } ∧ c'.crew = c.crew ∧ c'.desc = c.desc ∧
    c'.gang = { c.gang with subs := c'.gang.subs }) ∧
  (∀ r : SgRef, c.isMgmt = false → r ≠ c.ref → (t.subGang r).map Ctx.th = (s.subGang r).map Ctx.th) ∧
  (c.isMgmt = true → t.cores = s.cores ∧ ∀ h : Nat, h ≠ c.hub → t.mgmt h = s.mgmt h) ∧
  (c.isMgmt = false → t.mgmts = s.mgmts) ∧ t = { s with cores := t.cores, mgmts := t.mgmts } ∧ SameMemory s t

/-- The scalar instructions that write one register and nothing else, with that register. -/
def writesOne (i : Instr) (d : B5) : Prop :=
  (∃ p ∈ erTable, ∃ f : ER, i = p.1 f ∧ d = f.d) ∨ (∃ p ∈ eiTable, ∃ f : EI, i = p.1 f ∧ d = f.d) ∨ (∃ im : BitVec 20, i = .lui d im)

/-- A byte of device memory as an edge core sees it: the dirty byte of its L1, else the byte at its home (R81, R85). -/
def viewByte (s : State) (core a : Nat) : Byte :=
  let ln := (s.core core).line (a / 128)
  if bitAt ln.dirty (a % 128) then SMap.get 0 ln.vals (a % 128) else s.byte a

/-- A byte of the scratchpad of engine e. -/
def padAt (s : State) (e a : Nat) : Byte := (s.tile e).padByte a

end Sys2Proof.Claims

/-- R107, R189: bytes written at their home read back as written, every other byte reads as before, and exactly the marks of the
granules that the write covers whole are gone. -/
def Obligations.MemoryReadsWhatWasWritten : Prop :=
  ∀ (s : State) (k : Nat) (bs : List Byte), s.memOk = true → let t := s.writeBytes k bs
    (∀ a, t.byte a = if k ≤ a ∧ a < k + bs.length then bs.getD (a - k) 0 else s.byte a) ∧ t.readBytes k bs.length = bs ∧
    (∀ g, g ∈ t.bad ↔ g ∈ s.bad ∧ ¬ (k ≤ 32 * g ∧ 32 * g + 32 ≤ k + bs.length))

/-- R167, R188, R190: a scalar operation or a branch changes nothing but its destination, the PC and the thread's spin mark: every
other register of the thread, every other thread, every register of the device and every byte of memory stay. A taken branch of an
edge core then gives the rule for spinning crews its turn (R52). -/
def Obligations.ScalarFrame : Prop :=
  ∀ (s t : State) (c : Ctx) (i : Instr), Ready s c → UnitsWf s → SMap.wf 0 c.th.x = true → exec i s = .next t →
    (∀ d : B5, writesOne i d → OnlyRegisters s t c [d]) ∧
    (∀ (p : (EB → Instr) × (W64 → W64 → Prop)) (f : EB), p ∈ branchTable → i = p.1 f →
      (¬ p.2 (c.x f.a) (c.x f.b) → OnlyRegisters s t c []) ∧
      (p.2 (c.x f.a) (c.x f.b) → Untraced s c → ∀ pc : Nat, (pc : Int) = jumpPc c f.i.toInt → GoodTarget s c pc → s.codeLen c ≤ 2 ^ 32 →
        ∃ u : State, OnlyRegisters s u c [] ∧ t = if c.isMgmt then u else u.spinSwap c.ref.core))

/-- R81, R85, R167, R189: a store of z bytes to core memory changes those bytes of the crew's core memory alone; a weak store to device
memory changes, as its core sees memory, exactly the z bytes at the place that its address translates to, whatever lines leave
the core's L1 meanwhile. -/
def Obligations.ScalarStoreFrame : Prop :=
  ∀ p ∈ stores, ∀ (f : EM) (s : State) (c : Ctx), May s c .commit (emPlace f) → c.isMgmt = false → UnitsWf s →
    emPlaceOf c f p.2 % p.2 = 0 → let a := emPlaceOf c f p.2
    let bs := lowBytes p.2 (c.x f.d)
    (f.c = 1 → a + p.2 ≤ 1024 * c.crew.cmemKiB → SMap.wf 0 c.crew.cmem = true → ∃ (t : State) (c' : Ctx), exec (p.1 f) s = .next t ∧
      t.ctx = some c' ∧ (∀ n : B5, c'.x n = c.x n) ∧ SameMemory s t ∧
      ∀ b, SMap.get 0 c'.crew.cmem b = if a ≤ b ∧ b < a + p.2 then bs.getD (b - a) 0 else SMap.get 0 c.crew.cmem b) ∧
    (∀ k : Nat, f.c = 0 → f.s = 0 → c.th.laneFirst true = false → s.memOk = true → SMap.wf {} (s.core c.ref.core).l1 = true → (∀ d, s.dieDown d = false) →
      s.translateL1 c.part a true = .ok (.hbm k) → k % 128 + p.2 ≤ 128 → k + p.2 ≤ 2 ^ 60 → ∃ (t : State) (c' : Ctx), exec (p.1 f) s = .next t ∧
      t.ctx = some c' ∧ (∀ n : B5, c'.x n = c.x n) ∧
      ∀ b < 2 ^ 60, viewByte t c.ref.core b = if k ≤ b ∧ b < k + p.2 then bs.getD (b - k) 0 else viewByte s c.ref.core b)

/-- R139, R140, R157, R160, R200: the frames of the tile and lane results. The words in which they are stated (a lane instruction
has retired, a tile operation has issued) leave every byte of memory, every other sub-gang and every other engine as they were; a
store to the scratchpad changes exactly the bytes it stores to. -/
def Obligations.LaneAndTileFrames : Prop :=
  (∀ (s : State) (c : Ctx) (e : LaneEntry) (fl : FFlags) (w lp h : SMap W32), s.laneCtx = some c → UnitsWf s →
    let t := laneAfter s c e fl (fun g => { g with w := w, lp := lp, h := h })
    t = { s with cores := t.cores, hot := t.hot } ∧ SameMemory s t ∧
    (∀ r : SgRef, r ≠ c.ref → (t.subGang r).map Ctx.th = (s.subGang r).map Ctx.th) ∧
    (∀ r : SgRef, r.core ≠ c.ref.core ∨ r.slot ≠ c.ref.slot → (t.subGang r).map Ctx.gang = (s.subGang r).map Ctx.gang) ∧
    ∃ c' : Ctx, t.laneCtx = some c' ∧ c'.th = { c.th with lq := c.th.lq.drop 1, fmt := c'.th.fmt, spin := c'.th.spin } ∧
      c'.gang = { c.gang with subs := c'.gang.subs, w := w, lp := lp, h := h } ∧ c'.crew = { c.crew with q := c'.crew.q }) ∧
  (∀ (s : State) (e : Nat) (x : Tile), UnitsWf s → let t := tileAfter s e x
    t = { s with tiles := t.tiles, seq := s.seq + 1 } ∧ SameMemory s t ∧ t.tile e = x ∧ ∀ e', e' ≠ e → t.tile e' = s.tile e') ∧
  (∀ (s : State) (e : Nat), Runs s e → UnitsWf s → let u := atStep s e
    SMap.wf 0 u.pad = true → u.padEpoch = 0 →
    (∀ (g : B4) (d a : B5) (im : BitVec 12), u.preg g.toNat = true → let x := padPlace (u.sreg a.toNat) im.toInt
      PadOk 8 [x] → ∃ t : State, exec (.teStS g d a im) s = .next t ∧
      ∀ b, padAt t e b = if x ≤ b ∧ b < x + 8 then (lowBytes 8 (u.sreg d.toNat)).getD (b - x) 0 else u.padByte b) ∧
    (∀ p ∈ vstores, ∀ f : LF, u.preg f.g.toNat = true → PadOk 4 (p.2 u f) → ∃ t : State, exec (p.1 f) s = .next t ∧
      ∀ b, (∀ x ∈ p.2 u f, ¬ (x ≤ b ∧ b < x + 4)) → padAt t e b = u.padByte b))

/-! ## Roles and places, the step, the encodings, the whole machine -/

namespace Sys2Proof.Claims

/-- The system extension: instructions of management cores alone (R122). -/
def systemOnly (i : Instr) : Bool :=
  match i with
  | .wfe | .tlbinv _ _ | .gstRd _ | .gstWr _ | .gstRes _ => true
  | _ => false

/-- Instructions that are illegal on a management core (R193). -/
def edgeOnly (i : Instr) : Bool :=
  match i with
  | .laneIss _ | .laneJmp _ | .laneJmpInd _ | .mpush _ | .minv | .mpop | .bzM _ | .part _ _ | .regang | .bar _ _ | .jrW _ _ _ | .exit => true
  | .ldB f | .ldH f | .ldW f | .ldD f | .stB f | .stH f | .stW f | .stD f => f.c == 1
  | _ => false

/-- Whether a role may issue an instruction of the scalar stream (R50). -/
def roleMay (role : Nat) (i : Instr) : Bool :=
  match i with
  | .cpLd _ | .cpSt _ | .cpG2g _ | .cpMc _ | .ringArm _ | .ringArmInit _ | .jn _ => role == 0 || role == 1
  | .laneIss _ | .laneJmp _ | .laneJmpInd _ => role != 1
  | .kvCmt _ | .rlkBind _ | .rlkAcq _ | .rlkRel _ | .cairnOpen _ | .cairnApp _ | .cairnQry _ | .cairnSave _ | .cairnRst _ |
    .cairnClose _ | .wpUpd _ | .wpPre _ | .launch _ | .stB _ | .stH _ | .stW _ | .stD _ | .amo _ => role == 0 || role == 4
  | _ => true

/-- A word of each instruction stream, written out field by field from its encoding, and the instruction it stands for. -/
def writtenWords : List (Nat × Instr) := [
  (0b00000010001100001000100000000000, .add { d := 3, a := 1, b := 2 }),
  (0b00100000010100110111111111111111, .addi { d := 5, a := 6, i := 0x7FFF }),
  (0b01000110000100010000000000000001, .ldD { d := 1, a := 2, c := 0, s := 0, o := 0, k := 0, i := 1 }),
  (0b01001111000101001011000100001100, .stD { d := 17, a := 9, c := 0, s := 1, o := 2, k := 1, i := 12 }),
  (0b01100000000100010111111111111110, .beq { a := 1, b := 2, i := 0x7FFE }),
  (0b10011000000000000000000000000111, .trap 7),
  (0b10100000011100100001010111101011, .amo { d := 7, a := 4, b := 5, o := 7, r := 2, s := 5, z := 1 }),
  (0b10110010000000011010000000000000, .tlbinv 3 2),
  (0b11000000000000010001000011000101, .cpLd { g := 0, a := 1, b := 2, c := 3, m := 5 })]

end Sys2Proof.Claims

/-- R50, R122, R193: the system extension traps with cause 0x01 off a management core, the instructions of the lanes and of core
memory do so on one, a malformed ring geometry and a value that TVEC or TISS does not take do so whatever the role (R110, R186, R292),
and an instruction outside the gang's role traps with cause 0x02; the trap is precise, at the PC. -/
def Obligations.RolesAndPlaces : Prop :=
  ∀ (s : State) (c : Ctx) (i : Instr), Ready s c → c.th.lq = [] →
    (systemOnly i = true → c.isMgmt = false → exec i s = .next (s.takeTrap c (faultAt c i 0x01 0 0))) ∧
    (edgeOnly i = true → c.isMgmt = true → exec i s = .next (s.takeTrap c (faultAt c i 0x01 0 0))) ∧
    (roleMay c.gang.role i = false → c.isMgmt = false → (∀ f : EC, i = .ringArmInit f →
      ringGeometry (c.x f.a).toNat (s.localSize c.iss) ≠ none) → exec i s = .next (s.takeTrap c (faultAt c i 0x02 0 0))) ∧
    (∀ f : EC, i = .ringArmInit f → c.isMgmt = false → ringGeometry (c.x f.a).toNat (s.localSize c.iss) = none →
      exec i s = .next (s.takeTrap c (faultAt c i 0x01 0 0))) ∧
    (∀ (a : B5) (n : BitVec 12), n ∈ csrWrites.map Prod.fst → c.gang.role ≠ 0 → c.isMgmt = false →
      exec (.csrWr a n) s = .next (s.takeTrap c (faultAt c (.csrWr a n) 0x02 0 0))) ∧
    (∀ a : B5, ((c.x a).toNat % 4 ≠ 0 → exec (.csrWr a 0x010) s = .next (s.takeTrap c (faultAt c (.csrWr a 0x010) 0x01 0 0))) ∧
      (16 < (c.x a).toNat → exec (.csrWr a 0x014) s = .next (s.takeTrap c (faultAt c (.csrWr a 0x014) 0x01 0 0))) ∧
      ((c.x a).toNat % 4 = 0 → c.gang.role ≠ 0 → c.isMgmt = false →
        exec (.csrWr a 0x010) s = .next (s.takeTrap c (faultAt c (.csrWr a 0x010) 0x02 0 0))))

/-- R25, R51, R126, R168, R170, R173, R314: a step runs the instruction that is due: the event of the turn; the instruction that the
bytes at the PC decode to, or the illegal instruction when they decode to none; the head of the lane queue; what the engine does next.
Before it the turn's cycles pass and its agent and inputs are set; the turn is the agenda's, else the rota's, which holds a turn of
every agent (log entry 1: the model's own form of time); under determinism an epoch boundary comes first, and the agenda gives only
what comes from outside; a turn that would begin a bundle or issue an instruction is held while a change of class is pending (R23).
A PC that is no multiple of 4 is met as one outside the section (the model's reading, log entry 18). The bytes at the PC are those at their home where no cache serves an earlier value of them (R129; log entry 2). -/
def Obligations.StepRunsTheDecodedInstruction : Prop :=
  ∀ s : State, let t := s.due.1
    let rest := s.due.2
    let u := rest.begin t
    ((s.determ = false → ∀ (x : Turn) (l : List Turn), s.agenda = x :: l → s.due = (x, { s with agenda := l })) ∧
      (s.determ = true → ∀ (x : Turn) (l : List Turn), s.agenda = x :: l → x.outside = true →
        s.due = ({ x with dt := 0 }, { s with agenda := l })) ∧
      (s.agenda = [] ∨ (s.determ = true ∧ ∀ x ∈ s.agenda, x.outside = false) →
        (∀ (x : Turn) (l : List Turn), s.rota = x :: l → s.due = (x, { s with agenda := [], rota := l })) ∧
        (∀ (x : Turn) (l : List Turn), s.rota = [] → ({ s with agenda := [] } : State).round = x :: l → s.due = (x, { s with agenda := [], rota := l }))) ∧
      (bits s.bstat 2 0 ≠ 0 → let acts := s.round.map Turn.act
        (∀ (r : SgRef) (c : Ctx), r.core < 192 → s.subGang r = some c → .scalar r ∈ acts ∧ .lane r ∈ acts) ∧
        (∀ e < 192, s.tile e ≠ {} → .tile e ∈ acts) ∧ (∀ h < 2, .mgmt h ∈ acts))) ∧
    (s.determ = true → s.toEpoch ≤ t.dt → step s = exec .epochBoundary
      (({ rest with rota := { t with dt := t.dt - rest.toEpoch } :: rest.rota, draws := rest.draws + 1 } : State).pass rest.toEpoch)) ∧
    ((s.determ = true → t.dt < s.toEpoch) →
      (∀ i : Instr, t.act = .event i → step s = if u.eventHeld i = true then .next u else exec i u) ∧
      (∀ c : Ctx, ((∃ r, t.act = .scalar r ∧ u.spinHeld r = false) ∨ (∃ h, t.act = .mgmt h ∧ bits u.bstat 2 0 = 1)) → u.classHeld = false →
        Ready u c →
        (c.th.issRem ≠ 0 → step s = u.counted c (.laneIss 0) (exec (.laneIss 0) u)) ∧
        (c.th.issRem = 0 → c.th.pc.toNat % 4 ≠ 0 ∨ u.codeLen c ≤ c.th.pc.toNat → step s = exec .scalarFetchOutOfRange u) ∧
        (∀ (v w : State) (bs : List Byte), c.th.issRem = 0 → c.th.pc.toNat % 4 = 0 → c.th.pc.toNat < u.codeLen c →
          (c.isMgmt = true ∧ v = u ∧ bs = SMap.getN 0 (u.mgmt c.hub).fw c.th.pc.toNat 4) ∨
            (c.isMgmt = false ∧ u.roRead c.iss c.part (c.desc.esaddr + c.th.pc.toNat) 4 (20000 + c.sg) c.ref.core c.crew.launch = (w, .ok bs) ∧
              v = w.clearRemote c.iss (20000 + c.sg)) →
          (∀ i : Instr, decodeScalar (leNat bs) = some i → step s = v.counted c i (exec i v)) ∧
          (decodeScalar (leNat bs) = none →
            let i := Instr.illegalInstruction (BitVec.ofNat 32 (leNat bs))
            step s = v.counted c i (exec i v)))) ∧
      (∀ (r : SgRef) (c : Ctx) (e : LaneEntry) (l : List LaneEntry) (i : Instr), t.act = .lane r → u.classHeld = false → u.spinHeld r = false → u.subGang r = some c →
        c.th.lq = e :: l → decodeLane e.word.toNat = some i → step s = exec i u) ∧
      (∀ e : Nat, t.act = .tile e → u.classHeld = false → step s = exec (u.tile e).due { u with inp := { u.inp with a := e } })) ∧
    (∀ (c : Ctx) (i : Instr) (o : Out), (∀ x : State, o = .next x → (x.trc c.unit).ctl.getLsbD 31 = false) → s.counted c i o = o) ∧
    (∀ (who : Issuer) (p va n sg k l : Nat) (bs : List Byte), 0 < n → bs.length = n → Holds s who p va bs sg →
      (∀ i < n, s.roHit k l va n (va + i) = none) → ∃ m : SMap L1Line, s.roRead who p va n sg k l = ({ s with roCache := m }, .ok bs))

/-- R113 to R125: a word of each format written out from the encoding tables decodes to its instruction. -/
def Obligations.WrittenWordsDecode : Prop :=
  (∀ p ∈ writtenWords, decodeScalar p.1 = some p.2) ∧
  decodeScalar 0 = none ∧ decodeScalar (0b00000010001100001000100000000001) = none ∧
  decodeSlot .s 0b00000100000010100110100000000111 = .ok (.teAdd { g := 0, d := 5, a := 6, i := 1, qa := 0, lo := 7 }) ∧
  decodeSlot .l 0b00000100110001010001100000000010 = .ok (.vld { g := 3, v := 5, a := 3, lo := 2 }) ∧
  decodeSlot .v 0b00000100000000100000110001000001 = .ok (.vadd { g := 0, d := 2, a := 3, b := 4, m := 1 }) ∧
  decodeSlot .m 0b11000000001000001000101100000000 = .ok (.mma 0 2 1 2 1 1 0) ∧
  decodeSlot .c 0b11001000011000100000000000000011 = .ok (.ringArm { g := 3, a := 2, b := 0, c := 0, m := 3 }) ∧
  decodeSlot .s 0b11111100000000000000000000000000 = .error 0x04 ∧
  decodeLane 0b000000000000000000000000000000000000000001000010100000110000010000000000000000000000000000000000 =
    some (.fadd { imm := 0, d := 5, a := 3, b := 2, c := 0, ge := 0, g := 0, gn := 0, t := 0, i := 0, pw := 0, f8 := 0, f0 := 0 })

/-- R113 to R126: decoding is the inverse of encoding, for every well-formed instruction of the three streams with every operand
at every value its encoding admits: no bit of an encoding is dropped, and what decodes encodes to the same word. -/
def Obligations.DecodeAndEncodeAgree : Prop :=
  (∀ (i : Instr) (w : Nat), i.wf = true → scalarWord i = some w → commandGuard w = true → w < 2 ^ 32 ∧ decodeScalar w = some i) ∧
  (∀ (i : Instr) (w : Nat), i.wf = true → laneWord i = some w → w < 2 ^ 96 ∧ decodeLane w = some i) ∧
  (∀ (k : SlotClass) (i : Instr) (w : Nat), i.wf = true → tileArm i = true → slotWord k i = some w → w < 2 ^ 32 ∧ decodeSlot k w = .ok i) ∧
  (∀ (i : Instr) (w : Nat), decodeScalar w = some i → i.wf = true ∧ encode i = [BitVec.ofNat 32 w] ∧ decodeTableWord 32 w = some i) ∧
  (∀ (i : Instr) (w : Nat), decodeLane w = some i → i.wf = true ∧
    encode i = [BitVec.ofNat 32 w, BitVec.ofNat 32 (w / 2 ^ 32), BitVec.ofNat 32 (w / 2 ^ 64)] ∧ decodeTableWord 96 w = some i) ∧
  (∀ (k : SlotClass) (i : Instr) (w : Nat), decodeSlot k w = .ok i → i.wf = true ∧ tileArm i = true ∧ slotWord k i = some w ∧ w < 2 ^ 32)

/-- R3, R22, R59, R80, R272 to R316, R343, R355: the machine at reset. Every register whose reset the spec gives holds it, memory lists
nothing and is in canonical form, nothing runs, and the step that is due is the cold start (that it is a step is the model's own
choice, log entry 1). -/
def Obligations.ResetState : Prop :=
  let s := State.reset
  s.memOk = true ∧ s.mem = [] ∧ s.dmode = 0 ∧ s.bstat = 0 ∧ s.hfstat = 0 ∧ s.drst = 0 ∧ s.drcnt = 0 ∧ s.fabOrdered = false ∧
  (∀ p, (s.part p).psched = 0x00100080 ∧ bits (s.part p).dmap 7 0 = 0b11100100 ∧ bits (s.part p).ptroot 0 0 = 0 ∧
    (s.part p).pcmd = 0x1000 ∧ (s.part p).pcst = 4 ∧ (s.part p).slctl = 4 ∧ (s.part p).slcnt = 0 ∧ bits (s.part p).wptctl 1 0 = 0 ∧
    (s.part p).rctl = 0x80 ∧ (s.part p).rwp = 0 ∧ (s.part p).rrp = 0 ∧
    ∀ q, (s.hwq p q).ctl = 0 ∧ (s.hwq p q).stat = 0) ∧
  (∀ n, (s.trc n).ctl = 0x0C ∧ (s.trc n).wp = 0 ∧ (s.trc n).rp = 0) ∧ (∀ n, (s.dlq n).ctl = 0 ∧ (s.dlq n).entries = []) ∧
  (∀ d n, s.walker d n = {}) ∧ s.cores = [] ∧ s.tiles = [] ∧ s.launches = [] ∧ s.tlb = [] ∧
  ({} : Thread).fmt = 0 ∧ ({} : Thread).msts = 0 ∧ ({} : Tile).fmt = 0 ∧ ({} : Tile).msts = 0 ∧
  ∃ u : State, step s = exec .coldStart u ∧ u.mem = [] ∧ bits u.bstat 2 0 = 0

/-- R107, R352: the memory keeps its canonical form whatever step the machine takes: addresses strictly rising, no entry equal to what an
unlisted address reads as. -/
def Obligations.MemoryStaysCanonical : Prop :=
  ∀ s t : State, s.memOk = true → step s = .next t → t.memOk = true

/-! ## Statements of several parts -/

/-- R188: the arithmetic of the scalar stream, on two registers, on a register and an immediate, and lui. -/
def Obligations.ScalarResults : Prop := ScalarRegisterResults ∧ ScalarImmediateResults

/-- R85, R189, R191: the loads, stores and atomics of the scalar stream. -/
def Obligations.ScalarMemoryResults : Prop := ScalarLoadResults ∧ ScalarStoreResults ∧ AtomicResults

/-- R168, R179, R180, R190: the branches, jumps, calls and the return. -/
def Obligations.ControlTransferResults : Prop := BranchResults ∧ JumpResults

/-- R176, R177, R181: part, regang and bar. -/
def Obligations.SubGangResults : Prop := PartSplitsTheSubGang ∧ RegangAndBarrierResults

/-- R88, R185, R192, R194 to R197, R314: exit, eret, fence, and the instructions of management cores. -/
def Obligations.ReturnFenceAndSystemResults : Prop := ExitReturnFenceResults ∧ SystemResults ∧ InvalidationWaitsForTheEpoch

/-- R126, R168, R174 to R181, R185, R186, R192: the instructions that trap, and where the control instructions do. Which of a
posted failure and the causes of one instruction comes first is the model's choice (log entry 63). -/
def Obligations.ScalarTrapResults : Prop := TrapInstructionResults ∧ ControlFaultResults

/-- R182 to R184, R193: the state that a trap leaves, outside a handler and inside one. -/
def Obligations.TrapEntry : Prop := TakingATrap ∧ TrapInAHandler

/-- R189, R191, R202, R213: misaligned accesses of the scalar and the lane stream trap with cause 0x06. -/
def Obligations.MisalignedAccess : Prop := MisalignedScalarAccess ∧ MisalignedLaneAccess

/-- R155, R156, R159: the operations of the S slot on registers. -/
def Obligations.TileScalarSlot : Prop := TileArithmetic ∧ TileScalarResults

/-- R157, R160: the scratchpad accesses of the S and the L slot. -/
def Obligations.TileLoadStoreSlots : Prop := TileScratchpadAccess ∧ VectorLoadStoreResults

/-- R142 to R144, R146, R149, R158: branches, loops, tmark, halt, and guards that are false. -/
def Obligations.TileControlAndGuards : Prop := TileControl ∧ FalseGuardHasNoEffect

/-- R162, R165, R166: compare, select, the reductions and movements, and the integer operations of the V slots. -/
def Obligations.VectorCompareMoveReduceIntegerResults : Prop := VectorIntegerAndMoveResults ∧ VectorReduceResults

/-- R125, R200, R203, R204, R206: the floating lane instructions, cvt and the retired ones. Which SRKEY a lane instruction in
the queue rounds with is the model's choice (log entry 62). -/
def Obligations.LaneFloatingResults : Prop := LaneFloatResults ∧ RetiredLaneResults

/-- R205, R207 to R212: integer, bit, compare and cross-lane instructions. -/
def Obligations.LaneIntegerMoveResults : Prop := LaneIntegerResults ∧ LaneCompareAndMoveResults

/-- R82, R214 to R217: the loads, stores and load-blocks of lanes. How the accesses of a lane load count for the cache hints is the
model's choice (log entry 68). -/
def Obligations.LaneMemoryResults : Prop := LaneLoadStoreResults ∧ LoadBlockResults

/-- R226 to R228, R241 to R248: the engine commands of a scalar stream that enter a queue. -/
def Obligations.EngineCommandResults : Prop := CommandsEnterTheirQueue ∧ OrderedCommandResults

/-- R226, R227, R236 to R240: the copies at issue, and the commands of a C slot. -/
def Obligations.CopyAndTileCommandResults : Prop := CopyIssueResults ∧ TileCommandResults

/-- R100 to R102, R239: the ring commands and the laws of the rings. -/
def Obligations.RingResults : Prop := RingCommandResults ∧ RingDeliveryLaws

/-- R272, R275, R276, R286, R295, R311, R316, R341 to R343: writes of the device register window. The order of the registers
in a block is the model's choice (log entry 47). -/
def Obligations.RegisterWindowResults : Prop := RegisterWriteResults ∧ ControlRegisterResults

/-- R34 to R47: items are dealt to engines, and the end of a persistent launch. That the item words of a crew that starts
before its first item are zero is the model's choice (log entry 32). -/
def Obligations.DispatchAndEndResults : Prop := DispatchResults ∧ EndEntriesAndRecords

/-- R127, R278 to R284: grants, admission, retirement and swaps. That what is granted on an engine whose halted instance still has
entries waits for them (log entry 37), the entry in the stop record of a refusal (33) and the first return of a single gang (75) are the
model's choices. -/
def Obligations.ScheduleResults : Prop := AdmissionAndGrantResults ∧ RetirementAndSwapResults

/-- R138, R139, R145 to R153: the sequence of bundles, passes and stops. -/
def Obligations.BundleSequence : Prop := BundleResults ∧ LoopAndStopResults

/-- R251 to R271: the entries of the matrix queue as they perform. -/
def Obligations.MatrixPerformance : Prop := MatrixPerformResults ∧ RoundaboutResults

/-- R230 to R240: copies, ring deliveries, multicasts and junctions as they perform. The order in which the checks of a
multicast find their cause and the whole check of a copy before its first byte are the model's choices (log entries 30 and
14). -/
def Obligations.CopyPerformance : Prop := CopyPerformResults ∧ MulticastAndJunctionResults

/-- R244, R318 to R323: the entries of the Cairn as they perform. The causes of a bad block and the die of an opened context
are the model's choices (log entry 27). -/
def Obligations.CairnPerformance : Prop := CairnResults ∧ AppendResults

/-- R74, R297 to R302: walks, their faults and the answers to them. That a walk of a non-canonical address reports reason 1
is the model's choice (log entry 17). -/
def Obligations.TranslationAndFaults : Prop := TranslationResults ∧ FaultResponseResults

/-- R304 to R310, R355 to R357: a partition is saved and restored, and a die is reset. The steps into which the die reset is
cut are the model's choice (log entry 60). -/
def Obligations.SaveAndDieReset : Prop := SaveAndRestoreResults ∧ DieResetResults

/-- R288, R289, R344 to R346: the mailbox and the requests that any function may post. -/
def Obligations.FunctionRequests : Prop := MailboxResults ∧ FunctionServiceResults ∧ HostCopyResults

/-- R314, R344, R348: accesses of the host and of other devices. The forms of the packets between devices are the model's
choice (log entry 52). -/
def Obligations.HostAndFabricAccess : Prop := ApertureResults ∧ InboundResults

/-- R163, R164: vcvt, vmaxabs and vquant: conversions, block maxima and block quantisation. -/
def Obligations.VectorConvertAndBlockResults : Prop := VectorConvertBlockResults
end

