-- ==== Sys2Proof/Laws/Maps.lean ====
section
/-! SUPPORT. The laws of sparse maps and association lists: what a read gives after a write, and that a write keeps the
canonical form. -/

namespace Sys2Proof

variable {α : Type}

@[simp] theorem SMap.get_nil (d : α) (k : Nat) : SMap.get d [] k = d := rfl

/-- A key at or below a bound below which nothing is listed reads the default. -/
theorem SMap.get_of_above {d : α} {m : SMap α} {k j : Nat} (h : SMap.above k m = true) (hj : j ≤ k) : SMap.get d m j = d := by
  cases m with
  | nil => rfl
  | cons x t =>
    obtain ⟨k', v⟩ := x
    simp only [SMap.above, Bool.and_eq_true, decide_eq_true_eq] at h
    simp only [SMap.get]
    rw [if_neg (by omega), if_pos (by omega)]

theorem SMap.above_mono {m : SMap α} {k j : Nat} (h : SMap.above k m = true) (hj : j ≤ k) : SMap.above j m = true := by
  induction m with
  | nil => rfl
  | cons x t ih =>
    obtain ⟨k', v⟩ := x
    simp only [SMap.above, Bool.and_eq_true, decide_eq_true_eq] at h ⊢
    exact ⟨by omega, ih h.2⟩

variable [DecidableEq α]

theorem SMap.above_set {d : α} {m : SMap α} {b k : Nat} {v : α} (h : SMap.above b m = true) (hk : b < k) :
    SMap.above b (SMap.set d m k v) = true := by
  induction m with
  | nil => simp only [SMap.set]; split <;> simp [SMap.above, hk]
  | cons x t ih =>
    obtain ⟨k', v'⟩ := x
    simp only [SMap.above, Bool.and_eq_true, decide_eq_true_eq] at h
    simp only [SMap.set]
    split
    · split <;> simp [SMap.above, h, hk]
    · split
      · split
        · exact h.2
        · simp [SMap.above, h, hk]
      · simp [SMap.above, h, ih h.2]

/-- A write keeps the canonical form. -/
theorem SMap.wf_set {d : α} {m : SMap α} {k : Nat} {v : α} (h : SMap.wf d m = true) : SMap.wf d (SMap.set d m k v) = true := by
  induction m with
  | nil => simp only [SMap.set]; split <;> simp_all [SMap.wf, SMap.above]
  | cons x t ih =>
    obtain ⟨k', v'⟩ := x
    simp only [SMap.wf, Bool.and_eq_true, bne_iff_ne, ne_eq] at h
    obtain ⟨⟨h1, h2⟩, h3⟩ := h
    simp only [SMap.set]
    split
    · rename_i hk
      split
      · simp [SMap.wf, h1, h2, h3]
      · rename_i hv
        simp [SMap.wf, SMap.above, h1, h2, h3, hv, hk, SMap.above_mono h2 (Nat.le_of_lt hk)]
    · split
      · rename_i hk
        subst hk
        split
        · exact h3
        · rename_i hv; simp [SMap.wf, hv, h2, h3]
      · have hlt : k' < k := by omega
        simp [SMap.wf, h1, ih h3, SMap.above_set (d := d) (v := v) h2 hlt]

/-- A read after a write. -/
theorem SMap.get_set {d : α} {m : SMap α} {k j : Nat} {v : α} (h : SMap.wf d m = true) :
    SMap.get d (SMap.set d m k v) j = if j = k then v else SMap.get d m j := by
  induction m with
  | nil =>
    simp only [SMap.set]
    split
    · rename_i hv; simp [SMap.get, hv]
    · by_cases hj : j = k
      · simp [SMap.get, hj]
      · simp [SMap.get, hj]
  | cons x t ih =>
    obtain ⟨k', v'⟩ := x
    simp only [SMap.wf, Bool.and_eq_true, bne_iff_ne, ne_eq] at h
    obtain ⟨⟨h1, h2⟩, h3⟩ := h
    simp only [SMap.set]
    split
    · rename_i hk
      split
      · rename_i hv
        by_cases hj : j = k
        · subst hj; simp only [SMap.get, hv, if_true]; rw [if_neg (by omega), if_pos hk]
        · simp [hj]
      · by_cases hj : j = k
        · simp [SMap.get, hj]
        · simp only [SMap.get, hj, if_false]
          by_cases hl : j < k
          · rw [if_pos hl, if_neg (by omega), if_pos (by omega)]
          · rw [if_neg hl]
    · split
      · rename_i hk
        subst hk
        split
        · rename_i hv
          by_cases hj : j = k
          · subst hj; simp [hv, SMap.get_of_above h2 (Nat.le_refl _)]
          · simp only [SMap.get, hj, if_false]
            split
            · exact SMap.get_of_above h2 (by omega)
            · rfl
        · by_cases hj : j = k <;> simp [SMap.get, hj]
      · rename_i hk hn
        simp only [SMap.get, ih h3]
        by_cases hj : j = k
        · subst hj
          rw [if_pos rfl, if_neg (by omega), if_neg (by omega), if_pos rfl]
        · simp [hj]

/-- A value other than the default reads back whatever the form of the map. -/
theorem SMap.get_set_self {d : α} (m : SMap α) (k : Nat) {v : α} (h : v ≠ d) : SMap.get d (SMap.set d m k v) k = v := by
  induction m with
  | nil => simp [SMap.set, h, SMap.get]
  | cons x t ih =>
    obtain ⟨k', v'⟩ := x
    simp only [SMap.set]
    split
    · simp [SMap.get]
    · split
      · simp [SMap.get]
      · simp only [SMap.get, ih]; rw [if_neg (by omega), if_neg (by omega)]

/-- The second of two writes to one key stands. -/
theorem SMap.set_set {d : α} (m : SMap α) (k : Nat) {v : α} (w : α) (h : v ≠ d) :
    SMap.set d (SMap.set d m k v) k w = SMap.set d m k w := by
  induction m with
  | nil => simp [SMap.set, h]
  | cons x t ih =>
    obtain ⟨k', v'⟩ := x
    simp only [SMap.set]
    split
    · simp [SMap.set]
    · split
      · simp [SMap.set]
      · simp only [SMap.set, *, if_false]

theorem SMap.wf_setN {d : α} (vs : List α) : ∀ {m : SMap α} {k : Nat}, SMap.wf d m = true → SMap.wf d (SMap.setN d m k vs) = true := by
  induction vs with
  | nil => intro m k h; exact h
  | cons v t ih => intro m k h; exact ih (SMap.wf_set h)

/-- A read after a list has been written. -/
theorem SMap.get_setN {d : α} (vs : List α) : ∀ {m : SMap α} {k j : Nat}, SMap.wf d m = true →
    SMap.get d (SMap.setN d m k vs) j = if k ≤ j ∧ j < k + vs.length then vs.getD (j - k) d else SMap.get d m j := by
  induction vs with
  | nil => intro m k j h; simp only [SMap.setN, List.length_nil]; rw [if_neg (by omega)]
  | cons v t ih =>
    intro m k j h
    simp only [SMap.setN]
    rw [ih (SMap.wf_set h), SMap.get_set h]
    by_cases h1 : j = k
    · subst h1
      rw [if_neg (by omega), if_pos rfl, if_pos (by simp)]
      simp
    · by_cases h2 : k + 1 ≤ j ∧ j < k + 1 + t.length
      · rw [if_pos h2, if_pos (by simp; omega)]
        have : j - k = (j - (k + 1)) + 1 := by omega
        rw [this, List.getD_cons_succ]
      · rw [if_neg h2, if_neg h1, if_neg (by simp; omega)]

omit [DecidableEq α] in
/-- A read of an association list after a write. -/
theorem alGet_alPut (l : List (Nat × α)) (k j : Nat) (v : α) : alGet (alPut l k v) j = if j = k then some v else alGet l j := by
  induction l with
  | nil => by_cases h : j = k <;> simp [alPut, alGet, h]
  | cons x t ih =>
    obtain ⟨k', v'⟩ := x
    simp only [alPut]
    split
    · by_cases h : j = k <;> simp [alGet, h]
    · split
      · rename_i hk
        subst hk
        by_cases h : j = k <;> simp [alGet, h]
      · simp only [alGet, ih]
        by_cases h : j = k
        · subst h; simp_all
        · simp [h]

omit [DecidableEq α] in
theorem alGet_alDel (l : List (Nat × α)) (k j : Nat) : alGet (alDel l k) j = if j = k then none else alGet l j := by
  induction l with
  | nil => simp [alDel, alGet]
  | cons x t ih =>
    obtain ⟨k', v'⟩ := x
    unfold alDel at ih ⊢
    by_cases hk : k' = k
    · subst hk
      simp only [List.filter_cons, bne_self_eq_false, Bool.false_eq_true, if_false, ih, alGet]
      by_cases h : j = k' <;> simp [h]
    · have : (k' != k) = true := by simp [hk]
      simp only [List.filter_cons, this, if_true, alGet, ih]
      by_cases h : j = k
      · subst h; simp [Ne.symm hk]
      · simp [h]

end Sys2Proof
end

