-- ==== Sys2Proof/Laws/State.lean ====
section
/-! SUPPORT. One law per field of the state for each named update of it, true by unfolding the record update, and what each
unit reads as after its update. -/

namespace Sys2Proof.Machine

variable (s : State) (n : Nat) (b : Byte) (t : Trace) (e : EdgeCore) (u : Tile) (m : Mgmt) (p : Part) (l : Launch)
variable (f : PcieFn) (q : Dlq) (x : CairnCtx) (th : Thread) (ti : TrapInfo) (w : W64)

/-! ## setCore -/

@[simp] theorem State.setCore_agenda : (s.setCore n e).agenda = s.agenda := rfl
@[simp] theorem State.setCore_rota : (s.setCore n e).rota = s.rota := rfl
@[simp] theorem State.setCore_cur : (s.setCore n e).cur = s.cur := rfl
@[simp] theorem State.setCore_inp : (s.setCore n e).inp = s.inp := rfl
@[simp] theorem State.setCore_draws : (s.setCore n e).draws = s.draws := rfl
@[simp] theorem State.setCore_seq : (s.setCore n e).seq = s.seq := rfl
@[simp] theorem State.setCore_memEpoch : (s.setCore n e).memEpoch = s.memEpoch := rfl
@[simp] theorem State.setCore_via : (s.setCore n e).via = s.via := rfl
@[simp] theorem State.setCore_hot : (s.setCore n e).hot = s.hot := rfl
@[simp] theorem State.setCore_opTag : (s.setCore n e).opTag = s.opTag := rfl
@[simp] theorem State.setCore_mem : (s.setCore n e).mem = s.mem := rfl
@[simp] theorem State.setCore_bad : (s.setCore n e).bad = s.bad := rfl
@[simp] theorem State.setCore_l2 : (s.setCore n e).l2 = s.l2 := rfl
@[simp] theorem State.setCore_swapped : (s.setCore n e).swapped = s.swapped := rfl
@[simp] theorem State.setCore_tiles : (s.setCore n e).tiles = s.tiles := rfl
@[simp] theorem State.setCore_stopped : (s.setCore n e).stopped = s.stopped := rfl
@[simp] theorem State.setCore_mgmts : (s.setCore n e).mgmts = s.mgmts := rfl
@[simp] theorem State.setCore_parts : (s.setCore n e).parts = s.parts := rfl
@[simp] theorem State.setCore_launches : (s.setCore n e).launches = s.launches := rfl
@[simp] theorem State.setCore_dlqs : (s.setCore n e).dlqs = s.dlqs := rfl
@[simp] theorem State.setCore_cairns : (s.setCore n e).cairns = s.cairns := rfl
@[simp] theorem State.setCore_wayposts : (s.setCore n e).wayposts = s.wayposts := rfl
@[simp] theorem State.setCore_tlb : (s.setCore n e).tlb = s.tlb := rfl
@[simp] theorem State.setCore_mtlb : (s.setCore n e).mtlb = s.mtlb := rfl
@[simp] theorem State.setCore_roCache : (s.setCore n e).roCache = s.roCache := rfl
@[simp] theorem State.setCore_wcache : (s.setCore n e).wcache = s.wcache := rfl
@[simp] theorem State.setCore_walkers : (s.setCore n e).walkers = s.walkers := rfl
@[simp] theorem State.setCore_issueFail : (s.setCore n e).issueFail = s.issueFail := rfl
@[simp] theorem State.setCore_traces : (s.setCore n e).traces = s.traces := rfl
@[simp] theorem State.setCore_time : (s.setCore n e).time = s.time := rfl
@[simp] theorem State.setCore_dmode : (s.setCore n e).dmode = s.dmode := rfl
@[simp] theorem State.setCore_bstat : (s.setCore n e).bstat = s.bstat := rfl
@[simp] theorem State.setCore_hfstat : (s.setCore n e).hfstat = s.hfstat := rfl
@[simp] theorem State.setCore_devid : (s.setCore n e).devid = s.devid := rfl
@[simp] theorem State.setCore_vfmap : (s.setCore n e).vfmap = s.vfmap := rfl
@[simp] theorem State.setCore_fabctl : (s.setCore n e).fabctl = s.fabctl := rfl
@[simp] theorem State.setCore_drst : (s.setCore n e).drst = s.drst := rfl
@[simp] theorem State.setCore_drcnt : (s.setCore n e).drcnt = s.drcnt := rfl
@[simp] theorem State.setCore_rstDie : (s.setCore n e).rstDie = s.rstDie := rfl
@[simp] theorem State.setCore_rtab : (s.setCore n e).rtab = s.rtab := rfl
@[simp] theorem State.setCore_deadDies : (s.setCore n e).deadDies = s.deadDies := rfl
@[simp] theorem State.setCore_fabOrdered : (s.setCore n e).fabOrdered = s.fabOrdered := rfl
@[simp] theorem State.setCore_keyGen : (s.setCore n e).keyGen = s.keyGen := rfl
@[simp] theorem State.setCore_fns : (s.setCore n e).fns = s.fns := rfl
@[simp] theorem State.setCore_flash : (s.setCore n e).flash = s.flash := rfl
@[simp] theorem State.setCore_flashBlock : (s.setCore n e).flashBlock = s.flashBlock := rfl
@[simp] theorem State.setCore_images : (s.setCore n e).images = s.images := rfl
@[simp] theorem State.setCore_fuses : (s.setCore n e).fuses = s.fuses := rfl
@[simp] theorem State.setCore_owner : (s.setCore n e).owner = s.owner := rfl
@[simp] theorem State.setCore_measures : (s.setCore n e).measures = s.measures := rfl
@[simp] theorem State.setCore_doe : (s.setCore n e).doe = s.doe := rfl
@[simp] theorem State.setCore_portsDown : (s.setCore n e).portsDown = s.portsDown := rfl
@[simp] theorem State.setCore_outFabric : (s.setCore n e).outFabric = s.outFabric := rfl
@[simp] theorem State.setCore_remoteOps : (s.setCore n e).remoteOps = s.remoteOps := rfl
@[simp] theorem State.setCore_flushOut : (s.setCore n e).flushOut = s.flushOut := rfl
@[simp] theorem State.setCore_inFlight : (s.setCore n e).inFlight = s.inFlight := rfl
@[simp] theorem State.setCore_fabSeq : (s.setCore n e).fabSeq = s.fabSeq := rfl
@[simp] theorem State.setCore_flushIn : (s.setCore n e).flushIn = s.flushIn := rfl
@[simp] theorem State.setCore_autoRels : (s.setCore n e).autoRels = s.autoRels := rfl
@[simp] theorem State.setCore_snaps : (s.setCore n e).snaps = s.snaps := rfl
@[simp] theorem State.setCore_rdata : (s.setCore n e).rdata = s.rdata := rfl

/-! ## setTile -/

@[simp] theorem State.setTile_agenda : (s.setTile n u).agenda = s.agenda := rfl
@[simp] theorem State.setTile_rota : (s.setTile n u).rota = s.rota := rfl
@[simp] theorem State.setTile_cur : (s.setTile n u).cur = s.cur := rfl
@[simp] theorem State.setTile_inp : (s.setTile n u).inp = s.inp := rfl
@[simp] theorem State.setTile_draws : (s.setTile n u).draws = s.draws := rfl
@[simp] theorem State.setTile_seq : (s.setTile n u).seq = s.seq := rfl
@[simp] theorem State.setTile_memEpoch : (s.setTile n u).memEpoch = s.memEpoch := rfl
@[simp] theorem State.setTile_via : (s.setTile n u).via = s.via := rfl
@[simp] theorem State.setTile_hot : (s.setTile n u).hot = s.hot := rfl
@[simp] theorem State.setTile_opTag : (s.setTile n u).opTag = s.opTag := rfl
@[simp] theorem State.setTile_mem : (s.setTile n u).mem = s.mem := rfl
@[simp] theorem State.setTile_bad : (s.setTile n u).bad = s.bad := rfl
@[simp] theorem State.setTile_l2 : (s.setTile n u).l2 = s.l2 := rfl
@[simp] theorem State.setTile_cores : (s.setTile n u).cores = s.cores := rfl
@[simp] theorem State.setTile_swapped : (s.setTile n u).swapped = s.swapped := rfl
@[simp] theorem State.setTile_stopped : (s.setTile n u).stopped = s.stopped := rfl
@[simp] theorem State.setTile_mgmts : (s.setTile n u).mgmts = s.mgmts := rfl
@[simp] theorem State.setTile_parts : (s.setTile n u).parts = s.parts := rfl
@[simp] theorem State.setTile_launches : (s.setTile n u).launches = s.launches := rfl
@[simp] theorem State.setTile_dlqs : (s.setTile n u).dlqs = s.dlqs := rfl
@[simp] theorem State.setTile_cairns : (s.setTile n u).cairns = s.cairns := rfl
@[simp] theorem State.setTile_wayposts : (s.setTile n u).wayposts = s.wayposts := rfl
@[simp] theorem State.setTile_tlb : (s.setTile n u).tlb = s.tlb := rfl
@[simp] theorem State.setTile_mtlb : (s.setTile n u).mtlb = s.mtlb := rfl
@[simp] theorem State.setTile_roCache : (s.setTile n u).roCache = s.roCache := rfl
@[simp] theorem State.setTile_wcache : (s.setTile n u).wcache = s.wcache := rfl
@[simp] theorem State.setTile_walkers : (s.setTile n u).walkers = s.walkers := rfl
@[simp] theorem State.setTile_issueFail : (s.setTile n u).issueFail = s.issueFail := rfl
@[simp] theorem State.setTile_traces : (s.setTile n u).traces = s.traces := rfl
@[simp] theorem State.setTile_time : (s.setTile n u).time = s.time := rfl
@[simp] theorem State.setTile_dmode : (s.setTile n u).dmode = s.dmode := rfl
@[simp] theorem State.setTile_bstat : (s.setTile n u).bstat = s.bstat := rfl
@[simp] theorem State.setTile_hfstat : (s.setTile n u).hfstat = s.hfstat := rfl
@[simp] theorem State.setTile_devid : (s.setTile n u).devid = s.devid := rfl
@[simp] theorem State.setTile_vfmap : (s.setTile n u).vfmap = s.vfmap := rfl
@[simp] theorem State.setTile_fabctl : (s.setTile n u).fabctl = s.fabctl := rfl
@[simp] theorem State.setTile_drst : (s.setTile n u).drst = s.drst := rfl
@[simp] theorem State.setTile_drcnt : (s.setTile n u).drcnt = s.drcnt := rfl
@[simp] theorem State.setTile_rstDie : (s.setTile n u).rstDie = s.rstDie := rfl
@[simp] theorem State.setTile_rtab : (s.setTile n u).rtab = s.rtab := rfl
@[simp] theorem State.setTile_deadDies : (s.setTile n u).deadDies = s.deadDies := rfl
@[simp] theorem State.setTile_fabOrdered : (s.setTile n u).fabOrdered = s.fabOrdered := rfl
@[simp] theorem State.setTile_keyGen : (s.setTile n u).keyGen = s.keyGen := rfl
@[simp] theorem State.setTile_fns : (s.setTile n u).fns = s.fns := rfl
@[simp] theorem State.setTile_flash : (s.setTile n u).flash = s.flash := rfl
@[simp] theorem State.setTile_flashBlock : (s.setTile n u).flashBlock = s.flashBlock := rfl
@[simp] theorem State.setTile_images : (s.setTile n u).images = s.images := rfl
@[simp] theorem State.setTile_fuses : (s.setTile n u).fuses = s.fuses := rfl
@[simp] theorem State.setTile_owner : (s.setTile n u).owner = s.owner := rfl
@[simp] theorem State.setTile_measures : (s.setTile n u).measures = s.measures := rfl
@[simp] theorem State.setTile_doe : (s.setTile n u).doe = s.doe := rfl
@[simp] theorem State.setTile_portsDown : (s.setTile n u).portsDown = s.portsDown := rfl
@[simp] theorem State.setTile_outFabric : (s.setTile n u).outFabric = s.outFabric := rfl
@[simp] theorem State.setTile_remoteOps : (s.setTile n u).remoteOps = s.remoteOps := rfl
@[simp] theorem State.setTile_flushOut : (s.setTile n u).flushOut = s.flushOut := rfl
@[simp] theorem State.setTile_inFlight : (s.setTile n u).inFlight = s.inFlight := rfl
@[simp] theorem State.setTile_fabSeq : (s.setTile n u).fabSeq = s.fabSeq := rfl
@[simp] theorem State.setTile_flushIn : (s.setTile n u).flushIn = s.flushIn := rfl
@[simp] theorem State.setTile_autoRels : (s.setTile n u).autoRels = s.autoRels := rfl
@[simp] theorem State.setTile_snaps : (s.setTile n u).snaps = s.snaps := rfl
@[simp] theorem State.setTile_rdata : (s.setTile n u).rdata = s.rdata := rfl

/-! ## setMgmt -/

@[simp] theorem State.setMgmt_agenda : (s.setMgmt n m).agenda = s.agenda := rfl
@[simp] theorem State.setMgmt_rota : (s.setMgmt n m).rota = s.rota := rfl
@[simp] theorem State.setMgmt_cur : (s.setMgmt n m).cur = s.cur := rfl
@[simp] theorem State.setMgmt_inp : (s.setMgmt n m).inp = s.inp := rfl
@[simp] theorem State.setMgmt_draws : (s.setMgmt n m).draws = s.draws := rfl
@[simp] theorem State.setMgmt_seq : (s.setMgmt n m).seq = s.seq := rfl
@[simp] theorem State.setMgmt_memEpoch : (s.setMgmt n m).memEpoch = s.memEpoch := rfl
@[simp] theorem State.setMgmt_via : (s.setMgmt n m).via = s.via := rfl
@[simp] theorem State.setMgmt_hot : (s.setMgmt n m).hot = s.hot := rfl
@[simp] theorem State.setMgmt_opTag : (s.setMgmt n m).opTag = s.opTag := rfl
@[simp] theorem State.setMgmt_mem : (s.setMgmt n m).mem = s.mem := rfl
@[simp] theorem State.setMgmt_bad : (s.setMgmt n m).bad = s.bad := rfl
@[simp] theorem State.setMgmt_l2 : (s.setMgmt n m).l2 = s.l2 := rfl
@[simp] theorem State.setMgmt_cores : (s.setMgmt n m).cores = s.cores := rfl
@[simp] theorem State.setMgmt_swapped : (s.setMgmt n m).swapped = s.swapped := rfl
@[simp] theorem State.setMgmt_tiles : (s.setMgmt n m).tiles = s.tiles := rfl
@[simp] theorem State.setMgmt_stopped : (s.setMgmt n m).stopped = s.stopped := rfl
@[simp] theorem State.setMgmt_parts : (s.setMgmt n m).parts = s.parts := rfl
@[simp] theorem State.setMgmt_launches : (s.setMgmt n m).launches = s.launches := rfl
@[simp] theorem State.setMgmt_dlqs : (s.setMgmt n m).dlqs = s.dlqs := rfl
@[simp] theorem State.setMgmt_cairns : (s.setMgmt n m).cairns = s.cairns := rfl
@[simp] theorem State.setMgmt_wayposts : (s.setMgmt n m).wayposts = s.wayposts := rfl
@[simp] theorem State.setMgmt_tlb : (s.setMgmt n m).tlb = s.tlb := rfl
@[simp] theorem State.setMgmt_mtlb : (s.setMgmt n m).mtlb = s.mtlb := rfl
@[simp] theorem State.setMgmt_roCache : (s.setMgmt n m).roCache = s.roCache := rfl
@[simp] theorem State.setMgmt_wcache : (s.setMgmt n m).wcache = s.wcache := rfl
@[simp] theorem State.setMgmt_walkers : (s.setMgmt n m).walkers = s.walkers := rfl
@[simp] theorem State.setMgmt_issueFail : (s.setMgmt n m).issueFail = s.issueFail := rfl
@[simp] theorem State.setMgmt_traces : (s.setMgmt n m).traces = s.traces := rfl
@[simp] theorem State.setMgmt_time : (s.setMgmt n m).time = s.time := rfl
@[simp] theorem State.setMgmt_dmode : (s.setMgmt n m).dmode = s.dmode := rfl
@[simp] theorem State.setMgmt_bstat : (s.setMgmt n m).bstat = s.bstat := rfl
@[simp] theorem State.setMgmt_hfstat : (s.setMgmt n m).hfstat = s.hfstat := rfl
@[simp] theorem State.setMgmt_devid : (s.setMgmt n m).devid = s.devid := rfl
@[simp] theorem State.setMgmt_vfmap : (s.setMgmt n m).vfmap = s.vfmap := rfl
@[simp] theorem State.setMgmt_fabctl : (s.setMgmt n m).fabctl = s.fabctl := rfl
@[simp] theorem State.setMgmt_drst : (s.setMgmt n m).drst = s.drst := rfl
@[simp] theorem State.setMgmt_drcnt : (s.setMgmt n m).drcnt = s.drcnt := rfl
@[simp] theorem State.setMgmt_rstDie : (s.setMgmt n m).rstDie = s.rstDie := rfl
@[simp] theorem State.setMgmt_rtab : (s.setMgmt n m).rtab = s.rtab := rfl
@[simp] theorem State.setMgmt_deadDies : (s.setMgmt n m).deadDies = s.deadDies := rfl
@[simp] theorem State.setMgmt_fabOrdered : (s.setMgmt n m).fabOrdered = s.fabOrdered := rfl
@[simp] theorem State.setMgmt_keyGen : (s.setMgmt n m).keyGen = s.keyGen := rfl
@[simp] theorem State.setMgmt_fns : (s.setMgmt n m).fns = s.fns := rfl
@[simp] theorem State.setMgmt_flash : (s.setMgmt n m).flash = s.flash := rfl
@[simp] theorem State.setMgmt_flashBlock : (s.setMgmt n m).flashBlock = s.flashBlock := rfl
@[simp] theorem State.setMgmt_images : (s.setMgmt n m).images = s.images := rfl
@[simp] theorem State.setMgmt_fuses : (s.setMgmt n m).fuses = s.fuses := rfl
@[simp] theorem State.setMgmt_owner : (s.setMgmt n m).owner = s.owner := rfl
@[simp] theorem State.setMgmt_measures : (s.setMgmt n m).measures = s.measures := rfl
@[simp] theorem State.setMgmt_doe : (s.setMgmt n m).doe = s.doe := rfl
@[simp] theorem State.setMgmt_portsDown : (s.setMgmt n m).portsDown = s.portsDown := rfl
@[simp] theorem State.setMgmt_outFabric : (s.setMgmt n m).outFabric = s.outFabric := rfl
@[simp] theorem State.setMgmt_remoteOps : (s.setMgmt n m).remoteOps = s.remoteOps := rfl
@[simp] theorem State.setMgmt_flushOut : (s.setMgmt n m).flushOut = s.flushOut := rfl
@[simp] theorem State.setMgmt_inFlight : (s.setMgmt n m).inFlight = s.inFlight := rfl
@[simp] theorem State.setMgmt_fabSeq : (s.setMgmt n m).fabSeq = s.fabSeq := rfl
@[simp] theorem State.setMgmt_flushIn : (s.setMgmt n m).flushIn = s.flushIn := rfl
@[simp] theorem State.setMgmt_autoRels : (s.setMgmt n m).autoRels = s.autoRels := rfl
@[simp] theorem State.setMgmt_snaps : (s.setMgmt n m).snaps = s.snaps := rfl
@[simp] theorem State.setMgmt_rdata : (s.setMgmt n m).rdata = s.rdata := rfl

/-! ## setPart -/

@[simp] theorem State.setPart_agenda : (s.setPart n p).agenda = s.agenda := rfl
@[simp] theorem State.setPart_rota : (s.setPart n p).rota = s.rota := rfl
@[simp] theorem State.setPart_cur : (s.setPart n p).cur = s.cur := rfl
@[simp] theorem State.setPart_inp : (s.setPart n p).inp = s.inp := rfl
@[simp] theorem State.setPart_draws : (s.setPart n p).draws = s.draws := rfl
@[simp] theorem State.setPart_seq : (s.setPart n p).seq = s.seq := rfl
@[simp] theorem State.setPart_memEpoch : (s.setPart n p).memEpoch = s.memEpoch := rfl
@[simp] theorem State.setPart_via : (s.setPart n p).via = s.via := rfl
@[simp] theorem State.setPart_hot : (s.setPart n p).hot = s.hot := rfl
@[simp] theorem State.setPart_opTag : (s.setPart n p).opTag = s.opTag := rfl
@[simp] theorem State.setPart_mem : (s.setPart n p).mem = s.mem := rfl
@[simp] theorem State.setPart_bad : (s.setPart n p).bad = s.bad := rfl
@[simp] theorem State.setPart_l2 : (s.setPart n p).l2 = s.l2 := rfl
@[simp] theorem State.setPart_cores : (s.setPart n p).cores = s.cores := rfl
@[simp] theorem State.setPart_swapped : (s.setPart n p).swapped = s.swapped := rfl
@[simp] theorem State.setPart_tiles : (s.setPart n p).tiles = s.tiles := rfl
@[simp] theorem State.setPart_stopped : (s.setPart n p).stopped = s.stopped := rfl
@[simp] theorem State.setPart_mgmts : (s.setPart n p).mgmts = s.mgmts := rfl
@[simp] theorem State.setPart_launches : (s.setPart n p).launches = s.launches := rfl
@[simp] theorem State.setPart_dlqs : (s.setPart n p).dlqs = s.dlqs := rfl
@[simp] theorem State.setPart_cairns : (s.setPart n p).cairns = s.cairns := rfl
@[simp] theorem State.setPart_wayposts : (s.setPart n p).wayposts = s.wayposts := rfl
@[simp] theorem State.setPart_tlb : (s.setPart n p).tlb = s.tlb := rfl
@[simp] theorem State.setPart_mtlb : (s.setPart n p).mtlb = s.mtlb := rfl
@[simp] theorem State.setPart_roCache : (s.setPart n p).roCache = s.roCache := rfl
@[simp] theorem State.setPart_wcache : (s.setPart n p).wcache = s.wcache := rfl
@[simp] theorem State.setPart_walkers : (s.setPart n p).walkers = s.walkers := rfl
@[simp] theorem State.setPart_issueFail : (s.setPart n p).issueFail = s.issueFail := rfl
@[simp] theorem State.setPart_traces : (s.setPart n p).traces = s.traces := rfl
@[simp] theorem State.setPart_time : (s.setPart n p).time = s.time := rfl
@[simp] theorem State.setPart_dmode : (s.setPart n p).dmode = s.dmode := rfl
@[simp] theorem State.setPart_bstat : (s.setPart n p).bstat = s.bstat := rfl
@[simp] theorem State.setPart_hfstat : (s.setPart n p).hfstat = s.hfstat := rfl
@[simp] theorem State.setPart_devid : (s.setPart n p).devid = s.devid := rfl
@[simp] theorem State.setPart_vfmap : (s.setPart n p).vfmap = s.vfmap := rfl
@[simp] theorem State.setPart_fabctl : (s.setPart n p).fabctl = s.fabctl := rfl
@[simp] theorem State.setPart_drst : (s.setPart n p).drst = s.drst := rfl
@[simp] theorem State.setPart_drcnt : (s.setPart n p).drcnt = s.drcnt := rfl
@[simp] theorem State.setPart_rstDie : (s.setPart n p).rstDie = s.rstDie := rfl
@[simp] theorem State.setPart_rtab : (s.setPart n p).rtab = s.rtab := rfl
@[simp] theorem State.setPart_deadDies : (s.setPart n p).deadDies = s.deadDies := rfl
@[simp] theorem State.setPart_fabOrdered : (s.setPart n p).fabOrdered = s.fabOrdered := rfl
@[simp] theorem State.setPart_keyGen : (s.setPart n p).keyGen = s.keyGen := rfl
@[simp] theorem State.setPart_fns : (s.setPart n p).fns = s.fns := rfl
@[simp] theorem State.setPart_flash : (s.setPart n p).flash = s.flash := rfl
@[simp] theorem State.setPart_flashBlock : (s.setPart n p).flashBlock = s.flashBlock := rfl
@[simp] theorem State.setPart_images : (s.setPart n p).images = s.images := rfl
@[simp] theorem State.setPart_fuses : (s.setPart n p).fuses = s.fuses := rfl
@[simp] theorem State.setPart_owner : (s.setPart n p).owner = s.owner := rfl
@[simp] theorem State.setPart_measures : (s.setPart n p).measures = s.measures := rfl
@[simp] theorem State.setPart_doe : (s.setPart n p).doe = s.doe := rfl
@[simp] theorem State.setPart_portsDown : (s.setPart n p).portsDown = s.portsDown := rfl
@[simp] theorem State.setPart_outFabric : (s.setPart n p).outFabric = s.outFabric := rfl
@[simp] theorem State.setPart_remoteOps : (s.setPart n p).remoteOps = s.remoteOps := rfl
@[simp] theorem State.setPart_flushOut : (s.setPart n p).flushOut = s.flushOut := rfl
@[simp] theorem State.setPart_inFlight : (s.setPart n p).inFlight = s.inFlight := rfl
@[simp] theorem State.setPart_fabSeq : (s.setPart n p).fabSeq = s.fabSeq := rfl
@[simp] theorem State.setPart_flushIn : (s.setPart n p).flushIn = s.flushIn := rfl
@[simp] theorem State.setPart_autoRels : (s.setPart n p).autoRels = s.autoRels := rfl
@[simp] theorem State.setPart_snaps : (s.setPart n p).snaps = s.snaps := rfl
@[simp] theorem State.setPart_rdata : (s.setPart n p).rdata = s.rdata := rfl

/-! ## setLaunch -/

@[simp] theorem State.setLaunch_agenda : (s.setLaunch n l).agenda = s.agenda := rfl
@[simp] theorem State.setLaunch_rota : (s.setLaunch n l).rota = s.rota := rfl
@[simp] theorem State.setLaunch_cur : (s.setLaunch n l).cur = s.cur := rfl
@[simp] theorem State.setLaunch_inp : (s.setLaunch n l).inp = s.inp := rfl
@[simp] theorem State.setLaunch_draws : (s.setLaunch n l).draws = s.draws := rfl
@[simp] theorem State.setLaunch_seq : (s.setLaunch n l).seq = s.seq := rfl
@[simp] theorem State.setLaunch_memEpoch : (s.setLaunch n l).memEpoch = s.memEpoch := rfl
@[simp] theorem State.setLaunch_via : (s.setLaunch n l).via = s.via := rfl
@[simp] theorem State.setLaunch_hot : (s.setLaunch n l).hot = s.hot := rfl
@[simp] theorem State.setLaunch_opTag : (s.setLaunch n l).opTag = s.opTag := rfl
@[simp] theorem State.setLaunch_mem : (s.setLaunch n l).mem = s.mem := rfl
@[simp] theorem State.setLaunch_bad : (s.setLaunch n l).bad = s.bad := rfl
@[simp] theorem State.setLaunch_l2 : (s.setLaunch n l).l2 = s.l2 := rfl
@[simp] theorem State.setLaunch_cores : (s.setLaunch n l).cores = s.cores := rfl
@[simp] theorem State.setLaunch_swapped : (s.setLaunch n l).swapped = s.swapped := rfl
@[simp] theorem State.setLaunch_tiles : (s.setLaunch n l).tiles = s.tiles := rfl
@[simp] theorem State.setLaunch_stopped : (s.setLaunch n l).stopped = s.stopped := rfl
@[simp] theorem State.setLaunch_mgmts : (s.setLaunch n l).mgmts = s.mgmts := rfl
@[simp] theorem State.setLaunch_parts : (s.setLaunch n l).parts = s.parts := rfl
@[simp] theorem State.setLaunch_dlqs : (s.setLaunch n l).dlqs = s.dlqs := rfl
@[simp] theorem State.setLaunch_cairns : (s.setLaunch n l).cairns = s.cairns := rfl
@[simp] theorem State.setLaunch_wayposts : (s.setLaunch n l).wayposts = s.wayposts := rfl
@[simp] theorem State.setLaunch_tlb : (s.setLaunch n l).tlb = s.tlb := rfl
@[simp] theorem State.setLaunch_mtlb : (s.setLaunch n l).mtlb = s.mtlb := rfl
@[simp] theorem State.setLaunch_roCache : (s.setLaunch n l).roCache = s.roCache := rfl
@[simp] theorem State.setLaunch_wcache : (s.setLaunch n l).wcache = s.wcache := rfl
@[simp] theorem State.setLaunch_walkers : (s.setLaunch n l).walkers = s.walkers := rfl
@[simp] theorem State.setLaunch_issueFail : (s.setLaunch n l).issueFail = s.issueFail := rfl
@[simp] theorem State.setLaunch_traces : (s.setLaunch n l).traces = s.traces := rfl
@[simp] theorem State.setLaunch_time : (s.setLaunch n l).time = s.time := rfl
@[simp] theorem State.setLaunch_dmode : (s.setLaunch n l).dmode = s.dmode := rfl
@[simp] theorem State.setLaunch_bstat : (s.setLaunch n l).bstat = s.bstat := rfl
@[simp] theorem State.setLaunch_hfstat : (s.setLaunch n l).hfstat = s.hfstat := rfl
@[simp] theorem State.setLaunch_devid : (s.setLaunch n l).devid = s.devid := rfl
@[simp] theorem State.setLaunch_vfmap : (s.setLaunch n l).vfmap = s.vfmap := rfl
@[simp] theorem State.setLaunch_fabctl : (s.setLaunch n l).fabctl = s.fabctl := rfl
@[simp] theorem State.setLaunch_drst : (s.setLaunch n l).drst = s.drst := rfl
@[simp] theorem State.setLaunch_drcnt : (s.setLaunch n l).drcnt = s.drcnt := rfl
@[simp] theorem State.setLaunch_rstDie : (s.setLaunch n l).rstDie = s.rstDie := rfl
@[simp] theorem State.setLaunch_rtab : (s.setLaunch n l).rtab = s.rtab := rfl
@[simp] theorem State.setLaunch_deadDies : (s.setLaunch n l).deadDies = s.deadDies := rfl
@[simp] theorem State.setLaunch_fabOrdered : (s.setLaunch n l).fabOrdered = s.fabOrdered := rfl
@[simp] theorem State.setLaunch_keyGen : (s.setLaunch n l).keyGen = s.keyGen := rfl
@[simp] theorem State.setLaunch_fns : (s.setLaunch n l).fns = s.fns := rfl
@[simp] theorem State.setLaunch_flash : (s.setLaunch n l).flash = s.flash := rfl
@[simp] theorem State.setLaunch_flashBlock : (s.setLaunch n l).flashBlock = s.flashBlock := rfl
@[simp] theorem State.setLaunch_images : (s.setLaunch n l).images = s.images := rfl
@[simp] theorem State.setLaunch_fuses : (s.setLaunch n l).fuses = s.fuses := rfl
@[simp] theorem State.setLaunch_owner : (s.setLaunch n l).owner = s.owner := rfl
@[simp] theorem State.setLaunch_measures : (s.setLaunch n l).measures = s.measures := rfl
@[simp] theorem State.setLaunch_doe : (s.setLaunch n l).doe = s.doe := rfl
@[simp] theorem State.setLaunch_portsDown : (s.setLaunch n l).portsDown = s.portsDown := rfl
@[simp] theorem State.setLaunch_outFabric : (s.setLaunch n l).outFabric = s.outFabric := rfl
@[simp] theorem State.setLaunch_remoteOps : (s.setLaunch n l).remoteOps = s.remoteOps := rfl
@[simp] theorem State.setLaunch_flushOut : (s.setLaunch n l).flushOut = s.flushOut := rfl
@[simp] theorem State.setLaunch_inFlight : (s.setLaunch n l).inFlight = s.inFlight := rfl
@[simp] theorem State.setLaunch_fabSeq : (s.setLaunch n l).fabSeq = s.fabSeq := rfl
@[simp] theorem State.setLaunch_flushIn : (s.setLaunch n l).flushIn = s.flushIn := rfl
@[simp] theorem State.setLaunch_autoRels : (s.setLaunch n l).autoRels = s.autoRels := rfl
@[simp] theorem State.setLaunch_snaps : (s.setLaunch n l).snaps = s.snaps := rfl
@[simp] theorem State.setLaunch_rdata : (s.setLaunch n l).rdata = s.rdata := rfl

/-! ## setFn -/

@[simp] theorem State.setFn_agenda : (s.setFn n f).agenda = s.agenda := rfl
@[simp] theorem State.setFn_rota : (s.setFn n f).rota = s.rota := rfl
@[simp] theorem State.setFn_cur : (s.setFn n f).cur = s.cur := rfl
@[simp] theorem State.setFn_inp : (s.setFn n f).inp = s.inp := rfl
@[simp] theorem State.setFn_draws : (s.setFn n f).draws = s.draws := rfl
@[simp] theorem State.setFn_seq : (s.setFn n f).seq = s.seq := rfl
@[simp] theorem State.setFn_memEpoch : (s.setFn n f).memEpoch = s.memEpoch := rfl
@[simp] theorem State.setFn_via : (s.setFn n f).via = s.via := rfl
@[simp] theorem State.setFn_hot : (s.setFn n f).hot = s.hot := rfl
@[simp] theorem State.setFn_opTag : (s.setFn n f).opTag = s.opTag := rfl
@[simp] theorem State.setFn_mem : (s.setFn n f).mem = s.mem := rfl
@[simp] theorem State.setFn_bad : (s.setFn n f).bad = s.bad := rfl
@[simp] theorem State.setFn_l2 : (s.setFn n f).l2 = s.l2 := rfl
@[simp] theorem State.setFn_cores : (s.setFn n f).cores = s.cores := rfl
@[simp] theorem State.setFn_swapped : (s.setFn n f).swapped = s.swapped := rfl
@[simp] theorem State.setFn_tiles : (s.setFn n f).tiles = s.tiles := rfl
@[simp] theorem State.setFn_stopped : (s.setFn n f).stopped = s.stopped := rfl
@[simp] theorem State.setFn_mgmts : (s.setFn n f).mgmts = s.mgmts := rfl
@[simp] theorem State.setFn_parts : (s.setFn n f).parts = s.parts := rfl
@[simp] theorem State.setFn_launches : (s.setFn n f).launches = s.launches := rfl
@[simp] theorem State.setFn_dlqs : (s.setFn n f).dlqs = s.dlqs := rfl
@[simp] theorem State.setFn_cairns : (s.setFn n f).cairns = s.cairns := rfl
@[simp] theorem State.setFn_wayposts : (s.setFn n f).wayposts = s.wayposts := rfl
@[simp] theorem State.setFn_tlb : (s.setFn n f).tlb = s.tlb := rfl
@[simp] theorem State.setFn_mtlb : (s.setFn n f).mtlb = s.mtlb := rfl
@[simp] theorem State.setFn_roCache : (s.setFn n f).roCache = s.roCache := rfl
@[simp] theorem State.setFn_wcache : (s.setFn n f).wcache = s.wcache := rfl
@[simp] theorem State.setFn_walkers : (s.setFn n f).walkers = s.walkers := rfl
@[simp] theorem State.setFn_issueFail : (s.setFn n f).issueFail = s.issueFail := rfl
@[simp] theorem State.setFn_traces : (s.setFn n f).traces = s.traces := rfl
@[simp] theorem State.setFn_time : (s.setFn n f).time = s.time := rfl
@[simp] theorem State.setFn_dmode : (s.setFn n f).dmode = s.dmode := rfl
@[simp] theorem State.setFn_bstat : (s.setFn n f).bstat = s.bstat := rfl
@[simp] theorem State.setFn_hfstat : (s.setFn n f).hfstat = s.hfstat := rfl
@[simp] theorem State.setFn_devid : (s.setFn n f).devid = s.devid := rfl
@[simp] theorem State.setFn_vfmap : (s.setFn n f).vfmap = s.vfmap := rfl
@[simp] theorem State.setFn_fabctl : (s.setFn n f).fabctl = s.fabctl := rfl
@[simp] theorem State.setFn_drst : (s.setFn n f).drst = s.drst := rfl
@[simp] theorem State.setFn_drcnt : (s.setFn n f).drcnt = s.drcnt := rfl
@[simp] theorem State.setFn_rstDie : (s.setFn n f).rstDie = s.rstDie := rfl
@[simp] theorem State.setFn_rtab : (s.setFn n f).rtab = s.rtab := rfl
@[simp] theorem State.setFn_deadDies : (s.setFn n f).deadDies = s.deadDies := rfl
@[simp] theorem State.setFn_fabOrdered : (s.setFn n f).fabOrdered = s.fabOrdered := rfl
@[simp] theorem State.setFn_keyGen : (s.setFn n f).keyGen = s.keyGen := rfl
@[simp] theorem State.setFn_flash : (s.setFn n f).flash = s.flash := rfl
@[simp] theorem State.setFn_flashBlock : (s.setFn n f).flashBlock = s.flashBlock := rfl
@[simp] theorem State.setFn_images : (s.setFn n f).images = s.images := rfl
@[simp] theorem State.setFn_fuses : (s.setFn n f).fuses = s.fuses := rfl
@[simp] theorem State.setFn_owner : (s.setFn n f).owner = s.owner := rfl
@[simp] theorem State.setFn_measures : (s.setFn n f).measures = s.measures := rfl
@[simp] theorem State.setFn_doe : (s.setFn n f).doe = s.doe := rfl
@[simp] theorem State.setFn_portsDown : (s.setFn n f).portsDown = s.portsDown := rfl
@[simp] theorem State.setFn_outFabric : (s.setFn n f).outFabric = s.outFabric := rfl
@[simp] theorem State.setFn_remoteOps : (s.setFn n f).remoteOps = s.remoteOps := rfl
@[simp] theorem State.setFn_flushOut : (s.setFn n f).flushOut = s.flushOut := rfl
@[simp] theorem State.setFn_inFlight : (s.setFn n f).inFlight = s.inFlight := rfl
@[simp] theorem State.setFn_fabSeq : (s.setFn n f).fabSeq = s.fabSeq := rfl
@[simp] theorem State.setFn_flushIn : (s.setFn n f).flushIn = s.flushIn := rfl
@[simp] theorem State.setFn_autoRels : (s.setFn n f).autoRels = s.autoRels := rfl
@[simp] theorem State.setFn_snaps : (s.setFn n f).snaps = s.snaps := rfl
@[simp] theorem State.setFn_rdata : (s.setFn n f).rdata = s.rdata := rfl

/-! ## setDlq -/

@[simp] theorem State.setDlq_agenda : (s.setDlq n q).agenda = s.agenda := rfl
@[simp] theorem State.setDlq_rota : (s.setDlq n q).rota = s.rota := rfl
@[simp] theorem State.setDlq_cur : (s.setDlq n q).cur = s.cur := rfl
@[simp] theorem State.setDlq_inp : (s.setDlq n q).inp = s.inp := rfl
@[simp] theorem State.setDlq_draws : (s.setDlq n q).draws = s.draws := rfl
@[simp] theorem State.setDlq_seq : (s.setDlq n q).seq = s.seq := rfl
@[simp] theorem State.setDlq_memEpoch : (s.setDlq n q).memEpoch = s.memEpoch := rfl
@[simp] theorem State.setDlq_via : (s.setDlq n q).via = s.via := rfl
@[simp] theorem State.setDlq_hot : (s.setDlq n q).hot = s.hot := rfl
@[simp] theorem State.setDlq_opTag : (s.setDlq n q).opTag = s.opTag := rfl
@[simp] theorem State.setDlq_mem : (s.setDlq n q).mem = s.mem := rfl
@[simp] theorem State.setDlq_bad : (s.setDlq n q).bad = s.bad := rfl
@[simp] theorem State.setDlq_l2 : (s.setDlq n q).l2 = s.l2 := rfl
@[simp] theorem State.setDlq_cores : (s.setDlq n q).cores = s.cores := rfl
@[simp] theorem State.setDlq_swapped : (s.setDlq n q).swapped = s.swapped := rfl
@[simp] theorem State.setDlq_tiles : (s.setDlq n q).tiles = s.tiles := rfl
@[simp] theorem State.setDlq_stopped : (s.setDlq n q).stopped = s.stopped := rfl
@[simp] theorem State.setDlq_mgmts : (s.setDlq n q).mgmts = s.mgmts := rfl
@[simp] theorem State.setDlq_parts : (s.setDlq n q).parts = s.parts := rfl
@[simp] theorem State.setDlq_launches : (s.setDlq n q).launches = s.launches := rfl
@[simp] theorem State.setDlq_cairns : (s.setDlq n q).cairns = s.cairns := rfl
@[simp] theorem State.setDlq_wayposts : (s.setDlq n q).wayposts = s.wayposts := rfl
@[simp] theorem State.setDlq_tlb : (s.setDlq n q).tlb = s.tlb := rfl
@[simp] theorem State.setDlq_mtlb : (s.setDlq n q).mtlb = s.mtlb := rfl
@[simp] theorem State.setDlq_roCache : (s.setDlq n q).roCache = s.roCache := rfl
@[simp] theorem State.setDlq_wcache : (s.setDlq n q).wcache = s.wcache := rfl
@[simp] theorem State.setDlq_walkers : (s.setDlq n q).walkers = s.walkers := rfl
@[simp] theorem State.setDlq_issueFail : (s.setDlq n q).issueFail = s.issueFail := rfl
@[simp] theorem State.setDlq_traces : (s.setDlq n q).traces = s.traces := rfl
@[simp] theorem State.setDlq_time : (s.setDlq n q).time = s.time := rfl
@[simp] theorem State.setDlq_dmode : (s.setDlq n q).dmode = s.dmode := rfl
@[simp] theorem State.setDlq_bstat : (s.setDlq n q).bstat = s.bstat := rfl
@[simp] theorem State.setDlq_hfstat : (s.setDlq n q).hfstat = s.hfstat := rfl
@[simp] theorem State.setDlq_devid : (s.setDlq n q).devid = s.devid := rfl
@[simp] theorem State.setDlq_vfmap : (s.setDlq n q).vfmap = s.vfmap := rfl
@[simp] theorem State.setDlq_fabctl : (s.setDlq n q).fabctl = s.fabctl := rfl
@[simp] theorem State.setDlq_drst : (s.setDlq n q).drst = s.drst := rfl
@[simp] theorem State.setDlq_drcnt : (s.setDlq n q).drcnt = s.drcnt := rfl
@[simp] theorem State.setDlq_rstDie : (s.setDlq n q).rstDie = s.rstDie := rfl
@[simp] theorem State.setDlq_rtab : (s.setDlq n q).rtab = s.rtab := rfl
@[simp] theorem State.setDlq_deadDies : (s.setDlq n q).deadDies = s.deadDies := rfl
@[simp] theorem State.setDlq_fabOrdered : (s.setDlq n q).fabOrdered = s.fabOrdered := rfl
@[simp] theorem State.setDlq_keyGen : (s.setDlq n q).keyGen = s.keyGen := rfl
@[simp] theorem State.setDlq_fns : (s.setDlq n q).fns = s.fns := rfl
@[simp] theorem State.setDlq_flash : (s.setDlq n q).flash = s.flash := rfl
@[simp] theorem State.setDlq_flashBlock : (s.setDlq n q).flashBlock = s.flashBlock := rfl
@[simp] theorem State.setDlq_images : (s.setDlq n q).images = s.images := rfl
@[simp] theorem State.setDlq_fuses : (s.setDlq n q).fuses = s.fuses := rfl
@[simp] theorem State.setDlq_owner : (s.setDlq n q).owner = s.owner := rfl
@[simp] theorem State.setDlq_measures : (s.setDlq n q).measures = s.measures := rfl
@[simp] theorem State.setDlq_doe : (s.setDlq n q).doe = s.doe := rfl
@[simp] theorem State.setDlq_portsDown : (s.setDlq n q).portsDown = s.portsDown := rfl
@[simp] theorem State.setDlq_outFabric : (s.setDlq n q).outFabric = s.outFabric := rfl
@[simp] theorem State.setDlq_remoteOps : (s.setDlq n q).remoteOps = s.remoteOps := rfl
@[simp] theorem State.setDlq_flushOut : (s.setDlq n q).flushOut = s.flushOut := rfl
@[simp] theorem State.setDlq_inFlight : (s.setDlq n q).inFlight = s.inFlight := rfl
@[simp] theorem State.setDlq_fabSeq : (s.setDlq n q).fabSeq = s.fabSeq := rfl
@[simp] theorem State.setDlq_flushIn : (s.setDlq n q).flushIn = s.flushIn := rfl
@[simp] theorem State.setDlq_autoRels : (s.setDlq n q).autoRels = s.autoRels := rfl
@[simp] theorem State.setDlq_snaps : (s.setDlq n q).snaps = s.snaps := rfl
@[simp] theorem State.setDlq_rdata : (s.setDlq n q).rdata = s.rdata := rfl

/-! ## setCairn -/

@[simp] theorem State.setCairn_agenda : (s.setCairn n x).agenda = s.agenda := rfl
@[simp] theorem State.setCairn_rota : (s.setCairn n x).rota = s.rota := rfl
@[simp] theorem State.setCairn_cur : (s.setCairn n x).cur = s.cur := rfl
@[simp] theorem State.setCairn_inp : (s.setCairn n x).inp = s.inp := rfl
@[simp] theorem State.setCairn_draws : (s.setCairn n x).draws = s.draws := rfl
@[simp] theorem State.setCairn_seq : (s.setCairn n x).seq = s.seq := rfl
@[simp] theorem State.setCairn_memEpoch : (s.setCairn n x).memEpoch = s.memEpoch := rfl
@[simp] theorem State.setCairn_via : (s.setCairn n x).via = s.via := rfl
@[simp] theorem State.setCairn_hot : (s.setCairn n x).hot = s.hot := rfl
@[simp] theorem State.setCairn_opTag : (s.setCairn n x).opTag = s.opTag := rfl
@[simp] theorem State.setCairn_mem : (s.setCairn n x).mem = s.mem := rfl
@[simp] theorem State.setCairn_bad : (s.setCairn n x).bad = s.bad := rfl
@[simp] theorem State.setCairn_l2 : (s.setCairn n x).l2 = s.l2 := rfl
@[simp] theorem State.setCairn_cores : (s.setCairn n x).cores = s.cores := rfl
@[simp] theorem State.setCairn_swapped : (s.setCairn n x).swapped = s.swapped := rfl
@[simp] theorem State.setCairn_tiles : (s.setCairn n x).tiles = s.tiles := rfl
@[simp] theorem State.setCairn_stopped : (s.setCairn n x).stopped = s.stopped := rfl
@[simp] theorem State.setCairn_mgmts : (s.setCairn n x).mgmts = s.mgmts := rfl
@[simp] theorem State.setCairn_parts : (s.setCairn n x).parts = s.parts := rfl
@[simp] theorem State.setCairn_launches : (s.setCairn n x).launches = s.launches := rfl
@[simp] theorem State.setCairn_dlqs : (s.setCairn n x).dlqs = s.dlqs := rfl
@[simp] theorem State.setCairn_wayposts : (s.setCairn n x).wayposts = s.wayposts := rfl
@[simp] theorem State.setCairn_tlb : (s.setCairn n x).tlb = s.tlb := rfl
@[simp] theorem State.setCairn_mtlb : (s.setCairn n x).mtlb = s.mtlb := rfl
@[simp] theorem State.setCairn_roCache : (s.setCairn n x).roCache = s.roCache := rfl
@[simp] theorem State.setCairn_wcache : (s.setCairn n x).wcache = s.wcache := rfl
@[simp] theorem State.setCairn_walkers : (s.setCairn n x).walkers = s.walkers := rfl
@[simp] theorem State.setCairn_issueFail : (s.setCairn n x).issueFail = s.issueFail := rfl
@[simp] theorem State.setCairn_traces : (s.setCairn n x).traces = s.traces := rfl
@[simp] theorem State.setCairn_time : (s.setCairn n x).time = s.time := rfl
@[simp] theorem State.setCairn_dmode : (s.setCairn n x).dmode = s.dmode := rfl
@[simp] theorem State.setCairn_bstat : (s.setCairn n x).bstat = s.bstat := rfl
@[simp] theorem State.setCairn_hfstat : (s.setCairn n x).hfstat = s.hfstat := rfl
@[simp] theorem State.setCairn_devid : (s.setCairn n x).devid = s.devid := rfl
@[simp] theorem State.setCairn_vfmap : (s.setCairn n x).vfmap = s.vfmap := rfl
@[simp] theorem State.setCairn_fabctl : (s.setCairn n x).fabctl = s.fabctl := rfl
@[simp] theorem State.setCairn_drst : (s.setCairn n x).drst = s.drst := rfl
@[simp] theorem State.setCairn_drcnt : (s.setCairn n x).drcnt = s.drcnt := rfl
@[simp] theorem State.setCairn_rstDie : (s.setCairn n x).rstDie = s.rstDie := rfl
@[simp] theorem State.setCairn_rtab : (s.setCairn n x).rtab = s.rtab := rfl
@[simp] theorem State.setCairn_deadDies : (s.setCairn n x).deadDies = s.deadDies := rfl
@[simp] theorem State.setCairn_fabOrdered : (s.setCairn n x).fabOrdered = s.fabOrdered := rfl
@[simp] theorem State.setCairn_keyGen : (s.setCairn n x).keyGen = s.keyGen := rfl
@[simp] theorem State.setCairn_fns : (s.setCairn n x).fns = s.fns := rfl
@[simp] theorem State.setCairn_flash : (s.setCairn n x).flash = s.flash := rfl
@[simp] theorem State.setCairn_flashBlock : (s.setCairn n x).flashBlock = s.flashBlock := rfl
@[simp] theorem State.setCairn_images : (s.setCairn n x).images = s.images := rfl
@[simp] theorem State.setCairn_fuses : (s.setCairn n x).fuses = s.fuses := rfl
@[simp] theorem State.setCairn_owner : (s.setCairn n x).owner = s.owner := rfl
@[simp] theorem State.setCairn_measures : (s.setCairn n x).measures = s.measures := rfl
@[simp] theorem State.setCairn_doe : (s.setCairn n x).doe = s.doe := rfl
@[simp] theorem State.setCairn_portsDown : (s.setCairn n x).portsDown = s.portsDown := rfl
@[simp] theorem State.setCairn_outFabric : (s.setCairn n x).outFabric = s.outFabric := rfl
@[simp] theorem State.setCairn_remoteOps : (s.setCairn n x).remoteOps = s.remoteOps := rfl
@[simp] theorem State.setCairn_flushOut : (s.setCairn n x).flushOut = s.flushOut := rfl
@[simp] theorem State.setCairn_inFlight : (s.setCairn n x).inFlight = s.inFlight := rfl
@[simp] theorem State.setCairn_fabSeq : (s.setCairn n x).fabSeq = s.fabSeq := rfl
@[simp] theorem State.setCairn_flushIn : (s.setCairn n x).flushIn = s.flushIn := rfl
@[simp] theorem State.setCairn_autoRels : (s.setCairn n x).autoRels = s.autoRels := rfl
@[simp] theorem State.setCairn_snaps : (s.setCairn n x).snaps = s.snaps := rfl
@[simp] theorem State.setCairn_rdata : (s.setCairn n x).rdata = s.rdata := rfl

/-! ## setTrc -/

@[simp] theorem State.setTrc_agenda : (s.setTrc n t).agenda = s.agenda := rfl
@[simp] theorem State.setTrc_rota : (s.setTrc n t).rota = s.rota := rfl
@[simp] theorem State.setTrc_cur : (s.setTrc n t).cur = s.cur := rfl
@[simp] theorem State.setTrc_inp : (s.setTrc n t).inp = s.inp := rfl
@[simp] theorem State.setTrc_draws : (s.setTrc n t).draws = s.draws := rfl
@[simp] theorem State.setTrc_seq : (s.setTrc n t).seq = s.seq := rfl
@[simp] theorem State.setTrc_memEpoch : (s.setTrc n t).memEpoch = s.memEpoch := rfl
@[simp] theorem State.setTrc_via : (s.setTrc n t).via = s.via := rfl
@[simp] theorem State.setTrc_hot : (s.setTrc n t).hot = s.hot := rfl
@[simp] theorem State.setTrc_opTag : (s.setTrc n t).opTag = s.opTag := rfl
@[simp] theorem State.setTrc_mem : (s.setTrc n t).mem = s.mem := rfl
@[simp] theorem State.setTrc_bad : (s.setTrc n t).bad = s.bad := rfl
@[simp] theorem State.setTrc_l2 : (s.setTrc n t).l2 = s.l2 := rfl
@[simp] theorem State.setTrc_cores : (s.setTrc n t).cores = s.cores := rfl
@[simp] theorem State.setTrc_swapped : (s.setTrc n t).swapped = s.swapped := rfl
@[simp] theorem State.setTrc_tiles : (s.setTrc n t).tiles = s.tiles := rfl
@[simp] theorem State.setTrc_stopped : (s.setTrc n t).stopped = s.stopped := rfl
@[simp] theorem State.setTrc_mgmts : (s.setTrc n t).mgmts = s.mgmts := rfl
@[simp] theorem State.setTrc_parts : (s.setTrc n t).parts = s.parts := rfl
@[simp] theorem State.setTrc_launches : (s.setTrc n t).launches = s.launches := rfl
@[simp] theorem State.setTrc_dlqs : (s.setTrc n t).dlqs = s.dlqs := rfl
@[simp] theorem State.setTrc_cairns : (s.setTrc n t).cairns = s.cairns := rfl
@[simp] theorem State.setTrc_wayposts : (s.setTrc n t).wayposts = s.wayposts := rfl
@[simp] theorem State.setTrc_tlb : (s.setTrc n t).tlb = s.tlb := rfl
@[simp] theorem State.setTrc_mtlb : (s.setTrc n t).mtlb = s.mtlb := rfl
@[simp] theorem State.setTrc_roCache : (s.setTrc n t).roCache = s.roCache := rfl
@[simp] theorem State.setTrc_wcache : (s.setTrc n t).wcache = s.wcache := rfl
@[simp] theorem State.setTrc_walkers : (s.setTrc n t).walkers = s.walkers := rfl
@[simp] theorem State.setTrc_issueFail : (s.setTrc n t).issueFail = s.issueFail := rfl
@[simp] theorem State.setTrc_time : (s.setTrc n t).time = s.time := rfl
@[simp] theorem State.setTrc_dmode : (s.setTrc n t).dmode = s.dmode := rfl
@[simp] theorem State.setTrc_bstat : (s.setTrc n t).bstat = s.bstat := rfl
@[simp] theorem State.setTrc_hfstat : (s.setTrc n t).hfstat = s.hfstat := rfl
@[simp] theorem State.setTrc_devid : (s.setTrc n t).devid = s.devid := rfl
@[simp] theorem State.setTrc_vfmap : (s.setTrc n t).vfmap = s.vfmap := rfl
@[simp] theorem State.setTrc_fabctl : (s.setTrc n t).fabctl = s.fabctl := rfl
@[simp] theorem State.setTrc_drst : (s.setTrc n t).drst = s.drst := rfl
@[simp] theorem State.setTrc_drcnt : (s.setTrc n t).drcnt = s.drcnt := rfl
@[simp] theorem State.setTrc_rstDie : (s.setTrc n t).rstDie = s.rstDie := rfl
@[simp] theorem State.setTrc_rtab : (s.setTrc n t).rtab = s.rtab := rfl
@[simp] theorem State.setTrc_deadDies : (s.setTrc n t).deadDies = s.deadDies := rfl
@[simp] theorem State.setTrc_fabOrdered : (s.setTrc n t).fabOrdered = s.fabOrdered := rfl
@[simp] theorem State.setTrc_keyGen : (s.setTrc n t).keyGen = s.keyGen := rfl
@[simp] theorem State.setTrc_fns : (s.setTrc n t).fns = s.fns := rfl
@[simp] theorem State.setTrc_flash : (s.setTrc n t).flash = s.flash := rfl
@[simp] theorem State.setTrc_flashBlock : (s.setTrc n t).flashBlock = s.flashBlock := rfl
@[simp] theorem State.setTrc_images : (s.setTrc n t).images = s.images := rfl
@[simp] theorem State.setTrc_fuses : (s.setTrc n t).fuses = s.fuses := rfl
@[simp] theorem State.setTrc_owner : (s.setTrc n t).owner = s.owner := rfl
@[simp] theorem State.setTrc_measures : (s.setTrc n t).measures = s.measures := rfl
@[simp] theorem State.setTrc_doe : (s.setTrc n t).doe = s.doe := rfl
@[simp] theorem State.setTrc_portsDown : (s.setTrc n t).portsDown = s.portsDown := rfl
@[simp] theorem State.setTrc_outFabric : (s.setTrc n t).outFabric = s.outFabric := rfl
@[simp] theorem State.setTrc_remoteOps : (s.setTrc n t).remoteOps = s.remoteOps := rfl
@[simp] theorem State.setTrc_flushOut : (s.setTrc n t).flushOut = s.flushOut := rfl
@[simp] theorem State.setTrc_inFlight : (s.setTrc n t).inFlight = s.inFlight := rfl
@[simp] theorem State.setTrc_fabSeq : (s.setTrc n t).fabSeq = s.fabSeq := rfl
@[simp] theorem State.setTrc_flushIn : (s.setTrc n t).flushIn = s.flushIn := rfl
@[simp] theorem State.setTrc_autoRels : (s.setTrc n t).autoRels = s.autoRels := rfl
@[simp] theorem State.setTrc_snaps : (s.setTrc n t).snaps = s.snaps := rfl
@[simp] theorem State.setTrc_rdata : (s.setTrc n t).rdata = s.rdata := rfl

/-! ## putByte -/

@[simp] theorem State.putByte_agenda : (s.putByte n b).agenda = s.agenda := rfl
@[simp] theorem State.putByte_rota : (s.putByte n b).rota = s.rota := rfl
@[simp] theorem State.putByte_cur : (s.putByte n b).cur = s.cur := rfl
@[simp] theorem State.putByte_inp : (s.putByte n b).inp = s.inp := rfl
@[simp] theorem State.putByte_draws : (s.putByte n b).draws = s.draws := rfl
@[simp] theorem State.putByte_seq : (s.putByte n b).seq = s.seq := rfl
@[simp] theorem State.putByte_memEpoch : (s.putByte n b).memEpoch = s.memEpoch := rfl
@[simp] theorem State.putByte_via : (s.putByte n b).via = s.via := rfl
@[simp] theorem State.putByte_hot : (s.putByte n b).hot = s.hot := rfl
@[simp] theorem State.putByte_opTag : (s.putByte n b).opTag = s.opTag := rfl
@[simp] theorem State.putByte_bad : (s.putByte n b).bad = s.bad := rfl
@[simp] theorem State.putByte_l2 : (s.putByte n b).l2 = s.l2 := rfl
@[simp] theorem State.putByte_cores : (s.putByte n b).cores = s.cores := rfl
@[simp] theorem State.putByte_swapped : (s.putByte n b).swapped = s.swapped := rfl
@[simp] theorem State.putByte_tiles : (s.putByte n b).tiles = s.tiles := rfl
@[simp] theorem State.putByte_stopped : (s.putByte n b).stopped = s.stopped := rfl
@[simp] theorem State.putByte_mgmts : (s.putByte n b).mgmts = s.mgmts := rfl
@[simp] theorem State.putByte_parts : (s.putByte n b).parts = s.parts := rfl
@[simp] theorem State.putByte_launches : (s.putByte n b).launches = s.launches := rfl
@[simp] theorem State.putByte_dlqs : (s.putByte n b).dlqs = s.dlqs := rfl
@[simp] theorem State.putByte_cairns : (s.putByte n b).cairns = s.cairns := rfl
@[simp] theorem State.putByte_wayposts : (s.putByte n b).wayposts = s.wayposts := rfl
@[simp] theorem State.putByte_tlb : (s.putByte n b).tlb = s.tlb := rfl
@[simp] theorem State.putByte_mtlb : (s.putByte n b).mtlb = s.mtlb := rfl
@[simp] theorem State.putByte_roCache : (s.putByte n b).roCache = s.roCache := rfl
@[simp] theorem State.putByte_wcache : (s.putByte n b).wcache = s.wcache := rfl
@[simp] theorem State.putByte_walkers : (s.putByte n b).walkers = s.walkers := rfl
@[simp] theorem State.putByte_issueFail : (s.putByte n b).issueFail = s.issueFail := rfl
@[simp] theorem State.putByte_traces : (s.putByte n b).traces = s.traces := rfl
@[simp] theorem State.putByte_time : (s.putByte n b).time = s.time := rfl
@[simp] theorem State.putByte_dmode : (s.putByte n b).dmode = s.dmode := rfl
@[simp] theorem State.putByte_bstat : (s.putByte n b).bstat = s.bstat := rfl
@[simp] theorem State.putByte_hfstat : (s.putByte n b).hfstat = s.hfstat := rfl
@[simp] theorem State.putByte_devid : (s.putByte n b).devid = s.devid := rfl
@[simp] theorem State.putByte_vfmap : (s.putByte n b).vfmap = s.vfmap := rfl
@[simp] theorem State.putByte_fabctl : (s.putByte n b).fabctl = s.fabctl := rfl
@[simp] theorem State.putByte_drst : (s.putByte n b).drst = s.drst := rfl
@[simp] theorem State.putByte_drcnt : (s.putByte n b).drcnt = s.drcnt := rfl
@[simp] theorem State.putByte_rstDie : (s.putByte n b).rstDie = s.rstDie := rfl
@[simp] theorem State.putByte_rtab : (s.putByte n b).rtab = s.rtab := rfl
@[simp] theorem State.putByte_deadDies : (s.putByte n b).deadDies = s.deadDies := rfl
@[simp] theorem State.putByte_fabOrdered : (s.putByte n b).fabOrdered = s.fabOrdered := rfl
@[simp] theorem State.putByte_keyGen : (s.putByte n b).keyGen = s.keyGen := rfl
@[simp] theorem State.putByte_fns : (s.putByte n b).fns = s.fns := rfl
@[simp] theorem State.putByte_flash : (s.putByte n b).flash = s.flash := rfl
@[simp] theorem State.putByte_flashBlock : (s.putByte n b).flashBlock = s.flashBlock := rfl
@[simp] theorem State.putByte_images : (s.putByte n b).images = s.images := rfl
@[simp] theorem State.putByte_fuses : (s.putByte n b).fuses = s.fuses := rfl
@[simp] theorem State.putByte_owner : (s.putByte n b).owner = s.owner := rfl
@[simp] theorem State.putByte_measures : (s.putByte n b).measures = s.measures := rfl
@[simp] theorem State.putByte_doe : (s.putByte n b).doe = s.doe := rfl
@[simp] theorem State.putByte_portsDown : (s.putByte n b).portsDown = s.portsDown := rfl
@[simp] theorem State.putByte_outFabric : (s.putByte n b).outFabric = s.outFabric := rfl
@[simp] theorem State.putByte_remoteOps : (s.putByte n b).remoteOps = s.remoteOps := rfl
@[simp] theorem State.putByte_flushOut : (s.putByte n b).flushOut = s.flushOut := rfl
@[simp] theorem State.putByte_inFlight : (s.putByte n b).inFlight = s.inFlight := rfl
@[simp] theorem State.putByte_fabSeq : (s.putByte n b).fabSeq = s.fabSeq := rfl
@[simp] theorem State.putByte_flushIn : (s.putByte n b).flushIn = s.flushIn := rfl
@[simp] theorem State.putByte_autoRels : (s.putByte n b).autoRels = s.autoRels := rfl
@[simp] theorem State.putByte_snaps : (s.putByte n b).snaps = s.snaps := rfl
@[simp] theorem State.putByte_rdata : (s.putByte n b).rdata = s.rdata := rfl

/-! ## The scalar thread -/

@[simp] theorem Thread.advance_x : th.advance.x = th.x := rfl
@[simp] theorem Thread.advance_pc : th.advance.pc = th.pc + 4 := rfl
@[simp] theorem Thread.advance_lpc : th.advance.lpc = th.lpc := rfl
@[simp] theorem Thread.advance_m : th.advance.m = th.m := rfl
@[simp] theorem Thread.advance_mstack : th.advance.mstack = th.mstack := rfl
@[simp] theorem Thread.advance_rstack : th.advance.rstack = th.rstack := rfl
@[simp] theorem Thread.advance_lq : th.advance.lq = th.lq := rfl
@[simp] theorem Thread.advance_path : th.advance.path = th.path := rfl
@[simp] theorem Thread.advance_slices : th.advance.slices = th.slices := rfl
@[simp] theorem Thread.advance_fmt : th.advance.fmt = th.fmt := rfl
@[simp] theorem Thread.advance_msts : th.advance.msts = th.msts := rfl
@[simp] theorem Thread.advance_srkey : th.advance.srkey = th.srkey := rfl
@[simp] theorem Thread.advance_srctr : th.advance.srctr = th.srctr := rfl
@[simp] theorem Thread.advance_tmode : th.advance.tmode = th.tmode := rfl
@[simp] theorem Thread.advance_tvec : th.advance.tvec = th.tvec := rfl
@[simp] theorem Thread.advance_tcause : th.advance.tcause = th.tcause := rfl
@[simp] theorem Thread.advance_tepc : th.advance.tepc = th.tepc := rfl
@[simp] theorem Thread.advance_tlpc : th.advance.tlpc = th.tlpc := rfl
@[simp] theorem Thread.advance_tiss : th.advance.tiss = th.tiss := rfl
@[simp] theorem Thread.advance_taddr : th.advance.taddr = th.taddr := rfl
@[simp] theorem Thread.advance_tmaskr : th.advance.tmaskr = th.tmaskr := rfl
@[simp] theorem Thread.advance_tenq : th.advance.tenq = th.tenq := rfl
@[simp] theorem Thread.advance_tsaved : th.advance.tsaved = th.tsaved := rfl
@[simp] theorem Thread.advance_tiw : th.advance.tiw = th.tiw := rfl
@[simp] theorem Thread.advance_tsave : th.advance.tsave = th.tsave := rfl
@[simp] theorem Thread.advance_parked : th.advance.parked = th.parked := rfl
@[simp] theorem Thread.advance_issRem : th.advance.issRem = th.issRem := rfl
@[simp] theorem Thread.advance_wait : th.advance.wait = th.wait := rfl
@[simp] theorem Thread.advance_waitWord : th.advance.waitWord = th.waitWord := rfl
@[simp] theorem Thread.advance_posted : th.advance.posted = th.posted := rfl
@[simp] theorem Thread.advance_spin : th.advance.spin = th.spin := rfl

@[simp] theorem Thread.setX_pc : (th.setX n w).pc = th.pc := by unfold Thread.setX; split <;> rfl
@[simp] theorem Thread.setX_lpc : (th.setX n w).lpc = th.lpc := by unfold Thread.setX; split <;> rfl
@[simp] theorem Thread.setX_m : (th.setX n w).m = th.m := by unfold Thread.setX; split <;> rfl
@[simp] theorem Thread.setX_mstack : (th.setX n w).mstack = th.mstack := by unfold Thread.setX; split <;> rfl
@[simp] theorem Thread.setX_rstack : (th.setX n w).rstack = th.rstack := by unfold Thread.setX; split <;> rfl
@[simp] theorem Thread.setX_lq : (th.setX n w).lq = th.lq := by unfold Thread.setX; split <;> rfl
@[simp] theorem Thread.setX_path : (th.setX n w).path = th.path := by unfold Thread.setX; split <;> rfl
@[simp] theorem Thread.setX_slices : (th.setX n w).slices = th.slices := by unfold Thread.setX; split <;> rfl
@[simp] theorem Thread.setX_fmt : (th.setX n w).fmt = th.fmt := by unfold Thread.setX; split <;> rfl
@[simp] theorem Thread.setX_msts : (th.setX n w).msts = th.msts := by unfold Thread.setX; split <;> rfl
@[simp] theorem Thread.setX_srkey : (th.setX n w).srkey = th.srkey := by unfold Thread.setX; split <;> rfl
@[simp] theorem Thread.setX_srctr : (th.setX n w).srctr = th.srctr := by unfold Thread.setX; split <;> rfl
@[simp] theorem Thread.setX_tmode : (th.setX n w).tmode = th.tmode := by unfold Thread.setX; split <;> rfl
@[simp] theorem Thread.setX_tvec : (th.setX n w).tvec = th.tvec := by unfold Thread.setX; split <;> rfl
@[simp] theorem Thread.setX_tcause : (th.setX n w).tcause = th.tcause := by unfold Thread.setX; split <;> rfl
@[simp] theorem Thread.setX_tepc : (th.setX n w).tepc = th.tepc := by unfold Thread.setX; split <;> rfl
@[simp] theorem Thread.setX_tlpc : (th.setX n w).tlpc = th.tlpc := by unfold Thread.setX; split <;> rfl
@[simp] theorem Thread.setX_tiss : (th.setX n w).tiss = th.tiss := by unfold Thread.setX; split <;> rfl
@[simp] theorem Thread.setX_taddr : (th.setX n w).taddr = th.taddr := by unfold Thread.setX; split <;> rfl
@[simp] theorem Thread.setX_tmaskr : (th.setX n w).tmaskr = th.tmaskr := by unfold Thread.setX; split <;> rfl
@[simp] theorem Thread.setX_tenq : (th.setX n w).tenq = th.tenq := by unfold Thread.setX; split <;> rfl
@[simp] theorem Thread.setX_tsaved : (th.setX n w).tsaved = th.tsaved := by unfold Thread.setX; split <;> rfl
@[simp] theorem Thread.setX_tiw : (th.setX n w).tiw = th.tiw := by unfold Thread.setX; split <;> rfl
@[simp] theorem Thread.setX_tsave : (th.setX n w).tsave = th.tsave := by unfold Thread.setX; split <;> rfl
@[simp] theorem Thread.setX_parked : (th.setX n w).parked = th.parked := by unfold Thread.setX; split <;> rfl
@[simp] theorem Thread.setX_issRem : (th.setX n w).issRem = th.issRem := by unfold Thread.setX; split <;> rfl
@[simp] theorem Thread.setX_wait : (th.setX n w).wait = th.wait := by unfold Thread.setX; split <;> rfl
@[simp] theorem Thread.setX_waitWord : (th.setX n w).waitWord = th.waitWord := by unfold Thread.setX; split <;> rfl
@[simp] theorem Thread.setX_posted : (th.setX n w).posted = th.posted := by unfold Thread.setX; split <;> rfl
@[simp] theorem Thread.setX_spin : (th.setX n w).spin = th.spin := by unfold Thread.setX; split <;> rfl

@[simp] theorem Thread.trapRegs_x : (th.trapRegs ti).x = th.x := rfl
@[simp] theorem Thread.trapRegs_pc : (th.trapRegs ti).pc = th.pc := rfl
@[simp] theorem Thread.trapRegs_lpc : (th.trapRegs ti).lpc = th.lpc := rfl
@[simp] theorem Thread.trapRegs_m : (th.trapRegs ti).m = th.m := rfl
@[simp] theorem Thread.trapRegs_mstack : (th.trapRegs ti).mstack = th.mstack := rfl
@[simp] theorem Thread.trapRegs_rstack : (th.trapRegs ti).rstack = th.rstack := rfl
@[simp] theorem Thread.trapRegs_lq : (th.trapRegs ti).lq = [] := rfl
@[simp] theorem Thread.trapRegs_path : (th.trapRegs ti).path = th.path := rfl
@[simp] theorem Thread.trapRegs_slices : (th.trapRegs ti).slices = th.slices := rfl
@[simp] theorem Thread.trapRegs_fmt : (th.trapRegs ti).fmt = th.fmt := rfl
@[simp] theorem Thread.trapRegs_msts : (th.trapRegs ti).msts = th.msts := rfl
@[simp] theorem Thread.trapRegs_srkey : (th.trapRegs ti).srkey = th.srkey := rfl
@[simp] theorem Thread.trapRegs_srctr : (th.trapRegs ti).srctr = th.srctr := rfl
@[simp] theorem Thread.trapRegs_tmode : (th.trapRegs ti).tmode = th.tmode := rfl
@[simp] theorem Thread.trapRegs_tvec : (th.trapRegs ti).tvec = th.tvec := rfl
@[simp] theorem Thread.trapRegs_tcause : (th.trapRegs ti).tcause = BitVec.ofNat 32 (tcauseWord ti (trapCause th ti.cause)) := rfl
@[simp] theorem Thread.trapRegs_tepc : (th.trapRegs ti).tepc = ti.tepc := rfl
@[simp] theorem Thread.trapRegs_tlpc : (th.trapRegs ti).tlpc = ti.tlpc := rfl
@[simp] theorem Thread.trapRegs_tiss : (th.trapRegs ti).tiss = ti.tiss := rfl
@[simp] theorem Thread.trapRegs_taddr : (th.trapRegs ti).taddr = ti.taddr := rfl
@[simp] theorem Thread.trapRegs_tmaskr : (th.trapRegs ti).tmaskr = ti.tmaskr := rfl
@[simp] theorem Thread.trapRegs_tenq : (th.trapRegs ti).tenq = ti.tenq := rfl
@[simp] theorem Thread.trapRegs_tsaved : (th.trapRegs ti).tsaved = ti.saved := rfl
@[simp] theorem Thread.trapRegs_tiw : (th.trapRegs ti).tiw = ti.tiw := rfl
@[simp] theorem Thread.trapRegs_tsave : (th.trapRegs ti).tsave = th.tsave := rfl
@[simp] theorem Thread.trapRegs_parked : (th.trapRegs ti).parked = th.parked := rfl
@[simp] theorem Thread.trapRegs_issRem : (th.trapRegs ti).issRem = 0 := rfl
@[simp] theorem Thread.trapRegs_wait : (th.trapRegs ti).wait = .none := rfl
@[simp] theorem Thread.trapRegs_waitWord : (th.trapRegs ti).waitWord = th.waitWord := rfl
@[simp] theorem Thread.trapRegs_posted : (th.trapRegs ti).posted = th.posted := rfl
@[simp] theorem Thread.trapRegs_spin : (th.trapRegs ti).spin = {} := rfl

/-- x0 reads zero whatever was written to it. -/
@[simp] theorem Thread.getX_zero : th.getX 0 = 0 := rfl

/-- A write to x0 is discarded. -/
@[simp] theorem Thread.setX_zero : th.setX 0 w = th := rfl

/-- What a register of a thread reads after a write of another or of itself. -/
theorem Thread.getX_setX {th : Thread} (h : SMap.wf 0 th.x = true) (d j : Nat) (v : W64) :
    (th.setX d v).getX j = if j = d ∧ d ≠ 0 then v else th.getX j := by
  by_cases hd : d = 0
  · simp [hd]
  · by_cases hj : j = 0
    · subst hj; simp [Ne.symm hd]
    · simp only [Thread.setX, hd, if_false, Thread.getX, hj, SMap.get_set h]
      by_cases hjd : j = d <;> simp [hjd, hd]

/-! ## What a unit reads as after its update -/

theorem State.core_setCore {s : State} (h : SMap.wf {} s.cores = true) (n k : Nat) (v : EdgeCore) :
    (s.setCore n v).core k = if k = n then v else s.core k := SMap.get_set h
theorem State.tile_setTile {s : State} (h : SMap.wf {} s.tiles = true) (n k : Nat) (v : Tile) :
    (s.setTile n v).tile k = if k = n then v else s.tile k := SMap.get_set h
theorem State.mgmt_setMgmt {s : State} (h : SMap.wf {} s.mgmts = true) (n k : Nat) (v : Mgmt) :
    (s.setMgmt n v).mgmt k = if k = n then v else s.mgmt k := SMap.get_set h
theorem State.part_setPart {s : State} (h : SMap.wf {} s.parts = true) (n k : Nat) (v : Part) :
    (s.setPart n v).part k = if k = n then v else s.part k := SMap.get_set h
theorem State.dlq_setDlq {s : State} (h : SMap.wf {} s.dlqs = true) (n k : Nat) (v : Dlq) :
    (s.setDlq n v).dlq k = if k = n then v else s.dlq k := SMap.get_set h
theorem State.cairn_setCairn {s : State} (h : SMap.wf {} s.cairns = true) (n k : Nat) (v : CairnCtx) :
    (s.setCairn n v).cairn k = if k = n then v else s.cairn k := SMap.get_set h
theorem State.trc_setTrc {s : State} (h : SMap.wf {} s.traces = true) (n k : Nat) (v : Trace) :
    (s.setTrc n v).trc k = if k = n then v else s.trc k := SMap.get_set h
theorem State.launch_setLaunch (s : State) (n k : Nat) (v : Launch) :
    (s.setLaunch n v).launch k = if k = n then some v else s.launch k := alGet_alPut _ _ _ _

end Sys2Proof.Machine
end

