-- ==== Sys2Proof/Laws/Memory.lean ====
section
/-! SUPPORT. The laws of memory: every operation that stores to a home keeps the canonical form, and what a byte reads as
after each store. -/

namespace Sys2Proof.Machine

open Sys2Proof

/-! ## The list of cells -/

theorem memWf_set {d : Nat → Byte} {k : Nat} {v : Byte} : ∀ {m : List Host.Cell}, memWf d m = true →
    memWf d (SMap.set (d k) m k v) = true
  | [], _ => by simp only [SMap.set]; split <;> simp_all [memWf, SMap.above]
  | (k', v') :: t, h => by
    simp only [memWf, Bool.and_eq_true, bne_iff_ne, ne_eq] at h
    obtain ⟨⟨h1, h2⟩, h3⟩ := h
    simp only [SMap.set]
    split
    · rename_i hk
      split
      · simp [memWf, h1, h2, h3]
      · rename_i hv
        simp [memWf, SMap.above, h1, h2, h3, hv, hk, SMap.above_mono h2 (Nat.le_of_lt hk)]
    · split
      · rename_i hk
        subst hk
        split
        · exact h3
        · rename_i hv; simp [memWf, hv, h2, h3]
      · have hlt : k' < k := by omega
        simp [memWf, h1, memWf_set h3, SMap.above_set (d := d k) (v := v) h2 hlt]

/-- Below the least listed key a read gives the default it is asked with. -/
theorem memGet_set {d : Nat → Byte} {k : Nat} {v : Byte} (j : Nat) : ∀ {m : List Host.Cell}, memWf d m = true →
    SMap.get (d j) (SMap.set (d k) m k v) j = if j = k then v else SMap.get (d j) m j
  | [], _ => by
    simp only [SMap.set]
    by_cases hj : j = k
    · subst hj; split <;> simp_all [SMap.get]
    · split <;> simp [SMap.get, hj]
  | (k', v') :: t, h => by
    simp only [memWf, Bool.and_eq_true, bne_iff_ne, ne_eq] at h
    obtain ⟨⟨h1, h2⟩, h3⟩ := h
    simp only [SMap.set]
    split
    · rename_i hk
      split
      · rename_i hv
        by_cases hj : j = k
        · subst hj; simp only [SMap.get, hv, if_true]; rw [if_neg (by omega), if_pos hk]
        · simp [hj]
      · by_cases hj : j = k
        · subst hj; simp [SMap.get]
        · simp only [SMap.get, hj, if_false]
          by_cases hl : j < k
          · rw [if_pos hl, if_neg (by omega), if_pos (by omega)]
          · rw [if_neg hl]
    · split
      · rename_i hk
        subst hk
        split
        · rename_i hv
          by_cases hj : j = k
          · subst hj; simp [hv, SMap.get_of_above h2 (Nat.le_refl _)]
          · simp only [SMap.get, hj, if_false]
            split
            · exact SMap.get_of_above h2 (by omega)
            · rfl
        · by_cases hj : j = k
          · subst hj; simp [SMap.get]
          · simp [SMap.get, hj]
      · rename_i hk hn
        simp only [SMap.get, memGet_set j h3]
        by_cases hj : j = k
        · subst hj
          rw [if_pos rfl, if_neg (by omega), if_neg (by omega), if_pos rfl]
        · simp [hj]

/-! ## One byte -/

/-- Two states with the same cells and the same epoch are canonical together. -/
theorem memOk_of_same {s t : State} (hm : t.mem = s.mem) (he : t.memEpoch = s.memEpoch) (h : s.memOk = true) :
    t.memOk = true := by
  have : t.memDefault = s.memDefault := by funext k; simp [State.memDefault, he]
  simpa [State.memOk, hm, this] using h

theorem byte_of_same {s t : State} (hm : t.mem = s.mem) (he : t.memEpoch = s.memEpoch) (k : Nat) : t.byte k = s.byte k := by
  simp [State.byte, State.memDefault, hm, he]

@[simp] theorem State.putByte_memDefault (s : State) (k : Nat) (v : Byte) (j : Nat) :
    (s.putByte k v).memDefault j = s.memDefault j := rfl

theorem State.putByte_memOk {s : State} (k : Nat) (v : Byte) (h : s.memOk = true) : (s.putByte k v).memOk = true :=
  memWf_set h

/-- A byte reads as it was last stored; every other byte stands. -/
theorem State.putByte_byte {s : State} (k : Nat) (v : Byte) (j : Nat) (h : s.memOk = true) :
    (s.putByte k v).byte j = if j = k then v else s.byte j := memGet_set j h

/-! ## Runs of bytes -/

theorem State.putBytes_memOk : ∀ (bs : List Byte) {s : State} (k : Nat), s.memOk = true → (s.putBytes k bs).memOk = true
  | [], _, _, h => h
  | _ :: t, _, k, h => State.putBytes_memOk t (k + 1) (State.putByte_memOk k _ h)

theorem State.putBytes_epoch : ∀ (bs : List Byte) (s : State) (k : Nat), (s.putBytes k bs).memEpoch = s.memEpoch
  | [], _, _ => rfl
  | _ :: t, s, k => by rw [State.putBytes, State.putBytes_epoch t]; rfl

theorem State.putBytes_byte : ∀ (bs : List Byte) {s : State} (k j : Nat), s.memOk = true →
    (s.putBytes k bs).byte j = if k ≤ j ∧ j < k + bs.length then bs.getD (j - k) 0 else s.byte j
  | [], _, k, j, _ => by simp only [State.putBytes, List.length_nil]; rw [if_neg (by omega)]
  | b :: t, s, k, j, h => by
    rw [State.putBytes, State.putBytes_byte t (k + 1) j (State.putByte_memOk k b h), State.putByte_byte k b j h]
    by_cases h1 : j = k
    · subst h1
      rw [if_neg (by omega), if_pos rfl, if_pos (by simp)]
      simp
    · by_cases h2 : k + 1 ≤ j ∧ j < k + 1 + t.length
      · rw [if_pos h2, if_pos (by simp; omega)]
        have : j - k = (j - (k + 1)) + 1 := by omega
        rw [this, List.getD_cons_succ]
      · rw [if_neg h2, if_neg h1, if_neg (by simp; omega)]

theorem State.writeBytes_memOk {s : State} (k : Nat) (bs : List Byte) (h : s.memOk = true) : (s.writeBytes k bs).memOk = true :=
  memOk_of_same (s := s.putBytes k bs) rfl rfl (State.putBytes_memOk bs k h)

/-- A write stores its bytes and no other. -/
theorem State.writeBytes_byte {s : State} (k : Nat) (bs : List Byte) (j : Nat) (h : s.memOk = true) :
    (s.writeBytes k bs).byte j = if k ≤ j ∧ j < k + bs.length then bs.getD (j - k) 0 else s.byte j := by
  rw [← State.putBytes_byte bs k j h]
  exact byte_of_same rfl rfl j

/-! ## Remote accesses and inputs store nothing here -/

/-- The cells and the epoch of two states agree. -/
def SameHome (s t : State) : Prop := t.mem = s.mem ∧ t.memEpoch = s.memEpoch

theorem SameHome.refl (s : State) : SameHome s s := ⟨rfl, rfl⟩

theorem SameHome.trans {s t u : State} (h : SameHome s t) (k : SameHome t u) : SameHome s u :=
  ⟨k.1.trans h.1, k.2.trans h.2⟩

theorem SameHome.memOk {s t : State} (h : SameHome s t) (k : s.memOk = true) : t.memOk = true := memOk_of_same h.1 h.2 k

theorem SameHome.foldl {α : Type} {f : State → α → State} (hf : ∀ s x, SameHome s (f s x)) :
    ∀ (l : List α) (s : State), SameHome s (l.foldl f s)
  | [], s => .refl s
  | x :: t, s => (hf s x).trans (SameHome.foldl hf t _)

theorem State.sendPacket_mem (s : State) (p dev : Nat) (bs : List Byte) : SameHome s (s.sendPacket p dev bs) := by
  unfold State.sendPacket; split <;> exact ⟨rfl, rfl⟩

theorem State.setRemoteMap_mem (s : State) (who : Issuer) (m : SMap Nat) : SameHome s (s.setRemoteMap who m) := by
  unfold State.setRemoteMap
  split
  · simp only; split <;> exact ⟨rfl, rfl⟩
  · exact ⟨rfl, rfl⟩
  · exact ⟨rfl, rfl⟩

theorem State.noteRemote_mem (s : State) (who : Issuer) (gang dev bit : Nat) : SameHome s (s.noteRemote who gang dev bit) :=
  State.setRemoteMap_mem _ _ _

theorem State.sendNoted_mem (s : State) (p dev : Nat) (bs : List Byte) : SameHome s (s.sendNoted p dev bs) :=
  (State.sendPacket_mem s p dev bs).trans ⟨rfl, rfl⟩

theorem State.staleReads_mem (s : State) (dev pa : Nat) : SameHome s (s.staleReads dev pa) := ⟨rfl, rfl⟩

theorem State.remotePost_mem (s : State) (who : Issuer) (sg dev pa : Nat) (bs : List Byte) (va : Nat) (marked : Bool) :
    SameHome s (s.remotePost who sg dev pa bs va marked) := by
  unfold State.remotePost
  exact SameHome.trans ⟨rfl, rfl⟩ (State.sendNoted_mem _ _ _ _)

theorem State.remoteWrite_mem (s : State) (who : Issuer) (sg dev pa : Nat) (bs : List Byte) (va : Nat) (marked : Bool) :
    SameHome s (s.remoteWrite who sg dev pa bs va marked) :=
  (State.remotePost_mem s who sg dev pa bs va marked).trans (State.noteRemote_mem _ _ _ _ _)

theorem State.remoteAccess_mem (s : State) (op : RemoteOp) (packet : List Byte) : SameHome s (s.remoteAccess op packet).1 := by
  unfold State.remoteAccess
  split
  · split <;> exact ⟨rfl, rfl⟩
  · refine SameHome.trans ?_ (State.sendNoted_mem _ _ _ _)
    split <;> exact ⟨rfl, rfl⟩

theorem State.remoteRead_mem (s : State) (who : Issuer) (sg dev pa n : Nat) (acq : Bool) :
    SameHome s (s.remoteRead who sg dev pa n acq).1 := State.remoteAccess_mem _ _ _

theorem State.remoteBack_mem (s : State) (c dev pa : Nat) (bs : List Byte) (marked : Bool) :
    SameHome s (s.remoteBack c dev pa bs marked) := by
  unfold State.remoteBack
  refine SameHome.trans ?_ (SameHome.foldl (fun _ _ => State.noteRemote_mem _ _ _ _ _) _ _)
  exact SameHome.trans ⟨rfl, rfl⟩ (State.sendNoted_mem _ _ _ _)

theorem State.deferTable_mem (s : State) (p k : Nat) (bs : List Byte) : SameHome s (s.deferTable p k bs) := by
  unfold State.deferTable
  refine SameHome.foldl (fun _ _ => ?_) _ _
  exact ⟨rfl, rfl⟩

theorem State.writeLoc_memOk {s : State} (who : Issuer) (l : Loc) (bs : List Byte) (sg va : Nat) (marked : Bool)
    (h : s.memOk = true) : (s.writeLoc who l bs sg va marked).memOk = true := by
  cases l with
  | hbm k =>
    simp only [State.writeLoc]
    split
    · exact (State.deferTable_mem _ _ _ _).memOk h
    · split
      · exact memOk_of_same (s := s.writeBytes k bs) rfl rfl (State.writeBytes_memOk k bs h)
      · exact State.writeBytes_memOk k bs h
  | reg o => exact h
  | remote d p => exact (State.remoteWrite_mem _ _ _ _ _ _ _ _).memOk h

theorem State.writeLocs_memOk (who : Issuer) (sg : Nat) (marked : Bool) : ∀ (ls : List (Loc × Nat)) (va : Nat) {s : State}
    (bs : List Byte), s.memOk = true → (s.writeLocs who sg marked va ls bs).memOk = true
  | [], _, _, _, h => h
  | (l, n) :: t, va, _, bs, h =>
    State.writeLocs_memOk who sg marked t (va + n) (bs.drop n) (State.writeLoc_memOk who l _ sg va marked h)

/-- A write at virtual addresses keeps the form, and writes nothing when a piece fails. -/
theorem State.writeVa_memOk {s s' : State} {who : Issuer} {p va : Nat} {bs : List Byte} {sg : Nat} {marked : Bool}
    (h : s.memOk = true) (hw : s.writeVa who p va bs sg marked = .ok s') : s'.memOk = true := by
  unfold State.writeVa at hw
  split at hw
  · cases hw
  · cases hw; exact State.writeLocs_memOk who sg marked _ va bs h

theorem foldl_pair_memOk {α β : Type} {f : State × β → α → State × β}
    (hf : ∀ a x, a.1.memOk = true → (f a x).1.memOk = true) :
    ∀ (l : List α) (a : State × β), a.1.memOk = true → (l.foldl f a).1.memOk = true
  | [], _, h => h
  | x :: t, a, h => foldl_pair_memOk hf t _ (hf a x h)

theorem State.writeOwn_memOk {s s' : State} {n p va : Nat} {bs : List Byte} (h : s.memOk = true)
    (hw : s.writeOwn n p va bs = .ok s') : s'.memOk = true := by
  unfold State.writeOwn at hw
  split at hw
  · cases hw
  · cases hw
    refine foldl_pair_memOk (fun a x ha => ?_) _ _ h
    simp only
    split
    · exact (State.remotePost_mem _ _ _ _ _ _ _ _).memOk ha
    · exact State.writeLoc_memOk _ _ _ _ _ _ ha

/-! ## The edge L1 -/

theorem foldl_memOk {α : Type} {f : State → α → State} (hf : ∀ s x, s.memOk = true → (f s x).memOk = true) :
    ∀ (l : List α) {s : State}, s.memOk = true → (l.foldl f s).memOk = true
  | [], _, h => h
  | x :: t, _, h => foldl_memOk hf t (hf _ x h)

theorem State.stray_mem (s : State) : SameHome s s.stray := by
  unfold State.stray; exact ⟨rfl, rfl⟩

theorem State.writeDirty_memOk {s : State} (c lk : Nat) (ln : L1Line) (h : s.memOk = true) :
    (s.writeDirty c lk ln).memOk = true := by
  refine foldl_memOk (fun u i hu => ?_) _ h
  simp only
  split
  · split
    · exact hu
    · exact State.putBytes_memOk _ _ hu
  · exact (State.remoteBack_mem _ _ _ _ _ _).memOk hu
  · exact hu

theorem State.writeBackLine_memOk {s : State} (c lk : Nat) (ln : L1Line) (h : s.memOk = true) :
    (s.writeBackLine c lk ln).memOk = true := by
  have hd := State.writeDirty_memOk c lk ln h
  unfold State.writeBackLine
  split
  · exact h
  · generalize s.writeDirty c lk ln = u at hd ⊢
    simp only
    split
    · split
      · exact (State.stray_mem u).memOk hd
      · exact memOk_of_same (s := u) rfl rfl hd
    · exact hd

theorem State.setCore_memOk {s : State} (c : Nat) (e : EdgeCore) (h : s.memOk = true) : (s.setCore c e).memOk = true :=
  memOk_of_same (s := s) rfl rfl h

theorem State.evict_memOk {s : State} (c lk : Nat) (h : s.memOk = true) : (s.evict c lk).memOk = true :=
  State.setCore_memOk _ _ (State.writeBackLine_memOk _ _ _ h)

theorem State.dropBlock_memOk {s : State} (c b : Nat) (h : s.memOk = true) : (s.dropBlock c b).memOk = true := by
  unfold State.dropBlock
  split
  · exact h
  · exact State.setCore_memOk _ _ (foldl_memOk (fun _ _ hu => State.evict_memOk _ _ hu) _ h)

theorem State.writeBackAll_memOk {s : State} (c : Nat) (h : s.memOk = true) : (s.writeBackAll c).memOk = true :=
  State.setCore_memOk _ _ (foldl_memOk (fun _ _ hu => State.writeBackLine_memOk _ _ _ hu) _ h)

theorem State.writeBackSet_memOk {s : State} (c : Nat) (f : Nat → Bool) (h : s.memOk = true) : (s.writeBackSet c f).memOk = true :=
  State.setCore_memOk _ _ (foldl_memOk (fun _ _ hu => State.writeBackLine_memOk _ _ _ hu) _ h)

theorem State.invalClean_memOk {s : State} (c : Nat) (f : Nat → Bool) (h : s.memOk = true) : (s.invalClean c f).memOk = true :=
  State.setCore_memOk _ _ (foldl_memOk (fun _ _ hu => State.dropBlock_memOk _ _ hu) _ h)

theorem State.makeRoom_memOk {s : State} (c : Nat) (h : s.memOk = true) : (s.makeRoom c).memOk = true := by
  unfold State.makeRoom
  simp only
  split
  · exact h
  · split
    · exact h
    · exact State.evict_memOk _ _ h

theorem State.fillL1_memOk {s : State} (c lk hint off : Nat) (bs : List Byte) (h : s.memOk = true) :
    (s.fillL1 c lk hint off bs).memOk = true := by
  unfold State.fillL1
  simp only
  split
  · exact State.setCore_memOk _ _ (State.makeRoom_memOk _ h)
  · exact State.setCore_memOk _ _ h

theorem State.weakWrite_memOk {s : State} (who : Issuer) (sg c : Nat) (l : Loc) (bs : List Byte) (h : s.memOk = true) :
    (s.weakWrite who sg c l bs).memOk = true := by
  unfold State.weakWrite
  extract_lets lk off s1 s2 ln ix vals mark ln' blocks _ s3
  have h1 : s1.memOk = true := by
    show (match l with | .remote dev pa => (s.noteRemote who (tagGang sg) dev 18).staleReads dev pa | _ => s).memOk = true
    split
    · exact ((State.noteRemote_mem _ _ _ _ _).trans (State.staleReads_mem _ _ _)).memOk h
    · exact h
  have h2 : s2.memOk = true := by
    show (if ((s1.core c).line lk).valid = 0 then s1.makeRoom c else s1).memOk = true
    split
    · exact State.makeRoom_memOk _ h1
    · exact h1
  have h3 : s3.memOk = true := State.setCore_memOk _ _ h2
  split
  · exact State.evict_memOk _ _ h3
  · exact h3

theorem State.flushLine_memOk {s : State} (c lk : Nat) (h : s.memOk = true) : (s.flushLine c lk).memOk = true := by
  unfold State.flushLine
  simp only
  split
  · split
    · exact h
    · exact State.evict_memOk _ _ h
  · exact State.dropBlock_memOk _ _ h

theorem State.countTouch_memOk {s : State} (c lk : Nat) (h : s.memOk = true) : (s.countTouch c lk).memOk = true := by
  unfold State.countTouch
  simp only
  split
  · split
    · exact State.dropBlock_memOk _ _ h
    · exact State.setCore_memOk _ _ h
  · exact State.setCore_memOk _ _ h

theorem State.weakPeek_memOk {s : State} (who : Issuer) (sg c : Nat) (l : Loc) (n hint : Nat) (must : Bool) (h : s.memOk = true) :
    (s.weakPeek who sg c l n hint must).1.memOk = true := by
  have hr := fun dev pa => (State.remoteRead_mem s who sg dev pa n false).memOk h
  unfold State.weakPeek
  extract_lets lk off ln fromL1 ix held due
  split
  · repeat' split
    all_goals exact h
  · split
    · exact h
    · split
      · repeat' split
        all_goals first
          | exact h
          | exact State.fillL1_memOk _ _ _ _ _ h
      · rename_i dev pa _ _
        have := hr dev pa
        simp only
        split
        · exact h
        · split
          · rename_i heq
            rw [heq] at this
            simp only
            split
            · exact State.fillL1_memOk _ _ _ _ _ this
            · exact this
          · exact this
      · exact h

theorem State.weakRead_memOk {s : State} (who : Issuer) (sg c : Nat) (l : Loc) (n hint : Nat) (must : Bool) (h : s.memOk = true) :
    (s.weakRead who sg c l n hint must).1.memOk = true := by
  have hp := State.weakPeek_memOk who sg c l n hint must h
  unfold State.weakRead
  split
  · rename_i heq; rw [heq] at hp; exact State.countTouch_memOk _ _ hp
  · exact hp

theorem State.acquire_memOk {s : State} (core sc : Nat) (h : s.memOk = true) : (s.acquire core sc).memOk = true := by
  unfold State.acquire; split
  · exact State.invalClean_memOk _ _ h
  · exact h

theorem State.releaseWb_memOk {s : State} (core sc : Nat) (h : s.memOk = true) : (s.releaseWb core sc).memOk = true := by
  unfold State.releaseWb; split
  · exact State.writeBackAll_memOk _ h
  · exact h

theorem State.homeLoad_memOk {s : State} (who : Issuer) (core sg : Nat) (l : Loc) (n : Nat) (acq : Bool) (h : s.memOk = true) :
    (s.homeLoad who core sg l n acq).1.memOk = true := by
  have hf := State.flushLine_memOk core l.line h
  unfold State.homeLoad
  simp only
  split
  · exact hf
  · exact (State.remoteRead_mem _ _ _ _ _ _ _).memOk hf
  · exact hf

/-- Every load keeps the form. -/
theorem State.edgeLoad_memOk {s : State} (c : Ctx) (sg va n : Nat) (strong : Bool) (ord sc hint : Nat) (h : s.memOk = true) :
    (s.edgeLoad c sg va n strong ord sc hint).1.memOk = true := by
  unfold State.edgeLoad
  generalize (if strong = true ∧ 3 ≤ sc then s.translate c.part va false else s.translateL1 c.part va false) = r
  cases r with
  | error e => exact h
  | ok l =>
    simp only
    split
    · exact State.weakRead_memOk _ _ _ _ _ _ _ h
    · have hh := State.homeLoad_memOk c.iss c.ref.core sg l n (ord == 1 || ord == 3) h
      split
      · rename_i heq
        rw [heq] at hh
        split
        · exact State.acquire_memOk _ _ hh
        · exact hh
      · exact hh

/-- Every store keeps the form. -/
theorem State.edgeStore_memOk {s s' : State} (c : Ctx) (va : Nat) (bs : List Byte) (strong : Bool) (sc : Nat)
    (h : s.memOk = true) (hw : s.edgeStore c va bs strong sc = .ok s') : s'.memOk = true := by
  unfold State.edgeStore at hw
  revert hw
  generalize (if strong = true ∧ 3 ≤ sc then s.translate c.part va true else s.translateL1 c.part va true) = r
  intro hw
  cases r with
  | error e => cases hw
  | ok l =>
    have hw' : (if (!strong || !atHome sc l) = true then
        (Except.ok (s.weakWrite c.iss c.sg c.ref.core l bs) : Except MErr State)
      else Except.ok ((s.flushLine c.ref.core l.line).writeLoc c.iss l bs c.sg)) = Except.ok s' → s'.memOk = true := by
      intro hq
      split at hq
      · obtain rfl := Except.ok.inj hq
        exact State.weakWrite_memOk _ _ _ _ _ h
      · obtain rfl := Except.ok.inj hq
        exact State.writeLoc_memOk _ _ _ _ _ _ (State.flushLine_memOk _ _ h)
    cases l with
    | reg o => cases hw
    | hbm k => exact hw' hw
    | remote d p => exact hw' hw

/-! ## Units, threads and the trace -/

theorem State.setSub_mem (s : State) (r : SgRef) (th : Thread) :
    (s.setSub r th).mem = s.mem ∧ (s.setSub r th).memEpoch = s.memEpoch := by
  unfold State.setSub; simp only; split <;> exact ⟨rfl, rfl⟩

/-- Writing a thread's registers stores to no home. -/
theorem State.setTh_mem (s : State) (c : Ctx) (th : Thread) :
    (s.setTh c th).mem = s.mem ∧ (s.setTh c th).memEpoch = s.memEpoch := by
  unfold State.setTh; split
  · exact ⟨rfl, rfl⟩
  · exact State.setSub_mem _ _ _

theorem State.setTrc_memOk {s : State} (n : Nat) (t : Trace) (h : s.memOk = true) : (s.setTrc n t).memOk = true :=
  memOk_of_same (s := s) rfl rfl h

theorem State.countErr_memOk {s : State} (e : MErr) (h : s.memOk = true) : (s.countErr e).memOk = true := by
  unfold State.countErr; split
  · exact (State.stray_mem s).memOk h
  · exact h

theorem State.putPacket_memOk {s : State} (n p : Nat) (ws : List Nat) (h : s.memOk = true) : (s.putPacket n p ws).1.memOk = true := by
  unfold State.putPacket
  simp only
  split
  · exact State.setTrc_memOk _ _ h
  · split
    · exact State.setTrc_memOk _ _ (State.countErr_memOk _ h)
    · rename_i s1 h1
      split
      · exact State.setTrc_memOk _ _ (State.countErr_memOk _ h)
      · rename_i s2 h2
        exact State.setTrc_memOk _ _ (State.writeOwn_memOk (State.writeOwn_memOk h h1) h2)

theorem State.putPackets_memOk (n p : Nat) : ∀ (ws : List (List Nat)) {s : State}, s.memOk = true →
    (s.putPackets n p ws).1.memOk = true
  | [], _, h => h
  | w :: ws, s, h => by
    have hp := State.putPacket_memOk n p w h
    unfold State.putPackets
    split
    · rename_i heq; rw [heq] at hp; exact State.putPackets_memOk n p ws hp
    · exact hp

theorem State.traceRaw_memOk {s : State} (n p gs sub kind payload : Nat) (more : List Nat) (pos lpc : Nat) (edge f : Bool)
    (h : s.memOk = true) : (s.traceRaw n p gs sub kind payload more pos lpc edge f).memOk = true := by
  unfold State.traceRaw
  extract_lets t edge' now dt d lost due sync
  split
  · exact h
  · have hl := State.putPackets_memOk n p lost h
    split
    · rename_i heq
      rw [heq] at hl
      exact State.setTrc_memOk _ _ hl
    · rename_i heq
      rw [heq] at hl
      have hs := State.putPackets_memOk n p sync hl
      split
      · rename_i heq
        rw [heq] at hs
        exact State.setTrc_memOk _ _ hs
      · rename_i heq
        rw [heq] at hs
        simp only
        split
        · split
          · exact State.setTrc_memOk _ _ hs
          · exact hs
        · refine State.putPacket_memOk _ _ _ ?_
          split
          · exact State.setTrc_memOk _ _ hs
          · exact hs

theorem State.flushRun_memOk {s : State} (n p : Nat) (edge : Bool) (h : s.memOk = true) : (s.flushRun n p edge).memOk = true := by
  unfold State.flushRun
  simp only
  split
  · exact h
  · exact State.traceRaw_memOk _ _ _ _ _ _ _ _ _ _ _ (State.setTrc_memOk _ _ h)

/-- A trace packet keeps the form. -/
theorem State.trace_memOk {s : State} (n p gs sub kind payload : Nat) (more : List Nat) (pos lpc : Nat) (edge : Bool)
    (h : s.memOk = true) : (s.trace n p gs sub kind payload more pos lpc edge).memOk = true := by
  unfold State.trace
  split
  · exact h
  · exact State.traceRaw_memOk _ _ _ _ _ _ _ _ _ _ _ (State.flushRun_memOk _ _ _ h)

/-- With its unit's trace off a packet changes nothing. -/
theorem State.trace_off {s : State} {n : Nat} (h : bitAt (s.trc n).ctl.toNat 31 = false) (p gs sub kind payload : Nat)
    (more : List Nat) (pos lpc : Nat) (edge : Bool) : s.trace n p gs sub kind payload more pos lpc edge = s := by
  simp [State.trace, h]

theorem State.setTh_trc (s : State) (c : Ctx) (th : Thread) (n : Nat) : (s.setTh c th).trc n = s.trc n := by
  unfold State.setTh State.setSub
  split
  · rfl
  · simp only; split <;> rfl

end Sys2Proof.Machine
end

