-- ==== Sys2Proof/Laws/Ops.lean ====
section
/-! SUPPORT. What the shared operations of scalar instructions do: one law per operation, to cite in place of unfolding it. -/

namespace Sys2Proof.Machine

open Sys2Proof

/-! ## The prologue -/

/-- No failure is due to a thread that none has been posted to. -/
theorem Ctx.dueFailures_nil {c : Ctx} (h : c.th.posted = []) : c.dueFailures = [] := by
  unfold Ctx.dueFailures; split <;> simp [h]

/-- A scalar instruction whose thread nothing holds and that its operands, role and place allow runs its own effect. -/
theorem scalarOpIf_runs {s : State} {c : Ctx} {bad : Ctx → State → Bool} {i : Instr} {k : RoleClass} {pl : Place} {drain : Bool}
    {body : Ctx → State → Out} (hc : s.ctx = some c) (hp : c.th.parked = false) (hs : (c.crew.stopReq && c.th.lq == [] && c.th.issRem == 0) = false)
    (hw : c.th.wait = .none)
    (hf : c.dueFailures = []) (hb : bad c s = false) (hr : roleAllows c.gang.role k = true) (hpl : placeOk c pl = true)
    (hd : drain = true → c.th.lq = []) : scalarOpIf bad i k pl drain body s = body c s := by
  unfold scalarOpIf
  simp only [hc, hp, hs, hw, hf, hr, hpl, hb]
  by_cases hdr : drain = true
  · simp [hdr, hd hdr]
  · simp [hdr]

/-- Where the place forbids it, or an operand value is illegal, an instruction is illegal. -/
theorem scalarOpIf_illegal {s : State} {c : Ctx} {bad : Ctx → State → Bool} {i : Instr} {k : RoleClass} {pl : Place} {drain : Bool}
    {body : Ctx → State → Out} (hc : s.ctx = some c) (hp : c.th.parked = false) (hs : (c.crew.stopReq && c.th.lq == [] && c.th.issRem == 0) = false)
    (hw : c.th.wait = .none)
    (hf : c.dueFailures = []) (hb : (!placeOk c pl || bad c s) = true) :
    scalarOpIf bad i k pl drain body s = s.scalarTrap c i 0x01 := by
  unfold scalarOpIf
  simp only [hc, hp, hs, hw, hf, hb]
  simp

/-- Where the role forbids it, a legal instruction takes the role trap. -/
theorem scalarOpIf_role {s : State} {c : Ctx} {bad : Ctx → State → Bool} {i : Instr} {k : RoleClass} {pl : Place} {drain : Bool}
    {body : Ctx → State → Out} (hc : s.ctx = some c) (hp : c.th.parked = false) (hs : (c.crew.stopReq && c.th.lq == [] && c.th.issRem == 0) = false)
    (hw : c.th.wait = .none)
    (hf : c.dueFailures = []) (hb : bad c s = false) (hpl : placeOk c pl = true) (hr : roleAllows c.gang.role k = false) :
    scalarOpIf bad i k pl drain body s = s.scalarTrap c i 0x02 := by
  unfold scalarOpIf
  simp only [hc, hp, hs, hw, hf, hpl, hr, hb]
  simp

/-- Every end of a scalar instruction: it waits, traps, or has its own effect on the acting thread. -/
theorem scalarOpIf_cases {s : State} {c : Ctx} {bad : Ctx → State → Bool} {i : Instr} {k : RoleClass} {pl : Place} {drain : Bool}
    {body : Ctx → State → Out} (hc : s.ctx = some c) :
    scalarOpIf bad i k pl drain body s = .next s ∨ (∃ cause, scalarOpIf bad i k pl drain body s = s.scalarTrap c i cause) ∨
      (∃ p rest, c.dueFailures = p :: rest ∧ scalarOpIf bad i k pl drain body s = s.postedTrap c p rest) ∨
      scalarOpIf bad i k pl drain body s = body c s := by
  unfold scalarOpIf
  simp only [hc]
  split
  · exact .inl rfl
  · split
    · exact .inl rfl
    · split
      · rename_i p rest h; exact .inr (.inr (.inl ⟨p, rest, h, rfl⟩))
      · split
        · exact .inr (.inl ⟨_, rfl⟩)
        · split
          · exact .inr (.inl ⟨_, rfl⟩)
          · split
            · exact .inl rfl
            · exact .inr (.inr (.inr rfl))

/-- Without an acting thread no scalar instruction runs. -/
theorem scalarOpIf_none {s : State} {bad : Ctx → State → Bool} {i : Instr} {k : RoleClass} {pl : Place} {drain : Bool}
    {body : Ctx → State → Out} (hc : s.ctx = none) : scalarOpIf bad i k pl drain body s = .fault .noThread := by
  unfold scalarOpIf; rw [hc]

/-- A scalar instruction whose thread nothing holds and that its role and place allow runs its own effect. -/
theorem scalarOp_runs {s : State} {c : Ctx} {i : Instr} {k : RoleClass} {pl : Place} {drain : Bool} {body : Ctx → State → Out}
    (hc : s.ctx = some c) (hp : c.th.parked = false) (hs : (c.crew.stopReq && c.th.lq == [] && c.th.issRem == 0) = false)
    (hw : c.th.wait = .none)
    (hf : c.th.posted = []) (hr : roleAllows c.gang.role k = true) (hpl : placeOk c pl = true)
    (hd : drain = true → c.th.lq = []) : scalarOp i k pl drain body s = body c s :=
  scalarOpIf_runs hc hp hs hw (Ctx.dueFailures_nil hf) rfl hr hpl hd

/-- Where the place forbids it, an instruction is illegal. -/
theorem scalarOp_place {s : State} {c : Ctx} {i : Instr} {k : RoleClass} {pl : Place} {drain : Bool} {body : Ctx → State → Out}
    (hc : s.ctx = some c) (hp : c.th.parked = false) (hs : (c.crew.stopReq && c.th.lq == [] && c.th.issRem == 0) = false)
    (hw : c.th.wait = .none)
    (hf : c.th.posted = []) (hpl : placeOk c pl = false) : scalarOp i k pl drain body s = s.scalarTrap c i 0x01 :=
  scalarOpIf_illegal hc hp hs hw (Ctx.dueFailures_nil hf) (by simp [hpl])

/-- Where the role forbids it, an instruction takes the role trap. -/
theorem scalarOp_role {s : State} {c : Ctx} {i : Instr} {k : RoleClass} {pl : Place} {drain : Bool} {body : Ctx → State → Out}
    (hc : s.ctx = some c) (hp : c.th.parked = false) (hs : (c.crew.stopReq && c.th.lq == [] && c.th.issRem == 0) = false)
    (hw : c.th.wait = .none)
    (hf : c.th.posted = []) (hpl : placeOk c pl = true) (hr : roleAllows c.gang.role k = false) :
    scalarOp i k pl drain body s = s.scalarTrap c i 0x02 :=
  scalarOpIf_role hc hp hs hw (Ctx.dueFailures_nil hf) rfl hpl hr

/-! ## Advancing and trapping -/

theorem Thread.branchTaken_eq (th : Thread) (t n : Nat) :
    th.branchTaken t n = { th with pc := BitVec.ofNat 32 t, spin := (th.branchTaken t n).spin } := by
  unfold Thread.branchTaken; simp only; split <;> rfl

@[simp] theorem Thread.checkSpin_x (th : Thread) : th.checkSpin.x = th.x := by unfold Thread.checkSpin; split <;> rfl
@[simp] theorem Thread.checkSpin_pc (th : Thread) : th.checkSpin.pc = th.pc := by unfold Thread.checkSpin; split <;> rfl
@[simp] theorem Thread.checkSpin_m (th : Thread) : th.checkSpin.m = th.m := by unfold Thread.checkSpin; split <;> rfl
@[simp] theorem Thread.checkSpin_fmt (th : Thread) : th.checkSpin.fmt = th.fmt := by unfold Thread.checkSpin; split <;> rfl

/-- An instruction that ends goes on at PC + 4 and, but for spin marks, has the thread it was given. -/
theorem State.finish_eq (s : State) (c : Ctx) (th : Thread) :
    s.finish c th = .next (s.setTh c ({ th with pc := th.pc + 4 } : Thread).checkSpin) := rfl

/-- A scalar fault with an empty lane queue takes its trap at once. -/
theorem State.scalarTrap_empty {s : State} {c : Ctx} {i : Instr} {cause : Nat} {a : W64} {m : W32} (h : c.th.lq = []) :
    s.scalarTrap c i cause a m =
      .next (s.takeTrap c { cause := cause, lane := ((span 0 32).find? (fun l => m.getLsbD l)).getD 0xFF, tepc := c.th.pc
                            tlpc := c.th.lpc, taddr := a, tmaskr := m, tiw := tiwOf i }) := by
  simp [State.scalarTrap, h]

/-- A scalar fault waits while older lane instructions are queued. -/
theorem State.scalarTrap_waits {s : State} {c : Ctx} {i : Instr} {cause : Nat} {a : W64} {m : W32} (h : c.th.lq ≠ []) :
    s.scalarTrap c i cause a m = .next s := by
  simp [State.scalarTrap, h, State.wait]

theorem State.updCrew_mem (s : State) (core k : Nat) (f : Crew → Crew) :
    (s.updCrew core k f).mem = s.mem ∧ (s.updCrew core k f).memEpoch = s.memEpoch := by
  unfold State.updCrew; simp only; split <;> exact ⟨rfl, rfl⟩

theorem State.setGang_mem (s : State) (c : Ctx) (f : Gang → Gang) :
    (s.setGang c f).mem = s.mem ∧ (s.setGang c f).memEpoch = s.memEpoch := by
  unfold State.setGang; simp only; split <;> exact ⟨rfl, rfl⟩

theorem State.leaveBar_mem (s : State) (c : Ctx) :
    (s.leaveBar c).mem = s.mem ∧ (s.leaveBar c).memEpoch = s.memEpoch := by
  unfold State.leaveBar
  split
  · exact State.updCrew_mem _ _ _ _
  · exact ⟨rfl, rfl⟩

theorem State.dropAcq_mem (s : State) (c : Ctx) :
    (s.dropAcq c).mem = s.mem ∧ (s.dropAcq c).memEpoch = s.memEpoch := by
  unfold State.dropAcq
  split
  · exact ⟨rfl, rfl⟩
  · split
    · exact ⟨rfl, rfl⟩
    · exact State.updCrew_mem _ _ _ _

theorem State.raiseHf_mem (s : State) (b : Nat) :
    (s.raiseHf b).mem = s.mem ∧ (s.raiseHf b).memEpoch = s.memEpoch := by
  unfold State.raiseHf; simp only; split <;> exact ⟨rfl, rfl⟩

/-- Taking a trap keeps memory canonical: only its trace packet stores. -/
theorem State.takeTrap_memOk {s : State} (c : Ctx) (t : TrapInfo) (h : s.memOk = true) : (s.takeTrap c t).memOk = true := by
  have h0 : (((s.leaveBar c).dropAcq c).dropRemotes c).memOk = true :=
    memOk_of_same (s := (s.leaveBar c).dropAcq c) rfl rfl
      (memOk_of_same ((State.dropAcq_mem _ c).1.trans (State.leaveBar_mem s c).1)
        ((State.dropAcq_mem _ c).2.trans (State.leaveBar_mem s c).2) h)
  have h1 : ((((s.leaveBar c).dropAcq c).dropRemotes c).traceTrap c t (trapCause c.th t.cause)).memOk = true :=
    State.trace_memOk _ _ _ _ _ _ _ _ _ _ h0
  have hset : ∀ (u : State) (th : Thread), u.memOk = true → (u.setTh c th).memOk = true :=
    fun u th hu => memOk_of_same (State.setTh_mem u c th).1 (State.setTh_mem u c th).2 hu
  unfold State.takeTrap
  simp only
  generalize (((s.leaveBar c).dropAcq c).dropRemotes c).traceTrap c t (trapCause c.th t.cause) = u at h1 ⊢
  split
  · split
    · exact memOk_of_same (State.raiseHf_mem _ _).1 (State.raiseHf_mem _ _).2 (memOk_of_same (s := u) rfl rfl h1)
    · exact hset _ _ h1
  · split
    · simp only [State.pushEvent]
      exact memOk_of_same (State.setMgmt_mem _ _ _) (State.setMgmt_memEpoch _ _ _) (State.setTrc_memOk _ _ (hset _ _ h1))
    · exact hset _ _ h1

theorem State.scalarTrap_memOk {s t : State} {c : Ctx} {i : Instr} {cause : Nat} {a : W64} {m : W32} (h : s.memOk = true)
    (ht : s.scalarTrap c i cause a m = .next t) : t.memOk = true := by
  unfold State.scalarTrap at ht
  split at ht
  · cases ht; exact h
  · cases ht; exact State.takeTrap_memOk _ _ h

theorem State.postedTrap_memOk {s t : State} {c : Ctx} {p : Posted} {rest : List Posted} (h : s.memOk = true)
    (ht : s.postedTrap c p rest = .next t) : t.memOk = true := by
  unfold State.postedTrap at ht
  split at ht
  · cases ht; exact h
  · cases ht; exact State.takeTrap_memOk _ _ h

theorem State.finish_memOk {s t : State} {c : Ctx} {th : Thread} (h : s.memOk = true) (ht : s.finish c th = .next t) :
    t.memOk = true := by
  cases ht; exact memOk_of_same (State.setTh_mem _ _ _).1 (State.setTh_mem _ _ _).2 h

/-- A scalar instruction keeps memory canonical when its own effect does. -/
theorem scalarOpIf_memOk {s t : State} {bad : Ctx → State → Bool} {i : Instr} {k : RoleClass} {pl : Place} {drain : Bool}
    {body : Ctx → State → Out} (h : s.memOk = true) (hb : ∀ c t, body c s = .next t → t.memOk = true)
    (ht : scalarOpIf bad i k pl drain body s = .next t) : t.memOk = true := by
  cases hc : s.ctx with
  | none => rw [scalarOpIf_none hc] at ht; cases ht
  | some c =>
    rcases scalarOpIf_cases (bad := bad) (i := i) (k := k) (pl := pl) (drain := drain) (body := body) hc with
      h1 | ⟨cause, h1⟩ | ⟨p, rest, _, h1⟩ | h1
    all_goals rw [h1] at ht
    · cases ht; exact h
    · exact State.scalarTrap_memOk h ht
    · exact State.postedTrap_memOk h ht
    · exact hb c t ht

theorem scalarOp_memOk {s t : State} {i : Instr} {k : RoleClass} {pl : Place} {drain : Bool} {body : Ctx → State → Out}
    (h : s.memOk = true) (hb : ∀ c t, body c s = .next t → t.memOk = true) (ht : scalarOp i k pl drain body s = .next t) :
    t.memOk = true := scalarOpIf_memOk h hb ht

/-! ## Control targets -/

theorem sx_eq_toInt {n : Nat} (b : BitVec (n + 1)) : sx (n + 1) b.toNat = b.toInt := by
  have e : (2 : Nat) ^ (n + 1) = 2 * 2 ^ n := by rw [Nat.pow_succ, Nat.mul_comm]
  have e2 : ((2 ^ (n + 1) : Nat) : Int) = 2 ^ (n + 1) := by push_cast; rfl
  simp only [sx, BitVec.toInt, Nat.add_sub_cancel, e2]
  split <;> split <;> first | rfl | omega

/-- A target of a control transfer is one of the scalar section's instructions. -/
theorem State.targetOk_iff (s : State) (c : Ctx) (t : Nat) : s.targetOk c t = true ↔ t % 4 = 0 ∧ t < s.codeLen c := by
  simp [State.targetOk]

end Sys2Proof.Machine
end

