-- ==== Sys2Proof/Laws/Tile.lean ====
section
/-! SUPPORT. What one slot operation of a tile engine does: the laws of tileOp by the outcome of its reads, and that the
landing of results leaves an instance running. -/

namespace Sys2Proof.Machine

open Sys2Proof

/-! ## Results in flight -/

theorem Tile.landOne_run (t : Tile) (f : Flight) : (t.landOne f).run = t.run := by
  unfold Tile.landOne; split <;> try rfl
  all_goals (repeat (split <;> try rfl))

theorem Tile.foldl_landOne_run : ∀ (fs : List Flight) (t : Tile), (fs.foldl Tile.landOne t).run = t.run
  | [], _ => rfl
  | f :: fs, t => by rw [List.foldl_cons, Tile.foldl_landOne_run fs, Tile.landOne_run]

@[simp] theorem Tile.land_run (t : Tile) (n : Nat) : (t.land n).run = t.run := by
  unfold Tile.land; simp only; rw [Tile.foldl_landOne_run]

theorem Tile.padBytes_run : ∀ (bs : List Byte) (t : Tile) (a : Nat), (t.padBytes a bs).run = t.run
  | [], _, _ => rfl
  | b :: r, t, a => by rw [Tile.padBytes, Tile.padBytes_run r]; rfl

theorem Tile.padWrite_run (bs : List Byte) (t : Tile) (a : Nat) : (t.padWrite a bs).run = t.run := Tile.padBytes_run bs t a

theorem Tile.padWrites_run : ∀ (ws : List (Nat × List Byte)) (t : Tile),
    (ws.foldl (fun t w => t.padWrite w.1 w.2) t).run = t.run
  | [], _ => rfl
  | w :: ws, t => by rw [List.foldl_cons, Tile.padWrites_run ws, Tile.padWrite_run]

@[simp] theorem Tile.effect_run (t : Tile) (n : Nat) (f : TEff) : (t.effect n f).run = t.run := by
  unfold Tile.effect; simp only; exact Tile.padWrites_run _ _

/-! ## The instance of an engine -/

theorem Tile.ne_default {t : Tile} (h : t.run = .running) : t ≠ ({} : Tile) := by
  intro e; rw [e] at h; exact absurd h (by decide)

/-- A running instance reads back as it was put. -/
theorem State.tile_setTile_running (s : State) (e : Nat) {t : Tile} (h : t.run = .running) : (s.setTile e t).tile e = t :=
  SMap.get_set_self _ _ (Tile.ne_default h)

/-- Of two updates of one instance the second stands. -/
theorem State.setTile_setTile_running (s : State) (e : Nat) {t : Tile} (u : Tile) (h : t.run = .running) :
    (s.setTile e t).setTile e u = s.setTile e u := by
  simp only [State.setTile]; rw [SMap.set_set _ _ _ (Tile.ne_default h)]

/-! ## One operation -/

/-- A false guard: the results due land and nothing else happens. -/
theorem tileOp_off {s : State} {e : Nat} {g : B4} {slot : Nat} {sem : TCtx → TRes} (hc : s.cur = .tile e)
    (hr : (s.tile e).run = .running) (hg : ((s.tile e).land (s.tile e).t).preg g.toNat = false) :
    tileOp g slot sem s = .next (s.setTile e ((s.tile e).land (s.tile e).t)) := by
  unfold tileOp
  simp only [hc, hr, hg, ne_eq, not_true_eq_false, if_false, Bool.not_false, if_true]

/-- A true guard and an effect on the instance alone. -/
theorem tileOp_effect {s : State} {e : Nat} {g : B4} {slot : Nat} {sem : TCtx → TRes} {f : TEff} (hc : s.cur = .tile e)
    (hr : (s.tile e).run = .running) (hg : ((s.tile e).land (s.tile e).t).preg g.toNat = true)
    (hs : sem ((s.setTile e ((s.tile e).land (s.tile e).t)).tctx e ((s.tile e).land (s.tile e).t)) = .ok f)
    (hm : f.mat = none) (hk : f.mark = none) :
    tileOp g slot sem s =
      .next { s.setTile e ((((s.tile e).land (s.tile e).t).effect s.seq f).control f.ctl) with seq := s.seq + 1 } := by
  have h1 : ((s.tile e).land (s.tile e).t).run = .running := by rw [Tile.land_run]; exact hr
  unfold tileOp
  simp only [hc, hr, ne_eq, not_true_eq_false, if_false, hg, hs, Bool.not_true, Bool.false_eq_true, State.applyEff, hm, hk]
  rw [State.tile_setTile_running s e h1, State.setTile_setTile_running _ _ _ h1]
  have h2 : (((s.tile e).land (s.tile e).t).effect s.seq f).run = .running := by rw [Tile.effect_run]; exact h1
  have h3 : State.tile { s.setTile e (((s.tile e).land (s.tile e).t).effect (s.setTile e ((s.tile e).land (s.tile e).t)).seq f) with
      seq := (s.setTile e ((s.tile e).land (s.tile e).t)).seq + 1 } e = ((s.tile e).land (s.tile e).t).effect s.seq f :=
    State.tile_setTile_running s e h2
  rw [h3]
  have h4 := congrArg State.tiles (State.setTile_setTile_running s e
    ((((s.tile e).land (s.tile e).t).effect s.seq f).control f.ctl) h2)
  simp only [State.setTile] at h4 ⊢
  rw [h4]

/-- A true guard and an operation in error: the engine stops on it. -/
theorem tileOp_error {s : State} {e : Nat} {g : B4} {slot : Nat} {sem : TCtx → TRes} {cause detail : Nat} (hc : s.cur = .tile e)
    (hr : (s.tile e).run = .running) (hg : ((s.tile e).land (s.tile e).t).preg g.toNat = true)
    (hs : sem ((s.setTile e ((s.tile e).land (s.tile e).t)).tctx e ((s.tile e).land (s.tile e).t)) = .err cause detail) :
    tileOp g slot sem s = .next ((s.setTile e ((s.tile e).land (s.tile e).t)).engineError e
      ((s.tile e).land (s.tile e).t).b slot (issueStatus cause slot detail)) := by
  unfold tileOp
  simp only [hc, hr, ne_eq, not_true_eq_false, if_false, hg, hs, Bool.not_true, Bool.false_eq_true]

/-- Where no instance runs the operation does not issue. -/
theorem tileOp_idle {s : State} {e : Nat} {g : B4} {slot : Nat} {sem : TCtx → TRes} (hc : s.cur = .tile e)
    (hr : (s.tile e).run ≠ .running) : tileOp g slot sem s = .fault .noThread := by
  unfold tileOp
  simp only [hc, hr, ne_eq, not_false_eq_true, if_true]

/-- Applying an effect stores to no home, its trace packet apart. -/
theorem State.applyEff_memOk {s : State} (e : Nat) (f : TEff) (h : s.memOk = true) (hm : f.mat = none) :
    (s.applyEff e f).memOk = true := by
  unfold State.applyEff
  simp only [hm]
  split
  · exact State.trace_memOk _ _ _ _ _ _ _ _ _ _ (memOk_of_same (s := s) rfl rfl h)
  · exact memOk_of_same (s := s) rfl rfl h

end Sys2Proof.Machine
end

