-- ==== Sys2Proof/Laws/Scalar.lean ====
section
/-! SUPPORT. The laws of the operations that families of scalar, lane and matrix instructions share. -/

namespace Sys2Proof.Machine

open Sys2Proof

/-- A register operation of a thread that nothing holds: x[D] gets the value and PC moves on by 4. -/
theorem aluOp_runs {s : State} {c : Ctx} {i : Instr} {d : B5} {f : Ctx → W64} (hc : s.ctx = some c) (hp : c.th.parked = false)
    (hs : (c.crew.stopReq && c.th.lq == [] && c.th.issRem == 0) = false) (hw : c.th.wait = .none) (hf : c.th.posted = []) :
    aluOp i d f s = .next (s.setTh c ({ c.th.setX d.toNat (f c) with pc := c.th.pc + 4 } : Thread).checkSpin) := by
  unfold aluOp
  rw [scalarOp_runs hc hp hs hw hf rfl rfl (by simp), State.finish_eq]
  simp only [Thread.setX_pc]

/-- A register operation keeps memory canonical. -/
theorem aluOp_memOk {s t : State} {i : Instr} {d : B5} {f : Ctx → W64} (h : s.memOk = true) (ht : aluOp i d f s = .next t) :
    t.memOk = true :=
  scalarOp_memOk h (fun _ _ hb => State.finish_memOk h hb) ht

/-- A branch whose condition fails goes on at PC + 4, with its unit's trace off. -/
theorem branchOp_falls {s : State} {c : Ctx} {i : Instr} {f : EB} {p : W64 → W64 → Bool} (hc : s.ctx = some c)
    (hp : c.th.parked = false) (hs : (c.crew.stopReq && c.th.lq == [] && c.th.issRem == 0) = false) (hw : c.th.wait = .none)
    (hf : c.th.posted = []) (hn : p (c.x f.a) (c.x f.b) = false) (hu : bitAt (s.trc c.unit).ctl.toNat 31 = false) :
    branchOp i f p s = .next (s.setTh c c.th.fellThrough) := by
  unfold branchOp
  rw [scalarOp_runs hc hp hs hw hf rfl rfl (by simp)]
  simp [hn, State.traceNext, State.traceUnit, State.setTh_trc, hu]

/-- A branch taken to an instruction of the section, with its unit's trace off. -/
theorem branchOp_takes {s : State} {c : Ctx} {i : Instr} {f : EB} {p : W64 → W64 → Bool} (hc : s.ctx = some c)
    (hp : c.th.parked = false) (hs : (c.crew.stopReq && c.th.lq == [] && c.th.issRem == 0) = false) (hw : c.th.wait = .none)
    (hf : c.th.posted = []) (hn : p (c.x f.a) (c.x f.b) = true)
    (ht : s.targetOk c (relTarget c.th.pc 15 f.i.toNat) = true) (hu : bitAt (s.trc c.unit).ctl.toNat 31 = false) :
    branchOp i f p s = .next (
      let u := s.setTh c (c.th.branchTaken (relTarget c.th.pc 15 f.i.toNat) (s.timeOf c.part))
      if c.isMgmt then u else u.spinSwap c.ref.core) := by
  unfold branchOp
  rw [scalarOp_runs hc hp hs hw hf rfl rfl (by simp)]
  simp only [hn, ht, if_true, State.takeBranch]
  rw [State.trace_off (by rw [State.setTh_trc]; exact hu)]

/-- A branch taken out of the section faults at its own PC. -/
theorem branchOp_faults {s : State} {c : Ctx} {i : Instr} {f : EB} {p : W64 → W64 → Bool} (hc : s.ctx = some c)
    (hp : c.th.parked = false) (hs : (c.crew.stopReq && c.th.lq == [] && c.th.issRem == 0) = false) (hw : c.th.wait = .none)
    (hf : c.th.posted = []) (hn : p (c.x f.a) (c.x f.b) = true)
    (ht : s.targetOk c (relTarget c.th.pc 15 f.i.toNat) = false) : branchOp i f p s = s.scalarTrap c i 0x13 := by
  unfold branchOp
  rw [scalarOp_runs hc hp hs hw hf rfl rfl (by simp)]
  simp [hn, ht]

/-- A lane instruction that waits for no queue entry acts on the head of the lane queue. -/
theorem laneOp_runs {s : State} {c : Ctx} {e : LaneEntry} {q : List LaneEntry} {body : Ctx → LaneEntry → State → Out}
    (hc : s.laneCtx = some c) (hq : c.th.lq = e :: q) : laneOp false body s = body c e s := by
  unfold laneOp
  simp [hc, hq]

/-- One that is also a matrix-queue entry waits until it is the first there. -/
theorem laneOp_waits {s : State} {c : Ctx} {e : LaneEntry} {q : List LaneEntry} {body : Ctx → LaneEntry → State → Out}
    (hc : s.laneCtx = some c) (hq : c.th.lq = e :: q) (hn : ((s.queues c.iss).get 6).head?.map QEntry.uid ≠ some e.uid) :
    laneOp true body s = .next s := by
  unfold laneOp
  simp only [hc, hq, true_and]
  rw [if_pos hn]
  rfl

/-- A queued matrix operation waits while sixteen entries stand before it. -/
theorem matIssue_full {s : State} {e : Nat} {sync : Bool} {g : B4} {sem : TCtx → TRes} (hc : s.cur = .tile e)
    (hr : (s.tile e).run = .running) (hg : ((s.tile e).land (s.tile e).t).preg g.toNat = true)
    (hq : 16 ≤ (((s.tile e).land (s.tile e).t).q.get 6).length) : matIssue sync g sem s = .next s := by
  unfold matIssue
  simp [hc, hr, hg, hq]

end Sys2Proof.Machine
end

