-- ==== Sys2Proof/Tests/Slice0.lean ====
section
/-! SUPPORT. Tests of the instruction set: a term that each well-formedness check refuses, and for every encoded
instruction a word written out from R113 to R125 with the instruction that it decodes to. -/

namespace Sys2Proof.Tests

set_option Elab.async false

open Sys2Proof Sys2Proof.Machine

/-! ## Well-formedness: each list is refused term by term -/

/-- A lane instruction with every field zero, for the fields a test sets. -/
def lane0 : LaneF := { imm := 0, d := 0, a := 0, b := 0, c := 0, ge := 0, g := 0, gn := 0, t := 0, i := 0, pw := 0, f8 := 0, f0 := 0 }

/-- R84, R121, R122, R188: a shift of 64; a weak load with an order or a scope; a strong core-memory access; a load that releases; a store that acquires; a reserved scope; fences and atomics past their codes. -/
theorem test_wf_refuses_scalar : ([.shli ⟨1, 2, 64⟩, .shri ⟨1, 2, 0x7FFF⟩, .srai ⟨1, 2, 64⟩, .ldB ⟨1, 2, 0, 0, 1, 0, 0⟩, .ldH ⟨1, 2, 0, 0, 0, 1, 0⟩,
    .ldW ⟨1, 2, 1, 1, 0, 0, 0⟩, .ldD ⟨1, 2, 0, 1, 2, 0, 0⟩, .stB ⟨1, 2, 0, 1, 1, 0, 0⟩, .stD ⟨1, 2, 0, 1, 2, 6, 0⟩,
    .fence 6 0, .amo ⟨1, 2, 3, 10, 0, 0, 0⟩, .amo ⟨1, 2, 3, 0, 0, 6, 0⟩] : List Instr).all (fun i => !i.wf) = true := by decide +kernel

/-- R120: a field that the table marks zero, an empty or wrong mask, a handle on another queue than 7, a reserved scope. -/
theorem test_wf_refuses_commands : ([.cpMc ⟨0, 1, 2, 3, 16⟩, .ringArm ⟨0, 1, 2, 1, 0⟩, .ringArm ⟨0, 1, 2, 0, 16⟩, .ringArmInit ⟨0, 1, 2, 0, 32⟩, .ringArmInit ⟨0, 1, 0, 0, 48⟩,
    .ringAwait ⟨0, 1, 1, 0, 0⟩, .ringRel ⟨0, 1, 0, 0, 0⟩, .jn ⟨0, 0, 0, 0, 1⟩, .jn ⟨0, 1, 1, 0, 1⟩, .jn ⟨0, 1, 0, 0, 8⟩, .jn ⟨0, 1, 0, 1, 6⟩,
    .rlkBind ⟨0, 1, 2, 3, 1⟩, .rlkAcq ⟨0, 1, 0, 0, 6⟩, .rlkRel ⟨0, 1, 1, 0, 0⟩, .cairnOpen ⟨0, 1, 2, 1, 0⟩, .cairnApp ⟨0, 1, 2, 3, 1⟩,
    .cairnQry ⟨0, 1, 2, 1, 0⟩, .cairnSave ⟨0, 1, 2, 0, 1⟩, .cairnRst ⟨0, 1, 2, 1, 0⟩, .cairnClose ⟨0, 1, 1, 0, 0⟩, .kvCmt ⟨0, 1, 2, 1, 0⟩,
    .wpUpd ⟨0, 1, 2, 3, 1⟩, .wpPre ⟨0, 1, 2, 0, 8⟩, .launch ⟨0, 1, 2, 1, 0⟩] : List Instr).all (fun i => !i.wf) = true := by decide +kernel

/-- R114 to R116: a latch above q3, a nonzero low field, a mov with a second operand, one target of two, a count or length of zero, an unlisted or read-only register. -/
theorem test_wf_refuses_tile_scalar : ([.teAdd ⟨0, 1, 4, 0, 1, 0⟩, .teAdd ⟨0, 1, 2, 0, 0, 1⟩, .teAdd ⟨0, 1, 2, 0, 0, 0x90⟩, .teMov ⟨0, 1, 2, 1, 0, 0⟩, .teMov ⟨0, 1, 2, 0, 0, 32⟩,
    .teCmp 0 1 2 3 4 6, .teCmp 0 2 2 3 4 0, .tePnot ⟨0, 1, 2, 3⟩, .teLoop 0 0 1 1, .teLoop 0 1 1 0, .teLoopx 0 1 1 0,
    .teRds 0 1 7, .teRds 0 1 0x25, .teWrs 0 1 5, .teWrs 0 1 6, .teWrs 0 1 0xC, .teWrs 0 1 0x20] : List Instr).all (fun i => !i.wf) = true := by decide +kernel

/-- R117, R118: a nonzero low field, a type, width, condition or reduction past its codes, equal or unknown format codes, a nonzero unused field. -/
theorem test_wf_refuses_tile_vector : ([.vldS ⟨0, 1, 2, 1⟩, .vstS ⟨0, 1, 2, 32⟩, .vldSc ⟨0, 1, 2, 1⟩, .vstSc ⟨0, 1, 2, 16⟩, .vadd ⟨0, 1, 2, 3, 2⟩, .vabs ⟨0, 1, 2, 1, 0⟩, .vneg ⟨0, 1, 2, 0, 2⟩,
    .vrcp ⟨0, 1, 2, 1, 0⟩, .vrsq ⟨0, 1, 2, 0, 1⟩, .vcmp ⟨0, 1, 2, 3, 14⟩, .vsel ⟨0, 1, 2, 3, 1⟩, .vcvt ⟨0, 1, 2, 4, 1⟩, .vcvt ⟨0, 1, 2, 36, 1⟩,
    .vcvt ⟨0, 1, 2, 0, 9⟩, .vcvt ⟨0, 1, 2, 2, 1⟩, .vquant ⟨0, 1, 2, 3, 2⟩, .vquant ⟨0, 1, 2, 3, 8⟩, .vmaxabs ⟨0, 1, 2, 1, 0⟩, .vred ⟨0, 1, 2, 0, 3⟩,
    .vperm ⟨0, 1, 2, 3, 1⟩, .vbcast ⟨0, 1, 3, 0, 0⟩, .vext ⟨0, 1, 2, 1, 0⟩, .vmov ⟨0, 1, 2, 0, 1⟩, .vIadd ⟨0, 1, 2, 3, 3⟩] : List Instr).all (fun i => !i.wf) = true := by decide +kernel

/-- R119: KM1 without TOPK, a format code above 8, one accumulator of two, P without NT. -/
theorem test_wf_refuses_matrix : ([.mma 0 1 2 3 0 0 1, .mst 0 1 2 9, .rndPoly 0 1 1 0 0 0, .rndPoly 0 1 2 0 1 0, .rndNs 0 1 1 0, .rndIsr 0 1 1 0 0, .rndIsr 0 1 2 1 0] : List Instr).all (fun i => !i.wf) = true := by decide +kernel

/-- R123, R199, R204 to R225: a guard field without a guard, an immediate without I, a type, size, hint or field past its codes, a register run past w127, a high x register. -/
theorem test_wf_refuses_lane : ([.fadd { lane0 with g := 1 }, .fadd { lane0 with gn := 1 }, .fadd { lane0 with imm := 1 }, .fadd { lane0 with i := 1, b := 1 },
    .fadd { lane0 with t := 3 }, .fadd { lane0 with c := 1 }, .ffma { lane0 with f0 := 1 }, .fabs { lane0 with b := 1 }, .frcp { lane0 with t := 1 },
    .fcmp { lane0 with f0 := 7 }, .fcmp { lane0 with pw := 1, d := 8 }, .fsel { lane0 with f0 := 8 }, .cvt lane0, .cvt { lane0 with f0 := 9 },
    .iadd lane0, .iadd { lane0 with t := 3, f0 := 2 }, .imul { lane0 with t := 3, f0 := 1 }, .icmp { lane0 with t := 3, f0 := 6 }, .popc { lane0 with t := 3, b := 1 },
    .bperm { lane0 with f0 := 1, c := 1 }, .bperm { lane0 with imm := 1 }, .bfx { lane0 with t := 3, i := 1, imm := 0x4000 }, .bfx { lane0 with t := 3, i := 1, imm := 0x20 },
    .bfi { lane0 with t := 3 }, .shfl { lane0 with f0 := 4 }, .shfl { lane0 with i := 1, imm := 32 }, .bcast { lane0 with imm := 32 }, .bcast { lane0 with f0 := 1, imm := 1 },
    .vote lane0, .vote { lane0 with pw := 1, d := 8 }, .vote { lane0 with f0 := 2, pw := 1 }, .vote { lane0 with pw := 1, a := 8 }] : List Instr).all (fun i => !i.wf) = true := by decide +kernel

/-- R84, R199, R213 to R225: a weak access with a scope, a strong one of 16 bytes, an extension of a wide load, a run past w127, an unused field, an atomic of another size. -/
theorem test_wf_refuses_lane_memory : ([.lld { lane0 with f8 := 4 }, .lld { lane0 with f8 := 128, f0 := 4 }, .lld { lane0 with f0 := 10 }, .lld { lane0 with d := 125, f0 := 4 }, .lld { lane0 with c := 32 },
    .lld { lane0 with f8 := 128 + 64 }, .lst { lane0 with f8 := 128 + 32 }, .lst { lane0 with d := 1 }, .lst { lane0 with f0 := 16 }, .lldc { lane0 with f0 := 16 },
    .lldc { lane0 with f8 := 1 }, .lstc { lane0 with f8 := 1 }, .lldp { lane0 with f8 := 8 }, .lblk { lane0 with a := 1 }, .lblk { lane0 with f8 := 64 }, .lblk { lane0 with f0 := 1 },
    .aadd { lane0 with t := 3 }, .aadd { lane0 with t := 1, f0 := 2 }, .amin { lane0 with t := 0, f0 := 3 }, .aand { lane0 with t := 0, f0 := 2 }, .aor { lane0 with t := 3, f0 := 2, f8 := 24 },
    .axor { lane0 with t := 3, f0 := 2, f8 := 6 }, .axchg { lane0 with t := 3, f0 := 2, f8 := 1 }, .acas { lane0 with t := 3, f0 := 3, d := 127 }, .amaxvi { lane0 with f0 := 2 },
    .gumbel { lane0 with c := 32 }, .nhash { lane0 with d := 127 }, .lmma { lane0 with b := 125 }, .lmma { lane0 with f0 := 64 }, .lmma { lane0 with f8 := 32 },
    .laccRd { lane0 with a := 1 }, .laccWr { lane0 with d := 1 }, .laccWr { lane0 with f0 := 2 }, .hdot2 { lane0 with c := 1 }, .lerp { lane0 with t := 1 }, .isad { lane0 with i := 1 }] : List Instr).all (fun i => !i.wf) = true := by decide +kernel

/-! ## Words written out from the encoding tables -/

/-- R121, R122. -/
theorem test_decode_arithmetic : ([
    (0b00000010010100110001110000000000, .add ⟨5, 6, 7⟩),
    (0b00000100010100110010000000000000, .sub ⟨5, 6, 8⟩),
    (0b00000110010100110010010000000000, .and ⟨5, 6, 9⟩),
    (0b00001000010100110010100000000000, .or ⟨5, 6, 10⟩),
    (0b00001010010100110010110000000000, .xor ⟨5, 6, 11⟩),
    (0b00001100010100110011000000000000, .andn ⟨5, 6, 12⟩),
    (0b00001110010100110011010000000000, .shl ⟨5, 6, 13⟩),
    (0b00010000010100110011100000000000, .shr ⟨5, 6, 14⟩),
    (0b00010010010100110011110000000000, .sra ⟨5, 6, 15⟩),
    (0b00010100010100110100000000000000, .mul ⟨5, 6, 16⟩),
    (0b00010110010100110100010000000000, .mulh ⟨5, 6, 17⟩),
    (0b00011000010100110100100000000000, .slt ⟨5, 6, 18⟩),
    (0b00011010010100110100110000000000, .sltu ⟨5, 6, 19⟩),
    (0b00011100010100110101000000000000, .min ⟨5, 6, 20⟩),
    (0b00011110010100110101010000000000, .max ⟨5, 6, 21⟩),
    (0b00100001111100001111111111110000, .addi ⟨31, 1, 32752⟩),
    (0b00100011111100001111111111110001, .andi ⟨31, 1, 32753⟩),
    (0b00100101111100001111111111110010, .ori ⟨31, 1, 32754⟩),
    (0b00100111111100001111111111110011, .xori ⟨31, 1, 32755⟩),
    (0b00101001111100001000000000111011, .shli ⟨31, 1, 59⟩),
    (0b00101011111100001000000000111010, .shri ⟨31, 1, 58⟩),
    (0b00101101111100001000000000111001, .srai ⟨31, 1, 57⟩),
    (0b00101111111100001111111111110111, .slti ⟨31, 1, 32759⟩),
    (0b00110000001110101011110011011110, .lui 3 0xABCDE)] : List (Nat × Instr)).all
    (fun p => decodeScalar p.1 == some p.2 && p.2.wf) = true := by decide +kernel

/-- R121, R122. -/
theorem test_decode_memory : ([
    (0b01000000100000010100000010000000, .ldB ⟨8, 2, 1, 0, 0, 0, 128⟩),
    (0b01000010100100010010100110000001, .ldH ⟨9, 2, 0, 1, 1, 1, 129⟩),
    (0b01000100101000010100000010000010, .ldW ⟨10, 2, 1, 0, 0, 0, 130⟩),
    (0b01000110101100010010101110000011, .ldD ⟨11, 2, 0, 1, 1, 3, 131⟩),
    (0b01001000110000010100000010000100, .stB ⟨12, 2, 1, 0, 0, 0, 132⟩),
    (0b01001010110100010011010110000101, .stH ⟨13, 2, 0, 1, 2, 5, 133⟩),
    (0b01001100111000010100000010000110, .stW ⟨14, 2, 1, 0, 0, 0, 134⟩),
    (0b01001110111100010011000110000111, .stD ⟨15, 2, 0, 1, 2, 1, 135⟩)] : List (Nat × Instr)).all
    (fun p => decodeScalar p.1 == some p.2 && p.2.wf) = true := by decide +kernel

/-- R121, R122. -/
theorem test_decode_control : ([
    (0b01100000001100100111111100000000, .beq ⟨3, 4, 32512⟩),
    (0b01100010001100101111111100000001, .bne ⟨3, 5, 32513⟩),
    (0b01100100001100110111111100000010, .blt ⟨3, 6, 32514⟩),
    (0b01100110001100111111111100000011, .bge ⟨3, 7, 32515⟩),
    (0b01101000001101000111111100000100, .bltu ⟨3, 8, 32516⟩),
    (0b01101010001101001111111100000101, .bgeu ⟨3, 9, 32517⟩),
    (0b01101100000111111111111111111110, .jal 1 1 0x7FFFE),
    (0b01101110001001001000001000000000, .jr 2 9 1),
    (0b01101110001000000000000111111110, .jrW 2 0 127),
    (0b01110000000000000000000000000000, .ret)] : List (Nat × Instr)).all
    (fun p => decodeScalar p.1 == some p.2 && p.2.wf) = true := by decide +kernel

/-- R122. -/
theorem test_decode_lane_control : ([
    (0b10000000000000000000000000001111, .laneIss 15),
    (0b10000010000001000000000000000001, .laneJmp 0x40001),
    (0b10000011100010000000000000000000, .laneJmpInd 17),
    (0b10000100000000000000000000000110, .mpush 6),
    (0b10000110000000000000000000000000, .minv),
    (0b10001000000000000000000000000000, .mpop),
    (0b10001010000000000000000000000101, .bzM 5),
    (0b10001100001110000000000000001001, .part 7 9),
    (0b10001110000000000000000000000000, .regang)] : List (Nat × Instr)).all
    (fun p => decodeScalar p.1 == some p.2 && p.2.wf) = true := by decide +kernel

/-- R122. -/
theorem test_decode_system : ([
    (0b10010000000010101000000000000000, .fmt 21),
    (0b10010001000000011111000000001111, .fmtImm 0x1F00F),
    (0b10010010000000100000000000001101, .bar 4 13),
    (0b10010100011000000000000001000001, .csrRd 6 0x41),
    (0b10010110000000110000000000100000, .csrWr 6 0x20),
    (0b10011000000000001011111011101111, .trap 0xBEEF),
    (0b10011010000000000000000000000000, .eret),
    (0b10011100000000000000000000000000, .exit),
    (0b10011110000000000000000000101011, .fence 5 3),
    (0b10100000000100010000111001111001, .amo ⟨1, 2, 3, 9, 3, 4, 1⟩),
    (0b10110000000000000000000000000000, .wfe),
    (0b10110010000011110111000000000000, .tlbinv 30 7),
    (0b10110100000100010000110000000000, .gstRd ⟨1, 2, 3⟩),
    (0b10110110000100010000110000000000, .gstWr ⟨1, 2, 3⟩),
    (0b10111000000000010000000000000000, .gstRes 2)] : List (Nat × Instr)).all
    (fun p => decodeScalar p.1 == some p.2 && p.2.wf) = true := by decide +kernel

/-- R120, guard 0 in the scalar stream. -/
theorem test_decode_commands : ([
    (0b11000000000000010001000011110101, .cpLd ⟨0, 1, 2, 3, 53⟩),
    (0b11000010000001000010100110011010, .cpSt ⟨0, 4, 5, 6, 26⟩),
    (0b11000100000001110100001001101111, .cpG2g ⟨0, 7, 8, 9, 47⟩),
    (0b11000110000000010001000011001111, .cpMc ⟨0, 1, 2, 3, 15⟩),
    (0b11001000000000010001000000001011, .ringArm ⟨0, 1, 2, 0, 11⟩),
    (0b11001000000111110000000000101110, .ringArmInit ⟨0, 31, 0, 0, 46⟩),
    (0b11001010000001010000000000000011, .ringAwait ⟨0, 5, 0, 0, 3⟩),
    (0b11001100000000000000000000001100, .ringRel ⟨0, 0, 0, 0, 12⟩),
    (0b11001110000101100110000000000101, .jn ⟨0, 22, 12, 0, 5⟩),
    (0b11001110000100000000010011000111, .jn ⟨0, 16, 0, 19, 7⟩),
    (0b11010000000000010001000011000000, .rlkBind ⟨0, 1, 2, 3, 0⟩),
    (0b11010010000000010000000000000101, .rlkAcq ⟨0, 1, 0, 0, 5⟩),
    (0b11010100000000010000000000000100, .rlkRel ⟨0, 1, 0, 0, 4⟩),
    (0b11010110000000010001000000000000, .cairnOpen ⟨0, 1, 2, 0, 0⟩),
    (0b11011000000000010001000011000000, .cairnApp ⟨0, 1, 2, 3, 0⟩),
    (0b11011010000000010001000000000000, .cairnQry ⟨0, 1, 2, 0, 0⟩),
    (0b11011100000000010001000000000000, .cairnSave ⟨0, 1, 2, 0, 0⟩),
    (0b11011110000000010001000000000000, .cairnRst ⟨0, 1, 2, 0, 0⟩),
    (0b11100000000000010000000000000000, .cairnClose ⟨0, 1, 0, 0, 0⟩),
    (0b11100010000000010001000000000000, .kvCmt ⟨0, 1, 2, 0, 0⟩),
    (0b11100100000000010001000011000000, .wpUpd ⟨0, 1, 2, 3, 0⟩),
    (0b11100110000000010001000000000110, .wpPre ⟨0, 1, 2, 0, 6⟩),
    (0b11101000000000010001000000000000, .launch ⟨0, 1, 2, 0, 0⟩)] : List (Nat × Instr)).all
    (fun p => decodeScalar p.1 == some p.2 && p.2.wf) = true := by decide +kernel

/-- R113, R120, guard 9 in a C slot. -/
theorem test_decode_slotC : ([
    (0b11000001001000010001000011110101, .cpLd ⟨9, 1, 2, 3, 53⟩),
    (0b11000011001001000010100110011010, .cpSt ⟨9, 4, 5, 6, 26⟩),
    (0b11000101001001110100001001101111, .cpG2g ⟨9, 7, 8, 9, 47⟩),
    (0b11000111001000010001000011001111, .cpMc ⟨9, 1, 2, 3, 15⟩),
    (0b11001001001000010001000000001011, .ringArm ⟨9, 1, 2, 0, 11⟩),
    (0b11001001001000000000000000101110, .ringArmInit ⟨9, 0, 0, 0, 46⟩),
    (0b11001011001001010000000000000011, .ringAwait ⟨9, 5, 0, 0, 3⟩),
    (0b11001101001000000000000000001100, .ringRel ⟨9, 0, 0, 0, 12⟩),
    (0b11001111001101100110000000000101, .jn ⟨9, 22, 12, 0, 5⟩),
    (0b11001111001100000000010011000111, .jn ⟨9, 16, 0, 19, 7⟩),
    (0b11010001001000010001000011000000, .rlkBind ⟨9, 1, 2, 3, 0⟩),
    (0b11010011001000010000000000000101, .rlkAcq ⟨9, 1, 0, 0, 5⟩),
    (0b11010101001000010000000000000100, .rlkRel ⟨9, 1, 0, 0, 4⟩),
    (0b11010111001000010001000000000000, .cairnOpen ⟨9, 1, 2, 0, 0⟩),
    (0b11011001001000010001000011000000, .cairnApp ⟨9, 1, 2, 3, 0⟩),
    (0b11011011001000010001000000000000, .cairnQry ⟨9, 1, 2, 0, 0⟩),
    (0b11011101001000010001000000000000, .cairnSave ⟨9, 1, 2, 0, 0⟩),
    (0b11011111001000010001000000000000, .cairnRst ⟨9, 1, 2, 0, 0⟩),
    (0b11100001001000010000000000000000, .cairnClose ⟨9, 1, 0, 0, 0⟩),
    (0b11100011001000010001000000000000, .kvCmt ⟨9, 1, 2, 0, 0⟩),
    (0b11100101001000010001000011000000, .wpUpd ⟨9, 1, 2, 3, 0⟩),
    (0b11100111001000010001000000000110, .wpPre ⟨9, 1, 2, 0, 6⟩),
    (0b11101001001000010001000000000000, .launch ⟨9, 1, 2, 0, 0⟩)] : List (Nat × Instr)).all
    (fun p => (fun w => (decodeSlot .c w).toOption) p.1 == some p.2 && p.2.wf) = true := by decide +kernel

/-- R114, R115, R116. -/
theorem test_decode_slotS_1 : ([
    (0b00000100000010100110101111110000, .teAdd ⟨0, 5, 6, 1, 0, 1008⟩),
    (0b00001000010010100110001010000000, .teSub ⟨1, 5, 6, 0, 0, 640⟩),
    (0b00001100100010100011010001010000, .teAnd ⟨2, 5, 3, 0, 1, 80⟩),
    (0b00010000110010100110101111110011, .teOr ⟨3, 5, 6, 1, 0, 1011⟩),
    (0b00010101000010100110001100000000, .teXor ⟨4, 5, 6, 0, 0, 768⟩),
    (0b00011001010010100011010001010000, .teAndn ⟨5, 5, 3, 0, 1, 80⟩),
    (0b00011101100010100110101111110110, .teShl ⟨6, 5, 6, 1, 0, 1014⟩),
    (0b00100001110010100110001101000000, .teShr ⟨7, 5, 6, 0, 0, 832⟩),
    (0b00100110000010100011010001010000, .teSra ⟨8, 5, 3, 0, 1, 80⟩),
    (0b00101010010010100110101111111001, .teMul ⟨9, 5, 6, 1, 0, 1017⟩),
    (0b00101110100010100110001111000000, .teMulh ⟨10, 5, 6, 0, 0, 960⟩),
    (0b00110010110010100011010001010000, .teMin ⟨11, 5, 3, 0, 1, 80⟩),
    (0b00110111000010100110101111111100, .teMax ⟨12, 5, 6, 1, 0, 1020⟩),
    (0b00111000010001000011001001111000, .teSel 1 2 3 4 15),
    (0b00111100010001001000000000000001, .teLi 1 2 0x8001),
    (0b01000000010001000111111111111110, .teLih 1 2 0x7FFE),
    (0b01000100010001000001010000000000, .teMov ⟨1, 2, 1, 0, 1, 0⟩),
    (0b01001000010010001100100001011010, .teCmp 1 2 3 4 5 5),
    (0b01001100010010001101000000000000, .tePand ⟨1, 2, 3, 4⟩),
    (0b01010000010010001101000000000000, .tePor ⟨1, 2, 3, 4⟩),
    (0b01010100010010001101000000000000, .tePxor ⟨1, 2, 3, 4⟩),
    (0b01011000010010001100000000000000, .tePnot ⟨1, 2, 3, 0⟩),
    (0b01011100010001000011111111111000, .teLdS 1 2 3 0xFF8),
    (0b01100000010001000011000000001000, .teStS 1 2 3 8)] : List (Nat × Instr)).all
    (fun p => (fun w => (decodeSlot .s w).toOption) p.1 == some p.2 && p.2.wf) = true := by decide +kernel

/-- R114, R115, R116. -/
theorem test_decode_slotS_2 : ([
    (0b01100100010001000011111101010101, .teLdp 1 2 3 7 0x155),
    (0b01101000011111111111111111111110, .teBr 1 0x3FFFFE),
    (0b01101100011011000000000000000000, .teBri 1 22),
    (0b01110000011111111111111111111111, .teLoop 1 1023 7 511),
    (0b01110100010001000000011000000001, .teLoopx 1 2 3 1),
    (0b01111000010000001100101011111110, .teTmark 1 0xCAFE),
    (0b01111100010000000000000000000000, .teHalt 1),
    (0b10000000010001000100100000000000, .teRds 1 2 0x24),
    (0b10000100010001000011111000000000, .teWrs 1 2 0x1F)] : List (Nat × Instr)).all
    (fun p => (fun w => (decodeSlot .s w).toOption) p.1 == some p.2 && p.2.wf) = true := by decide +kernel

/-- R117. -/
theorem test_decode_slotL : ([
    (0b00000100111000010011111111111111, .vld ⟨3, 33, 7, 2047⟩),
    (0b00001000111000010011110000000001, .vldB ⟨3, 33, 7, 1025⟩),
    (0b00001100111000010011101001000000, .vldS ⟨3, 33, 7, 576⟩),
    (0b00010000111000010011100000000101, .vst ⟨3, 33, 7, 5⟩),
    (0b00010100111000010011111111000000, .vstS ⟨3, 33, 7, 1984⟩),
    (0b00011000111000010011111111100000, .vldSc ⟨3, 33, 7, 2016⟩),
    (0b00011100111000010011100000100000, .vstSc ⟨3, 33, 7, 32⟩)] : List (Nat × Instr)).all
    (fun p => (fun w => (decodeSlot .l w).toOption) p.1 == some p.2 && p.2.wf) = true := by decide +kernel

/-- R118. -/
theorem test_decode_slotV_1 : ([
    (0b00000100101000011010000000100001, .vadd ⟨2, 33, 40, 2, 1⟩),
    (0b00001000101000011010000000100000, .vsub ⟨2, 33, 40, 2, 0⟩),
    (0b00001100101000011010000000100001, .vmul ⟨2, 33, 40, 2, 1⟩),
    (0b00010000101000011010000000100000, .vfma ⟨2, 33, 40, 2, 0⟩),
    (0b00010100101000011010000000100001, .vfms ⟨2, 33, 40, 2, 1⟩),
    (0b00011000101000011010000000100000, .vmax ⟨2, 33, 40, 2, 0⟩),
    (0b00011100101000011010000000100001, .vmin ⟨2, 33, 40, 2, 1⟩),
    (0b00100000101000011010000000000001, .vabs ⟨2, 33, 40, 0, 1⟩),
    (0b00100100101000011010000000000000, .vneg ⟨2, 33, 40, 0, 0⟩),
    (0b00101000101000011010000000000000, .vrcp ⟨2, 33, 40, 0, 0⟩),
    (0b00101100101000011010000000000000, .vrsq ⟨2, 33, 40, 0, 0⟩),
    (0b00110000101000011010000000000000, .vexp2 ⟨2, 33, 40, 0, 0⟩),
    (0b00110100101000011010000000000000, .vlog2 ⟨2, 33, 40, 0, 0⟩),
    (0b00111000101000011010000000101101, .vcmp ⟨2, 33, 40, 2, 13⟩),
    (0b00111100101000011010000000100000, .vsel ⟨2, 33, 40, 2, 0⟩),
    (0b01000000101000011010000000010001, .vcvt ⟨2, 33, 40, 1, 1⟩),
    (0b01000100101000011010001111100111, .vquant ⟨2, 33, 40, 62, 7⟩),
    (0b01001000101000011010000000000000, .vmaxabs ⟨2, 33, 40, 0, 0⟩),
    (0b01001100101000011010000000000010, .vred ⟨2, 33, 40, 0, 2⟩),
    (0b01010000101000011010001111110000, .vperm ⟨2, 33, 40, 63, 0⟩),
    (0b01010100101000011111100000000000, .vbcast ⟨2, 33, 62, 0, 0⟩),
    (0b01011000101000011010001111100000, .vext ⟨2, 33, 40, 62, 0⟩),
    (0b01011100101000011010000000000000, .vmov ⟨2, 33, 40, 0, 0⟩),
    (0b01100000101000011010000000100000, .vIadd ⟨2, 33, 40, 2, 0⟩)] : List (Nat × Instr)).all
    (fun p => (fun w => (decodeSlot .v w).toOption) p.1 == some p.2 && p.2.wf) = true := by decide +kernel

/-- R118. -/
theorem test_decode_slotV_2 : ([
    (0b01100100101000011010000000100001, .vIsub ⟨2, 33, 40, 2, 1⟩),
    (0b01101000101000011010000000100010, .vIshl ⟨2, 33, 40, 2, 2⟩),
    (0b01101100101000011010000000100000, .vIshr ⟨2, 33, 40, 2, 0⟩),
    (0b01110000101000011010000000100001, .vIsra ⟨2, 33, 40, 2, 1⟩),
    (0b01110100101000011010000000100010, .vIand ⟨2, 33, 40, 2, 2⟩),
    (0b01111000101000011010000000100000, .vIor ⟨2, 33, 40, 2, 0⟩),
    (0b01111100101000011010000000100001, .vIxor ⟨2, 33, 40, 2, 1⟩),
    (0b10000000101000011010000000100010, .vImul ⟨2, 33, 40, 2, 2⟩)] : List (Nat × Instr)).all
    (fun p => (fun w => (decodeSlot .v w).toOption) p.1 == some p.2 && p.2.wf) = true := by decide +kernel

/-- R119. -/
theorem test_decode_slotM : ([
    (0b11000000011000011001001111100000, .mma 1 2 3 4 1 1 7),
    (0b11000100011100000000000000000000, .mz 1 3),
    (0b11001000011011111100101000000000, .mrd 1 2 63 5),
    (0b11001100011010000000101000000000, .mwr 1 2 32 5),
    (0b11010000011000011000000000000000, .mld 1 2 3),
    (0b11010100011000011000000000001000, .mst 1 2 3 8),
    (0b11011000010000011000000000000000, .mtree 1 3),
    (0b11011100010000011000000000000000, .mkld 1 3),
    (0b11100000011001111100000000010011, .rndPoly 1 2 1 15 9 1),
    (0b11100100011100000000000000000000, .rndNs 1 3 0 0),
    (0b11101000011100000000000000001011, .rndIsr 1 3 0 5 1),
    (0b11101100010110001000000000000000, .mtopkRd 1 1 34)] : List (Nat × Instr)).all
    (fun p => (fun w => (decodeSlot .m w).toOption) p.1 == some p.2 && p.2.wf) = true := by decide +kernel

/-- R123, R124. -/
theorem test_decode_lane_1 : ([
    (0b000000000000000000000000000000000000000001111111110000000100001000000011011000000000000000000000, .fadd ⟨0, 127, 64, 33, 0, 1, 5, 1, 0, 0, 0, 0, 0⟩),
    (0b001111111000000000000000000000010000000010111111110000000000000000000011011001100000000000000000, .fsub ⟨1065353217, 127, 64, 0, 0, 1, 5, 1, 1, 1, 0, 0, 0⟩),
    (0b000000000000000000000000000000000000000011111111110000000100001000000011011010000000000000000000, .fmul ⟨0, 127, 64, 33, 0, 1, 5, 1, 2, 0, 0, 0, 0⟩),
    (0b000000000000000000000000000000000000000100111111110000000100001110001111011000000000000000000000, .ffma ⟨0, 127, 64, 33, 99, 1, 5, 1, 0, 0, 0, 0, 0⟩),
    (0b000000000000000000000000000000000000000101111111110000000100001110001111011001000000000000000000, .ffms ⟨0, 127, 64, 33, 99, 1, 5, 1, 1, 0, 0, 0, 0⟩),
    (0b000000000000000000000000000000000000000110111111110000000100001000000011011010000000000000000000, .fmin ⟨0, 127, 64, 33, 0, 1, 5, 1, 2, 0, 0, 0, 0⟩),
    (0b001111111000000000000000000000010000000111111111110000000000000000000011011000100000000000000000, .fmax ⟨1065353217, 127, 64, 0, 0, 1, 5, 1, 0, 1, 0, 0, 0⟩),
    (0b000000000000000000000000000000000000001000111111110000000000000000000011011001000000000000000000, .fabs ⟨0, 127, 64, 0, 0, 1, 5, 1, 1, 0, 0, 0, 0⟩),
    (0b000000000000000000000000000000000000001001111111110000000000000000000011011010000000000000000000, .fneg ⟨0, 127, 64, 0, 0, 1, 5, 1, 2, 0, 0, 0, 0⟩),
    (0b000000000000000000000000000000000000001010111111110000000000000000000011011000000000000000000000, .frcp ⟨0, 127, 64, 0, 0, 1, 5, 1, 0, 0, 0, 0, 0⟩),
    (0b000000000000000000000000000000000000001011111111110000000000000000000011011000000000000000000000, .frsq ⟨0, 127, 64, 0, 0, 1, 5, 1, 0, 0, 0, 0, 0⟩),
    (0b000000000000000000000000000000000000001100111111110000000000000000000011011000000000000000000000, .fexp2 ⟨0, 127, 64, 0, 0, 1, 5, 1, 0, 0, 0, 0, 0⟩),
    (0b000000000000000000000000000000000000001101111111110000000000000000000011011000000000000000000000, .flog2 ⟨0, 127, 64, 0, 0, 1, 5, 1, 0, 0, 0, 0, 0⟩),
    (0b000000000000000000000000000000000000001110000011110000000100001000000011011000010000000000000110, .fcmp ⟨0, 7, 64, 33, 0, 1, 5, 1, 0, 0, 1, 0, 6⟩),
    (0b000000000000000000000000000000000000001111111111110000000100001000000011011000000000000000000111, .fsel ⟨0, 127, 64, 33, 0, 1, 5, 1, 0, 0, 0, 0, 7⟩),
    (0b000000000000000000000000000000000000010000111111110000000000000000000011011000000000001000000000, .cvt ⟨0, 127, 64, 0, 0, 1, 5, 1, 0, 0, 0, 2, 0⟩),
    (0b000000000000000000000000000000000000100000000000010001100101101000000011011011000000000000000001, .iadd ⟨0, 0, 70, 45, 0, 1, 5, 1, 3, 0, 0, 0, 1⟩),
    (0b000000000000000000000000000000000000100001000000110001100101101000000011011100000000000000000001, .isub ⟨0, 1, 70, 45, 0, 1, 5, 1, 4, 0, 0, 0, 1⟩),
    (0b000000000000000000000000000000000000100010000001010001100101101000000011011011000000000000000000, .imul ⟨0, 2, 70, 45, 0, 1, 5, 1, 3, 0, 0, 0, 0⟩),
    (0b000000000000000000000000000000000000100011000001110001100101101000000011011100000000000000000000, .imulh ⟨0, 3, 70, 45, 0, 1, 5, 1, 4, 0, 0, 0, 0⟩),
    (0b000000000000000000000000000000000000100100000010010001100101101000000011011011000000000000000000, .imin ⟨0, 4, 70, 45, 0, 1, 5, 1, 3, 0, 0, 0, 0⟩),
    (0b000000000000000000000000000000000000100101000010110001100101101000000011011100000000000000000000, .imax ⟨0, 5, 70, 45, 0, 1, 5, 1, 4, 0, 0, 0, 0⟩),
    (0b000000000000000000000000000000000000100110000011010001100101101000000011011011000000000000000000, .iand ⟨0, 6, 70, 45, 0, 1, 5, 1, 3, 0, 0, 0, 0⟩),
    (0b000000000000000000000000000000000000100111000011110001100101101000000011011100000000000000000000, .ior ⟨0, 7, 70, 45, 0, 1, 5, 1, 4, 0, 0, 0, 0⟩)] : List (Nat × Instr)).all
    (fun p => decodeLane p.1 == some p.2 && p.2.wf) = true := by decide +kernel

/-- R123, R124. -/
theorem test_decode_lane_2 : ([
    (0b000000000000000000000000000000000000101000000100010001100101101000000011011011000000000000000000, .ixor ⟨0, 8, 70, 45, 0, 1, 5, 1, 3, 0, 0, 0, 0⟩),
    (0b000000000000000000000000000000000000101001000100110001100101101000000011011100000000000000000000, .ishl ⟨0, 9, 70, 45, 0, 1, 5, 1, 4, 0, 0, 0, 0⟩),
    (0b000000000000000000000000000000000000101010000101010001100101101000000011011011000000000000000000, .ishr ⟨0, 10, 70, 45, 0, 1, 5, 1, 3, 0, 0, 0, 0⟩),
    (0b000000000000000000000000000000000000101011000101110001100101101000000011011100000000000000000000, .isra ⟨0, 11, 70, 45, 0, 1, 5, 1, 4, 0, 0, 0, 0⟩),
    (0b000000000000000000000000000000000000101100000001010001100101101000000011011011010000000000000101, .icmp ⟨0, 2, 70, 45, 0, 1, 5, 1, 3, 0, 1, 0, 5⟩),
    (0b000000000000000000000000000000000000101101000110110001100000000000000011011100000000000000000000, .popc ⟨0, 13, 70, 0, 0, 1, 5, 1, 4, 0, 0, 0, 0⟩),
    (0b000000000000000000000000000000000000101110000111010001100000000000000011011011000000000000000000, .clz ⟨0, 14, 70, 0, 0, 1, 5, 1, 3, 0, 0, 0, 0⟩),
    (0b000000000000000010000100001000010000110000000000100000100000011000000011011000000000000000000001, .bperm ⟨33825, 1, 2, 3, 0, 1, 5, 1, 0, 0, 0, 0, 1⟩),
    (0b000000000000000000011111000111110000110001000000100000100000000000000011011100100000000000000000, .bfx ⟨7967, 1, 2, 0, 0, 1, 5, 1, 4, 1, 0, 0, 0⟩),
    (0b000000000000000000000000000000000000110010000000100000100000011000000011011000000000000000000000, .bfi ⟨0, 1, 2, 3, 0, 1, 5, 1, 0, 0, 0, 0, 0⟩),
    (0b000000000000000000000000000000000000111000000000100000100000011000000011011000000000000000000011, .shfl ⟨0, 1, 2, 3, 0, 1, 5, 1, 0, 0, 0, 0, 3⟩),
    (0b000000000000000000000000000111110000111001000000100000100000000000000011011000000000000000000000, .bcast ⟨31, 1, 2, 0, 0, 1, 5, 1, 0, 0, 0, 0, 0⟩),
    (0b000000000000000000000000000000000000111010000011100000110000000000000011011000010000000000000001, .vote ⟨0, 7, 3, 0, 0, 1, 5, 1, 0, 0, 1, 0, 1⟩),
    (0b000000000000000000000000000000000001000000111110000000100000000001111111011000001011010011110011, .lld ⟨0, 124, 2, 0, 31, 1, 5, 1, 0, 0, 0, 180, 243⟩),
    (0b000000000000000000000000000000000001000001000000000000101111110001111011011000001100110000000011, .lst ⟨0, 0, 2, 126, 30, 1, 5, 1, 0, 0, 0, 204, 3⟩),
    (0b000000000000000000000000000000000001000010000010000000100000000000010111011000000000000000001001, .lldc ⟨0, 4, 2, 0, 5, 1, 5, 1, 0, 0, 0, 0, 9⟩),
    (0b000000000000000000000000000000000001000011000000000000100001000000010111011000000000000000000100, .lstc ⟨0, 0, 2, 8, 5, 1, 5, 1, 0, 0, 0, 0, 4⟩),
    (0b000000000000000000000000000000000001000100000010000000100000000000010111011000000000011100000010, .lldp ⟨0, 4, 2, 0, 5, 1, 5, 1, 0, 0, 0, 7, 2⟩),
    (0b000000000000000000000000000000000001000101000000000000000000000000011011011000000011111110110000, .lblk ⟨0, 0, 0, 0, 6, 1, 5, 1, 0, 0, 0, 63, 176⟩),
    (0b000000000000000000000000000000000001001000000101000000100010100000001111011011000111000000000010, .aadd ⟨0, 10, 2, 20, 3, 1, 5, 1, 3, 0, 0, 112, 2⟩),
    (0b000000000000000000000000000000000001001001000101000000100010100000001111011100000000001000000010, .amin ⟨0, 10, 2, 20, 3, 1, 5, 1, 4, 0, 0, 2, 2⟩),
    (0b000000000000000000000000000000000001001010000101000000100010100000001111011011000111000000000010, .amax ⟨0, 10, 2, 20, 3, 1, 5, 1, 3, 0, 0, 112, 2⟩),
    (0b000000000000000000000000000000000001001011000101000000100010100000001111011100000111000000000011, .aand ⟨0, 10, 2, 20, 3, 1, 5, 1, 4, 0, 0, 112, 3⟩),
    (0b000000000000000000000000000000000001001100000101000000100010100000001111011011000111000000000010, .aor ⟨0, 10, 2, 20, 3, 1, 5, 1, 3, 0, 0, 112, 2⟩)] : List (Nat × Instr)).all
    (fun p => decodeLane p.1 == some p.2 && p.2.wf) = true := by decide +kernel

/-- R123, R124. -/
theorem test_decode_lane_3 : ([
    (0b000000000000000000000000000000000001001101000101000000100010100000001111011100000111000000000011, .axor ⟨0, 10, 2, 20, 3, 1, 5, 1, 4, 0, 0, 112, 3⟩),
    (0b000000000000000000000000000000000001001110000101000000100010100000001111011011000111000000000010, .axchg ⟨0, 10, 2, 20, 3, 1, 5, 1, 3, 0, 0, 112, 2⟩),
    (0b000000000000000000000000000000000001001111000101000000100010100000001111011100000111000000000011, .acas ⟨0, 10, 2, 20, 3, 1, 5, 1, 4, 0, 0, 112, 3⟩),
    (0b000000000000000000000000000000000001010000000101000000100010100000001111011000000111000000000011, .amaxvi ⟨0, 10, 2, 20, 3, 1, 5, 1, 0, 0, 0, 112, 3⟩),
    (0b000000000000000000000000000000000001011000000010100001100000111000100011011000000000000000000000, .gumbel ⟨0, 5, 6, 7, 8, 1, 5, 1, 0, 0, 0, 0, 0⟩),
    (0b000000000000000000000000000000000001011001111100000001100000111000100011011000000000000000000000, .nhash ⟨0, 120, 6, 7, 8, 1, 5, 1, 0, 0, 0, 0, 0⟩),
    (0b000000000000000000000000000000000001100000000000000001101111100000100111011000000001111100111111, .lmma ⟨0, 0, 6, 124, 9, 1, 5, 1, 0, 0, 0, 31, 63⟩),
    (0b000000000000000000000000000000000001100001000011000000000000000000000011011000000000000000000001, .laccRd ⟨0, 6, 0, 0, 0, 1, 5, 1, 0, 0, 0, 0, 1⟩),
    (0b000000000000000000000000000000000001100010000000000001100000000000000011011000000000000000000000, .laccWr ⟨0, 0, 6, 0, 0, 1, 5, 1, 0, 0, 0, 0, 0⟩),
    (0b000000000000000000000000000000001100000000000000100000100000011000000011011000000000000000000000, .hdot2 ⟨0, 1, 2, 3, 0, 1, 5, 1, 0, 0, 0, 0, 0⟩),
    (0b000000000000000000000000000000001100000001000000100000100000011000010011011000000000000000000000, .lerp ⟨0, 1, 2, 3, 4, 1, 5, 1, 0, 0, 0, 0, 0⟩),
    (0b000000000000000000000000000000001100000010000000100000100000011000000011011000000000000000000000, .isad ⟨0, 1, 2, 3, 0, 1, 5, 1, 0, 0, 0, 0, 0⟩)] : List (Nat × Instr)).all
    (fun p => decodeLane p.1 == some p.2 && p.2.wf) = true := by decide +kernel

/-- R126: an unassigned opcode, a nonzero reserved field and a guard off a tile engine decode to no instruction. -/
theorem test_decode_refuses : decodeScalar 0x32000000 = none ∧ decodeScalar (0x02000000 + 1) = none ∧
    decodeScalar (0xC0000000 + 0x200000) = none ∧ decodeScalar 0xEA000000 = none ∧ decodeLane 0 = none ∧
    decodeLane (0x303 * 2 ^ 54) = none ∧ decodeLane (0x00F * 2 ^ 54 + 8) = none := by decide +kernel

/-- R127: the admission codes of a slot word that is refused. -/
theorem test_decode_admission : (decodeSlot .s 0x88000000).toOption = none ∧ decodeSlot .s (0x20 * 2 ^ 26 + 7 * 2 ^ 9) = .error 0x06 ∧
    decodeSlot .v (1 * 2 ^ 26 + 2) = .error 0x05 ∧ decodeSlot .c (0x64 * 2 ^ 25 + 2 ^ 16 + 32) = .error 0x0A ∧
    decodeSlot .c (0x69 * 2 ^ 25 + 6) = .error 0x0B := by decide +kernel

end Sys2Proof.Tests
end

