-- ==== Sys2Proof/Tests/States.lean ====
section
/-! SUPPORT. Small states that the tests and witnesses use: a gang on an edge core, a management core, a running tile
instance, and how a result of a function is shown to exist. -/

namespace Sys2Proof.Tests

set_option Elab.async false

open Sys2Proof Sys2Proof.Machine

/-! ## An edge core with one gang -/

/-- The launch of the test gang: one gang of a crew, its sections one to one in memory. -/
def desc0 : Desc := { placedDesc with ecmem := 4, pwin := [(0x20000, 256)] }
def launch0 : Launch := { desc := desc0, st := .dispatched }
def crew0 : Crew := { egangs := 1, cmemKiB := 4 }
/-- A thread at its start, with x1 = 64, x2 = 3, x3 = 0x20000 x4 = −1, x5 = 4,088, x6 = 60 and x7 = 192. -/
def th0 : Thread := { startThread desc0 0 with x := [(1, 64), (2, 3), (3, 0x20000), (4, 0xFFFFFFFFFFFFFFFF), (5, 4088), (6, 60), (7, 192)] }
def gang0 (th : Thread) : Gang := { startGang desc0 0 0 with subs := [(0, th)] }
def place0 : SgRef := { core := 0, slot := 0, sub := 0 }

/-- The device with the gang g of the crew cr on edge core 0, whose sub-gang 0 acts. -/
def edgeOf (g : Gang) (cr : Crew) : State :=
  { State.reset.placeTables.setCore 0 { gangs := [(0, g)], crews := [(0, cr)] } with
    launches := [(0, launch0)], cur := .scalar place0, bstat := 1 }

/-- The context of that sub-gang. -/
def ctxOf (th : Thread) (g : Gang) (cr : Crew) : Ctx :=
  { ref := place0, th := th, gang := g, crew := cr, desc := desc0, part := 0 }

def edge0 : State := edgeOf (gang0 th0) crew0
def ctx0 : Ctx := ctxOf th0 (gang0 th0) crew0

/-- The gang of edge0 with its thread replaced: the state and the context. -/
def edgeTh (th : Thread) : State := edgeOf (gang0 th) crew0
def ctxTh (th : Thread) : Ctx := ctxOf th (gang0 th) crew0

/-- A lane instruction with every field zero. -/
def laneF : LaneF := { imm := 0, d := 0, a := 0, b := 0, c := 0, ge := 0, g := 0, gn := 0, t := 0, i := 0, pw := 0, f8 := 0, f0 := 0 }

/-! ## A management core -/

/-- Management core 0 of a device that has started, with the thread and the events given. -/
def mgmtOf (th : Thread) (ev : List W64) : State :=
  { State.reset.placeTables.setMgmt 0 { th := th, events := ev, fwLen := 4096 } with cur := .mgmt 0, bstat := 1 }
def mctxOf (th : Thread) : Ctx := { ref := { core := 0, slot := 0, sub := 0 }, th := th, isMgmt := true }

def mth0 : Thread := { x := [(1, 0x100), (2, 3), (3, 0x20000), (6, 0x22), (7, 16), (8, 0x213F)] }
def mgmt0 : State := mgmtOf mth0 [0x0100000000000000]
def mctx0 : Ctx := mctxOf mth0

/-! ## A running tile instance -/

/-- Tile engine 0 runs the instance t of launch 0. -/
def tileOf (t : Tile) : State :=
  { State.reset.placeTables.setTile 0 { t with run := .running } with
    launches := [(0, launch0)], cur := .tile 0, bstat := 1 }

/-! ## Results that exist -/

/-- A function answered, with a value that p holds of. -/
def gives {σ ε α : Type} (x : σ × Except ε α) (p : α → Bool) : Bool := match x with | (_, .ok b) => p b | _ => false
def yields {ε α : Type} (x : Except ε α) (p : α → Bool) : Bool := match x with | .ok b => p b | _ => false
/-- A step ended in a next state that p holds of. -/
def goes {φ ρ : Type} (x : Host.Outcome State φ ρ) (p : State → Bool) : Bool := match x with | .next b => p b | _ => false

/-- What the test of an answer says: there are the state and the value that a hypothesis names. -/
theorem gives_exists {σ ε α : Type} {x : σ × Except ε α} {p : α → Bool} (h : gives x p = true) :
    ∃ u b, x = (u, .ok b) ∧ p b = true := by
  obtain ⟨u, r⟩ := x
  cases r with
  | error e => exact absurd h (by simp [gives])
  | ok b => exact ⟨u, b, rfl, h⟩

theorem yields_exists {ε α : Type} {x : Except ε α} {p : α → Bool} (h : yields x p = true) : ∃ b, x = .ok b ∧ p b = true := by
  cases x with
  | error e => exact absurd h (by simp [yields])
  | ok b => exact ⟨b, rfl, h⟩

theorem goes_exists {φ ρ : Type} {x : Host.Outcome State φ ρ} {p : State → Bool} (h : goes x p = true) :
    ∃ u, x = .next u ∧ p u = true := by
  cases x with
  | next b => exact ⟨b, rfl, h⟩
  | fault => exact absurd h (by simp [goes])
  | refused => exact absurd h (by simp [goes])

end Sys2Proof.Tests
end

