-- ==== Sys2Proof/Tests/WitnessCopies.lean ====
section
/-! SUPPORT. Concrete states that meet the hypotheses of the statements about copies, multicast, junctions and boxes. -/

namespace Sys2Proof.Tests

set_option Elab.async false

open Sys2Proof Sys2Proof.Machine Sys2Proof.Claims

/-- A function answered without a change of its state, with a value that p holds of. -/
def same {ε α : Type} (s : State) (x : State × Except ε α) (p : α → Bool) : Bool :=
  match x with | (t, .ok a) => decide (t = s) && p a | _ => false

theorem same_exists {ε α : Type} {s : State} {x : State × Except ε α} {p : α → Bool} (h : same s x p = true) :
    ∃ a, x = (s, .ok a) ∧ p a = true := by
  obtain ⟨t, r⟩ := x
  cases r with
  | error e => exact absurd h (by simp [same])
  | ok a =>
    simp only [same, Bool.and_eq_true, decide_eq_true_eq] at h
    exact ⟨a, by rw [h.1], h.2⟩

/-- A function answered, with a state and a value that p holds of. -/
def after {σ ε α : Type} (x : σ × Except ε α) (p : σ → α → Bool) : Bool := match x with | (v, .ok a) => p v a | _ => false

theorem after_exists {σ ε α : Type} {x : σ × Except ε α} {p : σ → α → Bool} (h : after x p = true) : ∃ v a, x = (v, .ok a) ∧ p v a = true := by
  obtain ⟨v, r⟩ := x
  cases r with
  | error e => exact absurd h (by simp [after])
  | ok a => exact ⟨v, a, rfl, h⟩

/-- A record of rank 1 at 0x22000: rows of ext BF16 elements at 0x24000, boxes of four. -/
def recC (kv ext : Nat) : List Byte :=
  leBytes 8 0x24000 ++ [1, 1, 0, 0, 0, 0, 0, 0] ++ leBytes 8 kv ++ leBytes 4 ext ++ List.replicate 24 0 ++
    leBytes 2 1 ++ List.replicate 4 0 ++ leBytes 2 4 ++ List.replicate 12 0 ++ List.replicate 56 0
/-- A KV descriptor at 0x23000: capacity 4,096, window 0, speculation 2, commit 4, oldest 0. -/
def kvC : List Byte := leBytes 8 0 ++ leBytes 4 4096 ++ leBytes 4 0 ++ leBytes 4 2 ++ leBytes 4 0 ++ leBytes 4 4 ++ leBytes 4 0 ++ List.replicate 32 0
/-- The coordinate block that starts a box at element n. -/
def blkC (n : Nat) : List Byte := leBytes 4 n ++ List.replicate 28 0
def ringsC : SMap Ring := [(1, { base := 1024, size := 64, count := 4, slots := [(1, { err := true })] })]

/-- The crew whose queue k holds the entry, and whose matrix queue holds an older one. -/
def copyS (k : Nat) (q : QEntry) (kv ext : Nat) : State :=
  { ((edgeOf (gang0 th0) { crew0 with rings := ringsC, q := { qs := [(k, [q]), (6, [{ seq := 1, cmd := .jn ⟨0, 0, 0, 0, 0⟩ }])] } }).physWrite 0 0x22000 (recC kv ext)).physWrite 0 0x23000 kvC with
    inp := { iss := .crew 0 0, a := k, c := 3 } }
def fz : EC := ⟨0, 0, 0, 0, 0⟩
/-- An entry with its words a and b. -/
def ent (i : Instr) (a b c : W64) : QEntry := { seq := 5, cmd := i, a := a, b := b, c := c, blk := blkC 0, snap := [(3, 7)], vals := [1024, 64, 4] }

def ldQ (a : W64) : QEntry := ent (.cpLd fz) a 0x22000 0x100
/-- Offset 64 of core memory; offset 0 of slots 0 and 1 of ring 1. -/
def words : List Nat := [64, 2 ^ 28 + 2 ^ 24, 2 ^ 28 + 2 ^ 24 + 2 ^ 20]

theorem witness_CopyPerformResults_g2g : ∀ k ∈ [0, 3, 5], let q := ent (.cpG2g fz) 0x24000 0x22000 128; let s := copyS k q 0 8
    AtQueueHead s (.crew 0 0) 0 k q ∧ CopyKey k ∧ s.inp.a = k ∧ (recC 0 8).length = q.c.toNat ∧ (recC 0 8).length ≤ 2 ^ 40 ∧
    EntryReads (tagged s q) (.crew 0 0) 0 q.b.toNat (recC 0 8) ∧
    yields ((tagged s q).writeVa (.crew 0 0) 0 q.a.toNat (recC 0 8) (tagged s q).opTag) (fun _ => true) = true := by decide +kernel

/-- A load has read its record and its box, and p holds of the state, its place and the packed bytes. -/
def loadOk (s : State) (k : Nat) (q : QEntry) (p : State → Nat → List Byte → Bool) : Bool :=
  after (s.copyPlan (.crew 0 0) 0 k q 32) (fun v pl =>
    (match v.dest (.crew 0 0) q.a.toNat pl.l with
     | none => false
     | some off =>
       let js := span 0 pl.l.boxElems
       same v (v.boxRead (.crew 0 0) 0 pl (if q.sent = 0 then js else js.filter (fun j => !pl.l.moved q.sent j))) (fun now =>
        p v off ((pl.l.packed (if q.sent = 0 then now else keepElems (js.map (pl.l.moved q.sent)) q.box now)).drop q.sent))))

theorem witness_CopyPerformResults_loads : ∀ w ∈ words, ∀ n ∈ [0, 2], let q := { ldQ (BitVec.ofNat 64 w) with sent := n }; let s := copyS 0 q 0 8
    AtQueueHead s (.crew 0 0) 0 0 q ∧ CopyKey 0 ∧ s.inp.a = 0 ∧ q.cmd = .cpLd fz ∧ 0 < s.inp.c ∧
    loadOk (tagged s q) 0 q (fun v off bs => decide (bs ≠ []) && bs.length == 8 - n &&
      (v.localWrite (.crew 0 0) (off + q.sent) bs).isSome && (v.localWrite (.crew 0 0) (off + q.sent) (bs.take 3)).isSome) = true := by
  decide +kernel

theorem witness_CopyPerformResults_rings : ∀ w ∈ words, let u := copyS 0 (ldQ (BitVec.ofNat 64 w)) 0 8
    (w.testBit 28 = false ↔ w = 64) ∧
    (w ≠ 64 → ((u.ring (.crew 0 0) (w / 2 ^ 24 % 16)).deliver (w / 2 ^ 20 % 16) 8).2 = decide (w = 2 ^ 28 + 2 ^ 24 + 2 ^ 20)) ∧
    (w = 2 ^ 28 + 2 ^ 24 → ((u.ring (.crew 0 0) (w / 2 ^ 24 % 16)).deliver (w / 2 ^ 20 % 16) 3).2 = false) := by decide +kernel

/-- A store of a box that lies inside; one with a descriptor whose commit + spec it passes. -/
def stQ (n : Nat) : QEntry := { ent (.cpSt fz) 64 0x22000 0x100 with blk := blkC n }
def storeOk (s : State) (q : QEntry) (p : State → Plan → Nat → Bool) : Bool :=
  after (s.copyPlan (.crew 0 0) 0 2 q 32) (fun v pl =>
    (match dwOffset q.a.toNat (issIsTile (.crew 0 0)) (q.vals.getD 0 0) (q.vals.getD 1 0) (q.vals.getD 2 0) pl.l with
     | none => false
     | some off => (v.snapRead (.crew 0 0) q off pl.l.boxBytes).isSome && p v pl off))
theorem witness_CopyPerformResults_stores :
    (let s := copyS 2 (stQ 4) 0 8; let u := tagged s (stQ 4)
     AtQueueHead s (.crew 0 0) 0 2 (stQ 4) ∧ CopyKey 2 ∧ storeOk u (stQ 4) (fun u pl off => !specBad pl &&
      yields (u.storeCheck 0 pl (span 0 pl.l.boxElems)) (fun _ => true) &&
      gives ((uncovered u 0 pl).storeAll (.crew 0 0) 0 pl (swizzle pl.l.swz (List.replicate 8 1)) (badSource (stQ 4) pl off)
        (span 0 pl.l.boxElems)) (fun _ => true)) = true) ∧
    (let s := copyS 2 (stQ 4) 0x23000 4096; AtQueueHead s (.crew 0 0) 0 2 (stQ 4) ∧
      storeOk (tagged s (stQ 4)) (stQ 4) (fun _ pl _ => specBad pl) = true) ∧
    (let s := copyS 2 (stQ 3) 0x23000 4096; storeOk (tagged s (stQ 3)) (stQ 3) (fun _ pl _ => !specBad pl) = true) := by decide +kernel

/-- A store of 32 bytes over a marked granule, whole: the mark goes, but where the source granule is bad too (R107, R108). -/
def recG : List Byte := (recC 0 16).set 58 16
def stG (bad : List Nat) : QEntry := { stQ 0 with snapBad := bad }
def stGs (bad : List Nat) : State :=
  let s := (copyS 2 (stG bad) 0 8).physWrite 0 0x22000 recG
  match s.translate 0 0x24000 true with
  | .ok (.hbm k) => { s with bad := [k / 32] }
  | _ => s
theorem witness_CopyPerformResults_marks : ∀ bad ∈ [[], [2]], let s := tagged (stGs bad) (stG bad)
    AtQueueHead (stGs bad) (.crew 0 0) 0 2 (stG bad) ∧ s.bad ≠ [] ∧ storeOk s (stG bad) (fun s pl off =>
      decide ((uncovered s 0 pl).bad = []) && badSource (stG bad) pl off 0 == !bad.isEmpty && !specBad pl &&
      yields (s.storeCheck 0 pl (span 0 pl.l.boxElems)) (fun _ => true)) = true := by decide +kernel

theorem witness_CopyPerformResults_bad :
    (∀ i ∈ [.cpLd fz, .cpSt fz], let q := ent i 64 0x22040 0x100; AtQueueHead (copyS 1 q 0 8) (.crew 0 0) 0 1 q ∧ CopyKey 1 ∧ q.b.toNat % 128 ≠ 0) ∧
    (let q := ent (.cpG2g fz) 64 0x22000 0x10000000001; AtQueueHead (copyS 1 q 0 8) (.crew 0 0) 0 1 q ∧ 2 ^ 40 < q.c.toNat) := by decide +kernel

/-- A multicast to edge core 0 itself and to a core that runs nothing of the launch; one with no consumer. -/
def mcQ (ws : List Nat) : QEntry := { ent (.cpMc fz) 64 0x22000 0x100 with blk := blkC 0 ++ (ws.flatMap (leBytes 4) ++ List.replicate 32 0).take 32 }
theorem witness_MulticastResults :
    (∀ ws ∈ [[0x300], [0x300, 0x301]], let q := mcQ ws; let s := copyS 4 q 0 8; let v := tagged s q
      AtQueueHead s (.crew 0 0) 0 4 q ∧ s.inp.a = 4 ∧ q.cmd = .cpMc fz ∧
      after (v.copyPlan (.crew 0 0) 0 4 q 64) (fun v pl => v.consumersOk 0 q.blk && same v (v.boxRead (.crew 0 0) 0 pl (span 0 pl.l.boxElems)) (fun vs =>
        (v.castAll (.crew 0 0) q.sg q.a.toNat pl.l (pl.l.packed vs) ((consumers q.blk).map (v.consumer 0 ((v.issLaunch (.crew 0 0)).getD 0)))).2 ==
          if ws.length = 1 then 0 else 0x38)) = true) ∧
    (∀ ws ∈ [[], [0x700], [0x3C0]], let q := mcQ ws; let s := copyS 4 q 0 8
      AtQueueHead s (.crew 0 0) 0 4 q ∧ after ((tagged s q).copyPlan (.crew 0 0) 0 4 q 64) (fun v _ => !v.consumersOk 0 q.blk) = true) := by decide +kernel

/-- Junctions of queue 0 on queues 6 and 7 and on none of them, of an open context 5, and of one of another generation. -/
def jnF (mask : Nat) : EC := { fz with a := BitVec.ofNat 5 (mask / 8), b := BitVec.ofNat 5 (mask % 8 * 4) }
def jnQ (mask : Nat) (h : W64) (n : Nat) : QEntry := { ent (.jn (jnF mask)) 0 0 h with seq := n }
def ctxC : CairnCtx := { isOpen := true, gen := 3, haddr := 0x30000, hcap := 512, quota := 256 }
def jnS (k : Nat) (q : QEntry) : State := { copyS k q 0 8 with cairns := [(5, ctxC)] }
theorem witness_JunctionResults :
    (∀ m ∈ [0x80, 0x3F, 0x40], let q := jnQ m 0x3005 5; AtQueueHead (jnS 0 q) (.crew 0 0) 0 0 q ∧ (jnS 0 q).inp.a = 0 ∧ q.cmd = .jn (jnF m) ∧ 0 ≠ ordKey ∧
      (jnF m).a.toNat * 8 + (jnF m).b.toNat / 4 = m) ∧
    (let q := jnQ 0xFF 0x3005 1; let s := jnS 0 q
     AtQueueHead s (.crew 0 0) 0 0 q ∧ (∀ n < 7, ∀ x ∈ (s.queues (.crew 0 0)).get n, q.seq ≤ x.seq)) ∧
    (let q := jnQ 0x40 0x3005 5; let s := jnS 0 q; (0x40 : Nat).testBit 6 = true ∧ ¬ ∀ x ∈ (s.queues (.crew 0 0)).get 6, q.seq ≤ x.seq) ∧
    (let q := jnQ 0x40 0x3005 5; AtQueueHead (jnS 13 q) (.crew 0 0) 0 13 q ∧ (jnS 13 q).cairnOk 0 q.c.toNat = true) ∧
    (let q := jnQ 0x40 0x4005 5; AtQueueHead (jnS 13 q) (.crew 0 0) 0 13 q ∧ (jnS 13 q).cairnOk 0 q.c.toNat = false) := by decide +kernel

/-- A copy whose write on another device is outstanding, has come back, or came back with an error. -/
def outQ : QEntry := { ent (.cpG2g fz) 0x24000 0x22000 128 with wrote := true }
def outS (xs : List RemoteOp) : State := { copyS 5 outQ 0 8 with remoteOps := xs }
def postOp (answered ok : Bool) : RemoteOp :=
  { id := 0, who := .crew 0 0, sg := outQ.tag, dev := 5, ga := 0x24000, write := true, va := 0x8000024000, posted := true, answered := answered, ok := ok }
theorem witness_AwaitWrites : ∀ xs ∈ [[], [postOp false false], [postOp true false]], let s := outS xs
    s.inp.iss = .crew 0 0 ∧ s.entryAt (.crew 0 0) 5 = some outQ ∧ s.stalled (.entry (.crew 0 0) 5) = false ∧ outQ.failed = false ∧
      outQ.wrote = true ∧ s.remoteOps = xs := by decide +kernel

/-- Boxes of four elements that begin two elements before the extent ends, under each rule for what lies outside. -/
def planB (oob n : Nat) : Plan :=
  { raw := recC 0 8, l := { layoutOf (recC 0 8) with oob := oob }, co := [n], ext := [8], kv := none }
theorem witness_BoxLaws_outside :
    (∀ o ∈ [0, 1, 2], (planB o 6).l.bound (planB o 6).ext ((planB o 6).l.position (planB o 6).co 3) = none) ∧
    (planB 0 6).l.bound (planB 0 6).ext ((planB 0 6).l.position (planB 0 6).co 1) = some [7] ∧
    ((planB 0 6).l.position (planB 0 6).co 3).length = (planB 0 6).ext.length ∧
    (∃ d < 1, ¬ (0 ≤ ((planB 0 6).l.position (planB 0 6).co 3).getD d 0 ∧ ((planB 0 6).l.position (planB 0 6).co 3).getD d 0 < ([8] : List Nat).getD d 0)) ∧
    (let a := (planB 0 6).l.addr (planB 0 6).l.fmt false [7]; let s := copyS 0 (ldQ 64) 0 8
     a = (0x2400E, 0) ∧ ([0, 0] : List Byte).length = elemSpan (planB 0 6).l.fmt a.2 ∧ Holds s (.crew 0 0) 0 a.1 [0, 0] s.opTag) ∧
    (1 < ([0, 0, 0, 0] : List Nat).length ∧ ∃ o ∈ (planB 0 6).l.elemOffs 1, o < 3) := by decide +kernel

theorem witness_BoxLaws :
    (let l := layoutOf (recC 0 8); l.rank ≤ l.win.length ∧ 0 < l.rank ∧ l.fmt ≠ 5 ∧ l.stride.length = 7 ∧ ([7, 7, 7, 7, 7, 7, 7] : List Int).length ≤ 7) ∧
    (∀ fmt ∈ [0, 5, 8], 3 < [0, 1, 2, 3].length ∧ (∀ v ∈ [0, 1, 2, 3], v < 2 ^ elemWidth fmt) ∧ ([0, 1, 2, 3] : List Nat).length % 4 = 0) ∧
    (3 ≤ 3 ∧ (List.replicate 1024 (5 : Byte)).length % 128 = 0) ∧
    (([0, 8] : List Int).length = ([8, 8] : List Nat).length ∧ ¬ (∀ d < 2, 0 ≤ ([0, 8] : List Int).getD d 0 ∧ ([0, 8] : List Int).getD d 0 < ([8, 8] : List Nat).getD d 0) ∧
      ∀ d < 2, 0 ≤ ([0, 7] : List Int).getD d 0 ∧ ([0, 7] : List Int).getD d 0 < ([8, 8] : List Nat).getD d 0) := by decide +kernel

end Sys2Proof.Tests
end

