-- ==== Sys2Proof/Tests/WitnessEntries.lean ====
section
/-! SUPPORT. Concrete states that meet the hypotheses of the statements about locks, commits, wayposts and device launches. -/

namespace Sys2Proof.Tests

set_option Elab.async false

open Sys2Proof Sys2Proof.Machine Sys2Proof.Claims

/-! ## Region locks -/

/-- A crew whose next ordered command is the entry, under its number, with the locks given, and a lock record at 0x20000. -/
def lockS (q : QEntry) (held : List HeldLock) (w base len : Nat) : State :=
  { (edgeOf (gang0 th0) { crew0 with locks := held, q := { ordered := [q], qs := [(6, [{ seq := 9, cmd := .cpG2g fz }])] } }).physWrite 0 0x20000
      (leBytes 8 w ++ leBytes 8 base ++ leBytes 8 len ++ List.replicate 40 0) with inp := { iss := .crew 0 0 }, opTag := q.tag }
def keyAt (s : State) (va : Nat) : Nat := match s.translate 0 va true with | .ok (.hbm k) => k | _ => 0

/-- The record where it lies. -/
theorem lockAt_of {s : State} {va a w base len : Nat} (h : va % 64 = 0 ∧ s.translate 0 va true = .ok (.hbm a) ∧ s.marked a 64 = false ∧
    s.marked a 24 = false ∧ u64At (s.readBytes a 64) 0 = w ∧ u64At (s.readBytes a 64) 8 = base ∧ u64At (s.readBytes a 64) 16 = len ∧
    zeroAt (s.readBytes a 64) 0x18 0x40 = true) : LockAt s 0 va a w base len :=
  ⟨h.1, h.2.1, h.2.2.1, h.2.2.2.1, _, rfl, h.2.2.2.2.1, h.2.2.2.2.2.1, h.2.2.2.2.2.2.1, h.2.2.2.2.2.2.2⟩

def lockQ' (i : Instr) (b c : W64) : QEntry := { seq := 3, cmd := i, a := 0x20000, b := b, c := c, vals := [0] }
def fSc (n : B6) : EC := { fz with m := n }
/-- A free lock, one counted to the top and abandoned, and one that the crew's gang 0 holds. -/
def wTop : Nat := 0xFFFFFFFF00000000
def mine : List HeldLock := [{ va := 0x20000, gang := 0 }]

theorem witness_LockResults_at : ∀ i ∈ [.rlkAcq (fSc 1), .rlkAcq (fSc 0), .rlkRel (fSc 4), .rlkBind fz], ∀ w ∈ [0, wTop, 1], ∀ len ∈ [0, 128],
    let s := lockS (lockQ' i 0 0) [] w 0 len
    OrderedDue s (.crew 0 0) 0 (lockQ' i 0 0) ∧ keyAt s 0x20000 = keyAt (lockS (lockQ' i 0 0) [] 0 0 0) 0x20000 ∧
      u64At (s.readBytes (keyAt s 0x20000) 64) 0 = w ∧ u64At (s.readBytes (keyAt s 0x20000) 64) 16 = len := by decide +kernel

theorem witness_LockResults_record (i : Instr) (hi : i ∈ [.rlkAcq (fSc 1), .rlkRel (fSc 4), .rlkBind fz]) :
    LockAt (lockS (lockQ' i 0 0) [] wTop 0 128) 0 0x20000 (keyAt (lockS (lockQ' i 0 0) [] wTop 0 128) 0x20000) wTop 0 128 := by
  refine lockAt_of ?_
  simp only [List.mem_cons, List.not_mem_nil, or_false] at hi
  rcases hi with rfl | rfl | rfl <;> decide +kernel

theorem witness_LockResults_acquire :
    (let s := lockS (lockQ' (.rlkAcq (fSc 1)) 0 0) [] wTop 0 128
     s.crewOf 0 0 ≠ none ∧ ((s.crewOf 0 0).map Crew.stopReq) = some false ∧ (s.issuingSub 0 0 0).isSome = true ∧ 1 ≤ (fSc 1).m.toNat ∧
      ¬ Owns s (.crew 0 0) 0x20000 wTop 0 ∧ (s.heldLocks (.crew 0 0)).length < 16 ∧ wTop % 2 = 0 ∧
      s.ownerBits (.crew 0 0) (s.gangSlot (.crew 0 0) 0) < 2 ^ 32) ∧
    (let s := lockS (lockQ' (.rlkAcq (fSc 1)) 0 0) [] 1 0 128; ¬ Owns s (.crew 0 0) 0x20000 1 0) ∧
    (let s := lockS (lockQ' (.rlkAcq (fSc 1)) 0 0) mine 1 0 128; Owns s (.crew 0 0) 0x20000 1 0) ∧
    (let s := lockS (lockQ' (.rlkAcq (fSc 1)) 0 0) (List.replicate 16 { va := 0x30000 }) 0 0 128; 16 ≤ (s.heldLocks (.crew 0 0)).length) := by
  decide +kernel

/-- The crew may acquire; a crew that is asked to stop may not, nor one whose gang has a failure posted to it (R228, R296). -/
def lockB (stop : Bool) (posted : List Posted) : State :=
  let q := lockQ' (.rlkAcq (fSc 1)) 0 0
  { (edgeOf (gang0 { th0 with posted := posted }) { crew0 with stopReq := stop, q := { ordered := [q] } }).physWrite 0 0x20000
      (leBytes 8 0 ++ leBytes 8 0 ++ leBytes 8 128 ++ List.replicate 40 0) with inp := { iss := .crew 0 0 }, opTag := q.tag }
theorem witness_LockResults_barred : ∀ x ∈ [(false, ([] : List Posted)), (true, []), (false, [{ cause := 0x30, status := 0, word := 0, addr := 0 }])],
    let q := lockQ' (.rlkAcq (fSc 1)) 0 0; let s := lockB x.1 x.2
    OrderedDue s (.crew 0 0) 0 q ∧ s.acqBarred (.crew 0 0) q.sg = (x.1 || x.2 != []) ∧ s.swapSent (.crew 0 0) q.sg = false := by decide +kernel

theorem witness_LockResults_release :
    (let s := lockS (lockQ' (.rlkRel (fSc 4)) 0 0) mine (wTop + 1) 0 128
     OrderedDue s (.crew 0 0) 0 (lockQ' (.rlkRel (fSc 4)) 0 0) ∧ (wTop + 1) % 2 = 1 ∧ Owns s (.crew 0 0) 0x20000 (wTop + 1) 0 ∧
      (releasedAt s (.crew 0 0) 4).2 = .done) ∧
    (∀ x ∈ [(0, 128), (2 ^ 47 - 128, 2 ^ 47)], x.1 % 128 = 0 ∧ x.2 % 128 = 0 ∧ 0 < x.2 ∧ x.2 ≤ 2 ^ 47 ∧
      (let q := lockQ' (.rlkBind fz) (BitVec.ofNat 64 x.1) (BitVec.ofNat 64 x.2); let s := lockS q [] 0 0 0
       OrderedDue s (.crew 0 0) 0 q ∧
        yields (s.writeVa (.crew 0 0) 0 0x20008 (leBytes 8 x.1 ++ leBytes 8 x.2) s.opTag) (fun _ => true) = true)) ∧
    (let q := lockQ' (.rlkBind fz) 64 128; OrderedDue (lockS q [] 0 0 0) (.crew 0 0) 0 q ∧ ¬ (q.b.toNat % 128 = 0)) := by decide +kernel

/-- A release at system scope whose marker is outstanding, and one whose marker failed. -/
theorem witness_LockResults_markers : ∀ failed ∈ [false, true], let q := lockQ' (.rlkRel (fSc 5)) 0 0
    let s := { lockS q mine (wTop + 1) 0 128 with flushOut := [{ seq := 1, need := 1, who := .crew 0 0, sg := q.tag, dev := 5, failed := failed }] }
    OrderedDue s (.crew 0 0) 0 q ∧ Owns s (.crew 0 0) 0x20000 (wTop + 1) 0 ∧
      (releasedAt s (.crew 0 0) 5).2 = (if failed then .error else .wait) := by decide +kernel

/-- A management core owns a lock by its owner fields. -/
theorem witness_LockResults_mgmt : (let q := lockQ' (.rlkRel (fSc 4)) 0 0
     let s := { ((State.reset.placeTables.setMgmt 1 { q := { ordered := [q] } }).physWrite 0 0x20000 (leBytes 8 (193 * 2 + 2 * 2 ^ 17 + 1) ++ leBytes 8 0 ++ leBytes 8 128 ++ List.replicate 40 0)) with
       bstat := 1, inp := { iss := .mgmt 1 }, opTag := q.tag }
     OrderedDue s (.mgmt 1) 0 q ∧ Owns s (.mgmt 1) 0x20000 (193 * 2 + 2 * 2 ^ 17 + 1) 0 ∧ (releasedAt s (.mgmt 1) 4).2 = .done) := by decide +kernel

/-! ## Commits, wayposts and launches -/

/-- A KV descriptor at 0x20000 with window 64, commit 100, oldest 36 and speculation 4. -/
def kvB : List Byte := leBytes 8 0x30000 ++ leBytes 4 104 ++ leBytes 4 64 ++ leBytes 4 4 ++ leBytes 4 0 ++ leBytes 4 100 ++ leBytes 4 36 ++ List.replicate 32 0
def ordQ (i : Instr) (a b c : W64) : QEntry := { seq := 3, cmd := i, a := a, b := b, c := c }
def ordS (q : QEntry) (bs : List Byte) : State :=
  { ((edgeOf (gang0 th0) { crew0 with q := { ordered := [q] } }).physWrite 0 0x20000 bs) with inp := { iss := .crew 0 0 }, opTag := q.tag }

theorem witness_CommitResults :
    (∀ n ∈ [99, 100, 104, 105], let q := ordQ (.kvCmt fz) 0x20000 (BitVec.ofNat 64 n) 0; let s := ordS q kvB
      OrderedDue s (.crew 0 0) 0 q ∧ q.a.toNat % 64 = 0 ∧ s.translate 0 q.a.toNat true = .ok (.hbm (keyAt s 0x20000)) ∧
      (releasedAt s (.crew 0 0) 4).2 = .done ∧ kvB.length = 64 ∧ Holds (releasedAt s (.crew 0 0) 4).1 (.crew 0 0) 0 q.a.toNat kvB q.tag ∧ kvOk kvB = true ∧
      yields ((releasedAt s (.crew 0 0) 4).1.writeVa (.crew 0 0) 0 0x20018 (leBytes 4 n) q.tag) (fun u =>
        yields (u.writeVa (.crew 0 0) 0 0x2001C (leBytes 4 (n - 64)) q.tag) (fun _ => true)) = true) ∧
    ((kvOf kvB).commit = 100 ∧ (kvOf kvB).spec = 4 ∧ (kvOf kvB).cap = 104 ∧ max (kvOf kvB).oldest (100 - 64) = (kvOf kvB).oldest ∧
      max (kvOf kvB).oldest (104 - 64) ≠ (kvOf kvB).oldest) ∧
    (let q := ordQ (.kvCmt fz) 0x20020 0 0; OrderedDue (ordS q kvB) (.crew 0 0) 0 q ∧ q.a.toNat % 64 ≠ 0) := by decide +kernel

/-- Rows of partition 0: its own, full of counters at 7; one of another partition. -/
def rowW (o : Nat) : WpRow := { owned := true, owner := o, es := (span 0 8).map (fun i => { set := true, succ := i, count := 7 }) }
def wpS (q : QEntry) (o : Nat) : State := { ordS q [] with wayposts := [(255 * 256 + 255, rowW o)] }
theorem witness_WaypostUpdateResults :
    (∀ o ∈ [0, 1], ∀ x ∈ [7, 255], let q := ordQ (.wpUpd fz) 255 255 (BitVec.ofNat 64 x); let s := wpS q o
      OrderedDue s (.crew 0 0) 0 q ∧ q.a.toNat < 256 ∧ q.b.toNat < 256 ∧ q.c.toNat < 256 ∧ SMap.wf {} s.wayposts = true ∧
      (SMap.get {} s.wayposts (s.shub 0 * 65536 + q.a.toNat * 256 + q.b.toNat)).es.length = 8) ∧
    (let q := ordQ (.wpUpd fz) 0 0 0; let s := wpS q 0
     OrderedDue s (.crew 0 0) 0 q ∧ (SMap.get {} s.wayposts (s.shub 0 * 65536)).es = []) ∧
    (∀ q ∈ [ordQ (.wpUpd fz) 256 0 0, ordQ (.wpUpd fz) 0 256 0, ordQ (.wpUpd fz) 0 0 256], OrderedDue (wpS q 0) (.crew 0 0) 0 q ∧
      (256 ≤ q.a.toNat ∨ 256 ≤ q.b.toNat ∨ 256 ≤ q.c.toNat)) := by decide +kernel

def laQ (a b : W64) : QEntry := ordQ (.launch fz) a b 0
def laS (q : QEntry) (n : Nat) : State := { ordS q [] with dlqs := [(31, { ctl := 0x80, entries := List.replicate n [] })] }
theorem witness_LaunchCommandResults :
    (∀ q ∈ [laQ 0x20020 31, laQ 0x20000 31, laQ 0x20000 32, laQ 0x20000 30], OrderedDue (laS q 63) (.crew 0 0) 0 q) ∧
    ((laS (laQ 0x20000 30) 63).dlq 30).ctl.getLsbD 7 = false ∧
    (let q := laQ 0x20000 31; let s := laS q 63
     (s.dlq 31).ctl.getLsbD 7 = true ∧ bits (s.dlq 31).ctl 2 0 = 0 ∧ (s.dlq 31).entries.length < 64 ∧ (releasedAt s (.crew 0 0) 4).2 = .done ∧
      Holds (releasedAt s (.crew 0 0) 4).1 (.crew 0 0) 0 q.a.toNat (List.replicate 512 0) q.tag) ∧
    (let q := laQ 0x20000 31; let s := laS q 64; OrderedDue s (.crew 0 0) 0 q ∧ 64 ≤ (s.dlq 31).entries.length) := by decide +kernel

/-- A prefetch of expert 255 in its row, from the expert table at 0x22000, which is trained or not. -/
def expB (tf : Nat) : List Byte := leBytes 8 0x30000 ++ leBytes 8 0x1000 ++ leBytes 8 0x100 ++ leBytes 4 256 ++ [BitVec.ofNat 8 tf, 0, 0, 0]
def preS (q : QEntry) (tf : Nat) (o : Nat) (en : Bool) : State :=
  { (((edgeOf (gang0 th0) { crew0 with q := { qs := [(4, [q])], ordered := [{ seq := 9, cmd := .wpUpd fz }] } }).physWrite 0 (0x22000 + 32 * 255) (expB tf)).setPart 0
      { (edgeOf (gang0 th0) crew0).part 0 with wptctl := if en then 0x22001 else 0x22000 }) with
    inp := { iss := .crew 0 0, a := 4 }, opTag := q.tag, wayposts := [(255 * 256 + 255, rowW o)] }
def preQ (a b : W64) : QEntry := { ordQ (.wpPre { fz with m := 7 }) a b 0 with seq := 3 }
theorem witness_PrefetchResults :
    (∀ q ∈ [preQ 256 0, preQ 0 256, preQ 255 255], let s := preS q 1 0 true
      AtQueueHead s (.crew 0 0) 0 4 q ∧ ∀ x ∈ (s.queues (.crew 0 0)).ordered, q.seq ≤ x.seq) ∧
    (let s := preS (preQ 255 255) 1 0 false; (s.part 0).wptctl.getLsbD 0 = false) ∧
    (let s := preS (preQ 255 255) 1 1 true; AtQueueHead s (.crew 0 0) 0 4 (preQ 255 255) ∧ (SMap.get {} s.wayposts (255 * 256 + 255)).owner ≠ 0) ∧
    (∀ tf ∈ [0, 1], let s := preS (preQ 255 255) tf 0 true; let r := SMap.get {} s.wayposts (s.shub 0 * 65536 + 255 * 256 + 255)
      (s.part 0).wptctl.getLsbD 0 = true ∧ r.owned = true ∧ r.owner = 0 ∧ (expB tf).length = 32 ∧
      Holds s (.crew 0 0) 0 ((canonVa (bits (s.part 0).wptctl 56 13 * 8192) + 32 * 255) % 2 ^ 64) (expB tf) s.opTag ∧ zeroAt (expB tf) 0x1D 0x20 = true ∧
      u64At (expB tf) 0 % 128 = 0 ∧ u64At (expB tf) 8 % 128 = 0 ∧ u64At (expB tf) 0x10 % 128 = 0 ∧ u32At (expB tf) 0x18 % 128 = 0 ∧
      u8At (expB tf) 0x1C = tf ∧ r.es ≠ [] ∧ ∀ y ∈ r.es, y.set = true ∧ max (7 % 8) 1 ≤ y.count) := by decide +kernel

end Sys2Proof.Tests
end

