-- ==== Sys2Proof/Tests/WitnessCairn.lean ====
section
/-! SUPPORT. Concrete states that meet the hypotheses of the statements about Cairn memory. -/

namespace Sys2Proof.Tests

set_option Elab.async false

open Sys2Proof Sys2Proof.Machine Sys2Proof.Claims

/-- A parameter block at 0x20000 for die 3: the history at 0x30000, capacity 512, and the quota given. -/
def parB (quota : Nat) : List Byte := leBytes 8 0x30000 ++ leBytes 4 512 ++ leBytes 4 quota ++ leBytes 4 3 ++ List.replicate 12 0
def opnQ (va : W64) : QEntry := ordQ (.cairnOpen fz) 0 va 0
/-- Context 0 of die 3 is open already. -/
def opnS (va : W64) (bs : List Byte) (c : CairnCtx) : State := { ordS (opnQ va) bs with cairns := [(3072, c)] }
def openC : CairnCtx := { isOpen := true, gen := 5, hcap := 512, quota := 256 }

theorem witness_CairnResults_misaligned : OrderedDue (opnS 0x20008 [] {}) (.crew 0 0) 0 (opnQ 0x20008) ∧ (opnQ 0x20008).b.toNat % 32 ≠ 0 := by
  decide +kernel
theorem witness_CairnResults_open : ∀ quota ∈ [256, 512], let s := opnS 0x20000 (parB quota) openC
    OrderedDue s (.crew 0 0) 0 (opnQ 0x20000) ∧ Holds s (.crew 0 0) 0 0x20000 (parB quota) s.opTag ∧ ParamsOk s (.crew 0 0) 0 3 (parB quota) ∧
      s.cairnFree 3 (u32At (parB quota) 0x0C) = some 1 := by decide +kernel
theorem witness_CairnResults_full : let s := opnS 0x20000 (parB 256) { openC with quota := 699136 }
    OrderedDue s (.crew 0 0) 0 (opnQ 0x20000) ∧ Holds s (.crew 0 0) 0 0x20000 (parB 256) s.opTag ∧ ParamsOk s (.crew 0 0) 0 3 (parB 256) ∧
      s.cairnFree 3 (u32At (parB 256) 0x0C) = none := by decide +kernel
theorem witness_CairnResults_bad : let s := opnS 0x20000 (parB 768) openC
    OrderedDue s (.crew 0 0) 0 (opnQ 0x20000) ∧ Holds s (.crew 0 0) 0 0x20000 (parB 768) s.opTag ∧ (parB 768).length = 32 := by decide +kernel

theorem witness_CairnResults_badBlock : ∀ d, ¬ ParamsOk (opnS 0x20000 (parB 768) openC) (.crew 0 0) 0 d (parB 768) :=
  fun _ h => absurd h.2.2.2.2.2.2.2.2 (by decide +kernel)

/-- Entries of the queue of context 5: its handle 0x3005, or that of an earlier generation. -/
def cQ (i : Instr) (h b : W64) (n : Nat) : QEntry := { seq := 3, cmd := i, a := h, b := b, c := BitVec.ofNat 64 n }
def cS (q : QEntry) (c : CairnCtx) : State :=
  { ((edgeOf (gang0 th0) { crew0 with q := { qs := [(13, [q])] } }).physWrite 0 0x20000 (leBytes 4 7)) with
    inp := { iss := .crew 0 0, a := 13 }, opTag := q.tag, cairns := [(5, c)] }
/-- A context with no token; one whose match goes on at its only token. -/
def hist0 : CairnCtx := { isOpen := true, gen := 3, haddr := 0x30000, hcap := 512, quota := 256 }
def hist1 : CairnCtx := { hist0 with ntok := 1, cmv := true, cml := 2 }

theorem witness_CairnResults_entries :
    (∀ i ∈ [.cairnClose fz, .cairnSave fz, .cairnQry fz, .cairnApp fz], let s := cS (cQ i 0x3005 0x20040 1) hist0
      AtQueueHead s (.crew 0 0) 0 13 (cQ i 0x3005 0x20040 1) ∧ s.inp.a = 13 ∧ HandleOk s 0 13 0x3005) ∧
    (∀ i ∈ [.cairnClose fz, .cairnSave fz, .cairnQry fz, .cairnApp fz], let s := cS (cQ i 0x2005 0x20040 1) hist0
      AtQueueHead s (.crew 0 0) 0 13 (cQ i 0x2005 0x20040 1) ∧ 8 ≤ 13 ∧ 13 < ordKey ∧ s.cairnOk 0 (cQ i 0x2005 0x20040 1).a.toNat = false) ∧
    (let s := cS (cQ (.cairnSave fz) 0x3005 0x20040 1) hist0
     (0x20040 : W64).toNat % 64 = 0 ∧ yields (s.writeVa (.crew 0 0) 0 0x20040 (imageBytes (s.cairn 5)) s.opTag) (fun _ => true) = true) ∧
    (0x20020 : W64).toNat % 64 ≠ 0 ∧ (0x20008 : W64).toNat % 16 ≠ 0 := by decide +kernel

theorem witness_CairnResults_query :
    (let s := cS (cQ (.cairnQry fz) 0x3005 0x20040 1) hist0
     same s (s.find (.crew 0 0) 0 (s.cairn 5)) (fun x => x.mlen == 0 && !x.cont) = true ∧
      yields (s.writeVa (.crew 0 0) 0 0x20040 (queryBytes 0 0 0 0 0 []) s.opTag) (fun u => decide (SMap.wf {} u.cairns = true)) = true) ∧
    (let s := cS (cQ (.cairnQry fz) 0x3005 0x20040 1) hist1
     HandleOk s 0 13 0x3005 ∧
     same s (s.find (.crew 0 0) 0 (s.cairn 5)) (fun x => x.cont && x.src == 0 &&
      same s (s.tokens (.crew 0 0) 0 (s.cairn 5) [] (span x.src (min 16 ((s.cairn 5).ntok - x.src)))) (fun ts => ts == [0] &&
        yields (s.writeVa (.crew 0 0) 0 0x20040 (queryBytes x.mlen 1 ((if x.cont then 1 else 0) * 2 + x.key * 4) 0 1 ts) s.opTag)
          (fun u => decide (SMap.wf {} u.cairns = true)))) = true) := by decide +kernel

/-- The token of that match is uncorrectable. -/
def badTok : State := { cS (cQ (.cairnQry fz) 0x3005 0x20040 1) hist1 with bad := [keyAt (cS (cQ (.cairnQry fz) 0x3005 0x20040 1) hist1) 0x30000 / 32] }
theorem witness_CairnResults_badToken : let s := badTok
    AtQueueHead s (.crew 0 0) 0 13 (cQ (.cairnQry fz) 0x3005 0x20040 1) ∧ s.contextBusy (.crew 0 0) 13 = false ∧ HandleOk s 0 13 0x3005 ∧
    same s (s.find (.crew 0 0) 0 (s.cairn 5)) (fun x => x.cont &&
      (match s.tokens (.crew 0 0) 0 (s.cairn 5) [] (span x.src (min 16 ((s.cairn 5).ntok - x.src))) with | (t, .error (.mem .uncorr _ _)) => t == s | _ => false) &&
      yields (s.writeVa (.crew 0 0) 0 0x20040 (queryBytes 0 0 (1 + (if x.cont then 1 else 0) * 2 + x.key * 4) 0 (s.cairn 5).ntok []) s.opTag)
        (fun _ => true)) = true := by decide +kernel

/-- An entry of engine 0 in the queue of the context has an access of another device outstanding. -/
def busyC (i : Instr) : State :=
  let q := cQ i 0x3005 0x20040 1
  { (cS q hist0).setTile 0 { q := { qs := [(13, [q])] } } with remoteOps := [{ id := 0, who := .tile 0, sg := q.tag, dev := 5, ga := 0, write := false }] }
theorem witness_CairnResults_busy : ∀ i ∈ [.cairnClose fz, .cairnSave fz, .cairnQry fz, .cairnApp fz], let s := busyC i
    AtQueueHead s (.crew 0 0) 0 13 (cQ i 0x3005 0x20040 1) ∧ s.inp.a = 13 ∧ s.contextBusy (.crew 0 0) 13 = true ∧
    (cS (cQ i 0x3005 0x20040 1) hist0).contextBusy (.crew 0 0) 13 = false := by decide +kernel

/-- An image of one token and one index entry of it, of no token, and with a bad magic number; the entry's kind is 1 or 0. -/
def imgB (m nt n : Nat) : List Byte :=
  leBytes 4 m ++ leBytes 2 1 ++ [0, 0] ++ leBytes 8 0x30000 ++ leBytes 4 512 ++ leBytes 4 256 ++ leBytes 4 nt ++ List.replicate 12 0 ++
    leBytes 4 3 ++ leBytes 4 n ++ List.replicate 16 0
def rstQ (va : W64) : QEntry := ordQ (.cairnRst fz) 0 va 0
def rstS (va : W64) (bs : List Byte) (quota : Nat) : State := { ordS (rstQ va) bs with cairns := [(3072, { openC with quota := quota })] }
theorem witness_CairnResults_restoreBad :
    (OrderedDue (rstS 0x20020 [] 256) (.crew 0 0) 0 (rstQ 0x20020) ∧ (rstQ 0x20020).b.toNat % 64 ≠ 0) ∧
    (let bs := imgB 0x53594302 1 1; let s := rstS 0x20000 bs 256
     OrderedDue s (.crew 0 0) 0 (rstQ 0x20000) ∧ bs.length = 64 ∧ Holds s (.crew 0 0) 0 0x20000 bs s.opTag ∧
      s.cairnDie (.crew 0 0) 0 (u32At bs 0x28) = some 3 ∧ imageOk bs = false) := by decide +kernel
/-- The kind of the entry, and the quota that is taken already. -/
theorem witness_CairnResults_restore : ∀ x ∈ [(1, 256), (1, 699136), (0, 256)], let bs := imgB 0x53594301 1 1
    let es := leBytes 8 (x.1 * 2 ^ 32)
    let s := rstS 0x20000 (bs ++ es) x.2
    OrderedDue s (.crew 0 0) 0 (rstQ 0x20000) ∧ Holds s (.crew 0 0) 0 0x20000 bs s.opTag ∧ s.cairnDie (.crew 0 0) 0 (u32At bs 0x28) = some 3 ∧
      imageOk bs = true ∧ u32At bs 0x2C ≠ 0 := by decide +kernel
theorem witness_CairnResults_restoreEntries : ∀ x ∈ [(1, 256), (1, 699136), (0, 256)], let bs := imgB 0x53594301 1 1
    let es := leBytes 8 (x.1 * 2 ^ 32)
    let s := rstS 0x20000 (bs ++ es) x.2
    es.length = 8 * u32At bs 0x2C ∧ Holds s (.crew 0 0) 0 0x20040 es s.opTag ∧
      entriesOk (imageCtx bs) ((chunks 8 (u32At bs 0x2C) es).map leNat) = decide (x.1 = 1) ∧
      s.cairnFree 3 (imageCtx bs).quota = (if x.2 = 256 then some 1 else none) := by decide +kernel

/-- An append of one token to an empty history; the greatest number of tokens that leaves NTOK in its range. -/
theorem witness_AppendResults :
    (let q := cQ (.cairnApp fz) 0x3005 0x20000 1; let s := cS q hist0
     AtQueueHead s (.crew 0 0) 0 13 q ∧ s.inp.a = 13 ∧ HandleOk s 0 13 q.a ∧ q.c.toNat = [7].length ∧ q.b.toNat % 4 = 0 ∧
      same s (s.bufTokens (.crew 0 0) 0 q.b.toNat 1) (fun r => r.1 == [7] && !r.2) = true ∧
      yields (s.histCheck 0 (s.cairn 5) (span (s.cairn 5).ntok 1)) (fun _ => true) = true ∧
      gives (s.takeAll (.crew 0 0) 0 (s.cairn 5) [] [7]) (fun r => r.2.2 == 0) = true) ∧
    (let s := cS (cQ (.cairnApp fz) 0x3005 0x20000 1) { hist0 with ntok := 512, old := 256 }; let c := s.cairn 5
     HistoryOk c ∧ c.ntok + [7].length < 2 ^ 32 ∧ [7].length ≤ c.hcap ∧ gives (s.takeAll (.crew 0 0) 0 c [] [7]) (fun r => r.2.2 == 0) = true) ∧
    (0 < 1 ∧ ∀ x ∈ [(5, [9, 8, 7, 2 ^ 32 - 1])], x.2.length ≤ 4 ∧ ∀ y ∈ x.2, y < 2 ^ 32) := by decide +kernel

end Sys2Proof.Tests
end

