-- ==== Sys2Proof/Tests/WitnessDevice.lean ====
section
/-! SUPPORT. Concrete states that meet the hypotheses of the statements about starts, modes and device registers. -/

namespace Sys2Proof.Tests

set_option Elab.async false

open Sys2Proof Sys2Proof.Machine Sys2Proof.Claims

/-- A stored configuration at the top of its ranges. -/
def flash1 : BootCfg := { devid := 4607, pclass := 2, part := 3, fabric := 1, determ := 1, owner := 1, rtab := [(4607, 0x3FFFF)] }
/-- A started device whose owner and PART are those of the flash, or differ from them. -/
def started (own : BitVec 256) (m : W32) : State := { State.reset.placeTables with bstat := 1, flash := flash1, owner := own, dmode := m }

/-- An image that is not signed, or older than the fuses allow. -/
def badSign : State := { State.reset with images := { manifest := { signed := false } } }
def badAge : State := { State.reset with fuses := { State.reset.fuses with minVersion := 1 } }
theorem witness_StartResults_failures : (∀ s ∈ [State.reset, { State.reset with flash := flash1, inp := { nums := [3, 4, 7, 255, 6] } }], Verified s ∧
      bits s.bstat 2 0 = 0 ∧ ConfigOk s.flash ∧ (s.inp.nums.filter (fun r => 3 ≤ r && r ≤ 6)).length < 4 ∧ s.inp.v = 0) ∧
    (let s := { State.reset with inp := { nums := [3, 4, 5, 6] } }
     Verified s ∧ bits s.bstat 2 0 = 0 ∧ ConfigOk s.flash ∧ (∀ r ∈ s.inp.nums, 3 ≤ r ∧ r ≤ 6) ∧ 4 ≤ s.inp.nums.length) ∧
    (let s := { State.reset with flash := { flash1 with pclass := 3 } }; Verified s ∧ bits s.bstat 2 0 = 0 ∧ ¬ ConfigOk s.flash) := by
  decide +kernel
theorem witness_StartResults_unverified : bits badSign.bstat 2 0 = 0 ∧ bits badAge.bstat 2 0 = 0 ∧ ¬ Verified badSign ∧ ¬ Verified badAge ∧
    badSign.fuses.minVersion ≤ badSign.images.manifest.version := by decide +kernel
theorem witness_StartResults :
    (∀ s ∈ [started 1 0x30, started 2 0x30, started 1 0x20], bits s.bstat 2 0 ≠ 0 ∧ Verified s ∧ ConfigOk s.flash ∧ s.inp.nums = [] ∧ s.inp.v = 0) ∧
    (started 1 0x30).owner = (started 1 0x30).flash.owner ∧ bits (started 1 0x30).dmode 5 4 = (started 1 0x30).flash.part ∧
    (started 2 0x30).owner ≠ (started 2 0x30).flash.owner ∧ bits (started 1 0x20).dmode 5 4 ≠ (started 1 0x20).flash.part ∧
    (∀ a ∈ [1, 8], let s := { State.reset with inp := { a := a } }; 1 ≤ s.inp.a ∧ s.inp.a ≤ 8) := by decide +kernel

/-- The requests at the top of their fields, with an idle device and with a launch in partition 0 or a reset under way. -/
def asks (a : Nat) : State := { State.reset with bstat := 1, inp := { a := a } }
def busy (a : Nat) : State := { asks a with launches := [(0, launch0)] }
theorem witness_DeviceModeResults :
    (∀ a ∈ [0, 1, 2, 3], (asks a).classPending = false ∧ (asks a).fabricPending = false ∧ (asks a).determ = false ∧ (asks a).inp.a < 4 ∧
      (asks a).drstState = 0 ∧ ∀ p < (asks a).mode, (asks a).partIdle p = true) ∧ (asks 3).inp.a ≠ bits (asks 3).dmode 5 4 ∧
    (busy 3).classPending = false ∧ (busy 3).fabricPending = false ∧ (busy 3).determ = false ∧ (busy 3).inp.a ≠ bits (busy 3).dmode 5 4 ∧
    (0 < (busy 3).mode ∧ (busy 3).partIdle 0 = false) ∧
    (let s := { asks 3 with drst := 0x10 }; s.inp.a < 4 ∧ s.drstState ≠ 0) ∧
    (∀ a ∈ [1, 2], let s := { asks a with dmode := 0x304 }; s.classPending = true ∧ s.fabricPending = true ∧ s.determ = false ∧
      s.inp.a ≠ bits s.dmode 5 4 ∧ s.inp.a ≠ bits s.dmode 9 8) ∧
    (let s := { asks 0 with dmode := 0x304 }; s.inp.a ≠ bits s.dmode 2 2) ∧ (let s := { asks 1 with dmode := 0x304 }; s.inp.a ≠ bits s.dmode 0 0) ∧
    (∀ n ∈ [6, 7], let s := { asks 0 with dmode := 0x304, inFlight := [7, n], fabSeq := 7 }; s.fabricPending = true ∧
      ((∃ m ∈ s.inFlight, m < s.fabSeq) ↔ n = 6)) ∧
    (∀ due ∈ [true, false], let s := { (tileOf { passDue := due }) with dmode := 0x304 }
      s.classPending = true ∧ ∀ x ∈ s.tiles, s.dieBusy (unitDie x.1) = false ∧ x.2.passDue = due) ∧
    ({ asks 1 with dmode := 3 } : State).determ = true := by decide +kernel

/-- A write by management core h of value v at offset o, of n bytes, in part p's block when the offset is there. -/
def wr (o n : Nat) (v : W64) : State := { State.reset with bstat := 1, dmode := 0x30, inp := { iss := .mgmt 3, a := o, b := n, v := v } }
theorem witness_RegisterWriteResults :
    (∀ x ∈ [(0x008, 8), (0x020, 4), (0x040, 8), (0x010, 4), (0x028, 8), (0x030, 4), (0x4000000, 4), (0x4000000 + 4 * 4607, 4), (0x1000000, 8),
        (0x100000, 8)], Writes (wr x.1 x.2 0xFFFFFFFFFFFFFFFF) 3) ∧
    (∀ p ∈ [0, 7], ∀ x ∈ [(0x4024, 4), (0x4034, 4), (0x4000, 4), (0x4010, 8), (0x4018, 8), (0x4028, 8)],
      Writes (wr (0x100000 * (p + 1) + x.1) x.2 0xFFFFFFFFFFFFFFFF) 3 ∧ (wr (0x100000 * (p + 1) + x.1) x.2 0).isPart p = true) ∧
    (∀ x ∈ [(0x00C, 4), (0x010, 8), (0x0FFFFC, 4), (0x4000000 + 4 * 4608, 4), (0x900000 + 0x4000, 4)], regFind x.1 x.2 = none) ∧
    (4607 : Nat) < 4608 ∧ tracedUnit 0 = true ∧ tracedUnit 379 = true := by decide +kernel

/-- The writes of the control registers of partition 0 or queue 255, with the queue enabled or not. -/
def hqOn : HwQueue := { base := 0x20000, ctl := 0x80000020, head := 0xFFFFFFFF, tail := 0xFFFFFFFF }
def cw (p b : Nat) (v : W64) (hq : HwQueue := {}) (pt : Part := {}) : State :=
  { State.reset with bstat := 1, inp := { iss := .mgmt 0, a := p, b := b, v := v }, parts := SMap.set {} [] p { pt with queues := SMap.set {} [] b hq } }
theorem witness_ControlRegisterResults :
    (∀ v ∈ [0xE4, 0x1FF, 0x80000000, 0x8FFFFF87, 0x7FFFFFFF, 0x3F, 0x10, 4, 16, 3, 0x80, 0x82, 0x84, 30, 12, 31, 11],
      Writes (cw 0 255 (BitVec.ofNat 64 v)) 0 ∧ v < 2 ^ 32) ∧
    (cw 0 255 0).isPart 0 = true ∧ SMap.wf {} (cw 0 255 0 hqOn).parts = true ∧ bits (cw 0 255 0).bstat 2 0 ≠ 0 ∧
    dmapNames (cw 0 255 0).mode 0 0xE4 = true ∧ dmapNames (cw 0 255 0).mode 0 0x1FF = false ∧
    (let s := cw 0 255 0xE4 {} { pcst := 0 }; s.pcState 0 = 0) ∧ (let s := cw 0 255 0xE4 {} { pcst := 2 }; s.pcState 0 = 2) ∧
    (({} : HwQueue).ctl.getLsbD 31 = false ∧ 0x8FFFFF87 / 16 % 16 ≤ 8) ∧ ((cw 0 255 0 hqOn).hwq 0 255).ctl.getLsbD 31 = true ∧
    (let hq := (cw 0 255 0 hqOn).hwq 0 255
     (BitVec.ofNat 32 0x3F - hq.head).toNat ≤ 16 * 2 ^ bits hq.ctl 7 4 ∧ hq.arrivals.length ≤ (BitVec.ofNat 32 0x3F - hq.head).toNat ∧
     (BitVec.ofNat 32 0x3F - hq.head).toNat = 16 * 2 ^ bits hq.ctl 7 4 ∧ 16 * 2 ^ bits hq.ctl 7 4 < (BitVec.ofNat 32 0x40 - hq.head).toNat) ∧
    ((cw 0 0 0x8A {} { rbase := 0x10000 }).part 0).rbase.toNat % 2 ^ 17 ≠ 0 ∧ 0x8A / 8 % 32 = 17 ∧ 0x8A % 4 = 2 ∧
    (∀ v ∈ [0x81, 0x82], Writes (cw 0 0 (BitVec.ofNat 64 v) {} { rbase := 0x10000 }) 0 ∧ 0 < v % 4 ∧ v % 4 < 3 ∧ v / 8 % 32 = 16 ∧
      ((cw 0 0 (BitVec.ofNat 64 v) {} { rbase := 0x10000 }).part 0).rbase.toNat % 2 ^ 16 = 0) ∧
    ((cw 31 0 0x87).dlq 31).entries = [] ∧ ({ cw 31 0 0x87 with dlqs := [(31, { entries := [[]] })] }.dlq 31).entries ≠ [] ∧
    tracedUnit 379 = true ∧ ((cw 379 0 0x8000001E).trc 379).ctl.getLsbD 31 = false := by decide +kernel

end Sys2Proof.Tests
end

