-- ==== Sys2Proof/Tests/WitnessEngine.lean ====
section
/-! SUPPORT. Concrete states and operands that meet the hypotheses of the statements about engine commands at issue. -/

namespace Sys2Proof.Tests

set_option Elab.async false

open Sys2Proof Sys2Proof.Machine Sys2Proof.Claims

/-- x1 = 2^39, an address of device 5; x3 = 0x20000, of this one; x8 = 2^39 + 8; x9 = 31. -/
def thQ : Thread := { th0 with x := [(1, 0x8000000000), (2, 3), (3, 0x20000), (6, 60), (7, 192), (8, 0x8000000008), (9, 31)] }
def crewR (r : Ring) : Crew := { crew0 with rings := [(1, r)] }
/-- A device that maps 2^39 on to device 5, with the ring given as the crew's ring 1. -/
def remQ (r : Ring) : State :=
  { ((edgeOf (gang0 thQ) (crewR r)).physWrite 0 0x11008 (leBytes 8 (7 + 2 ^ 50 + 5 * 2 ^ 51))) with rtab := [(5, 1)] }
def ctxQ (r : Ring) : Ctx := ctxOf thQ (gang0 thQ) (crewR r)
/-- The copy queue 1, named in M[5:4], and ring 1, in M[3:0]. -/
def fQ : EC := ⟨0, 3, 3, 7, 0x11⟩
def fR : EC := ⟨0, 1, 8, 7, 0x11⟩

/-- Fifteen entries leave room for the last. -/
def full15 (s : State) (who : Issuer) (k : Nat) : State :=
  (span 0 15).foldl (fun s n => s.qPush who k { seq := n, cmd := .cpG2g fQ }) s

theorem witness_CommandsEnterTheirQueue : (∀ p ∈ queueTable, May (remQ {}) (ctxQ {}) p.2.2.1 p.2.2.2.1 ∧
    (∀ m ∈ [0, 6, 7], Room (remQ {}) (ctxQ {}) (p.2.2.2.2 (remQ {}) (ctxQ {}) { fQ with m := m }))) ∧
    (let s := full15 (remQ {}) (.crew 0 0) 4
     let c := { ctxQ {} with crew := (s.crewOf 0 0).getD {} }
     May s c .copy .edge ∧ Room s c 4 ∧ ((s.queues c.iss).get 4).length = 15) := by decide +kernel

theorem witness_OrderedCommandResults : May (remQ {}) (ctxQ {}) .commit .both ∧ May mgmt0 mctx0 .commit .both ∧
    ((ctxQ {}).x 9).toNat = 31 ∧ ((remQ {}).dlq 31).entries.length < 64 ∧
    (remQ {}).isRemote (ctxQ {}).part ((ctxQ {}).x fQ.a).toNat true = .ok false ∧
    (remQ {}).isRemote (ctxQ {}).part ((ctxQ {}).x fR.a).toNat true = .ok true ∧ Room (remQ {}) (ctxQ {}) 5 := by decide +kernel

/-- A record at 0x20000 of this device, whose base 0 lies here; cp.g2g from another device, and of no bytes. -/
theorem witness_CopyIssueResults : (remQ {}).issueFail = [] ∧ (remQ {}).stalled (.issue (ctxQ {}).iss (ctxQ {}).sg) = false ∧
    May (remQ {}) (ctxQ {}) .copy .edge ∧
    May (remQ {}) (ctxQ {}) .copy .both ∧ Room (remQ {}) (ctxQ {}) 1 ∧ Room (remQ {}) (ctxQ {}) 5 ∧
    (remQ {}).crewOf 0 0 = some (ctxQ {}).crew ∧ (ctxQ {}).x 7 ≠ 0 ∧ (ctxQ {}).x 0 = 0 ∧
    (∀ i ∈ [.cpLd fQ, .cpSt fQ, .cpG2g fQ], gives ((remQ {}).copyRemote ((ctxQ {}).issCtx i) i ((ctxQ {}).x 3).toNat
      ((ctxQ {}).x 3).toNat) (· == false) = true) ∧
    gives ((remQ {}).copyRemote ((ctxQ {}).issCtx (.cpG2g fR)) (.cpG2g fR) ((ctxQ {}).x 3).toNat ((ctxQ {}).x 8).toNat) id = true := by decide +kernel

/-- The same with a record at 0x20000 whose base is 2^39, on device 5. -/
def remQ' : State := (remQ {}).physWrite 0 0x20000 (leBytes 8 0x8000000000)
theorem witness_CopyIssueResults_far : remQ'.issueFail = [] ∧ remQ'.stalled (.issue (ctxQ {}).iss (ctxQ {}).sg) = false ∧
    May remQ' (ctxQ {}) .copy .edge ∧
    Room remQ' (ctxQ {}) 5 ∧ remQ'.crewOf (ctxQ {}).ref.core (ctxQ {}).gang.crew = some (ctxQ {}).crew ∧
    (∀ i ∈ [.cpLd fQ, .cpSt fQ], gives (remQ'.copyRemote ((ctxQ {}).issCtx i) i ((ctxQ {}).x 3).toNat ((ctxQ {}).x 3).toNat) id = true) := by
  decide +kernel

/-- A ring of sixteen slots of 64 bytes; one with slot 15 full at RP and WP past the lap; one in error at RP. -/
def ringE : Ring := { base := 0, size := 64, count := 16 }
def ringF : Ring := { base := 0, size := 64, count := 16, rp := 15, wp := 16, slots := [(15, { arm := true, full := true, exp := 1, cnt := 1, ph := true })] }
def ringX : Ring := { ringE with slots := [(0, { err := true })] }
/-- x1 = 15 the last slot, x2 = 64 its last count, x3 the geometry of ringE. -/
def thR : Thread := { th0 with x := [(1, 15), (2, 64), (3, 0x78004000000)] }
def edgeR (r : Ring) : State := edgeOf (gang0 thR) (crewR r)
def ctxR (r : Ring) : Ctx := ctxOf thR (gang0 thR) (crewR r)
def f1 : EC := ⟨0, 1, 2, 0, 1⟩
theorem witness_RingCommandResults :
    (let s := edgeR ringE; let c := ctxR ringE; let r := s.ring c.iss 1
     c.isMgmt = false ∧ May s c .copy .edge ∧ 1 ≤ r.count ∧ ¬ ((1 : Nat) = 0 ∧ c.desc.persist = true) ∧ (c.x f1.a).toNat = 15 ∧ 15 < r.count ∧
     (r.slot 15).arm = false ∧ (r.slot 15).full = false ∧ (r.slot 15).err = false ∧ 1 ≤ (c.x f1.b).toNat ∧ (c.x f1.b).toNat ≤ r.size ∧
     (r.slot (r.rp % 16)).err = false ∧ r.rp = r.wp ∧ c.th.lq = [] ∧
     (ringGeometry (c.x 3).toNat (s.localSize c.iss)).isSome = true ∧ s.ringBusy c.iss 1 = false) ∧
    (let s := edgeR ringF; let c := ctxR ringF; let r := s.ring c.iss 1
     c.isMgmt = false ∧ May s c .common .edge ∧ 1 ≤ r.count ∧ (r.slot (r.rp % 16)).err = false ∧ r.rp ≠ r.wp ∧
     (r.slot (r.rp % 16)).full = true ∧ SMap.wf {} r.slots = true ∧ r.rp % 16 + 1 = r.count) ∧
    (let s := edgeR ringX; let c := ctxR ringX; let r := s.ring c.iss 1
     c.isMgmt = false ∧ May s c .common .edge ∧ c.th.lq = [] ∧ (r.slot (r.rp % 16)).err = true) ∧
    (let s := edgeR {}; let c := ctxR {}; c.isMgmt = false ∧ May s c .common .edge ∧ c.th.lq = [] ∧ (s.ring c.iss 1).count = 0) := by decide +kernel
theorem witness_RingCommandResults_malformed : Ready (edgeR ringE) (ctxR ringE) ∧
    (ringGeometry ((ctxR ringE).x 2).toNat ((edgeR ringE).localSize (ctxR ringE).iss)).isNone = true := by decide +kernel

/-- Slot 0 with 63 of 64 bytes and armed, slot 1 in error, slot 15 unarmed; RP one lap behind. -/
def ringD : Ring := { ringE with rp := 15, wp := 31, slots := [(0, { arm := true, exp := 64, cnt := 63 }), (1, { err := true }), (15, { arm := true, full := true, exp := 1, cnt := 1, ph := true })] }
theorem witness_RingDeliveryLaws : RingWf ringD ∧ SMap.wf {} ringD.slots = true ∧ (∀ i ∈ [0, 1, 15], i < ringD.count) ∧ 0 < 1 ∧
    (ringD.slot 0).full = false ∧ (ringD.slot 0).arm = true ∧ (ringD.slot 0).cnt + 1 = (ringD.slot 0).exp ∧
    (ringD.slot 0).exp < (ringD.slot 0).cnt + 2 ∧ (ringD.slot 1).err = true ∧ (ringD.slot 15).full = true ∧
    (ringD.slot 2).arm = false ∧ (ringD.slot 2).full = false ∧ (ringD.slot 2).err = false ∧
    RingWf ringE ∧ SMap.wf {} ringE.slots = true := by decide +kernel

/-- An instance that issues a command: its copy queue 0 has no entry, or sixteen; ring 1 stands full or in error. -/
def tileQ (t : Tile) : State := tileOf { t with s := [(3, 0x20000)], p := [(2, true)], b := 3 }
def fT : EC := ⟨2, 3, 3, 3, 1⟩
def full16 : State := (full15 (tileQ {}) (.tile 0) 0).qPush (.tile 0) 0 { seq := 0, cmd := .cpG2g fT }
theorem witness_TileCommandResults :
    (∀ t ∈ [({} : Tile), { rings := [(1, ringF)] }, { rings := [(1, ringX)] }], Runs (tileQ t) 0 ∧ ((tileQ t).tile 0).preg 2 = true) ∧
    ((tileQ {}).tile 0).preg 3 = false ∧
    ((tileQ {}).issueCmd ((tileQ {}).tileIss 0) (.cpG2g fT) 0x20000 0x20000 0x20000).2 = .done none ∧
    (full16.issueCmd ((tileQ {}).tileIss 0) (.cpG2g fT) 0x20000 0x20000 0x20000).2 = .wait ∧
    ((tileQ { rings := [(1, ringF)] }).issueCmd ((tileQ {}).tileIss 0) (.ringAwait fT) 0x20000 0x20000 0x20000).2 = .done (some 960) ∧
    ((tileQ {}).issueCmd ((tileQ {}).tileIss 0) (.rlkAcq fT) 0x20000 0x20000 0x20000).2 = .held true ∧
    ((tileQ { rings := [(1, ringX)] }).issueCmd ((tileQ {}).tileIss 0) (.ringAwait fT) 0x20000 0x20000 0x20000).2 = .ring 0 ∧
    commandOf (.ringAwait fT) = some fT ∧ ((tileQ { rings := [(1, ringX)] }).tile 0).pendErr = none := by decide +kernel

end Sys2Proof.Tests
end

