-- ==== Sys2Proof/Tests/WitnessFaults.lean ====
section
/-! SUPPORT. Concrete states that meet the hypotheses of the statements about translation, faults, saves, epochs and die resets. -/

namespace Sys2Proof.Tests

set_option Elab.async false

open Sys2Proof Sys2Proof.Machine Sys2Proof.Claims

/-! ## Translation -/

/-- Tables for address 2^56 − 4,096 + 5: entry 255 of the root at 0x10000 and entry 511 of the table at 0x12000. -/
def vaT : Nat := 2 ^ 56 - 4091
def mapT (e4 e3 : Nat) : State :=
  (((State.reset.placeTables.physWrite 0 (0x10000 + 8 * 255) (leBytes 8 e4)).physWrite 0 (0x12000 + 8 * 511) (leBytes 8 e3)))
def keyP (s : State) (pa : Nat) : Nat := match s.physLoc 0 pa with | some (.hbm k) => k | _ => 0

theorem entryAt_of {s : State} {t va lvl e : Nat} (h : s.physLoc 0 (t + 8 * (va / 2 ^ (12 + 9 * lvl) % 512)) =
    some (.hbm (keyP s (t + 8 * (va / 2 ^ (12 + 9 * lvl) % 512)))) ∧ s.dieDown (keyDie (keyP s (t + 8 * (va / 2 ^ (12 + 9 * lvl) % 512)))) = false ∧
    s.marked (keyP s (t + 8 * (va / 2 ^ (12 + 9 * lvl) % 512))) 8 = false ∧
    leNat (s.readBytes (keyP s (t + 8 * (va / 2 ^ (12 + 9 * lvl) % 512))) 8) = e) : EntryAt s 0 t va lvl e := ⟨_, h⟩

theorem witness_TranslationResults_early : (2 ^ 56 / 2 ^ 56 ≠ 0 ∧ 2 ^ 56 / 2 ^ 56 ≠ 255) ∧ vaT < 2 ^ 56 ∧
    (State.reset.part 0).ptroot.getLsbD 0 = false ∧ ((mapT 0 0).part 0).ptroot.getLsbD 0 = true ∧ bits ((mapT 0 0).part 0).ptroot 47 12 * 4096 = 0x10000 := by
  decide +kernel

/-- Invalid, malformed in each of the three ways, and good entries at level 4. -/
theorem witness_TranslationResults_root : (∀ e ∈ [0, 3, 5, 1 + 2 ^ 48], (e % 2 = 0 ∨ (e % 2 = 1 ∧ (e / 2 % 2 = 1 ∨ e / 4 % 32 ≠ 0 ∨ e / 2 ^ 48 ≠ 0)))) ∧
    EntryAt (mapT 0 0) 0 0x10000 vaT 4 0 ∧ EntryAt (mapT 3 0) 0 0x10000 vaT 4 3 ∧ EntryAt (mapT 5 0) 0 0x10000 vaT 4 5 ∧
    EntryAt (mapT (1 + 2 ^ 48) 0) 0 0x10000 vaT 4 (1 + 2 ^ 48) :=
  ⟨by decide +kernel, entryAt_of (by decide +kernel), entryAt_of (by decide +kernel), entryAt_of (by decide +kernel), entryAt_of (by decide +kernel)⟩

theorem witness_TranslationResults_marked : (let s := { mapT 0 0 with bad := [keyP (mapT 0 0) (0x10000 + 8 * 255) / 32] }
    s.physLoc 0 (0x10000 + 8 * (vaT / 2 ^ 48 % 512)) = some (.hbm (keyP (mapT 0 0) (0x10000 + 8 * 255))) ∧
      s.marked (keyP (mapT 0 0) (0x10000 + 8 * 255)) 8 = true) := by decide +kernel

/-- A leaf of the last frame of 512 GiB below 2^48, with W and without. -/
def frameT : Nat := (2 ^ 48 - 2 ^ 39) / 4096
theorem witness_TranslationResults_leaf : (0x12 < 2 ^ 36 ∧ frameT < 2 ^ 36 ∧ frameT * 4096 % 2 ^ 39 = 0) ∧
    EntryAt (mapT (1 + 0x12 * 4096) (7 + frameT * 4096)) 0 0x10000 vaT 4 (1 + 0x12 * 4096) ∧
    EntryAt (mapT (1 + 0x12 * 4096) (7 + frameT * 4096)) 0 (0x12 * 4096) vaT 3 (7 + frameT * 4096) ∧
    EntryAt (mapT (1 + 0x12 * 4096) (3 + frameT * 4096)) 0 0x10000 vaT 4 (1 + 0x12 * 4096) ∧
    EntryAt (mapT (1 + 0x12 * 4096) (3 + frameT * 4096)) 0 (0x12 * 4096) vaT 3 (3 + frameT * 4096) :=
  ⟨by decide +kernel, entryAt_of (by decide +kernel), entryAt_of (by decide +kernel), entryAt_of (by decide +kernel), entryAt_of (by decide +kernel)⟩

theorem witness_TranslationResults_walker :
    (let s := { mapT 0 0 with inp := { a := 0, b := 511, c := 3, v := 0x20005, flag := true } }
     s.inp.c = 3 ∧ s.inp.b / 128 = 3 ∧ SMap.wf [] s.mtlb = true ∧ s.inp.a = 0 ∧ s.inp.v.toNat = 0x20005 ∧ s.walkerFree 3 = true ∧ s.dieDown 3 = false ∧
      s.walkRoot 0 0x20005 true = .ok none 0x20005 39 true ∧ (s.tlb.filter (fun x => x.die == 3)).length < 16384) ∧
    (mapT 0 0).walkRoot 0 vaT true = .fault 1 := by decide +kernel

/-- The die of the root's entry is being reset. -/
theorem witness_TranslationResults_stray :
    (let s := { mapT 0 0 with drst := 0x20, rstDie := keyDie (keyP (mapT 0 0) (0x10000 + 8 * 255)) }
     s.physLoc 0 (0x10000 + 8 * (vaT / 2 ^ 48 % 512)) = some (.hbm (keyP (mapT 0 0) (0x10000 + 8 * 255))) ∧
      s.dieDown (keyDie (keyP (mapT 0 0) (0x10000 + 8 * 255))) = true) := by decide +kernel

/-! ## Responses to faults -/

/-- Slot 63 of die 3 holds the fault; a copy waits at the head of queue 0, a launch and a queue exist. -/
def wkT (who : Consumer) (va : Nat) : Walker := { va := va, src := 8, wr := true, why := 1, part := 0, who := who }
def respT (w : Walker) : State :=
  { (edgeOf (gang0 th0) { crew0 with q := { qs := [(0, [ent (.cpLd fz) 0 0 0])] } }) with
    inp := { iss := .mgmt 3, a := 3, b := 63 }, walkers := [(255, w)] }
theorem witness_FaultResponseResults_slots :
    (∀ x ∈ [(Consumer.entry (.crew 0 0) 0, 0x8000000000), (.splitter 0, 0x8000000000), (.front 0 255, 0x20000), (.issue (.crew 0 0) 0, 2 ^ 57 - 1)],
      Writes (respT (wkT x.1 x.2)) 3 ∧ SlotHeld (respT (wkT x.1 x.2)) 3 63 (wkT x.1 x.2)) ∧
    (respT (wkT .none 0x8000000000)).walkRoot 0 (canonVa 0x8000000000) true = .fault 1 ∧
    (respT (wkT .none 0x20000)).walkRoot 0 (canonVa 0x20000) true = .ok none 0x20000 39 true ∧
    (respT (wkT .none 0)).entryAt (.crew 0 0) 0 = some (ent (.cpLd fz) 0 0 0) ∧ handleReg (.cpLd fz) = none := by decide +kernel

/-- A parked sub-gang whose crew holds item 0, with item 1 running elsewhere; the other handle names a sub-gang that runs. -/
def crewPk : Crew := { crew0 with items := [{ item := 0 }] }
def gangPk (b : Bool) : Gang := gang0 { th0 with parked := b }
def parkT (b : Bool) : State :=
  { edgeOf (gangPk b) crewPk with
    inp := { iss := .mgmt 0, a := 0 }
    launches := [(0, { launch0 with items := [{ st := .running, boarded := true }, { st := .running }] })] }
def ctxPk : Ctx := ctxOf { th0 with parked := true } (gangPk true) crewPk
theorem witness_FaultResponseResults_gterm : Writes (parkT true) 0 ∧ (parkT true).inp.a = 0 ∧ (parkT true).parkedOf 0 = some ctxPk ∧
    SMap.wf {} (parkT true).cores = true ∧ ((parkT true).core ctxPk.ref.core).crews = [(ctxPk.gang.crew, ctxPk.crew)] ∧
    ctxPk.crew.items = [{ item := 0 }] ∧ ctxPk.crew.retiring = [] ∧ ctxPk.crew.locks = [] ∧ Writes (parkT false) 0 ∧
    (parkT false).parkedOf 0 = none ∧ (parkT false).hfstat.getLsbD 2 = false := by decide +kernel
theorem witness_FaultResponseResults_launch : ∃ l : Launch, (parkT true).launch ctxPk.crew.launch = some l ∧ l.cause = 0 ∧ MoreToDo l 0 :=
  ⟨_, rfl, rfl, 1, by decide, { st := .running }, rfl, rfl⟩

/-! ## Saves and restores -/

/-- Partition 0 in the state given, with its shadow region at 1 MiB. -/
def savT (pcst : W32) (pt : Part) (t : Tile) : State :=
  { (State.reset.placeTables.setPart 0 { pt with pcst := pcst, pshad := 0x100000 }).setTile 191 t with
    bstat := 1, time := 65536, inp := { a := 0, b := 255 } }
theorem witness_SaveAndRestoreResults_states :
    (∀ x ∈ [(4, ({} : Tile)), (1, {}), (0, {}), (2, {}), (1, { run := .running })], let s := savT (BitVec.ofNat 32 x.1) {} x.2
      s.inp.a = 0 ∧ s.isPart 0 = true ∧ SMap.wf {} s.parts = true ∧ Units s ∧ s.partInReset 0 = false ∧ s.pcState 0 = x.1 ∧ s.inp.b < 256) ∧
    (savT 1 {} {}).quiesced 0 = true ∧ (savT 1 {} { run := .running }).quiesced 0 = false ∧
    (let s := savT 1 { saveBy := 65536 } { run := .running }
     (s.part 0).saveBy ≠ 0 ∧ (s.part 0).saveBy = s.timeOf 0 ∧ s.pcState 0 = 1 ∧ s.quiesced 0 = false) ∧
    (let s := savT 1 { saveBy := 65535 } {}
     (s.part 0).saveBy ≠ 0 ∧ (s.part 0).saveBy < s.timeOf 0 ∧ s.pcState 0 = 1 ∧ s.quiesced 0 = true) ∧
    (let s := savT 1 { saveBy := 65536 } {}; (s.part 0).saveBy ≠ 0 ∧ s.timeOf 0 ≤ (s.part 0).saveBy ∧ s.quiesced 0 = true) ∧
    (let s := { savT 0 {} {} with drst := 0x10 }; s.partInReset 0 = true) := by decide +kernel

/-- Headers of R306: good, of another magic number, and of another mode. -/
def hdT (m md : Nat) : List Byte := leBytes 4 m ++ [BitVec.ofNat 8 md, 4, 0xFF, 0xE4] ++ leBytes 4 580 ++ leBytes 4 7 ++ List.replicate 48 0
def rstT (hd : List Byte) : State := (savT 0 {} {}).physWrite 0 0x100000 hd
theorem witness_SaveAndRestoreResults_headers : (∀ x ∈ [(0x53595801, 0), (0x53595802, 0), (0x53595801, 1)], let s := rstT (hdT x.1 x.2)
      s.physRead 0 (s.shadowBase 0) 64 = .ok (hdT x.1 x.2) ∧ u32At (hdT x.1 x.2) 0 = x.1 ∧ zeroAt (hdT x.1 x.2) 0x10 0x40 = true ∧
      u8At (hdT x.1 x.2) 4 = x.2 ∧ bits s.dmode 5 4 = 0 ∧ s.inp.a = 0 ∧ s.isPart 0 = true ∧ SMap.wf {} s.parts = true ∧ Units s ∧ s.pcState 0 = 0) ∧
    (let s := rstT (hdT 0x53595801 0); u8At (hdT 0x53595801 0) 5 = s.dies ∧ u8At (hdT 0x53595801 0) 6 = s.halfByte 0 ∧ s.bad = []) := by decide +kernel
/-- Every place of the shadow region is in the stacks of a partition of the whole device. -/
theorem pieces_below : ∀ (f va n : Nat), ∀ x ∈ pieces f va n, x.1 < va + n
  | 0, _, _, x, h => by simp [pieces] at h
  | f + 1, va, n, x, h => by
    simp only [pieces] at h
    split at h
    · simp at h
    · rcases List.mem_cons.mp h with rfl | h
      · simp only; omega
      · have := pieces_below f _ _ x h; omega
theorem physGet_ok (s : State) (p : Nat) (hb : s.bad = []) (hd : ∀ d, s.dieDown d = false) :
    ∀ l : List (Nat × Nat), (∀ x ∈ l, ∃ k, s.physLoc p x.1 = some (.hbm k)) → ∃ bs, s.physGet p l = .ok bs
  | [], _ => ⟨[], rfl⟩
  | x :: t, h => by
    obtain ⟨k, hk⟩ := h x List.mem_cons_self
    obtain ⟨bs, hbs⟩ := physGet_ok s p hb hd t (fun y hy => h y (List.mem_cons_of_mem _ hy))
    have hm : s.marked k x.2 = false := by simp [State.marked, hb]
    exact ⟨_, by simp only [State.physGet, hk, hd, hm, hbs]; rfl⟩
/-- The first place of a read decides it when it is uncorrectable, or lies nowhere. -/
theorem physRead_bad (s : State) (p a n k : Nat) (hn : n ≠ 0) (hl : s.physLoc p a = some (.hbm k)) (hd : s.dieDown (keyDie k) = false)
    (hm : s.marked k (min n (128 - a % 128)) = true) : s.physRead p a n = .bad := by
  simp [State.physRead, piecesOf, pieces, hn, State.physGet, hl, hd, hm]
theorem physRead_gone (s : State) (p a n : Nat) (hn : n ≠ 0) (hl : s.physLoc p a = none) : s.physRead p a n = .gone := by
  simp [State.physRead, piecesOf, pieces, hn, State.physGet, hl]
theorem physRead_stray (s : State) (p a n k : Nat) (hn : n ≠ 0) (hl : s.physLoc p a = some (.hbm k)) (hd : s.dieDown (keyDie k) = true) :
    s.physRead p a n = .stray := by
  simp [State.physRead, piecesOf, pieces, hn, State.physGet, hl, hd]
theorem physLoc_whole (s : State) (a : Nat) (hm : s.mode = 1) (hs : ((span 0 s.dies).flatMap (s.dieStacks 0)).length = 12) (ha : a < 2 ^ 39) :
    ∃ k, s.physLoc 0 a = some (.hbm k) := by
  have h0 : a / 2 ^ 44 % 16 = 0 := by omega
  have hg : ¬ 12 * stackGranules ≤ a % 2 ^ 44 / 4096 := by simp only [stackGranules]; omega
  simp only [State.physLoc, h0, hm, interleave, hs, hg]
  simp
theorem wholeRegion (s : State) (hb : s.bad = []) (hr : bits s.drst 7 4 = 0) (hdd : s.deadDies = []) (hm : s.mode = 1)
    (hs : ((span 0 s.dies).flatMap (s.dieStacks 0)).length = 12) (hz : s.shadowBase 0 + s.shadowSize 0 * 2 ^ 20 < 2 ^ 39) :
    ∃ bs, s.physRead 0 (s.shadowBase 0) (s.shadowSize 0 * 2 ^ 20) = .ok bs :=
  physGet_ok s 0 hb (fun d => by simp [State.dieDown, show fld s.drst.toNat 7 4 = 0 from hr, hdd]) _ (fun x hx => by
    have := pieces_below _ _ _ x hx
    exact physLoc_whole s x.1 hm hs (by omega))

/-- A restore that goes on: over the whole region, over one with a bad granule and over one that lies nowhere. -/
def goOn (s : State) : State := { s.setPart 0 { s.part 0 with pcst := 3 } with inp := { s.inp with flag := true } }
def lostT : State := let s := savT 0 {} {}; s.setPart 0 { s.part 0 with pshad := 0x500000000000 }
theorem witness_SaveAndRestoreResults_goesOn :
    (∀ s ∈ [goOn (savT 0 {} {}), { goOn (savT 0 {} {}) with bad := [keyP (savT 0 {} {}) 0x100000 / 32] }, goOn lostT],
      s.inp.a = 0 ∧ s.isPart 0 = true ∧ SMap.wf {} s.parts = true ∧ Units s ∧ s.inp.flag = true ∧ s.pcState 0 = 3) ∧
    ({ goOn (savT 0 {} {}) with inp := { a := 0 } }).inp.flag = false ∧
    (let s := { savT 0 {} {} with bad := [keyP (savT 0 {} {}) 0x100000 / 32] }
     s.inp.flag = false ∧ s.physRead 0 (s.shadowBase 0) 64 = .bad) ∧ lostT.physRead 0 (lostT.shadowBase 0) 64 = .gone := by decide +kernel
theorem witness_SaveAndRestoreResults_places :
    (let s := { goOn (savT 0 {} {}) with bad := [keyP (savT 0 {} {}) 0x100000 / 32] }
     s.physRead 0 (s.shadowBase 0) (s.shadowSize 0 * 2 ^ 20) = .bad) ∧
    (goOn lostT).physRead 0 ((goOn lostT).shadowBase 0) ((goOn lostT).shadowSize 0 * 2 ^ 20) = .gone :=
  ⟨physRead_bad _ _ _ _ (keyP (savT 0 {} {}) 0x100000) (by decide +kernel) (by decide +kernel) (by decide +kernel) (by decide +kernel),
    physRead_gone _ _ _ _ (by decide +kernel) (by decide +kernel)⟩
theorem witness_SaveAndRestoreResults_region : let s := goOn (savT 0 {} {})
    ∃ bs, s.physRead 0 (s.shadowBase 0) (s.shadowSize 0 * 2 ^ 20) = .ok bs :=
  wholeRegion _ (by decide +kernel) (by decide +kernel) (by decide +kernel) (by decide +kernel) (by decide +kernel) (by decide +kernel)

/-- The die that holds the header has not come back from its reset. -/
def strayT : State := { savT 0 {} {} with deadDies := [keyDie (keyP (savT 0 {} {}) 0x100000)] }
theorem witness_SaveAndRestoreResults_stray :
    (strayT.inp.flag = false ∧ strayT.partInReset 0 = false ∧ strayT.pcState 0 = 0 ∧ strayT.physRead 0 (strayT.shadowBase 0) 64 = .stray) ∧
    ((goOn strayT).pcState 0 = 3 ∧ (goOn strayT).physRead 0 ((goOn strayT).shadowBase 0) ((goOn strayT).shadowSize 0 * 2 ^ 20) = .stray) :=
  ⟨⟨by decide +kernel, by decide +kernel, by decide +kernel, physRead_stray _ _ _ _ (keyP strayT 0x100000) (by decide) (by decide +kernel) (by decide +kernel)⟩,
    ⟨by decide +kernel, physRead_stray _ _ _ _ (keyP strayT 0x100000) (by decide +kernel) (by decide +kernel) (by decide +kernel)⟩⟩

/-! ## Epochs and fills -/

/-- A partition with one input kept, at an epoch boundary or past one. -/
def epT (step : W64) (xs : List ExtInput) : State :=
  { State.reset.placeTables.setPart 0 { pstep := step, inputs := xs } with bstat := 1, dmode := 3, inp := { a := 0x7FFFFFFFFF } }
theorem witness_EpochResults :
    State.reset.determ = false ∧ (epT 4095 []).determ = true ∧ (∀ p < (epT 4095 []).mode, ((epT 4095 []).part p).pstep.toNat % 4096 ≠ 0) ∧
    (epT 0 []).keyPart ((epT 0 []).inp.a * 32) = 0 ∧
    (let s := epT 4096 [{ kind := 5, addr := 9 }]
     s.determ = true ∧ s.mode = 1 ∧ SMap.wf {} s.parts = true ∧ (s.part 0).pstep.toNat % 4096 = 0 ∧ (s.part 0).inputs = [{ kind := 5, addr := 9 }] ∧
      bits (s.part 0).rctl 1 0 = 0) := by decide +kernel

/-- The last granule of a line of core 191's L1, and of its scratchpad, which hold one already or not. -/
def markT (b : Nat) (g : Nat) (have' : List Nat) : State :=
  { (State.reset.placeTables.setCore 191 { l1 := [(5, { dirty := 1, bad := have' })] }).setTile 191 { padBad := have' } with bstat := 1, inp := { a := g, b := b, c := 191 } }
theorem witness_EpochAndFillResults_marks :
    (∀ x ∈ [[], [3], [1, 2]], let s := markT 1 23 x
      s.determ = false ∧ s.inp.b = 1 ∧ s.inp.c = 191 ∧ s.inp.a / 4 = 5 ∧ SMap.wf {} s.cores = true ∧ SMap.wf {} (s.core 191).l1 = true ∧
      alGet (s.core 191).l1 5 = some { dirty := 1, bad := x }) ∧
    (∀ x ∈ [[], [32767], [1]], let s := markT 2 32767 x
      s.determ = false ∧ s.inp.b = 2 ∧ s.inp.c = 191 ∧ s.inp.a < 32768 ∧ SMap.wf {} s.tiles = true) := by decide +kernel

/-- A load-block of one line, dirty in its byte 127, whose granule is marked or not. -/
def fillT (bad : List Nat) : State :=
  { State.reset.placeTables.setCore 191 { l1 := [(5, { vals := [(127, 9)], dirty := 2 ^ 127 })], blocks := [(2, { lines := [5] })] } with
    bstat := 1, bad := bad, inp := { a := 191, b := 2 } }
theorem witness_FillResults : (∀ bad ∈ [[], [23]], let s := fillT bad
    SMap.wf {} s.cores = true ∧ SMap.wf {} (s.core 191).l1 = true ∧ s.inp.a = 191 ∧ s.inp.b = 2 ∧
      alGet (s.core 191).blocks 2 = some { lines := [5] } ∧ 5 * 128 < 2 ^ 60 ∧ s.dieDown (keyDie (5 * 128)) = false ∧
      SMap.wf 0 ((s.core 191).line 5).vals = true ∧ s.marked (5 * 128) 128 = (bad != [])) := by decide +kernel

/-! ## The reset of one die -/

/-- A die reset in the state given, of a device of partitions of one die, or of four. -/
def dieT (drst : W32) (dmode : W32) (t : Tile) : State :=
  { (State.reset.placeTables.setTile 191 t) with bstat := 1, drst := drst, dmode := dmode, rstDie := 3, inp := { a := 3 }, cairns := [(3072, { isOpen := true, gen := 3 })] }
theorem witness_DieResetResults :
    (∀ s ∈ [dieT 0x10 0 {}, dieT 0 0 {}, dieT 0x20 0 {}, dieT 0x30 0 {}, dieT 0x10 0 { run := .running }], Units s ∧ s.inp.a = 3 ∧ s.inp.flag = false ∧
      s.rstDie = 3 ∧ SMap.wf {} s.cairns = true ∧ s.hfstat.getLsbD 5 = false) ∧
    bits (dieT 0x10 0 {}).drst 7 4 = 1 ∧ bits (dieT 0 0 {}).drst 7 4 = 0 ∧ (dieT 0 0 {}).onlyDie 3 = false ∧
    (let s := { dieT 0 0x20 {} with parts := (span 0 4).map (fun p => (p, { State.reset.part 0 with dmap := BitVec.ofNat 32 p })) }
     bits s.drst 7 4 = 0 ∧ s.onlyDie 3 = true) ∧
    (dieT 0x10 0 {}).dieQuiet 3 = true ∧ (dieT 0x10 0 { run := .running }).dieQuiet 3 = false ∧ bits (dieT 0x20 0 {}).drst 7 4 = 2 ∧
    bits (dieT 0x30 0 {}).drst 7 4 = 3 ∧ (dieT 0x20 0 {}).dieDown 3 = true ∧ (dieT 0 0 {}).dieDown 3 = false ∧
    (dieT 0x10 0 {}).dirtyLines 3 < 2 ^ 31 := by decide +kernel

end Sys2Proof.Tests
end

