-- ==== Sys2Proof/Tests/WitnessLane.lean ====
section
/-! SUPPORT. Concrete states and operands that meet the hypotheses of the statements about lane instructions. -/

namespace Sys2Proof.Tests

set_option Elab.async false

open Sys2Proof Sys2Proof.Machine Sys2Proof.Claims

/-- An entry of lanes 0 and 31 with x[C] = x. -/
def entryOf (x : W64) (uid : Nat) : LaneEntry :=
  { word := BitVec.ofNat 96 0, mask := 0x80000001, fmt := 0x11, xop := x, srctr := 0, pc := 0, uid := uid }
def thL (e : LaneEntry) : Thread := { th0 with lq := [e] }
/-- w2 is 0 in lane 0 and 16 in lane 31; w3 is 1 in lane 31. -/
def gangL (e : LaneEntry) : Gang := { gang0 (thL e) with w := [(31 * 128 + 2, 16), (31 * 128 + 3, 1)] }
def stL (e : LaneEntry) : State := { edgeOf (gangL e) crew0 with cur := .lane place0 }
def cL (e : LaneEntry) : Ctx := ctxOf (thL e) (gangL e) crew0

/-- The entry of all the register instructions. -/
def e0 : LaneEntry := entryOf 0 0
theorem witness_AtHead : (stL e0).laneCtx = some (cL e0) ∧ (cL e0).th.lq = e0 :: [] ∧ GangWf (cL e0) ∧ lanes (cL e0) laneF e0 = [0, 31] ∧
    (∃ rest, (cL e0).th.lq = e0 :: rest) := by
  refine ⟨by decide +kernel, rfl, by decide +kernel, by decide +kernel, [], rfl⟩

/-- The formats of cvt; the fields of bperm, bfx and bfi, of shfl, bcast and vote at their bounds. -/
theorem witness_LaneRegisterResults : NumFmt.ofCode ({ laneF with f8 := 0x02, f0 := 0 }.f8.toNat % 16) ≠ none ∧
    NumFmt.ofCode (0 : BitVec 8).toNat ≠ none ∧ (Instr.fcmp { laneF with f0 := 6 }).wf = true ∧ (Instr.icmp { laneF with t := 3, f0 := 5 }).wf = true ∧
    (Instr.bperm { laneF with f0 := 1, imm := 0xFFFF }).wf = true ∧
    (Instr.bfx { laneF with t := 3, i := 1, imm := 0x3F1F }).wf = true ∧ (Instr.bfi { laneF with i := 1, imm := 0x3F1F }).wf = true ∧
    ({ laneF with d := 7 }.d.toNat < 8) ∧ (Instr.shfl { laneF with f0 := 3, i := 1, imm := 31 }).wf = true ∧
    (Instr.bcast { laneF with imm := 31 }).wf = true ∧ (Instr.bcast { laneF with f0 := 1 }).wf = true ∧
    (Instr.vote { laneF with f0 := 2, d := 127 }).wf = true ∧ (Instr.vote { laneF with f0 := 3, pw := 1, d := 7 }).wf = true ∧
    (126 : B7).toNat < 127 := by decide +kernel

/-- The entry at the head of the crew's matrix queue too. -/
def e7 : LaneEntry := entryOf 0 7
def stM (e : LaneEntry) : State := (stL e).qPush (.crew 0 0) 6 { seq := 0, cmd := .laccRd laneF, uid := 7 }
def crewM (e : LaneEntry) : Crew := ((alGet ((stM e).core 0).crews 0).getD {})
def cM (e : LaneEntry) : Ctx := ctxOf (thL e) (gangL e) (crewM e)
theorem witness_AtBothHeads : (stM e7).laneCtx = some (cM e7) ∧ (cM e7).th.lq = [e7] ∧ GangWf (cM e7) ∧
    (((stM e7).queues (cM e7).iss).get 6).head?.map QEntry.uid = some e7.uid := by decide +kernel

/-- Lanes 0 and 31 load or store 16 bytes at the end of core memory, to the last run of registers. -/
def fC : LaneF := { laneF with a := 2, d := 124, b := 124, f0 := 4 }
def eC : LaneEntry := entryOf 0xFE0 0
theorem witness_LaneCoreMemory : (stL eC).laneCtx = some (cL eC) ∧ lanes (cL eC) fC eC = [0, 31] ∧ RunOk fC fC.d ∧ RunOk fC fC.b ∧
    (∀ l ∈ lanes (cL eC) fC eC, (placeOf (cL eC) fC eC l).toNat % accBytes fC = 0) ∧
    (∀ l ∈ lanes (cL eC) fC eC, (placeOf (cL eC) fC eC l).toNat + accBytes fC ≤ 1024 * (cL eC).crew.cmemKiB) ∧
    (placeOf (cL eC) fC eC 31).toNat + accBytes fC = 4096 := by decide +kernel

/-- The places that lanes 0 and 31 name in device memory at VA 0x20000 and 0x20010. -/
def locD (l : Nat) : Loc := .hbm (if l = 0 then 8796093030400 else 8796093030416)
def eD : LaneEntry := entryOf 0x20000 0
/-- A strong access of 8 bytes at device scope: a load that acquires, a store that releases. -/
def fLd : LaneF := { laneF with a := 2, d := 126, f0 := 3, f8 := 128 + 32 + 12 }
def fSt : LaneF := { laneF with a := 2, b := 126, f0 := 3, f8 := 128 + 64 + 12 }
theorem witness_LaneLoadStore : (stL eD).laneCtx = some (cL eD) ∧
    (∀ f ∈ [fLd, fSt], ∀ l ∈ lanes (cL eD) f eD, (placeOf (cL eD) f eD l).toNat % accBytes f = 0) ∧ RunOk fLd fLd.d ∧ RunOk fSt fSt.b ∧
    (stL eD).laneLocs (cL eD) fLd eD (accBytes fLd) false (laneWide fLd) = okLanes (cL eD) fLd eD locD ∧
    ((stL eD).laneReads (cL eD) fLd (accBytes fLd) (atLanes (cL eD) fLd eD locD)).2 = okLanes (cL eD) fLd eD (fun _ => List.replicate 8 0) ∧
    (stL eD).laneLocs (cL eD) fSt eD (accBytes fSt) true (laneWide fSt) = okLanes (cL eD) fSt eD locD ∧
    Gated true (stL eD) (cL eD) (cL eD).laneSg (memSc fSt) ((lanes (cL eD) fSt eD).filterMap (fun l => (locD l).dev)) (stL eD) ∧
    (cL eD).isMgmt = false := by decide +kernel

/-- A window of 256 bytes read at its first word and 16 beyond, and at its end by a lane past it. -/
def fW : LaneF := { laneF with a := 2, d := 126, f0 := 3 }
theorem witness_LaneWindow : (∀ e ∈ [entryOf 0 0, entryOf 240 0], (stL e).laneCtx = some (cL e) ∧ ((cL e).desc.pwin.getD 0 (0, 0)).2 ≠ 0 ∧
      (∀ l ∈ lanes (cL e) fW e, (placeOf (cL e) fW e l).toNat % accBytes fW = 0) ∧
      ((stL e).winReads (cL e) ((cL e).desc.pwin.getD 0 (0, 0)) (accBytes fW) ((lanes (cL e) fW e).map (fun l => (l, placeOf (cL e) fW e l)))).2
        = okLanes (cL e) fW e (fun _ => List.replicate 8 0)) ∧ RunOk fW fW.d ∧
    256 < (placeOf (cL (entryOf 240 0)) fW (entryOf 240 0) 31).toNat + accBytes fW := by decide +kernel

/-- A load-block of the most lines, and one of no active lane. -/
theorem witness_LoadBlockResults : (stL eD).laneCtx = some (cL eD) ∧ lanes (cL eD) { laneF with f8 := 63 } eD ≠ [] ∧
    (BitVec.ofInt 64 (eD.xop.toInt + (0 : W32).toInt) : W64).toNat % 128 = 0 ∧
    yields ((stL eD).blockLocs (cL eD).part 0x20000 64) (fun ls => ls.length == 64) = true ∧
    lanes (cL eD) { laneF with ge := 1 } eD = [] := by decide +kernel

/-- Atomics of 8 bytes at the end of core memory, and on device memory at device scope, acquiring and releasing. -/
def fAc : LaneF := { laneF with a := 2, d := 8, b := 10, t := 4, f0 := 3, f8 := 2 }
def fAd : LaneF := { laneF with a := 2, d := 8, b := 10, t := 4, f0 := 3, f8 := 96 + 12 }
def eA : LaneEntry := entryOf 0xFE8 0
def eA1 : LaneEntry := { eA with mask := 1 }
def opCas : Nat → Nat → Nat → Nat → Nat → Option Nat := (atomTable.getD 7 (.aadd, fun _ _ _ _ _ => none)).2
def opAdd : Nat → Nat → Nat → Nat → Nat → Option Nat := (atomTable.getD 0 (.aadd, fun _ _ _ _ _ => none)).2
theorem witness_LaneAtomicResults : (stL eA).laneCtx = some (cL eA) ∧ (cL eA).isMgmt = false ∧ accBytes fAc = 8 ∧
    accBytes { fAc with f0 := 2 } = 4 ∧
    (∀ l ∈ lanes (cL eA) fAc eA, (placeOf (cL eA) fAc eA l).toNat % accBytes fAc = 0 ∧
      (placeOf (cL eA) fAc eA l).toNat + accBytes fAc ≤ 1024 * (cL eA).crew.cmemKiB) ∧ fAc.f8.toNat / 2 % 2 = 1 ∧
    (stL eA1).laneCtx = some (cL eA1) ∧ lanes (cL eA1) fAc eA1 = [0] ∧ atomValue opCas (cL eA1) fAc 0 1 = none ∧
    atomValue opAdd (cL eA1) fAc 0 1 = some 1 := by decide +kernel
theorem witness_LaneAtomicResults_device : (stL eD).laneCtx = some (cL eD) ∧ fAd.f8.toNat / 2 % 2 = 0 ∧
    (stL eD).laneLocs (cL eD) fAd eD (accBytes fAd) true (3 ≤ memSc fAd) = okLanes (cL eD) fAd eD locD ∧
    (stL eD).atomBegun (cL eD) (lanes (cL eD) fAd eD) = false ∧
    Gated true (stL eD) (cL eD) (cL eD).laneSg (memSc fAd) [] (stL eD) ∧
    (∀ x ∈ (stL eD).atomCheck (cL eD) fAd (accBytes fAd) (atLanes (cL eD) fAd eD locD), yields x.2.2 (fun _ => true) = true) ∧
    ((stL eD).atomLocals (cL eD) fAd (accBytes fAd) (fun l old => atomValue opAdd (cL eD) fAd l old)
      (atLanes (cL eD) fAd eD locD)).2 = okLanes (cL eD) fAd eD (fun _ => List.replicate 8 0) := by decide +kernel

theorem witness_MisalignedLaneAccess : (stL (entryOf 4 0)).laneCtx = some (cL (entryOf 4 0)) ∧ (stL (entryOf 4 0)).scalarBusy (cL (entryOf 4 0)) = false ∧
    (lanes (cL (entryOf 4 0)) fC (entryOf 4 0)).filter (fun l => (placeOf (cL (entryOf 4 0)) fC (entryOf 4 0) l).toNat % accBytes fC != 0) = 0 :: [31] := by
  decide +kernel

/-- A layout record of rank 2 for BF16 rows of 48 elements, four rows. -/
def recBytes : List Byte :=
  leBytes 8 0x24000 ++ [2, 1, 0, 0, 0, 0, 0, 0] ++ leBytes 8 0 ++ leBytes 4 48 ++ leBytes 4 4 ++ List.replicate 20 0 ++
    leBytes 2 1 ++ leBytes 2 1 ++ leBytes 2 0 ++ leBytes 2 48 ++ leBytes 2 1 ++ List.replicate 10 0 ++
    leBytes 8 0 ++ leBytes 8 1024 ++ List.replicate 40 0
def recLayout : Layout := layoutOf recBytes
def rowX : List (Option Nat) := (span 0 144).map (fun k => if k < 48 then some 0 else none)
/-- Both operands of an lmma named by slot 0 of LREF. -/
def stX : State := { (stM e7).physWrite 0 0x23000 recBytes with launches := [(0, { launch0 with desc := { desc0 with lref := [0x23000] } })] }
def cX : Ctx := { cM e7 with desc := { desc0 with lref := [0x23000] } }
theorem witness_LaneMatrixResults : stX.laneCtx = some cX ∧ cX.th.lq = [e7] ∧ ((stX.queues cX.iss).get 6).head?.map QEntry.uid = some e7.uid ∧
    GangWf cX ∧ lanes cX { laneF with a := 3 } e7 = [0, 31] ∧ lanes cX { laneF with ge := 1 } e7 = [] ∧ matClass e7.fmt.toNat = some 144 ∧
    sx 32 (e7.xop.toNat % 2 ^ 32) % 48 = 0 := by decide +kernel
theorem witness_LaneMatrixResults_record : stX.lmmaRecord cX 0 0 = (stX, .ok (recLayout, [48, 4])) := by decide +kernel
theorem witness_LaneMatrixResults_rows :
    ∀ x ∈ [stX.lmmaRows cX recLayout [48, 4] (fmtB e7.fmt.toNat) 144 0 0 [0, 1],
      stX.lmmaRows cX recLayout [48, 4] (fmtA e7.fmt.toNat) 144 0 0 ([0, 31].map (fun l => (wA cX { laneF with a := 3 } l).toInt))],
      x = (stX, [.ok rowX, .ok rowX]) := by decide +kernel
theorem witness_LaneMatrixResults_lines :
    (∀ x ∈ [lmmaSpan recLayout [48, 4] (fmtB e7.fmt.toNat) 144 0 0 0, lmmaSpan recLayout [48, 4] (fmtB e7.fmt.toNat) 144 0 1 0,
      lmmaSpan recLayout [48, 4] (fmtA e7.fmt.toNat) 144 0 0 0, lmmaSpan recLayout [48, 4] (fmtA e7.fmt.toNat) 144 0 1 0],
      stX.spanErrs cX x = []) := by decide +kernel

theorem witness_LaneMatrixResults_names : fmtA e7.fmt.toNat = 1 ∧ fmtB e7.fmt.toNat = 1 ∧ recBytes.length = 128 ∧ recLayout.rank = 2 ∧
    recLayout.extents none = [48, 4] := by decide +kernel

end Sys2Proof.Tests
end

