-- ==== Sys2Proof/Tests/WitnessScalar.lean ====
section
/-! SUPPORT. Concrete states and operands that meet the hypotheses of the statements about the scalar stream. -/

namespace Sys2Proof.Tests

set_option Elab.async false

open Sys2Proof Sys2Proof.Machine Sys2Proof.Claims

theorem witness_ready : Ready edge0 ctx0 ∧ Drained edge0 ctx0 ∧ Untraced edge0 ctx0 ∧ Ready mgmt0 mctx0 ∧ Drained mgmt0 mctx0 ∧
    Untraced mgmt0 mctx0 := by decide +kernel

theorem witness_ScalarImmediateResults : 64 ≤ (64 : BitVec 15).toNat ∧ scalarWord (.shli ⟨1, 2, 64⟩) ≠ none ∧
    scalarWord (.shri ⟨1, 2, 64⟩) ≠ none ∧ scalarWord (.srai ⟨1, 2, 64⟩) ≠ none := by decide +kernel

/-- A load from core memory; a weak, a strong and an acquiring load, and a management core's, from device memory. -/
theorem witness_ScalarLoadResults :
    (∀ p ∈ loads, May edge0 ctx0 .common (emPlace ⟨6, 1, 1, 0, 0, 0, 0⟩) ∧ emPlaceOf ctx0 ⟨6, 1, 1, 0, 0, 0, 0⟩ p.2 % p.2 = 0 ∧
      emPlaceOf ctx0 ⟨6, 1, 1, 0, 0, 0, 0⟩ p.2 + p.2 ≤ 1024 * ctx0.crew.cmemKiB) ∧
    emPlaceOf ctx0 ⟨6, 5, 1, 0, 0, 0, 0⟩ 8 + 8 = 1024 * ctx0.crew.cmemKiB ∧
    (∀ f ∈ [(⟨6, 3, 0, 0, 0, 0, 0⟩ : EM), ⟨0, 3, 0, 1, 0, 3, 255⟩, ⟨6, 3, 0, 1, 1, 5, 1⟩], May edge0 ctx0 .common (emPlace f) ∧
      emPlaceOf ctx0 f 8 % 8 = 0 ∧ gives (edge0.edgeLoad ctx0 ctx0.sg (emPlaceOf ctx0 f 8) 8 (f.s == 1) f.o.toNat f.k.toNat 0)
        (fun b => b.length == 8) = true) ∧
    May mgmt0 mctx0 .common (emPlace ⟨6, 3, 0, 0, 0, 0, 0⟩) ∧
    gives (mgmt0.mgmtRead mctx0 (emPlaceOf mctx0 ⟨6, 3, 0, 0, 0, 0, 0⟩ 8) 8) (fun b => b.length == 8) = true := by
  decide +kernel

/-- A store to core memory; a weak one, a release, and one of a management core. -/
theorem witness_ScalarStoreResults :
    (∀ p ∈ stores, May edge0 ctx0 .commit (emPlace ⟨6, 1, 1, 0, 0, 0, 0⟩) ∧ emPlaceOf ctx0 ⟨6, 1, 1, 0, 0, 0, 0⟩ p.2 % p.2 = 0 ∧
      emPlaceOf ctx0 ⟨6, 1, 1, 0, 0, 0, 0⟩ p.2 + p.2 ≤ 1024 * ctx0.crew.cmemKiB) ∧
    (∀ f ∈ [(⟨4, 3, 0, 0, 0, 0, 0⟩ : EM), ⟨4, 3, 0, 1, 2, 5, 1⟩], May edge0 ctx0 .commit (emPlace f) ∧ emPlaceOf ctx0 f 8 % 8 = 0 ∧
      yields (edge0.edgeStore ctx0 (emPlaceOf ctx0 f 8) (lowBytes 8 (ctx0.x f.d)) (f.s == 1) f.k.toNat) (fun _ => true) = true ∧
      Gated (f.s == 1 && f.o == 2) edge0 ctx0 ctx0.sg f.k.toNat (edge0.addrDev ctx0 (emPlaceOf ctx0 f 8)) edge0) ∧
    May mgmt0 mctx0 .commit (emPlace ⟨2, 3, 0, 1, 2, 4, 0⟩) ∧
    yields (mgmt0.mgmtWrite mctx0 (emPlaceOf mctx0 ⟨2, 3, 0, 1, 2, 4, 0⟩ 4) (lowBytes 4 (mctx0.x 2))) (fun _ => true) = true ∧
    Gated true mgmt0 mctx0 mctx0.sg 4 (mgmt0.addrDev mctx0 (emPlaceOf mctx0 ⟨2, 3, 0, 1, 2, 4, 0⟩ 4)) mgmt0 := by
  decide +kernel

/-- An acquire-release amo of 8 bytes at device scope on an edge core, and one of 4 bytes on a management core. -/
theorem witness_AtomicResults :
    (May edge0 ctx0 .commit .both ∧ (ctx0.x 3).toNat % 8 = 0 ∧ edge0.remoteOps = [] ∧
      yields (edge0.amoLoc ctx0 3 (ctx0.x 3).toNat) (fun l =>
        decide (Gated true edge0 ctx0 ctx0.sg 3 (match l with | .remote d _ => [d] | _ => []) edge0) &&
        gives (edge0.amoAt ctx0 3 8 (fun o => amoNew 7 8 o 3 0) (lowBytes 8 3 ++ lowBytes 8 0) l) (fun b => b.length == 8)) = true) ∧
    (May mgmt0 mctx0 .commit .both ∧ (mctx0.x 3).toNat % 4 = 0 ∧
      yields (mgmt0.amoLoc mctx0 0 (mctx0.x 3).toNat) (fun l =>
        decide (Gated false mgmt0 mctx0 mctx0.sg 0 [] mgmt0) &&
        gives (mgmt0.amoAt mctx0 0 4 (fun o => amoNew 0 4 o 3 0) (lowBytes 4 3 ++ lowBytes 4 0) l) (fun b => b.length == 4)) = true) ∧
    amoNew 7 8 0 3 0 = some 3 ∧ amoNew 0 4 0 0 0 = some 0 := by decide +kernel

/-- A thread with a queued lld and one with a queued lst: accesses to core memory apart, a store and a strong load wait for both, a
weak load for the lst alone. -/
def withLane (i : Instr) : Thread :=
  { th0 with lq := [{ word := BitVec.ofNat 96 ((laneWord i).getD 0), mask := 1, fmt := 0, xop := 0, srctr := 0, pc := 4, uid := 0 }] }
theorem witness_LaneAccessesFirst :
    (∀ i ∈ [Instr.lld laneF, .lst laneF], ∀ f ∈ [(⟨6, 3, 0, 1, 0, 3, 255⟩ : EM), ⟨4, 3, 0, 1, 2, 5, 1⟩],
      let c := ctxTh (withLane i)
      May (edgeTh (withLane i)) c .common (emPlace f) ∧ emPlaceOf c f 8 % 8 = 0 ∧ f.c = 0 ∧ f.s = 1 ∧ c.th.laneFirst true = true) ∧
    May (edgeTh (withLane (.lst laneF))) (ctxTh (withLane (.lst laneF))) .commit (emPlace ⟨6, 3, 0, 0, 0, 0, 0⟩) ∧
    (withLane (.lld laneF)).laneFirst false = false ∧ (withLane (.lst laneF)).laneFirst false = true ∧
    (∀ b ∈ [true, false], ctx0.th.laneFirst b = false ∧ mctx0.th.laneFirst b = false) := by decide +kernel

/-- Every condition of R190 holds of some pair of the registers and fails of some; the last target of the section is good, the
next is not, nor is one before the section. -/
theorem witness_BranchResults : edge0.codeLen ctx0 ≤ 2 ^ 32 ∧ ctx0.x 4 ≠ ctx0.x 2 ∧ (ctx0.x 4).toInt < (ctx0.x 2).toInt ∧
    (ctx0.x 2).toNat < (ctx0.x 4).toNat ∧ jumpPc ctx0 (15 : BitVec 15).toInt = 60 ∧ GoodTarget edge0 ctx0 60 ∧
    jumpPc ctx0 (16 : BitVec 15).toInt = 64 ∧ ¬ GoodTarget edge0 ctx0 64 ∧ jumpPc ctx0 (0x7FFF : BitVec 15).toInt < 0 := by decide +kernel

theorem witness_branch_out : ∀ t : Nat, (t : Int) = jumpPc ctx0 (16 : BitVec 15).toInt → ¬ GoodTarget edge0 ctx0 t := by
  intro t h
  have h1 : jumpPc ctx0 (16 : BitVec 15).toInt = 64 := by decide +kernel
  have h2 : t = 64 := by omega
  subst h2; decide +kernel

/-- A thread at the edge of every stack: 15 returns, 15 masks and 7 parts. -/
def th1 : Thread := { th0 with
  rstack := List.replicate 15 (8, 12), mstack := List.replicate 15 (0xFF, 0x10), path := List.replicate 7 true }
/-- And past it: 16 returns, 16 masks and 8 parts, with no lane active. -/
def th2 : Thread := { th0 with
  rstack := List.replicate 16 (8, 12), mstack := List.replicate 16 (0xFF, 0x10), path := List.replicate 8 true, m := 0 }
def edge1 : State := edgeTh th1
def ctx1 : Ctx := ctxTh th1
def edge2 : State := edgeTh th2
def ctx2 : Ctx := ctxTh th2

theorem witness_JumpResults : Ready edge1 ctx1 ∧ Untraced edge1 ctx1 ∧ jumpPc ctx1 (15 : BitVec 19).toInt = 60 ∧ GoodTarget edge1 ctx1 60 ∧
    CallRoom ctx1 1 ∧ GoodTarget edge1 ctx1 (ctx1.x 6).toNat ∧ ctx1.isMgmt = false ∧ ctx1.th.lq = [] ∧ ctx1.th.m ≠ 0 ∧
    (∀ l < 32, ctx1.th.m.getLsbD l = true → ctx1.gang.getW l (127 : B7).toNat = 0) ∧ GoodTarget edge1 ctx1 (0 : W32).toNat ∧
    ctx1.th.rstack = (8, 12) :: List.replicate 14 (8, 12) := by decide +kernel

theorem witness_MaskAndFormatResults : Ready edge1 ctx1 ∧ ctx1.isMgmt = false ∧ ctx1.th.lq = [] ∧ ctx1.th.mstack.length < 16 ∧
    ctx1.th.mstack = (0xFF, 0x10) :: List.replicate 14 (0xFF, 0x10) ∧ ctx1.th.m ≠ 0 ∧
    Ready edge2 ctx2 ∧ ctx2.th.m = 0 ∧ Untraced edge2 ctx2 ∧ jumpPc ctx2 (15 : BitVec 19).toInt = 60 ∧ GoodTarget edge2 ctx2 60 := by
  decide +kernel

/-- The word of fadd w5, w3, w2 (R123, R124). -/
def faddWord : Nat := 0b000000000000000000000000000000000000000001000010100000110000010000000000000000000000000000000000
def faddInstr : Instr := .fadd { laneF with d := 5, a := 3, b := 2 }

/-- edge0 with two fadd instructions in the lane section. -/
def edgeLane : State := edge0.physWrite 0 4096 (leBytes 12 faddWord ++ leBytes 12 faddWord)

theorem witness_LaneStreamResults_issue : May edgeLane ctx0 .lane .edge ∧ Untraced edgeLane ctx0 ∧ ctx0.th.issRem = 0 ∧
    ∃ t c', Enqueues ((0 : B4).toNat + 1) edgeLane { ctx0 with th := ctx0.th.clearSpin } t c' := by
  refine ⟨by decide +kernel, by decide +kernel, by decide +kernel, ?_⟩
  have h : (edgeLane.enqOne { ctx0 with th := ctx0.th.clearSpin }).2 = .take faddInstr faddWord := by decide +kernel
  exact ⟨_, _, .take 0 _ _ _ _ _ faddInstr faddWord (Prod.ext rfl h) (.done _ _)⟩

theorem witness_LaneStreamResults_jump : May edge0 ctx0 .lane .edge ∧ (192 : Int) = ctx0.th.lpc.toNat + 12 * (16 : BitVec 19).toInt ∧
    192 % 12 = 0 ∧ 192 ≤ ctx0.desc.ellen ∧ (ctx0.x 7).toNat % 12 = 0 ∧ (ctx0.x 7).toNat ≤ ctx0.desc.ellen := by decide +kernel

/-- A part at depth 7 of lanes that the predicate splits, with a target at the last instruction. -/
def gangP : Gang := { gang0 th1 with lp := [(0, 0x0000FFFF)] }
theorem witness_PartSplitsTheSubGang : Drained (edgeOf gangP crew0) (ctxOf th1 gangP crew0) ∧
    Untraced (edgeOf gangP crew0) (ctxOf th1 gangP crew0) ∧ (ctxOf th1 gangP crew0).th.path.length < 8 ∧
    GoodTarget (edgeOf gangP crew0) (ctxOf th1 gangP crew0) 60 ∧ takenOf th1 (gangP.getLp 0) = 0x0F ∧ takenOf th1 (gangP.getLp 1) = 0 := by
  decide +kernel

/-- Two sub-gangs of a part: this one of the low slices, the other of the high slices. -/
def thLow : Thread := { th0 with slices := 0x0F, m := 0xFFFF, path := [true] }
def thHigh (w : Wait) : Thread := { th0 with slices := 0xF0, m := 0xFFFF0000, path := [false], wait := w }
def gangR (w : Wait) : Gang := { gang0 thLow with subs := [(0, thLow), (4, thHigh w)] }
def gangAlone : Gang := { gang0 thLow with subs := [(0, thLow)] }
theorem witness_RegangResults : Drained edge0 ctx0 ∧ ctx0.th.path = [] ∧
    Drained (edgeOf gangAlone crew0) (ctxOf thLow gangAlone crew0) ∧ siblings gangAlone thLow.path = [] ∧
    (∀ w ∈ [Wait.none, Wait.regang], Drained (edgeOf (gangR w) crew0) (ctxOf thLow (gangR w) crew0) ∧
      Untraced (edgeOf (gangR w) crew0) (ctxOf thLow (gangR w) crew0) ∧ siblings (gangR w) thLow.path = [(4, thHigh w)]) ∧
    (thHigh .regang).path.length = thLow.path.length ∧ (thHigh .regang).pc = thLow.pc ∧ (thHigh .regang).lpc = thLow.lpc ∧
    (thHigh .regang).mstack.length = thLow.mstack.length := by decide +kernel

/-- Two parts that wait at a regang at unlike places: the sibling's PC, LPC or mask stack differs. -/
def gangU (o : Thread) : Gang := { gang0 thLow with subs := [(0, thLow), (4, o)] }
theorem witness_RegangUnlike : ∀ o ∈ [{ thHigh .regang with pc := 8 }, { thHigh .regang with lpc := 12 }, { thHigh .regang with mstack := [(0, 0)] }],
    let c := ctxOf thLow (gangU o) crew0
    Drained (edgeOf (gangU o) crew0) c ∧ c.isMgmt = false ∧ c.th.path ≠ [] ∧ siblings c.gang c.th.path = [(4, o)] ∧ o.wait = .regang ∧
    o.path.length = c.th.path.length ∧ (o.pc ≠ c.th.pc ∨ o.lpc ≠ c.th.lpc ∨ o.mstack.length ≠ c.th.mstack.length) ∧
    ((((edgeOf (gangU o) crew0).takeTrap c (faultAt c .regang 0x0E 0 0)).subGang { c.ref with sub := 4 }).map (fun x => x.th.wait)) = some .regang := by
  decide +kernel

/-- A barrier of a crew of three gangs: the second of three arrives and waits, the last of all, or the second of two, releases. -/
def crew3 : Crew := { crew0 with egangs := 3, bars := [(1, { count := 3, arrived := [1] }), (2, { count := 3, arrived := [1, 2] })] }
theorem witness_BarrierResults : Drained (edgeOf (gang0 th0) crew3) (ctxOf th0 (gang0 th0) crew3) ∧ ctx0.th.path = [] ∧
    0 < crew3.egangs ∧ (SMap.get {} crew3.bars 1).count = 3 ∧ (insKey 0 (SMap.get {} crew3.bars 1).arrived).length < 3 ∧
    3 ≤ (insKey 0 (SMap.get {} crew3.bars 2).arrived).length ∧ (SMap.get {} crew3.bars 15).arrived = [] ∧
    (ctx0.x 2).toNat = 3 ∧ (insKey 0 (SMap.get {} crew3.bars 15).arrived).length < 3 := by decide +kernel

theorem witness_CsrResults : Ready edge0 ctx0 ∧ ctx0.th.lq = [] ∧ ctx0.gang.role = 0 ∧ (ctx0.x 1).toNat % 4 = 0 ∧ (ctx0.x 2).toNat ≤ 16 ∧
    Ready mgmt0 mctx0 ∧ mctx0.isMgmt = true ∧ mctx0.gang.role = 0 ∧ (mctx0.x 7).toNat = 16 ∧
    (ctx0.x 2).toNat % 4 ≠ 0 ∧ 16 < (ctx0.x 1).toNat := by decide +kernel

/-- A thread in its handler with a lane instruction saved. -/
def thH : Thread := { th0 with
  tmode := true, tepc := 8, tlpc := 12, tiss := 16, tvec := 4
  tsaved := [{ word := BitVec.ofNat 96 faddWord, mask := 1, fmt := 0, xop := 0, srctr := 0, pc := 4, uid := 0 }] }
theorem witness_ExitReturnFenceResults : Drained edge0 ctx0 ∧ ctx0.th.tmode = false ∧ Drained (edgeTh thH) (ctxTh thH) ∧
    (ctxTh thH).th.tmode = true ∧ (∀ e ∈ thH.tsaved, decodeLane e.word.toNat ≠ none) ∧
    (∀ e ∈ thH.tsaved, decodeLane e.word.toNat = some faddInstr) ∧ isMatrixLane faddInstr = false ∧
    (∀ sc ∈ [0, 3, 4, 5], ∀ k ∈ [true, false], Gated k edge0 ctx0 ctx0.sg sc [] edge0 ∧ Gated k mgmt0 mctx0 mctx0.sg sc [] mgmt0) := by
  decide +kernel

/-- Threads at which the control instructions trap. -/
theorem witness_ControlFaultResults : Drained edge0 ctx0 ∧ ctx0.th.rstack = [] ∧ ctx0.th.tmode = false ∧ ctx0.th.mstack = [] ∧
    edge0.codeLen ctx0 ≤ 2 ^ 32 ∧ ¬ GoodTarget edge0 ctx0 (ctx0.x 1).toNat ∧ ctx0.th.path.length < 8 ∧
    Drained edge2 ctx2 ∧ ctx2.th.m = 0 ∧ 16 ≤ ctx2.th.rstack.length ∧ 16 ≤ ctx2.th.mstack.length ∧ 8 ≤ ctx2.th.path.length ∧
    jumpPc ctx2 (15 : BitVec 19).toInt = 60 ∧ GoodTarget edge2 ctx2 60 ∧ GoodTarget edge2 ctx2 (ctx2.x 6).toNat ∧
    0x042 < (0x043 : BitVec 12).toNat ∧ ctx0.isMgmt = false ∧ 0x040 ≤ (0x040 : BitVec 12).toNat ∧
    (0 : Nat) < (if (1 : B5) = 0 then ctx0.crew.egangs else (ctx0.x 1).toNat) ∧ ctx0.crew.egangs < (ctx0.x 1).toNat ∧ ctx0.crew.egangs < (ctx0.x 2).toNat ∧
    Drained mgmt0 mctx0 ∧ ctx2.th.path ≠ [] ∧ ctx0.gang.role ≠ 1 ∧ ctx0.desc.ellen < 2 ^ 32 ∧ (ctx0.x 1).toNat % 12 ≠ 0 ∧
    ctx0.desc.ellen < (ctx0.x 5).toNat ∧ ctx0.th.lpc.toNat = 0 ∧ ctx0.desc.ellen < 12 * 0x3FFFF := by decide +kernel

theorem witness_lane_out : ∀ im ∈ [(0x3FFFF : BitVec 19), 0x7FFFF], ∀ t : Nat, (t : Int) = ctx0.th.lpc.toNat + 12 * im.toInt →
    t % 12 ≠ 0 ∨ ctx0.desc.ellen < t := by
  have h0 : ctx0.th.lpc.toNat = 0 := by decide +kernel
  have h1 : (0x3FFFF : BitVec 19).toInt = 0x3FFFF := by decide
  have h2 : (0x7FFFF : BitVec 19).toInt = -1 := by decide
  have h3 : ctx0.desc.ellen < 12 * 0x3FFFF := by decide +kernel
  intro im hm t ht
  simp only [List.mem_cons, List.not_mem_nil, or_false] at hm
  rcases hm with rfl | rfl
  · rw [h0, h1] at ht; right; omega
  · rw [h0, h2] at ht; omega

/-- A loop closed by the branch at PC 0, and one closed by another. -/
theorem witness_FallingThrough : ∀ sp ∈ [({ pc := 0, taken := true } : Spin), { pc := 4, taken := true }],
    let th : Thread := { th0 with spin := sp }
    Ready (edgeTh th) (ctxTh th) ∧ Untraced (edgeTh th) (ctxTh th) ∧ ((ctxTh th).th.spin.pc = (ctxTh th).th.pc ↔ sp.pc = 0) := by
  decide +kernel

/-- Lanes 0 and 31 jump to different places: the mask of the lanes that differ is not empty. -/
def gangD : Gang := { gang0 th0 with w := [(31 * 128 + 3, 8)] }
theorem witness_jump_unlike : Drained (edgeOf gangD crew0) (ctxOf th0 gangD crew0) ∧ th0.m.getLsbD 0 = true ∧
    (span 0 32).filter (fun k => th0.m.getLsbD k && gangD.getW k 3 != gangD.getW 0 3) = [31] := by decide +kernel

/-- A trap outside a handler with and without one, of the management core's own causes and others, and inside a handler. -/
def thV : Thread := { th0 with tvec := 8 }
theorem witness_TakingATrap : ctx0.th.wait = .none ∧ Untraced edge0 ctx0 ∧ ctx0.th.tmode = false ∧ ctx0.th.tvec = 0 ∧
    (ctxTh thV).th.tvec ≠ 0 ∧ Untraced (edgeTh thV) (ctxTh thV) ∧ mctx0.th.tvec = 0 ∧ mctx0.th.wait = .none ∧
    (mctxOf thV).th.tvec ≠ 0 ∧ (mctxOf thV).th.tmode = false ∧ Untraced (mgmtOf thV []) (mctxOf thV) := by decide +kernel
theorem witness_TrapInAHandler : (ctxTh thH).th.wait = .none ∧ Untraced (edgeTh thH) (ctxTh thH) ∧ (ctxTh thH).th.tmode = true ∧
    Untraced (mgmtOf thH []) (mctxOf thH) ∧ (mctxOf thH).th.tmode = true := by decide +kernel

theorem witness_MisalignedScalarAccess :
    (∀ p ∈ loads.drop 1, May edge0 ctx0 .common (emPlace ⟨6, 2, 1, 0, 0, 0, 0⟩) ∧ ctx0.th.lq = [] ∧ emPlaceOf ctx0 ⟨6, 2, 1, 0, 0, 0, 0⟩ p.2 % p.2 ≠ 0) ∧
    (∀ p ∈ stores.drop 1, May edge0 ctx0 .commit (emPlace ⟨6, 2, 0, 0, 0, 0, 1⟩) ∧ emPlaceOf ctx0 ⟨6, 2, 0, 0, 0, 0, 1⟩ p.2 % p.2 ≠ 0) ∧
    May edge0 ctx0 .commit .both ∧ (ctx0.x 6).toNat % 8 ≠ 0 ∧ (ctx0.x 2).toNat % 4 ≠ 0 := by decide +kernel

/-- A management core and a sub-gang parked on edge core 1, whose handle x1 holds. -/
def thPark : Thread := { th0 with parked := true }
def mgmtPark : State :=
  { mgmt0.setCore 1 { gangs := [(0, gang0 thPark)], crews := [(0, crew0)] } with launches := [(0, launch0)] }
theorem witness_SystemResults : Ready mgmtPark mctx0 ∧ mctx0.isMgmt = true ∧ (mgmtPark.mgmt mctx0.hub).events ≠ [] ∧
    mgmtPark.determ = false ∧
    (match mgmtPark.parkedOf (mctx0.x 1).toNat with
      | some g => (stateWord g (mctx0.x 2).toNat).isSome && (stateWord g (mctx0.x 6).toNat).isSome && (stateWord g (mctx0.x 8).toNat).isSome
      | none => false) = true ∧ (mctx0.x 6).toNat = 0x22 ∧ (mctx0.x 7).toNat ≤ 16 := by decide +kernel

/-- The same device under determinism, where the actions wait, and a tlbinv that waits for its boundary. -/
def mgmtDet : State := { mgmtPark with dmode := 2 }
def mthWait : Thread := { mth0 with wait := .inval }
def mgmtInval (xs : List ExtInput) : State :=
  { (mgmtOf mthWait []) with dmode := 2 }.setPart 0 { (mgmtOf mthWait []).part 0 with inputs := xs }
theorem witness_SystemUnderDeterminism : Ready mgmtDet mctx0 ∧ mgmtDet.determ = true ∧
    (mgmtDet.parkedOf (mctx0.x 1).toNat).isSome = true ∧
    (∀ xs ∈ [[], [invalInput (mctxOf mthWait) 3 0]], (mgmtInval xs).ctx = some (mctxOf mthWait) ∧ (mgmtInval xs).determ = true ∧
      ((mgmtInval xs).part (mctxOf mthWait).part).inputs = xs) ∧ mthWait.parked = false ∧ mthWait.posted = [] ∧
    ((mctxOf mthWait).crew.stopReq && mthWait.lq == [] && mthWait.issRem == 0) = false := by decide +kernel

end Sys2Proof.Tests
end

