-- ==== Sys2Proof/Tests/WitnessTile.lean ====
section
/-! SUPPORT. Concrete states and operands that meet the hypotheses of the statements about the slots of a tile engine. -/

namespace Sys2Proof.Tests

set_option Elab.async false

open Sys2Proof Sys2Proof.Machine Sys2Proof.Claims

/-- An instance at bundle 1 of a body of four whose bundle 0 is a loop of two, in BF16 with FP32 sums; one result is due and
another is not. -/
def tile0 : Tile := {
  form := 2, t := 10, b := 1, body := [{ ops := [(0, .teLoop 0 3 0 2)] }, {}, {}, {}], fmt := 0x11
  s := [(1, 0x100), (2, 0xFFFF8), (3, 3), (4, 5), (5, 0x100000000), (6, 0xFFFFFFFF), (7, 4), (8, 0x100000), (9, 0xF7000), (10, 2)]
  flights := [{ step := 10, order := 0, what := .s 11 7 }, { step := 11, order := 1, what := .p 3 true }] }
def run0 : State := tileOf tile0
def at0 : Tile := atStep run0 0

theorem witness_TileArithmetic : Runs run0 0 ∧ at0.preg 0 = true ∧ at0.sreg 11 = 7 ∧ at0.preg 3 = false := by decide +kernel

/-- The last offset of the scratchpad, the first beyond it, a misaligned one; a window read within its bytes and one past them. -/
theorem witness_TileScratchpadAccess :
    PadOk 8 [padPlace (at0.sreg 2) (0 : BitVec 12).toInt] ∧ 2 ^ 20 < padPlace (at0.sreg 2) (1 : BitVec 12).toInt + 8 ∧
    padPlace (at0.sreg 4) (0 : BitVec 12).toInt = 5 ∧ padPlace (at0.sreg 0) (0xFF8 : BitVec 12).toInt > 2 ^ 20 ∧
    (match (run0.setTile 0 at0).tileWindow 0 0 0 248 with | (_, .bytes _ b) => !b | _ => false) = true ∧
    (match (run0.setTile 0 at0).tileWindow 0 0 0 256 with | (_, .bytes _ b) => b | _ => false) = true ∧
    (BitVec.ofNat 64 ((at0.sreg 1).toNat + 8 * (0 : BitVec 9).toNat)).toNat = 256 ∧
    (BitVec.ofNat 64 ((at0.sreg 4).toNat + 8 * (1 : BitVec 9).toNat)).toNat % 8 ≠ 0 := by decide +kernel

/-- A branch back to bundle 0; bri into the loop's own body, and to the first place past the body; loops of no pass, of the most
passes, and of one too many. -/
theorem witness_TileControl : (0 : Int) = at0.b + (0x3FFFFF : BitVec 22).toInt ∧
    (at0.sreg 10).toNat < at0.body.length ∧
    (∀ l ∈ loopBodies at0.body, l.1 ≤ (at0.sreg 10).toNat → (at0.sreg 10).toNat < l.1 + l.2 → l.1 ≤ at0.b ∧ at0.b < l.1 + l.2) ∧
    loopBodies at0.body = [(1, 2)] ∧ at0.body.length ≤ (at0.sreg 7).toNat ∧ (at0.sreg 6).toNat < 2 ^ 32 ∧ (at0.sreg 0).toNat = 0 ∧
    2 ^ 32 ≤ (at0.sreg 5).toNat ∧ bitAt (run0.trc (teStation 0)).ctl.toNat 31 = false ∧ SMap.wf false at0.p = true := by decide +kernel

/-- Bundle 3 stands outside the loop whose last bundle a bri names; a station whose trace is on. -/
def runOut : State := tileOf { tile0 with b := 3 }
def runTraced : State := run0.setTrc (teStation 0) { ctl := 0x80000000#32 }
theorem witness_TileControl_others : Runs runOut 0 ∧ (atStep runOut 0).preg 0 = true ∧
    (∃ l ∈ loopBodies (atStep runOut 0).body, l.1 ≤ ((atStep runOut 0).sreg 10).toNat ∧ ((atStep runOut 0).sreg 10).toNat < l.1 + l.2 ∧
      ¬ (l.1 ≤ (atStep runOut 0).b ∧ (atStep runOut 0).b < l.1 + l.2)) ∧
    Runs runTraced 0 ∧ (atStep runTraced 0).preg 0 = true ∧ bitAt (runTraced.trc (teStation 0)).ctl.toNat 31 = true := by decide +kernel

/-- The forms of the L slot at the bottom of the scratchpad, past its top, and misaligned. -/
theorem witness_VectorLoadStoreResults :
    (∀ p ∈ vloads ++ vstores, PadOk 4 (p.2 at0 ⟨0, 33, 1, 0⟩)) ∧
    (∀ p ∈ vloads ++ vstores, (p.2 at0 ⟨0, 33, 8, 0⟩).find? (fun x => decide (2 ^ 20 < x + 4)) = some 0x100000) ∧
    (rowPlaces at0 ⟨0, 33, 2, 0⟩).find? (fun x => decide (2 ^ 20 < x + 4)) = some 0x100000 ∧
    (∀ p ∈ vloads ++ vstores, (∀ x ∈ p.2 at0 ⟨0, 33, 4, 0⟩, x + 4 ≤ 2 ^ 20) ∧
      (p.2 at0 ⟨0, 33, 4, 0⟩).find? (fun x => x % 4 != 0) = some 5) := by decide +kernel

/-- The rounding modes 4 and 5 of fmt, the last that rounds and the first reserved one. -/
def tileRnd (n : Nat) : State := tileOf { tile0 with fmt := BitVec.ofNat 32 (0x11 + n * 1024) }
theorem witness_VectorFloatResults : Runs (tileRnd 4) 0 ∧ (atStep (tileRnd 4) 0).preg 0 = true ∧ fmtRnd (atStep (tileRnd 4) 0).fmt.toNat = 4 ∧
    Runs (tileRnd 5) 0 ∧ fmtRnd (atStep (tileRnd 5) 0).fmt.toNat = 5 := by decide +kernel

theorem witness_VectorIntegerAndMoveResults : (2 : B4).toNat < 3 ∧ (⟨0, 1, 2, 3, 2⟩ : VF).m = 2 := by decide +kernel

theorem witness_VectorConvertBlockResults : NumFmt.ofCode ((⟨0, 1, 2, 32, 7⟩ : VF).b.toNat / 4) ≠ none ∧ NumFmt.ofCode (0 : B4).toNat ≠ none ∧
    NumFmt.ofCode (3 : B4).toNat ≠ none ∧ NumFmt.ofCode (7 : B4).toNat ≠ none ∧ fmtRnd at0.fmt.toNat < 5 ∧
    (blockOf ⟨0, 1, 2, 3, 0⟩ { e := 0, t := at0 }).any FVal.isNan = false ∧
    (blockOf ⟨0, 1, 2, 3, 0⟩ { e := 0, t := { at0 with v := [(64, 0x7FC00000)] } }).any FVal.isNan = true := by decide +kernel

theorem witness_VectorReduceResults : fmtRnd at0.fmt.toNat < 5 ∧
    (1 : B4).toNat % 4 = (if true then 1 else 2) ∧ (2 : B4).toNat % 4 = (if false then 1 else 2) ∧ (0 : B4).toNat % 4 = 0 := by decide +kernel

/-- BF16 operands at the last place of their panels; every area of the queued operations; the captures of a roundabout. -/
theorem witness_MatrixIssueResults : QueueRoom run0 0 ∧ Area (at0.sreg 9) (panelArea (scaleA at0.fmt.toNat)) ∧
    (at0.sreg 9).toNat + panelArea (scaleA at0.fmt.toNat) = 2 ^ 20 ∧
    Area (at0.sreg 1) (panelArea (scaleB at0.fmt.toNat)) ∧ matClass at0.fmt.toNat ≠ none ∧ fmtAcc at0.fmt.toNat ≠ 1 ∧
    Area (at0.sreg 1) 65536 ∧ fmtAcc at0.fmt.toNat < 2 ∧ mstQuant (3 : B4).toNat = true ∧ fmtAcc at0.fmt.toNat = 0 ∧
    Area (at0.sreg 1) (128 * mstRow 3 + 512) ∧ Area (at0.sreg 1) (128 * mstRow 8) ∧ fmtRnd at0.fmt.toNat < 5 ∧ Area (at0.sreg 1) 128 ∧
    RoundClass at0 ∧ isNan32 at0.rdiv.toNat = false ∧ isNan32 at0.rthr.toNat = false ∧ (run0.tile 0).q.get 6 = [] ∧
    (at0.sreg 1).toNat + 64 ≤ 2 ^ 20 ∧ (at0.sreg 1).toNat % 64 = 0 := by decide +kernel

/-- A full matrix queue, behind which an operation waits (R251). -/
def runFull : State := tileOf { tile0 with q := (span 0 16).foldl (fun q k => q.put 6 (q.get 6 ++ [{ seq := k, cmd := .mz 0 0 }])) {} }
theorem witness_MatrixIssueResults_waits : Runs runFull 0 ∧ (atStep runFull 0).preg (guardOf (.mz 0 1)) = true ∧
    16 ≤ ((runFull.tile 0).q.get 6).length ∧ (runFull.tile 0).q.get 6 ≠ [] ∧ Instr.mz 0 1 ∈ queuedOps (guardOf (.mz 0 1)) ∧
    Instr.mkld 0 1 ∈ readingOps (guardOf (.mkld 0 1)) :=
  ⟨by decide +kernel, by decide +kernel, by decide +kernel, by decide +kernel, Or.inr (Or.inl ⟨1, rfl⟩), Or.inr (Or.inr ⟨1, rfl⟩)⟩

theorem witness_FalseGuardHasNoEffect : Runs run0 0 ∧ commandOf (.teAdd ⟨3, 1, 2, 0, 0, 0⟩) = none ∧
    at0.preg (guardOf (.teAdd ⟨3, 1, 2, 0, 0, 0⟩)) = false ∧ at0.preg (guardOf (.mz 15 0)) = false := by decide +kernel

end Sys2Proof.Tests
end

