-- ==== Sys2Proof/Tests/WitnessFrames.lean ====
section
/-! SUPPORT. Concrete states that meet the hypotheses of the statements about frames, the step, encodings and the whole machine. -/

namespace Sys2Proof.Tests

set_option Elab.async false

open Sys2Proof Sys2Proof.Machine Sys2Proof.Claims

theorem witness_MemoryReadsWhatWasWritten : edge0.memOk = true ∧ edge0.mem ≠ [] ∧ ({ edge0 with bad := [0, 1] } : State).memOk = true := by decide +kernel

/-- A register operation, a branch not taken and one taken, on an edge core and on a management core. -/
theorem witness_ScalarFrame_instr : writesOne (.add ⟨1, 2, 3⟩) 1 ∧ writesOne (.addi ⟨0, 2, 3⟩) 0 ∧ writesOne (.lui 31 5) 31 :=
  ⟨.inl ⟨_, List.mem_cons_self, ⟨1, 2, 3⟩, rfl, rfl⟩, .inr (.inl ⟨_, List.mem_cons_self, ⟨0, 2, 3⟩, rfl, rfl⟩),
    .inr (.inr ⟨5, rfl⟩)⟩
theorem witness_ScalarFrame :
    (Ready edge0 ctx0 ∧ UnitsWf edge0 ∧ SMap.wf 0 ctx0.th.x = true ∧ Untraced edge0 ctx0 ∧ edge0.codeLen ctx0 ≤ 2 ^ 32) ∧
    (Ready mgmt0 mctx0 ∧ UnitsWf mgmt0 ∧ SMap.wf 0 mctx0.th.x = true ∧ Untraced mgmt0 mctx0 ∧ mgmt0.codeLen mctx0 ≤ 2 ^ 32) ∧
    (∀ i ∈ [.add ⟨1, 2, 3⟩, .addi ⟨0, 2, 3⟩, .lui 31 5, .beq ⟨1, 1, 15⟩, .beq ⟨1, 2, 15⟩], goes (exec i edge0) (fun _ => true) = true ∧
      goes (exec i mgmt0) (fun _ => true) = true) ∧
    ctx0.x 1 ≠ ctx0.x 2 ∧ jumpPc ctx0 (15 : BitVec 15).toInt = 60 ∧ GoodTarget edge0 ctx0 60 ∧ jumpPc mctx0 (15 : BitVec 15).toInt = 60 ∧
    GoodTarget mgmt0 mctx0 60 := by decide +kernel

/-- A store at the top of core memory, and one at the top of a line of device memory. -/
theorem witness_ScalarStoreFrame : ∀ p ∈ stores,
    (let f : EM := ⟨6, 5, 1, 0, 0, 0, 0⟩
     May edge0 ctx0 .commit (emPlace f) ∧ ctx0.isMgmt = false ∧ UnitsWf edge0 ∧ emPlaceOf ctx0 f p.2 % p.2 = 0 ∧
      emPlaceOf ctx0 f p.2 + p.2 ≤ 1024 * ctx0.crew.cmemKiB ∧ SMap.wf 0 ctx0.crew.cmem = true) ∧
    (let f : EM := ⟨6, 3, 0, 0, 0, 0, 0⟩
     May edge0 ctx0 .commit (emPlace f) ∧ emPlaceOf ctx0 f p.2 = 0x20000 ∧ ctx0.th.laneFirst true = false ∧ edge0.memOk = true ∧ SMap.wf {} (edge0.core 0).l1 = true ∧
      edge0.translateL1 ctx0.part 0x20000 true = .ok (.hbm (keyP edge0 0x20000)) ∧ keyP edge0 0x20000 % 128 + p.2 ≤ 128 ∧
      keyP edge0 0x20000 + p.2 ≤ 2 ^ 60) := by decide +kernel
theorem witness_ScalarStoreFrame_dies : ∀ d, edge0.dieDown d = false := by
  intro d
  have h1 : fld edge0.drst.toNat 7 4 = 0 := by decide +kernel
  have h2 : edge0.deadDies = [] := by decide +kernel
  simp [State.dieDown, h1, h2]

/-- The instance at0 stores at the last place of the scratchpad, and three vector stores at the bottom. -/
theorem witness_LaneAndTileFrames :
    ((stL e0).laneCtx = some (cL e0) ∧ UnitsWf (stL e0)) ∧ UnitsWf run0 ∧ Runs run0 0 ∧ SMap.wf 0 at0.pad = true ∧ at0.padEpoch = 0 ∧
    at0.preg 0 = true ∧ PadOk 8 [padPlace (at0.sreg 2) (0 : BitVec 12).toInt] ∧ (∀ p ∈ vstores, PadOk 4 (p.2 at0 ⟨0, 33, 1, 0⟩)) := by decide +kernel

/-- Gangs of every role, and a management core. -/
def roleS (r : Nat) : State := edgeOf { gang0 th0 with role := r } crew0
def roleC (r : Nat) : Ctx := ctxOf th0 { gang0 th0 with role := r } crew0
theorem witness_RolesAndPlaces :
    (∀ r ∈ [0, 1, 2, 3, 4], Ready (roleS r) (roleC r) ∧ (roleC r).th.lq = [] ∧ (roleC r).isMgmt = false ∧ (roleC r).gang.role = r) ∧
    Ready mgmt0 mctx0 ∧ mctx0.th.lq = [] ∧ mctx0.isMgmt = true ∧
    (∀ i ∈ [.wfe, .tlbinv 3 2, .gstRd ⟨1, 2, 3⟩], systemOnly i = true) ∧ (∀ i ∈ [.laneIss 15, .exit, .ldB ⟨1, 2, 1, 0, 0, 0, 0⟩], edgeOnly i = true) ∧
    roleMay 1 (.laneIss 0) = false ∧ roleMay 2 (.cpLd fz) = false ∧ roleMay 3 (.launch fz) = false ∧ roleMay 4 (.cpSt fz) = false ∧
    csrWrites.length ≠ 0 ∧
    (∀ r ∈ [0, 2, 4], ringGeometry ((roleC r).x 4).toNat ((roleS r).localSize (roleC r).iss) = none ∧
      ((roleC r).x 2).toNat % 4 ≠ 0 ∧ 16 < ((roleC r).x 1).toNat ∧ ((roleC r).x 1).toNat % 4 = 0) := by decide +kernel

/-! ## The step -/

/-- The gang of edge0 with a word at the first place of its section, and its turn as the agenda has it. -/
def edgeW (th : Thread) (w : Nat) : State := { (edgeTh th).physWrite 0 0 (leBytes 4 w) with agenda := [{ act := .scalar place0 }] }
def mgmtW (w : Nat) : State :=
  { mgmt0.setMgmt 0 { mgmt0.mgmt 0 with fw := SMap.setN 0 [] 0 (leBytes 4 w) } with agenda := [{ act := .mgmt 0 }] }
def addW : Nat := 0b00000010001100001000100000000000

/-- The due turn is the agenda's; under determinism the first from outside; else the rota's; else that of a new round. -/
def evT : Turn := { dt := 6, act := .event .hostCopy }
def ownT : Turn := { dt := 1, act := .tile 0 }
theorem witness_Step_due :
    (let s := { State.reset with agenda := [ownT] }; s.determ = false ∧ s.due.1 = ownT) ∧
    (let s := { epT 4090 [] with agenda := [evT] }; s.determ = true ∧ evT.outside = true ∧ s.due.1.dt = 0) ∧
    (let s := { epT 4090 [] with agenda := [ownT], rota := [ownT] }; s.determ = true ∧ (∀ x ∈ s.agenda, x.outside = false) ∧ s.due.1 = ownT) ∧
    (State.reset.agenda = [] ∧ State.reset.rota = [] ∧ ({ State.reset with agenda := [] } : State).round = [{ dt := 1, act := .event .coldStart }]) ∧
    (bits edge0.bstat 2 0 ≠ 0 ∧ place0.core < 192 ∧ edge0.subGang place0 = some ctx0) ∧ (run0.tile 0 ≠ {} ∧ bits run0.bstat 2 0 ≠ 0) := by
  decide +kernel

/-- A boundary within the turn, the last one of a turn that stops before it, and an event. -/
theorem witness_Step_boundary :
    (let s := { epT 4090 [] with rota := [{ dt := 6, act := .event .tileEngineGrant }] }; s.determ = true ∧ s.toEpoch ≤ s.due.1.dt) ∧
    (let s := { epT 4090 [] with rota := [{ dt := 5, act := .event .tileEngineGrant }] }; s.determ = true ∧ s.due.1.dt < s.toEpoch ∧
      s.due.1.act = .event .tileEngineGrant) := by decide +kernel

/-- A bundle's step as an event, with a class change pending and without (R23). -/
theorem witness_Step_held : ∀ m ∈ [0x300, 0], let s : State := { run0 with dmode := BitVec.ofNat 32 m, agenda := [{ act := .event .teBundle, inp := { a := 0 } }] }
    let u := s.due.2.begin s.due.1
    s.determ = false ∧ s.due.1.act = .event .teBundle ∧ u.eventHeld .teBundle = (m != 0) ∧ u.eventHeld .hostCopy = false := by decide +kernel

theorem witness_Step_scalar :
    (∀ w ∈ [addW, 0], let s := edgeW th0 w; let u := s.due.2.begin s.due.1
      s.determ = false ∧ s.due.1.act = .scalar place0 ∧ u.spinHeld place0 = false ∧ u.classHeld = false ∧ Ready u ctx0 ∧ ctx0.th.issRem = 0 ∧
      ctx0.th.pc.toNat % 4 = 0 ∧ ctx0.th.pc.toNat < u.codeLen ctx0 ∧ ctx0.isMgmt = false ∧
      (match u.roRead ctx0.iss ctx0.part (ctx0.desc.esaddr + ctx0.th.pc.toNat) 4 (20000 + ctx0.sg) 0 ctx0.crew.launch with
       | (_, .ok bs) => bs == leBytes 4 w | _ => false) = true ∧ leNat (leBytes 4 w) = w) ∧
    decodeScalar addW = some (.add { d := 3, a := 1, b := 2 }) ∧ decodeScalar 0 = none ∧
    (let th := { th0 with issRem := 15 }; let s := edgeW th 0; let u := s.due.2.begin s.due.1
     s.due.1.act = .scalar place0 ∧ u.spinHeld place0 = false ∧ u.classHeld = false ∧ Ready u (ctxTh th) ∧ (ctxTh th).th.issRem ≠ 0) ∧
    (∀ pc ∈ [2, 64], let th := { th0 with pc := BitVec.ofNat 32 pc }; let s := edgeW th 0; let u := s.due.2.begin s.due.1
     s.due.1.act = .scalar place0 ∧ u.spinHeld place0 = false ∧ u.classHeld = false ∧ Ready u (ctxTh th) ∧ (ctxTh th).th.issRem = 0 ∧
     ((ctxTh th).th.pc.toNat % 4 ≠ 0 ∨ u.codeLen (ctxTh th) ≤ (ctxTh th).th.pc.toNat)) := by decide +kernel

theorem witness_Step_others :
    (∀ w ∈ [addW, 0], let s := mgmtW w; let u := s.due.2.begin s.due.1
      s.determ = false ∧ s.due.1.act = .mgmt 0 ∧ bits u.bstat 2 0 = 1 ∧ u.classHeld = false ∧ Ready u mctx0 ∧ mctx0.th.issRem = 0 ∧ mctx0.th.pc.toNat % 4 = 0 ∧
      mctx0.th.pc.toNat < u.codeLen mctx0 ∧ mctx0.isMgmt = true ∧ SMap.getN 0 (u.mgmt mctx0.hub).fw mctx0.th.pc.toNat 4 = leBytes 4 w) ∧
    (let e := { e0 with word := BitVec.ofNat 96 faddWord }; let s := { stL e with agenda := [{ act := .lane place0 }] }; let u := s.due.2.begin s.due.1
     s.due.1.act = .lane place0 ∧ u.classHeld = false ∧ u.spinHeld place0 = false ∧ u.subGang place0 = some (cL e) ∧ (cL e).th.lq = [e] ∧ decodeLane e.word.toNat = some faddInstr) ∧
    (let s := { run0 with agenda := [ownT] }; s.due.1.act = .tile 0 ∧ (s.due.2.begin s.due.1).classHeld = false) ∧
    ((edge0.trc ctx0.unit).ctl.getLsbD 31 = false) := by decide +kernel

/-- A read of four bytes that no cache serves. -/
theorem witness_Step_read : Holds edge0 ctx0.iss 0 0x20000 [0, 0, 0, 0] 20000 ∧ edge0.roCache = [] := by decide +kernel

/-! ## The encodings, reset and the invariant -/

theorem witness_DecodeAndEncodeAgree :
    (∀ i ∈ [.add ⟨31, 31, 31⟩, .addi ⟨31, 0, 0x7FFF⟩, .cpLd ⟨0, 31, 31, 31, 63⟩], i.wf = true ∧ (scalarWord i).isSome ∧ commandGuard ((scalarWord i).getD 0) = true) ∧
    faddInstr.wf = true ∧ laneWord faddInstr = some faddWord ∧ decodeLane faddWord = some faddInstr ∧
    (let i : Instr := .teAdd { g := 15, d := 31, a := 31, i := 1, qa := 0, lo := 7 }; i.wf = true ∧ tileArm i = true ∧ (slotWord .s i).isSome) ∧
    decodeScalar addW = some (.add ⟨3, 1, 2⟩) := by decide +kernel

/-- The cold start from reset is a step, and so is one of the gang. -/
theorem witness_MemoryStaysCanonical : State.reset.memOk = true ∧ goes (step State.reset) (fun _ => true) = true ∧
    (edgeW th0 addW).memOk = true ∧ goes (step (edgeW th0 addW)) (fun t => t.mem != []) = true := by decide +kernel

end Sys2Proof.Tests
end

