-- ==== Sys2Proof/Tests/WitnessHost.lean ====
section
/-! SUPPORT. Concrete states that meet the hypotheses of the statements about the mailbox, its services and the ports. -/

namespace Sys2Proof.Tests

set_option Elab.async false

open Sys2Proof Sys2Proof.Machine Sys2Proof.Claims

/-! ## The mailbox -/

/-- Slot i of function f holds a request; it is the oldest request of hub 1 when it is posted. -/
def slotBytes (code st : Nat) (args : List Nat) : List Byte :=
  leBytes 1 code ++ leBytes 1 st ++ List.replicate 6 0 ++ args.flatMap (leBytes 8)
def askIn (s : State) (f i code st : Nat) (args : List Nat) : State :=
  { (s.setFn f { s.fn f with mbox := SMap.setN 0 [] (128 * i) (slotBytes code st args) }).setMgmt 1 { svc := if st = 1 then [256 * f + i] else [] } with
    inp := { s.inp with a := 1 } }
def host0 : State := { State.reset.placeTables with bstat := 1 }
def askS (f i code : Nat) (args : List Nat) : State := askIn host0 f i code 1 args

/-- A post by function f to slot i, whose STATUS is st. -/
def postS (f i c st : Nat) : State := let s := askIn host0 f i 0 st []; { s with inp := { a := f, b := i, c := c } }
theorem witness_MailboxResults_posts :
    (∀ st ∈ [0, 1, 2, 3], let s := postS 8 31 255 st
      SMap.wf {} s.mgmts = true ∧ SMap.wf {} s.fns = true ∧ SMap.wf 0 (s.fn 8).mbox = true ∧ s.inp.a = 8 ∧ s.inp.b = 31 ∧ s.inp.c = 255 ∧
      s.fnPart 8 = some 0 ∧ leNat (s.mboxRead 8 (128 * 31 + 1) 1) = st) ∧
    (let s := { postS 8 31 255 0 with vfmap := 0xF00000000 }; s.inp.a = 8 ∧ s.fnPart 8 = none) := by decide +kernel

/-- Requests of a VF, of an unknown code at both ends, and in recovery. -/
theorem witness_MailboxResults_errors :
    (∀ x ∈ [(8, 5), (8, 11), (0, 0), (0, 12), (8, 255)], let s := askS x.1 31 x.2 []
      SMap.wf {} s.mgmts = true ∧ SMap.wf {} s.fns = true ∧ SMap.wf 0 (s.fn x.1).mbox = true ∧ s.inp.a = 1 ∧
      (s.mgmt 1).svc.head? = some (256 * x.1 + 31) ∧ leNat (s.mboxRead x.1 (128 * 31) 1) = x.2 ∧
      leNat (s.mboxRead x.1 (128 * 31 + 1) 1) = 1 ∧ bits s.bstat 2 0 ≠ 2) ∧
    (let s := { askS 0 0 9 [] with bstat := 2 }; leNat (s.mboxRead 0 0 1) = 9 ∧ leNat (s.mboxRead 0 1 1) = 1 ∧ bits s.bstat 2 0 = 2) := by decide +kernel

/-! ## Requests of any function -/

/-- An image of two launches, the second after the first, at 0x22000; the flag says whether its magic is good. -/
def imageT (good : Bool) : List Byte :=
  leBytes 4 (if good then 0x53594701 else 0x53594702) ++ leBytes 2 1 ++ leBytes 2 1 ++ [1] ++ List.replicate 55 0 ++ List.replicate 1024 0 ++ leBytes 4 0x10000
def imgS (good : Bool) (args : List Nat) : State := askIn (host0.physWrite 0 0x22000 (imageT good)) 8 31 1 1 args
theorem witness_FunctionServiceResults_instantiate : ∀ va ∈ [0x22000, 0x22020], let s := imgS true [va]
    s.fnPart 8 = some 0 ∧ SMap.wf {} s.parts = true ∧ Asked s 1 8 31 1 ∧ argOf s 8 31 0 = va ∧ (va % 64 = 0 ↔ va = 0x22000) := by decide +kernel
theorem witness_FunctionServiceResults_images :
    (∀ n ∈ [0, 1], let s := imgS (n == 1) [0x22000]; let bs := imageT (n == 1)
      Asked s 1 8 31 1 ∧ argOf s 8 31 0 = 0x22000 ∧ bs.length = 64 + 512 * (u16At bs 4 % 1024 + 1) + 4 * (u16At bs 6 % 4097) ∧
      (imageGraph bs).isSome = (n == 1) ∧ (s.part 0).graphs.length < 4096) := by decide +kernel
theorem witness_FunctionServiceResults_held : ∀ n ∈ [0, 1], let s := imgS (n == 1) [0x22000]; let bs := imageT (n == 1)
    Holds s (.mgmt (s.shub 0)) 0 0x22000 (bs.take 64) (hostSg 8) ∧ Holds s (.mgmt (s.shub 0)) 0 0x22000 bs (hostSg 8) := by decide +kernel

/-- Handle 7 names a graph, which a run uses or not; handle 8 names none. -/
def destroyS (h : Nat) (runs : List (Nat × GraphRun)) : State :=
  askIn (host0.setPart 0 { host0.part 0 with graphs := [{ handle := 7 }], runs := runs }) 8 31 2 1 [h]
theorem witness_FunctionServiceResults_destroy :
    (∀ h ∈ [7, 8], ∀ runs ∈ [[], [(1, { graph := 7 })]], let s := destroyS h runs
      s.fnPart 8 = some 0 ∧ SMap.wf {} s.parts = true ∧ Asked s 1 8 31 2 ∧ argOf s 8 31 0 = h ∧ (s.part 0).runs = runs) ∧
    (∃ x ∈ ((destroyS 7 []).part 0).graphs, x.handle = 7) ∧ (∀ x ∈ ((destroyS 8 []).part 0).graphs, x.handle ≠ 8) := by decide +kernel

theorem witness_FunctionServiceResults_aperture : ∀ v ∈ [0, 2 ^ 64 - 2 ^ 36, 2 ^ 64 - 1], let s := askS 8 31 3 [v]
    s.fnPart 8 = some 0 ∧ SMap.wf {} s.parts = true ∧ Asked s 1 8 31 3 ∧ argOf s 8 31 0 = v ∧ (v % 2 ^ 36 = 0 ↔ v ≠ 2 ^ 64 - 1) := by decide +kernel

/-- Copies of 5 bytes both ways across a page; of too many, and of no direction; to an address that no page maps. -/
def copyAt (va n dir : Nat) (fl : Bool) (data : List Byte) : State :=
  let s := askS 8 31 4 [0x1000, va, n, dir]; { s with inp := { a := 1, data := data, flag := fl } }
def copyT (n dir : Nat) : State := copyAt 0x20FFE n dir false [1, 2, 3, 4, 5]
theorem witness_HostCopyResults_asked :
    (∀ x ∈ [(5, 0), (5, 1), (5, 2), (2 ^ 40 + 1, 0)], let s := copyT x.1 x.2
      s.fnPart 8 = some 0 ∧ SMap.wf {} s.parts = true ∧ Asked s 1 8 31 4 ∧ argOf s 8 31 1 = 0x20FFE ∧ argOf s 8 31 2 = x.1 ∧ argOf s 8 31 3 = x.2) ∧
    (∀ x ∈ [(copyT 5 0, CopyEnd.done), (copyT 6 0, .done), (copyAt (2 ^ 40 - 2) 5 0 true [1, 2, 3, 4, 5], .failed), (copyAt (2 ^ 40 - 2) 5 0 false [1, 2, 3, 4, 5], .later)],
      let s := x.1
      let r := s.copyIn 1 0 (piecesOf (argOf s 8 31 1) 5) [1, 2, 3, 4, 5]
      s.fnPart 8 = some 0 ∧ Asked s 1 8 31 4 ∧ (s.mgmt 1).svcPos = 0 ∧ s.determ = false ∧ s.inp.data.take (argOf s 8 31 2) = [1, 2, 3, 4, 5] ∧
      r.2 = x.2 ∧ r.1.fns = s.fns ∧ (r.1.mgmt 1).svc = (s.mgmt 1).svc ∧ SMap.wf {} r.1.mgmts = true) := by decide +kernel
theorem witness_HostCopyResults_pieces : let s := copyT 5 0
    yields (s.writeVa (.mgmt 1) 0 0x20FFE [1, 2]) (fun _ => true) = true ∧
      (match s.writeVa (.mgmt 1) 0 (2 ^ 40) [1, 2] with | .error (.fault why, _) => why != strayWalk | _ => false) = true := by decide +kernel
theorem witness_HostCopyResults_out : let s := copyAt 0x20FFE 2 1 false []
    Asked s 1 8 31 4 ∧ argOf s 8 31 3 = 1 ∧ (s.mgmt 1).svcPos = 0 ∧ argOf s 8 31 2 = 2 ∧ 2 ≤ 128 - 0x20FFE % 128 ∧
      Holds { s with rdata := [] } (.mgmt 1) 0 0x20FFE [0, 0] (hostSg 8) := by decide +kernel
theorem witness_HostCopyResults_deferred : let s := { copyT 5 0 with dmode := 3 }
    s.fnPart 8 = some 0 ∧ SMap.wf {} s.parts = true ∧ Asked s 1 8 31 4 ∧ s.determ = true ∧ (s.mgmt 1).svcPos = 0 ∧ argOf s 8 31 2 = s.inp.data.length ∧
      yields (s.locs 0 true (piecesOf 0x20FFE 5)) (fun _ => true) = true := by decide +kernel

/-! ## Requests of the PF -/

/-- A request of the PF at slot 31, going on or not, over the state s. -/
def pfS (s : State) (code : Nat) (args : List Nat) (on : Bool) : State :=
  let t := askIn s 0 31 code 1 args
  t.setMgmt 1 { t.mgmt 1 with svcOn := on }
abbrev pfOk (s : State) (code : Nat) : Prop := Asked s 1 0 31 code ∧ SMap.wf {} s.parts = true

theorem witness_DeviceServiceResults_save :
    (let s := pfS (savT 4 {} {}) 5 [0] false
     pfOk s 5 ∧ argOf s 0 31 0 = 0 ∧ s.isPart 0 = true ∧ (s.mgmt 1).svcOn = false ∧ s.pcState 0 = 4 ∧ s.partInReset 0 = false) ∧
    (let s := pfS (savT 2 {} {}) 5 [0] true; pfOk s 5 ∧ (s.mgmt 1).svcOn = true ∧ s.pcState 0 = 2) := by decide +kernel

/-- The headers of a good and of another image. -/
def restT (m : Nat) : State := pfS (rstT (hdT m 0)) 6 [0] false
theorem witness_DeviceServiceResults_restore : (∀ m ∈ [0x53595801, 0x53595802], let s := restT m
      pfOk s 6 ∧ argOf s 0 31 0 = 0 ∧ s.isPart 0 = true ∧ s.pcState 0 = 0 ∧ s.partInReset 0 = false ∧
      s.physRead 0 (s.shadowBase 0) 64 = .ok (hdT m 0) ∧ u32At (hdT m 0) 0 = m) ∧
    (let s := restT 0x53595801
     zeroAt (hdT 0x53595801 0) 0x10 0x40 = true ∧ u8At (hdT 0x53595801 0) 4 = bits s.dmode 5 4 ∧ u8At (hdT 0x53595801 0) 5 = s.dies ∧
      u8At (hdT 0x53595801 0) 6 = s.halfByte 0) := by decide +kernel
theorem witness_DeviceServiceResults_restores : ∀ x ∈ [0, 2, 3, 4], let s := pfS (savT (BitVec.ofNat 32 x) {} {}) 6 [0] true
    pfOk s 6 ∧ argOf s 0 31 0 = 0 ∧ s.isPart 0 = true ∧ (s.mgmt 1).svcOn = true ∧ s.pcState 0 = x := by decide +kernel

theorem witness_DeviceServiceResults_dies :
    (∀ d ∈ [3, 4], let s := pfS host0 7 [d] false; pfOk s 7 ∧ argOf s 0 31 0 = d ∧ (s.mgmt 1).svcOn = false ∧ bits s.drst 7 4 = 0 ∧ s.onlyDie d = false) := by
  decide +kernel
def resetS (on : Bool) : State := pfS { host0 with drst := 0x10 } 7 [3] on
def deadS (dead : List Nat) : State := pfS { host0 with deadDies := dead } 7 [3] true
theorem witness_DeviceServiceResults_resets :
    (∀ on ∈ [false, true], let s := resetS on
     pfOk s 7 ∧ argOf s 0 31 0 = 3 ∧ (s.mgmt 1).svcOn = on ∧ bits s.drst 7 4 ≠ 0) := by decide +kernel
theorem witness_DeviceServiceResults_ends :
    (∀ dead ∈ [([] : List Nat), [3]], let s := deadS dead
     pfOk s 7 ∧ (s.mgmt 1).svcOn = true ∧ bits s.drst 7 4 = 0 ∧ s.deadDies = dead) := by decide +kernel

theorem witness_DeviceServiceResults_ranks :
    (∀ x ∈ [(0, 255, 7), (1, 0, 0), (0, 256, 0), (0, 0, 8)], let s := pfS host0 8 [x.1, x.2.1, x.2.2] false
      pfOk s 8 ∧ argOf s 0 31 0 = x.1 ∧ argOf s 0 31 1 = x.2.1 ∧ argOf s 0 31 2 = x.2.2 ∧ s.isPart x.1 = decide (x.1 = 0) ∧ SMap.wf {} (s.part 0).queues = true) ∧
    (∀ c ∈ [2, 3], let s := pfS host0 9 [c] false; pfOk s 9 ∧ argOf s 0 31 0 = c ∧ s.classPending = false ∧ s.fabricPending = false) := by decide +kernel

/-- The boot block that memory that nothing has written holds. -/
theorem witness_DeviceServiceResults_boot : let s := pfS host0 10 [0x22000] false
    pfOk s 10 ∧ s.fnPart 0 = some 0 ∧ argOf s 0 31 0 = 0x22000 ∧
      same s (s.readVa (.mgmt (s.shub 0)) 0 0x22000 4096 (hostSg 0)) (fun bs => bs.length == 4096) = true := by decide +kernel
theorem witness_DeviceServiceResults_warm : let s := pfS (started 1 0x30) 11 [] false
    pfOk s 11 ∧ leNat (s.mboxRead 0 (128 * 31) 2) = 0x10B ∧ Verified s ∧ s.inp.nums = [] ∧ s.inp.v = 0 ∧ ConfigOk s.flash ∧ s.owner = s.flash.owner ∧
      bits s.dmode 5 4 = s.flash.part := by decide +kernel

theorem witness_DeviceServiceResults_spdm :
    (∀ code ∈ [0x84, 0xE1, 0xE3, 0x81, 0x82, 0x83, 0xE0], u8At ({ host0 with inp := { data := [0x12, BitVec.ofNat 8 code] } } : State).inp.data 1 = code) ∧
    (let s := { host0 with measures := List.replicate 5 (List.replicate 64 0xFF), inp := { data := [0x12, 0xE0] } }
     u8At s.inp.data 1 = 0xE0 ∧ s.measures.length = 5 ∧ ∀ m ∈ s.measures, m.length = 64) ∧
    u8At ([0x12, 0xFF] : List Byte) 1 ∉ [0x84, 0xE1, 0xE3, 0x81, 0x82, 0x83, 0xE0] := by decide +kernel

/-! ## Ports -/

/-- An access of the aperture of function 8 at the last offset of its 64 GiB, whose base is given. -/
def apS (base : W64) (o : W64) (m : W32) : State :=
  { host0.setFn 8 { abase := base } with dmode := m, inp := { a := 8, b := 2, v := o, data := [1, 2] } }
theorem witness_ApertureResults :
    (let s := { apS 0 0 0 with vfmap := 0xF00000000 }; s.inp.a = 8 ∧ s.fnPart 8 = none) ∧
    (let s := apS 0 0x1000022000 0
     s.inp.a = 8 ∧ s.fnPart 8 = some 0 ∧ (s.inp.v.toNat % 2 ^ 36 = 0x22000) ∧ s.determ = false ∧ ([0, 0] : List Byte).length = s.inp.b ∧
      Holds s (.mgmt (s.shub 0)) 0 0x22000 [0, 0] (hostSg 8) ∧ yields (s.writeOwn 601 0 0x22000 s.inp.data) (fun _ => true) = true) ∧
    (let s := apS 0x7F00000000000000 0 0
     s.readVa (.mgmt (s.shub 0)) 0 0x7F00000000000000 2 (hostSg 8) = (s, .error (.fault 1, 0x7F00000000000000)) ∧
      s.writeOwn 601 0 0x7F00000000000000 s.inp.data = .error (.fault 1, 0x7F00000000000000)) ∧
    (apS 0 0 3).determ = true := by decide +kernel

/-- Reads of BAR0 by a VF of no partition, by a VF in recovery, and by the PF and a VF at both ends of the VF's areas. -/
def barS (f o st : Nat) : State := { host0 with bstat := BitVec.ofNat 64 st, inp := { a := f, b := 4, v := BitVec.ofNat 64 o, flag := true } }
theorem witness_ApertureResults_bar0 :
    (let s := { barS 8 0 1 with vfmap := 0xF00000000 }; s.inp.c ≠ 1 ∧ s.inp.flag = true ∧ s.fnPart 8 = none) ∧
    (let s := barS 8 0 2; s.inp.c ≠ 1 ∧ s.inp.flag = true ∧ s.fnPart 8 = some 0 ∧ bits s.bstat 2 0 = 2) ∧
    (∀ x ∈ [(0, 0x100), (8, 0), (8, 0x3FFC), (8, 0x4000), (8, 0x4FFC), (8, 0x5000)], let s := barS x.1 x.2 1
      s.inp.a = x.1 ∧ s.inp.c ≠ 1 ∧ s.inp.flag = true ∧ s.fnPart x.1 = some 0 ∧ bits s.bstat 2 0 ≠ 2 ∧ s.inp.v.toNat = x.2) := by decide +kernel

/-- An access of kind k and operation 15 of four bytes at the address given. -/
def inbS (k op : Nat) (v : W64) (fab : W32) (bad : List Nat) : State :=
  { host0 with fabctl := fab, bad := bad, inp := { a := k, b := op, c := 4607, v := v, nums := [4], data := [1, 0, 0, 0, 2, 0, 0, 0] } }
def inbK : Nat := keyP host0 0x22000
theorem witness_InboundResults :
    (∀ k ∈ [0, 1, 2, 3], ∀ op ∈ [0, 7, 9, 15], ∀ x ∈ [(0x22000, 16), (0x22000, 0), (0x22000, 17), (0x1000000022000, 16), (0xFFFFFFFFFFFF, 16)],
      let s := inbS k op (BitVec.ofNat 64 x.1) (BitVec.ofNat 32 x.2) []
      s.inp.a = k ∧ k < 4 ∧ s.inp.b < 16 ∧ s.inp.c = 4607 ∧ s.inp.nums = [4] ∧ 4 < 2 ^ 64 ∧ s.determ = false) ∧
    (inbS 0 0 0x22000 0 []).fabctl.getLsbD 4 = false ∧ (inbS 0 0 0x22000 17 []).isPart ((inbS 0 0 0x22000 17 []).fabctl.toNat % 16) = false ∧
    (inbS 0 0 0x1000000022000 16 []).inp.v.toNat / 2 ^ 48 % 8 ≠ 0 ∧ (inbS 0 0 0xFFFFFFFFFFFF 16 []).inboundLocs 0 (piecesOf (2 ^ 48 - 1) 4) = none ∧
    ({ inbS 0 0 0x22000 16 [] with dmode := 3 }.determ = true) ∧
    (∀ bad ∈ [[], [inbK / 32]], let s := inbS 2 7 0x22000 16 bad
      s.fabctl.getLsbD 4 = true ∧ s.isPart 0 = true ∧ s.inp.v.toNat / 2 ^ 48 % 8 = 0 ∧ s.inboundLocs 0 (piecesOf 0x22000 4) = some [(inbK, 4)] ∧
      s.dieDown (keyDie inbK) = false ∧ s.marked inbK 4 = (bad != [])) := by decide +kernel

/-- Markers of device 4607: none before, one before of three, and one before of two; outstanding accesses; a route over port 17. -/
def linkS (fs : List Flush) (a c : Nat) : State :=
  { host0 with flushIn := fs, inp := { a := a, b := 9, c := c, data := [1] }, flushOut := [{ seq := 4607, dev := 4607, need := 1 }, { seq := 8, dev := 1, need := 1 }]
               remoteOps := [{ id := 4607, dev := 1, ga := 0, write := false, len := 1 }, { id := 5, dev := 1, ga := 0, write := false }]
               rtab := [(4607, 0x3FFFF)] }
def fl (n : Nat) : Flush := { seq := 9, dev := 4607, need := n, got := 1 }
theorem witness_LinkResults :
    (∀ x ∈ [([], 0), ([], 1), ([], 2), ([fl 2], 2), ([fl 3], 3)], let s := linkS x.1 4607 x.2
      s.determ = false ∧ s.inp.a = 4607 ∧ s.inp.b = 9 ∧ s.inp.c = x.2 ∧ s.inp.c < 2 ^ 64 ∧ s.flushIn = x.1) ∧ (fl 3).dev = 4607 ∧ (fl 3).seq = 9 ∧
    (let s := linkS [] 4607 0
     ∃ r ∈ s.remoteOps, r.id = s.inp.a ∧ r.answered = false) ∧ (∃ r ∈ (linkS [] 4607 0).remoteOps, r.id ≠ (linkS [] 4607 0).inp.a) ∧
    (∀ n ∈ [17, 18], let s := linkS [] n 0; s.determ = false ∧ s.inp.a = n ∧ SMap.wf 0 s.rtab = true) ∧
    (linkS [] 17 0).autoRels = [] ∧
    (∃ x ∈ (linkS [] 17 0).flushOut, x.acked = false ∧ (SMap.get 0 (linkS [] 17 0).rtab x.dev : W32).getLsbD 17 = true) := by decide +kernel

/-- The last acknowledgement of an automatic release, and the reply to a posted write, good and not. -/
def relS : State :=
  { host0 with autoRels := [{ tag := 4607, part := 0, dev := 1, pa := 2 ^ 47 }], flushOut := [{ seq := 7, dev := 1, need := 1, sg := 4607 }], inp := { a := 7 } }
def postedS (bad : Bool) : State :=
  { host0 with remoteOps := [{ id := 7, dev := 1, ga := 0, write := true, posted := true }], inp := { a := 7, flag := bad } }
/-- A partition whose log has a record on its way. -/
def logS (ops : List RemoteOp) : State :=
  { host0 with parts := [(7, { slcnt := 4, slSent := 5 })], remoteOps := ops, inFlight := [7, 8], inp := { a := 7 } }
theorem witness_LinkResults_log : ∀ ops ∈ [[], [({ id := 8, who := deviceIss 600 7, dev := 1, ga := 0, write := true, posted := true } : RemoteOp)]],
    (logS ops).determ = false ∧ SMap.wf {} (logS ops).parts = true ∧ (logS ops).ownOut 600 7 = !ops.isEmpty := by decide +kernel
theorem witness_LinkResults_posted :
    (relS.determ = false ∧ ∃ (r : AutoRel) (f : Flush), relS.autoRels = [r] ∧ relS.flushOut = [f] ∧ f.sg = r.tag ∧ f.seq = relS.inp.a ∧ f.failed = false) ∧
    (∀ b ∈ [false, true], ∃ x ∈ (postedS b).remoteOps, x.id = (postedS b).inp.a ∧ x.posted = true ∧ (postedS b).inp.flag = b ∧
      isDevice x.who = false ∧ x.answered = false) :=
  ⟨⟨by decide +kernel, _, _, rfl, rfl, by decide +kernel, by decide +kernel, by decide +kernel⟩, by decide +kernel⟩

end Sys2Proof.Tests
end

