-- ==== Sys2Proof/Tests/WitnessQueues.lean ====
section
/-! SUPPORT. Concrete states that meet the hypotheses of the statements about hardware queues, graphs and launches. -/

namespace Sys2Proof.Tests

set_option Elab.async false

open Sys2Proof Sys2Proof.Machine Sys2Proof.Claims

/-- A launch entry for the descriptor at 0x20400, and a descriptor for queue 255. -/
def entryB : List Byte := leBytes 8 1 ++ leBytes 8 0x20400
def descB : List Byte := [0, 0, 1, 0, 255] ++ List.replicate 507 0
/-- Queue 255 of partition 0 with its last entry of sixteen due, at 0x200F0. -/
def hqB : HwQueue := { base := 0x20000, ctl := 0x80000000, head := 15, tail := 16, arrivals := [3] }
def queued (entry : List Byte) : State :=
  { ((State.reset.placeTables.physWrite 0 0x200F0 entry).physWrite 0 0x20400 descB).setHwq 0 255 hqB with
    bstat := 1, seq := 4, inp := { a := 0, b := 255 } }
/-- The place of 0x200F0 in device memory, in granules of 32 bytes. -/
def granB : Nat := (8796093030400 + 0xF0) / 32

theorem witness_QueueEntryResults_good :
    (let s := queued entryB; Listed s 0 ∧ s.inp.a = 0 ∧ s.inp.b = 255 ∧ s.mayRead 0 255 = true ∧ entryB.length = 16 ∧ descB.length = 512 ∧
      (s.hwq 0 255).base.toNat + 16 * ((s.hwq 0 255).head.toNat % (16 * 2 ^ bits (s.hwq 0 255).ctl 7 4)) = 0x200F0 ∧
      Front s 0 255 0x200F0 entryB ∧ u8At entryB 0 = 1 ∧ zeroAt entryB 1 4 = true ∧ u32At entryB 4 = 0 ∧ u64At entryB 8 % 64 = 0 ∧
      Front s 0 255 (u64At entryB 8) descB ∧ u8At descB 4 = 255) := by decide +kernel

/-- The malformed entries, each at the edge of its clause. -/
def badEntries : List (List Byte) := [leBytes 8 3 ++ leBytes 8 0, leBytes 8 0 ++ leBytes 8 0, leBytes 8 0x80000001 ++ leBytes 8 0,
  leBytes 8 1 ++ leBytes 8 32, leBytes 8 0x100000001 ++ leBytes 8 0]
theorem witness_QueueEntryResults_malformed : ∀ en ∈ badEntries, Listed (queued en) 0 ∧ (queued en).mayRead 0 255 = true ∧ en.length = 16 ∧
    Front (queued en) 0 255 0x200F0 en ∧ (3 ≤ u8At en 0 ∨ u8At en 0 = 0 ∨ zeroAt en 1 4 = false ∨ u64At en 8 % 64 ≠ 0 ∨
      (u8At en 0 = 1 ∧ u32At en 4 ≠ 0)) := by decide +kernel
theorem witness_QueueEntryResults_unreadable : (let s := { queued entryB with bad := [granB] }
    s.mayRead 0 255 = true ∧ s.readVa (.mgmt (s.shub 0)) 0 0x200F0 16 (frontSg 0 255) = (s, .error (.uncorr, 0x200F0))) := by decide +kernel

/-- Device launch queue 31 holds one descriptor; run 7 of an executable of two launches has its first one ended. -/
def dlqB : State := { queued entryB with dlqs := [(31, { ctl := 0x80, entries := [descB] })], inp := { a := 31 } }
def runB : GraphRun := { graph := 1, queue := 2, started := true, done := [(0, 0x101)], sent := [0] }
def graphB : Graph := { handle := 1, descs := [descB, descB, descB], preds := [[], [0], [1]] }
def graphS : State := { (queued entryB).setPart 0 { (queued entryB).part 0 with graphs := [graphB], runs := [(7, runB)] } with inp := { a := 0, b := 7 } }
theorem witness_QueueEntryResults_runs :
    ((dlqB.dlq 31).entries = descB :: [] ∧ SMap.wf {} dlqB.dlqs = true ∧ dlqB.partLive (bits (dlqB.dlq 31).ctl 2 0) = true ∧
      SMap.wf {} (dlqB.part 0).queues = true ∧ (dlqB.hwq 0 (u8At descB 4)).ctl.getLsbD 31 = true) ∧
    (Listed graphS 0 ∧ graphS.inp.a = 0 ∧ graphS.inp.b = 7 ∧ graphS.partLive 0 = true ∧ RunsBegun graphS 0 ∧
      alGet (graphS.part 0).runs 7 = some runB ∧
      graphS.graphOf 0 runB.graph = some graphB ∧ (∀ d ∈ runB.done, d.2 % 16 = 1) ∧ 1 < graphB.descs.length ∧ 1 ∉ runB.sent ∧
      (∀ j ∈ graphB.preds.getD 1 [], ∃ d ∈ runB.done, d.1 = j) ∧
      (∀ j < graphB.descs.length, j ∉ runB.sent → j ≠ 1 → ∃ k ∈ graphB.preds.getD j [], ∀ d ∈ runB.done, d.1 ≠ k)) := by decide +kernel
theorem witness_QueueEntryResults_launches : graphS.launches = [] := by decide +kernel

/-- Launch 3 is first in queue 255: a space of three elements in tiles of two. -/
def descL : Desc := { rank := 1, bounds := [(3, 0)], tile := [2], eslen := 4, msaddr := 0x20800, queue := 255, egangs := 1, eslices := 1 }
def begins (l : Launch) : State :=
  { (queued entryB).setHwq 0 255 { hqB with fifo := [3], arrivals := [5] } with launches := [(3, { l with queue := 255 })], inp := { a := 3 } }
def lauL (d : Desc) : Launch := { desc := d, queue := 255 }
theorem witness_LaunchResults_begins :
    (∀ l ∈ [{ lauL descL with bad := 1 }, lauL { descL with bounds := [(2 ^ 32, 0)] },
        lauL { descL with bounds := [(65537, 0)], tile := [1] }, lauL descL, lauL { descL with eslen := 0 }],
      Begins (begins l) 3 l) ∧
    (BadBound { descL with bounds := [(2 ^ 32, 0)] } ∧ BadBound { descL with bounds := [(65537, 0)], tile := [1] }) ∧
    (GivenBounds descL [3] ∧ descL.grouped = false ∧ descL.mask ≠ 3) ∧ (allTiles descL [3] []).filterMap id ≠ [] ∧ descL.eslen ≠ 0 ∧
    (∃ i ∈ (allTiles { descL with eslen := 0 } [3] []).filterMap id, i.onTile = false) ∧
    GivenBounds { descL with bounds := [(2 ^ 32 - 1, 0)], tile := [65536] } [2 ^ 32 - 1] := by decide +kernel

/-- A space with no element. -/
theorem witness_LaunchResults_empty : let d := { descL with bounds := [(0, 0)] }
    Begins (begins (lauL d)) 3 (lauL d) ∧ GivenBounds d [0] ∧ (allTiles d [0] []).filterMap id = [] ∧ (lauL d).cause = 0 ∧
      (lauL d).tiles = [] ∧ (lauL d).cores = [] ∧ d.grouped = false ∧ d.mask ≠ 3 := by decide +kernel

theorem witness_LaunchResults_ends : (begins (lauL descL)).launch 3 = some (lauL descL) ∧ (lauL descL).run = none ∧
    yields ((begins (lauL descL)).writeOwn 600 0 0x20800 (milestone (lauL descL) 1 0 0)) (fun _ => true) = true ∧
    (begins (lauL descL)).shub 0 = 0 ∧ (begins (lauL descL)).timeOf 0 = 0 ∧
    (match (begins (lauL descL)).writeOwn 600 0 0x10000000000 (milestone (lauL descL) 2 3 0) with
      | .error (.fault 1, _) => true | _ => false) = true := by decide +kernel

theorem witness_KeptTellsWhichElementsRemain : (∀ m ∈ [0, 1, 2, 3], let d : Desc := { rank := 2, mi := 0, mj := 1, mask := m, mband := 1, moff := -1 }
    [0, 5].getD d.mi 0 ≤ [3, 5].getD d.mi 0 ∧ [0, 5].getD d.mj 0 ≤ [3, 5].getD d.mj 0 ∧ 1 ≤ d.mband) := by decide +kernel

end Sys2Proof.Tests
end

