-- ==== Sys2Proof/Tests/WitnessSchedule.lean ====
section
/-! SUPPORT. Concrete states that meet the hypotheses of the statements about dispatch, admission, grants, retirement and swaps. -/

namespace Sys2Proof.Tests

set_option Elab.async false

open Sys2Proof Sys2Proof.Machine Sys2Proof.Claims

/-- Launch 3 dispatches the items given, with the engines and cores given. -/
def dsp (d : Desc) (items : List Item) (tiles : SMap Tile) (cores : SMap EdgeCore) : State :=
  { State.reset.placeTables with
    bstat := 1, seq := 9, tiles := tiles, cores := cores, inp := { a := 3 }
    launches := [(3, { desc := d, queue := 255, st := .dispatching, items := items, tiles := [191], cores := [191], askCores := 1, cursor := 191 })] }
def lauOf (s : State) : Launch := (s.launch 3).getD {}
def dOne : Desc := { desc0 with egangs := 16, ecmem := 256 }
def dPer : Desc := { desc0 with persist := true }
def itemT : Item := { t := [65535, 65535, 65535, 65535], onTile := true }
def itemE : Item := { t := [1, 2, 3, 4], cls := 1 }
/-- A granted engine whose body is checked, at the last place. -/
def ready : SMap Tile := [(191, { run := .ready, launch := 3, admitted := true, body := [{}] })]

theorem witness_DispatchResults_ordinary :
    (let s := dsp dOne [itemT] ready []; Units s ∧ NextItem s 3 0 (lauOf s) itemT ∧ (lauOf s).desc.persist = false ∧ itemT.onTile = true ∧
      s.grantedEngine 3 (lauOf s).part (lauOf s).cursor = some 191 ∧ s.boardRoom itemT (unitDie 191) = true) ∧
    (let s := dsp dOne [itemT] [] []; NextItem s 3 0 (lauOf s) itemT ∧ s.grantedEngine 3 (lauOf s).part (lauOf s).cursor = none) ∧
    (let s := dsp dOne [itemE] [] []; Units s ∧ NextItem s 3 0 (lauOf s) itemE ∧ itemE.onTile = false ∧
      s.coreFor (lauOf s) [] = some 191 ∧ s.boardRoom itemE (unitDie 191) = true ∧ Slotted s 191 ∧ 1 ≤ (lauOf s).desc.egangs) ∧
    (let s := dsp { dOne with egangs := 17 } [itemE] [] []; NextItem s 3 0 (lauOf s) itemE ∧ s.coreFor (lauOf s) [] = none) := by
  decide +kernel

/-- A joined engine with no tile, one with four behind q0, and a joined crew with a free slot 15 of ring 0. -/
def taker (t : Tile) : SMap Tile := [(191, { t with run := .running, launch := 3 })]
def ring15 : Ring := { base := 0, size := 64, count := 16, rp := 15, wp := 15 }
def crewT : Crew := { launch := 3, rings := [(0, ring15)], egangs := 1, cmemKiB := 4 }
def coreT : SMap EdgeCore := [(191, { crews := [(7, crewT)] })]
def full4 : Tile := { q0 := 1, q0Valid := true, qmore := [(2, 1), (3, 2), (4, 3)] }

theorem witness_DispatchResults_joins :
    (let s := dsp dPer [itemT] ready []; Units s ∧ NextItem s 3 0 (lauOf s) itemT ∧ (lauOf s).desc.persist = true ∧ s.inp.flag = false ∧
      s.grantedEngine 3 (lauOf s).part 0 = some 191) ∧
    (let s := { dsp dPer [itemE] [] [] with inp := { a := 3, flag := true } }
     let s := { s with launches := [(3, { lauOf s with cores := [] })] }
     Units s ∧ NextItem s 3 0 (lauOf s) itemE ∧ s.inp.flag = true ∧ 0 < (lauOf s).askCores ∧ s.coreFor (lauOf s) (lauOf s).cores = some 191 ∧
      Slotted s 191 ∧ 1 ≤ (lauOf s).desc.egangs) := by decide +kernel

def three (a b : Item) : List Item := [a, b, { b with onTile := !b.onTile }]
theorem witness_DispatchResults_deals :
    (∀ t ∈ [({} : Tile), full4], let s := dsp dPer (three itemT itemT) (taker t) coreT; Units s ∧ NextItem s 3 0 (lauOf s) itemT ∧
      (lauOf s).desc.persist = true ∧ itemT.onTile = true ∧ s.tileTaker 3 (lauOf s) = some 191 ∧ s.boardRoom itemT (unitDie 191) = true ∧
      (∃ x ∈ setAt (lauOf s).items 0 (running itemT 191), x.st = .todo ∧ x.onTile = true) ∧
      (∃ x ∈ setAt (lauOf s).items 0 (running itemT 191), x.st = .todo ∧ x.onTile = false)) ∧
    (let s := dsp dPer (three itemE itemE) (taker {}) coreT; Units s ∧ NextItem s 3 0 (lauOf s) itemE ∧ itemE.onTile = false ∧
      s.crewTaker 3 (lauOf s) = some (191, 7, crewT) ∧ s.crewOf 191 7 = some crewT ∧ s.boardRoom itemE (unitDie 191) = true ∧
      SMap.wf 0 crewT.cmem = true ∧ RingZero (SMap.get {} crewT.rings 0) ∧
      (∃ x ∈ setAt (lauOf s).items 0 (running itemE 191), x.st = .todo ∧ x.onTile = true) ∧
      (∃ x ∈ setAt (lauOf s).items 0 (running itemE 191), x.st = .todo ∧ x.onTile = false)) := by decide +kernel

/-- Tiles alone are left, the last tile is dealt, edge items alone are left. -/
theorem witness_DispatchResults_oneKind :
    (∀ xs ∈ [[itemT, itemT], [itemT, itemE], [itemT]], let s := dsp dPer xs (taker {}) coreT
      Units s ∧ NextItem s 3 0 (lauOf s) itemT ∧ (lauOf s).desc.persist = true ∧ itemT.onTile = true ∧ s.tileTaker 3 (lauOf s) = some 191 ∧
      s.boardRoom itemT (unitDie 191) = true ∧
      ((∃ x ∈ setAt (lauOf s).items 0 (running itemT 191), x.st = .todo ∧ x.onTile = true) ↔ xs = [itemT, itemT])) ∧
    (let s := dsp dPer [itemT, itemE] (taker {}) coreT
     (s.takers 3 (lauOf s)).find? (fun x => decide (((s.setTile 191 (fedTile (s.tile 191) (tileEntry (lauOf s).desc itemT) 0)).tile x).load < 5)) = some 191) ∧
    (let s := dsp dPer [itemE, itemE] (taker {}) coreT; Units s ∧ NextItem s 3 0 (lauOf s) itemE ∧ itemE.onTile = false ∧
      s.crewTaker 3 (lauOf s) = some (191, 7, crewT) ∧ s.crewOf 191 7 = some crewT ∧ s.boardRoom itemE (unitDie 191) = true ∧
      (∃ x ∈ setAt (lauOf s).items 0 (running itemE 191), x.st = .todo ∧ x.onTile = false) ∧
      (¬ ∃ x ∈ setAt (lauOf s).items 0 (running itemE 191), x.st = .todo ∧ x.onTile = true) ∧
      (s.takers 3 (lauOf s)).find? (fun x => decide ((s.tile x).load < 5)) = some 191) := by decide +kernel

/-- Every item is dealt: an engine is due its end entry, a crew its end record. -/
def allDealt (t : SMap Tile) : State :=
  let s := dsp dPer [{ itemT with st := .running }] t coreT
  { s with launches := [(3, { lauOf s with st := .dispatched })] }
theorem witness_EndEntriesAndRecords :
    (∀ t ∈ [({} : Tile), full4], let s := allDealt (taker t)
     Units s ∧ s.launch 3 = some (lauOf s) ∧ s.inp.a = 3 ∧ (lauOf s).desc.persist = true ∧ s.partLive (lauOf s).part = true ∧
      (lauOf s).st = .dispatched ∧ (∀ x ∈ (lauOf s).items, x.st ≠ .todo) ∧
      (s.takers 3 (lauOf s)).find? (fun e => decide ((s.tile e).load < 5)) = some 191) ∧
    (let s := allDealt (taker { full4 with qmore := full4.qmore ++ [(5, 4)] })
     Units s ∧ s.launch 3 = some (lauOf s) ∧ s.inp.a = 3 ∧ (lauOf s).desc.persist = true ∧ s.partLive (lauOf s).part = true ∧
      (lauOf s).st = .dispatched ∧ (∀ x ∈ (lauOf s).items, x.st ≠ .todo) ∧
      (∀ e ∈ s.takers 3 (lauOf s), 5 ≤ (s.tile e).load) ∧
      (s.joinedCrews 3 (lauOf s)).find? (fun c => !c.2.2.ended && decide (0 < (SMap.get {} c.2.2.rings 0).freeSlots)) = some (191, 7, crewT) ∧
      s.crewOf 191 7 = some crewT) := by decide +kernel

theorem witness_EntriesAndRecords : (∀ i < 4, itemT.t.getD i 0 < 65536) ∧ itemT.group < 65536 ∧
    (let it : Item := { t := List.replicate 4 (2 ^ 32 - 1), lo := List.replicate 4 (2 ^ 32 - 1), vext := List.replicate 4 65535, cls := 255, group := 65535 }
     let d : Desc := { grouped := true, mask := 255, mband := 2 ^ 32 - 1, moff := -2 ^ 31 }
     (∀ i < 4, it.t.getD i 0 < 2 ^ 32 ∧ it.lo.getD i 0 < 2 ^ 32 ∧ it.vext.getD i 0 < 65536) ∧ it.cls < 256 ∧ d.mask < 256 ∧
      it.group < 65536 ∧ d.mband < 2 ^ 32 ∧ -(2 : Int) ^ 31 ≤ d.moff ∧ d.moff < 2 ^ 31 ∧ it.cls ≠ 3) := by decide +kernel

/-- A portable image of one bundle of no operations (R111, R125), and one of a wrong magic number. -/
def imageB (m : Nat) : List Byte := leBytes 4 m ++ [0, 0, 0, 1] ++ leBytes 4 16 ++ List.replicate 4 0 ++ List.replicate 16 0
def dImg : Desc := { desc0 with iaddr := 0x20000, ilen := 32, iform := 1 }
def adm (m : Nat) : State :=
  { (dsp dImg [itemT] [(191, { run := .ready, launch := 3 })] []).physWrite 0 0x20000 (imageB m) with inp := { a := 191 } }
theorem witness_AdmissionResults : (∀ m ∈ [0x53594201, 0x53594202], let s := adm m
      Units s ∧ s.inp.a = 191 ∧ (s.tile 191).run = .ready ∧ (s.tile 191).admitted = false ∧ s.launch (s.tile 191).launch = some (lauOf s) ∧
      (lauOf s).cause = 0 ∧ s.stalled (.issue (.tile 191) 0) = false ∧ s.issueFail = [] ∧ (imageB m).length = (lauOf s).desc.ilen ∧
      Holds s (.tile 191) (lauOf s).part (lauOf s).desc.iaddr (imageB m) admitSg) ∧
    yields (admitBody dImg (imageB 0x53594201)) (fun r => r.1 == 1 && r.2.1.length == 1) = true ∧
    (match admitBody dImg (imageB 0x53594202) with | .error r => r.code == 1 | _ => false) = true := by decide +kernel

/-- A fresh tile and two stopped instances ask for engines; engine 191 comes first after the cursor. -/
def gr (stops : List (Nat × Tile)) (items : List Item) : State :=
  { (dsp dImg items [] []).setPart 0 { (dsp dImg items [] []).part 0 with cursor := 191 } with stopped := stops, inp := { a := 0 } }
def stop1 : Tile := { launch := 3, run := .stopped 1, resumeKind := 1, body := [{}], b := 0, savedLc := 5 }
def stop2 : Tile := { launch := 3, run := .stopped 2, resumeKind := 2, body := [{}, {}], bodyStart := 1, savedLc := 5 }
theorem witness_GrantResults :
    (let s := gr [] [itemT]; Units s ∧ s.inp.a = 0 ∧ (s.cyclic 0 (s.part 0).cursor).find? s.engineFree = some 191 ∧
      (match chooseCand (s.tslice 0) (s.tile 191).lastQueue (s.candidates 0 (unitDie 191)) with
        | some c => c.fresh == some 3 | none => false) = true ∧ s.launch 3 = some (lauOf s)) ∧
    (∀ x ∈ [stop1, stop2], let s := gr [(191, x)] []; Units s ∧ s.inp.a = 0 ∧
      (s.cyclic 0 (s.part 0).cursor).find? s.engineFree = some 191 ∧
      (match chooseCand (s.tslice 0) (s.tile 191).lastQueue (s.candidates 0 (unitDie 191)) with
        | some c => c.fresh == none && s.stopped[c.inst]? == some (191, x) | none => false) = true) := by decide +kernel

/-- The engine of a stopped instance checks the body for it: one good, one bad. -/
def admStop (m : Nat) : State := { adm m with stopped := [(190, { stop1 with resumeOn := some 191 })] }
theorem witness_AdmissionResults_stopped : ∀ m ∈ [0x53594201, 0x53594202], let s := admStop m
    Units s ∧ s.inp.a = 191 ∧ (s.tile 191).run = .ready ∧ (s.tile 191).admitted = false ∧ s.launch (s.tile 191).launch = some (lauOf s) ∧
    s.awaited 191 = true ∧ s.stalled (.issue (.tile 191) 0) = false ∧ s.issueFail = [] ∧
    Holds s (.tile 191) (lauOf s).part (lauOf s).desc.iaddr (imageB m) admitSg ∧
    s.stopped.find? (fun y => y.2.resumeOn == some 191) = some (190, { stop1 with resumeOn := some 191 }) := by decide +kernel

/-- A stopped instance is granted an engine that has checked the launch's body, and one that has not. -/
def grK (ts : SMap Tile) (x : Tile) : State :=
  { (dsp dImg [] ts []).setPart 0 { (dsp dImg [] ts []).part 0 with cursor := 191 } with stopped := [(190, x)], inp := { a := 0 } }
theorem witness_GrantResults_checked : ∀ x ∈ [stop1, stop2], ∀ ts ∈ [[], [(191, ({ launch := 3, admitted := true, body := [{}, {}] } : Tile))]],
    let s := grK ts x
    Units s ∧ s.inp.a = 0 ∧ (s.cyclic 0 (s.part 0).cursor).find? s.engineFree = some 191 ∧ (s.tile 191).run ≠ .halting ∧
    (∀ z ∈ s.stopped, z.2.resumeOn ≠ some 191) ∧
    (match chooseCand (s.tslice 0) (s.tile 191).lastQueue (s.candidates 0 (unitDie 191)) with
      | some c => c.fresh == none && s.stopped[c.inst]? == some (190, x) &&
          ((s.tile 191).grantTo x.launch c.queue (s.tslice (s.unitPart 191)) (s.pointOf 191) s.time.toNat).admitted == !ts.isEmpty
      | none => false) = true := by decide +kernel

def cands : List Cand := [{ run := 257, er := 7, queue := 3, fresh := none }, { run := 256, er := 6, queue := 255, fresh := some 1 },
  { run := 0, er := 6, queue := 255, fresh := none }, { run := 0, er := 6, queue := 0, fresh := none }]
theorem witness_ChoiceAmongCandidates : (∀ x ∈ cands, x.er < 8 ∧ x.queue < 256) ∧ (254 : Nat) < 256 ∧
    chooseCand 256 254 cands = some { run := 0, er := 6, queue := 255, fresh := none } := by decide +kernel

/-- A halted instance that holds its last item, with another of the launch running or retired. -/
def halted (st : ItemState) (lst : LState) : State :=
  let s := dsp dOne [{ itemT with st := .running, boarded := true }, { itemT with st := st }] [(191, { run := .halting, launch := 3, q0Valid := true })] []
  { s with launches := [(3, { lauOf s with st := lst, cores := [] })], inp := { a := 191 } }
theorem witness_RetirementResults :
    (∀ x ∈ [(ItemState.running, LState.dispatching), (.retired, .dispatched)], let s := halted x.1 x.2
      Units s ∧ s.inp.a = 191 ∧ s.inp.flag = false ∧ (s.tile 191).run = .halting ∧ (s.tile 191).q = {} ∧ (s.tile 191).pendErr = none ∧
      (s.tile 191).launch = 3 ∧ (s.tile 191).q0Valid = true ∧ (s.tile 191).q0Item = 0 ∧ 0 ≠ endItem ∧ (s.tile 191).retiring = [] ∧
      (s.tile 191).qmore = [] ∧ (s.tile 191).locks = [] ∧ (s.tile 191).nextGrant = none ∧ s.stopped = [] ∧ s.launch 3 = some (lauOf s)) ∧
    (let l := lauOf (halted .retired .dispatched)
     l.st = .dispatched ∧ l.tiles ⊆ [191] ∧ l.cores = [] ∧ l.run = none ∧ l.items.length = 2 ∧ (l.items[1]?.map (fun x => x.st)) = some .retired) ∧
    (let s := dsp dOne [] [(191, { run := .running, retiring := [(0, 5)], q := { ordered := [{ seq := 4, cmd := .launch ⟨0, 0, 0, 0, 0⟩ }] } })] []
     (s.tile 191).run = .running ∧ ∀ r ∈ (s.tile 191).retiring, (s.tile 191).q.doneBefore r.2 = false) := by decide +kernel

theorem witness_RetirementResults_more : MoreToDo (lauOf (halted .running .dispatching)) 0 :=
  ⟨1, by decide, { itemT with st := .running }, by decide +kernel, rfl⟩

/-- A crew whose gangs have all exited. -/
def crewF : Crew := { launch := 3, items := [{ item := 0 }], finished := true }
def leaving : State :=
  { dsp dOne [{ itemE with st := .running, boarded := true }, { itemE with st := .running }] [] [(191, { crews := [(7, crewF)] })] with
    inp := { a := 191, flag := true } }
theorem witness_RetirementResults_crew : Units leaving ∧ leaving.inp.a = 191 ∧ leaving.inp.flag = true ∧ SMap.wf {} (leaving.core 191).l1 = true ∧
    (leaving.core 191).crews = [(7, crewF)] ∧ crewF.finished = true ∧ crewF.q = {} ∧ crewF.launch = 3 ∧ crewF.items = [{ item := 0 }] ∧
    crewF.retiring = [] ∧ crewF.locks = [] ∧ leaving.launch 3 = some (lauOf leaving) := by decide +kernel

/-- A write of that crew has not performed on another device. -/
theorem witness_RetirementResults_waits :
    let s := { leaving with remoteOps := [({ id := 0, who := .crew 191 7, sg := 0, dev := 5, ga := 0x24000, write := true, posted := true } : RemoteOp)] }
    Units s ∧ (s.core 191).crews = [(7, crewF)] ∧ s.launch 3 = some (lauOf s) ∧ MoreToDo (lauOf leaving) 0 ∧
    (s.writeBackAll 191).unperformed (.crew 191 7) = true ∧ (leaving.writeBackAll 191).unperformed (.crew 191 7) = false :=
  ⟨by decide +kernel, by decide +kernel, by decide +kernel, ⟨1, by decide, { itemE with st := .running }, by decide +kernel, rfl⟩,
    by decide +kernel, by decide +kernel⟩

/-- Crew 7 of launch 3, of rank r, on core 191 at the end of its slice; an edge item of launch 4, of rank 3, finds no room. -/
def swp (r : Nat) (cr : Crew) (t : Nat) : State :=
  let d := { dOne with qrank := r }
  let g : Gang := { startGang dOne 0 7 with subs := [(0, startThread dOne 0)] }
  { State.reset.placeTables with
    bstat := 1, seq := 9, time := BitVec.ofNat 48 t, inp := { a := 191, b := 190 }
    parts := [(0, { State.reset.placeTables.part 0 with queues := [(254, { ctl := 7, qrank := 3 }), (255, { ctl := 7, qrank := r })] })]
    cores := (span 0 192).map (fun e => (e, if e = 191 then { crews := [(7, cr)], gangs := [(0, g)] } else { crews := [(7, { cmemKiB := 256 })] }))
    launches := [(3, { desc := d, queue := 255, st := .dispatching }), (4, { desc := { dOne with qrank := 3 }, queue := 254, st := .dispatching, items := [itemE] })] }
def crewV : Crew := { launch := 3, cmemKiB := 256, cmem := [(0, 1)] }
theorem witness_SwapResults :
    (let s := swp 3 crewV 65535; s.time.toNat < (s.core 191).sliceStart + s.eslice (s.unitPart 191)) ∧
    (∀ x ∈ [(4, crewV), (3, crewV), (3, { crewV with stopReq := true })], let s := swp x.1 x.2 65536
      Units s ∧ s.inp.a = 191 ∧ (s.core 191).sliceStart + s.eslice (s.unitPart 191) ≤ s.time.toNat ∧ s.partLive (s.unitPart 191) = true ∧
      s.dieBusy (unitDie 191) = false ∧ s.edgeWaiter (s.unitPart 191) 191 = some 3 ∧ s.victim 191 = some (7, x.2) ∧ s.crewOf 191 7 = some x.2 ∧
      s.queueRank x.2.launch = x.1) ∧
    (swp 3 { crewV with stopReq := true } 65536).crewStopped 191 7 = true := by decide +kernel

/-- A crew swapped out whole returns to core 190. -/
def swapped1 : Swapped := { core := 191, launch := 3, crew := crewV, gangs := [startGang dOne 0 7], since := 5 }
def swpIn : State := { dsp dOne [] [] [] with swapped := [swapped1], inp := { a := 0, b := 190 } }
theorem witness_SwapInResults : swpIn.inp.b = 190 ∧ swpIn.inp.a = 0 ∧ (swpIn.core 190).out = [] ∧ swpIn.nextSwapped 0 = some swapped1 ∧ (swpIn.partUnits 0).contains 190 = true ∧
    swpIn.partLive 0 = true ∧ swpIn.dieBusy (unitDie 190) = false ∧
    (swpIn.core 190).hasRoom swapped1.gangs.length swapped1.crew.cmemKiB = true ∧ Slotted swpIn 190 := by decide +kernel

/-- A gang of crew 7 that had left core 190 returns to its slot or to a free one. -/
def gangO (n : Nat) : Gang := { startGang dOne n 7 with subs := [(0, startThread dOne 0)] }
def gangIn : State :=
  { dsp dOne [] [] [(190, { crews := [(7, crewV)], gangs := [(1, gangO 0)], out := [(5, gangO 1), (6, gangO 2)] })] with inp := { a := 0, b := 190 } }
theorem witness_GangReturns : gangIn.inp.b = 190 ∧ gangIn.inp.a = 0 ∧ (gangIn.partUnits 0).contains 190 = true ∧ gangIn.partLive 0 = true ∧
    gangIn.dieBusy (unitDie 190) = false ∧ (5, gangO 1) ∈ (gangIn.core 190).out ∧ (gangIn.core 190).out.Nodup ∧
    (∀ y ∈ (gangIn.core 190).out, y ≠ (5, gangO 1) → 5 < y.1) ∧
    (pickSlot ((gangIn.core 190).gangs.map Prod.fst) (((gangIn.core 190).crewGangs 7).map Prod.fst)).isSome = true := by decide +kernel

/-- An engine whose halted instance still has an entry is free for a grant, which waits there (R279). -/
def haltQ : Tile := { run := .halting, launch := 3, q := { qs := [(0, [{ seq := 4, cmd := .cpG2g ⟨0, 0, 0, 0, 0⟩ }])] } }
def grH (stops : List (Nat × Tile)) (items : List Item) : State :=
  { (dsp dOne items [(191, haltQ)] []).setPart 0 { (dsp dOne items [] []).part 0 with cursor := 191 } with stopped := stops, inp := { a := 0 } }
theorem witness_GrantResults_halting :
    (let s := grH [] [itemT]; Units s ∧ s.inp.a = 0 ∧ (s.cyclic 0 (s.part 0).cursor).find? s.engineFree = some 191 ∧
      (match chooseCand (s.tslice 0) (s.tile 191).lastQueue (s.candidates 0 (unitDie 191)) with
        | some c => c.fresh == some 3 | none => false) = true ∧ s.launch 3 = some (lauOf s) ∧ (s.tile 191).run = .halting) ∧
    (let s := grH [(191, stop1)] []; Units s ∧ s.inp.a = 0 ∧ (s.cyclic 0 (s.part 0).cursor).find? s.engineFree = some 191 ∧
      (match chooseCand (s.tslice 0) (s.tile 191).lastQueue (s.candidates 0 (unitDie 191)) with
        | some c => c.fresh == none && s.stopped[c.inst]? == some (191, stop1) | none => false) = true) := by decide +kernel

end Sys2Proof.Tests
end

