-- ==== Sys2Proof/Tests/WitnessSequencer.lean ====
section
/-! SUPPORT. Concrete states that meet the hypotheses of the statements about a tile engine's sequencer and its matrix queue. -/

namespace Sys2Proof.Tests

set_option Elab.async false

open Sys2Proof Sys2Proof.Machine Sys2Proof.Claims

/-! ## Bundles -/

/-- An instance at bundle 1 of three, whose operation is the one given; one result is due. -/
def tileB (b : Bundle) (t : Tile) : State :=
  { tileOf { t with
      form := 2, t := 10, b := 1, body := [{}, b, {}], fmt := 0x11, s := [(2, 5), (3, 3)]
      flights := [{ step := 10, order := 0, what := .s 11 7 }] } with inp := { a := 0 } }
def opB (g : B4) : Bundle := { ops := [(0, .teAdd ⟨g, 1, 2, 3, 0, 0⟩)] }
def badB : Bundle := { ops := [(0, .teLdS 0 1 2 0)] }
/-- The effect of an operation is a plain one. -/
def plainEff (r : TRes) : Bool :=
  match r with | .ok f => f.ctl == .none && f.mat == none && f.acc == none && f.mark == none | _ => false
def isErr (r : TRes) : Bool := match r with | .err _ _ => true | _ => false

theorem witness_BundleResults_issue :
    (let s := tileB (opB 0) {}; let t := atStep s 0
     SMap.wf {} s.tiles = true ∧ BundleDue s 0 (opB 0) ∧ t.preg (guardOf (.teAdd ⟨0, 1, 2, 3, 0, 0⟩)) = true ∧
      commandOf (.teAdd ⟨0, 1, 2, 3, 0, 0⟩) = none ∧ t.rd = [] ∧ t.atPassEnd = false ∧ t.b + 1 < t.body.length ∧
      plainEff (tileSem (.teAdd ⟨0, 1, 2, 3, 0, 0⟩) (s.tctx 0 t)) = true) ∧
    (let s := tileB badB {}; let t := atStep s 0
     SMap.wf {} s.tiles = true ∧ BundleDue s 0 badB ∧ t.preg (guardOf (.teLdS 0 1 2 0)) = true ∧ commandOf (.teLdS 0 1 2 0) = none ∧
      isErr (tileSem (.teLdS 0 1 2 0) (s.tctx 0 t)) = true) := by decide +kernel

/-- A false guard in a plain step, at a pass end, before a redirect to bundle 2, and past the last bundle. -/
theorem witness_BundleResults_skip :
    (∀ t ∈ [({} : Tile), { act := true, bodyStart := 0, bodyLen := 2 }, { rd := [(11, 2)] }], let s := tileB (opB 3) t
      SMap.wf {} s.tiles = true ∧ BundleDue s 0 (opB 3) ∧
      (∀ o ∈ (opB 3).ops, (atStep s 0).preg (guardOf o.2) = false ∧ falseCtl o.2 = .none)) ∧
    (atStep (tileB (opB 3) { act := true, bodyStart := 0, bodyLen := 2 }) 0).atPassEnd = true ∧
    (let t := atStep (tileB (opB 3) { rd := [(11, 2)] }) 0; t.rd = [(t.t + 1, 2)] ∧ t.act = false ∧ 2 < t.body.length ∧ t.atPassEnd = false) ∧
    (let s := tileOf { form := 2, t := 10, b := 0, body := [opB 3] }; let t := atStep s 0
     SMap.wf {} s.tiles = true ∧ BundleDue s 0 (opB 3) ∧ t.rd = [] ∧ t.atPassEnd = false ∧ t.b + 1 = t.body.length ∧
      (∀ o ∈ (opB 3).ops, t.preg (guardOf o.2) = false ∧ falseCtl o.2 = .none)) := by decide +kernel

theorem witness_LoopAndStopResults_land : (tileB (opB 0) {}).inp.a = 0 ∧ ((tileB (opB 0) {}).tile 0).run = .running ∧ (63 : Nat) < 64 ∧
    (let f := fun (n o : Nat) (v : W64) => ({ step := n, order := o, what := .s 63 v } : Flight)
     let t : Tile := { s := [(63, 1)], flights := [f 5 1 7, f 5 0 8] }
     SMap.wf 0 t.s = true ∧ t.flights = [{ step := 5, order := 1, what := .s 63 7 }, { step := 5, order := 0, what := .s 63 8 }]) := by
  decide +kernel

/-- Passes that count, that begin to drain, that drain on, and that leave the loop. -/
def passB (t : Tile) : State :=
  { tileOf { t with form := 2, t := 10, b := 1, body := [{}, {}, {}], passDue := true, act := true, bodyStart := 0, bodyLen := 2 } with inp := { a := 0 } }
theorem witness_LoopAndStopResults_pass :
    (∀ x ∈ [({ lc := 5, le := 2, fill := 7, turn := 31 } : Tile), { lc := 0, le := 2 }, { lc := 5, le := 2, drain := true }, { lc := 0, le := 2, tail := 2 }],
      let s := passB x; let t := s.tile 0
      SMap.wf {} s.tiles = true ∧ s.inp.a = 0 ∧ t.run = .running ∧ t.passDue = true ∧ t.rd = [] ∧ t.bodyStart + t.bodyLen < t.body.length ∧
      SMap.wf false t.p = true) ∧
    (let t := (passB { lc := 0, le := 2, tail := 2 }).tile 0; t.le < t.tail + 1) ∧
    (let t := (passB { lc := 5, le := 2 }).tile 0; t.tail ≤ t.le) := by decide +kernel

/-- A requested stop at a signpost, and a drained loop at its quiet point; an entry of the matrix queue stays. -/
def stopB (t : Tile) : State :=
  { tileOf { t with
      form := 2, t := 10, b := 1, body := [{}, { sign := true, run := 3 }], lc := 4
      flights := [{ step := 12, order := 0, what := .s 11 7 }], q := { qs := [(6, [{ seq := 1, cmd := .mz 0 0 }])] } } with inp := { a := 0 } }
theorem witness_LoopAndStopResults_stop :
    (let s := stopB { stopReq := true }; let t := s.tile 0; let y := atStep s 0
     SMap.wf {} s.tiles = true ∧ s.inp.a = 0 ∧ t.run = .running ∧ t.passDue = false ∧ t.pendErr = none ∧ t.q.idleButMatrix = true ∧
      y.stopReq = true ∧ y.bundle.sign = true ∧ y.rd = [] ∧ y.act = false ∧ y.drain = false ∧ y.predWait = false ∧
      y.mustWait = false ∧ y.latchCause = none ∧ ((s.setTile 0 y).bundleReady 0).2 = true) ∧
    (let s := stopB { drain := true }; let t := s.tile 0
     SMap.wf {} s.tiles = true ∧ s.inp.a = 0 ∧ t.run = .running ∧ t.passDue = false ∧ t.pendErr = none ∧ t.q.idleButMatrix = true ∧
      t.drain = true ∧ t.act = false) := by decide +kernel

/-! ## The matrix queue -/

/-- Engine 0 with the entry at the head of its matrix queue, one more behind it, and an element in accumulator 3. -/
def entM (i : Instr) : QEntry := { seq := 1, cmd := i, a := 0xF0000, b := 0x1000, fmt := 0x11, vals := List.replicate 32 5 }
def matS (i : Instr) (t : Tile) : State :=
  { tileOf { t with acc := [(3, { val := [(0, 1), (16383, 2)] })], q := { qs := [(6, [entM i, entM (.mz 0 1)])] } } with inp := { a := 0 } }
theorem witness_MatrixPerformResults :
    (∀ i ∈ [.mz 0 3, .mwr 0 3 0 1, .mld 0 3 1, .mma 0 3 1 2 0 0 0, .mma 0 3 1 2 1 0 0, .mst 0 3 1 0, .mtree 0 1],
      HeadsMatrix (matS i {}) 0 (entM i) [entM (.mz 0 1)] ∧ Sound ((matS i {}).tile 0) (entM i)) ∧
    (let t := (matS (.mz 0 3) {}).tile 0
     SMap.wf 0 (t.accOf (3 : B2).toNat).val = true ∧ (t.pad.map Prod.fst).Pairwise (· < ·) ∧ (entM (.mz 0 3)).a.toNat + 65536 ≤ 2 ^ 20 ∧
      (entM (.mz 0 3)).a.toNat + 65536 = 2 ^ 20 ∧ (entM (.mz 0 3)).vals.length = 32 ∧ fmtAcc (entM (.mz 0 3)).fmt.toNat = 0 ∧
      t.tree.present = false) := by decide +kernel

theorem witness_MatrixPerformResults_noStores : NoStores [entM (.mz 0 1)] := fun x hx f h => by
  rw [List.mem_singleton] at hx; subst hx; cases h

def setInp (s : State) : State := { s with inp := { a := 0 } }
/-- A bad granule at the last bytes an operation fetches, and one just behind them. -/
theorem witness_MatrixPerformResults_bad :
    (∀ i ∈ [.mld 0 3 1, .mtree 0 1], let e := { entM i with a := 0x1000 }; let q : Queues := { qs := [(6, [e])] }
      let last := match i with | .mtree _ _ => (0x1000 + 127) / 32 | _ => (0x1000 + 65535) / 32
      HeadsMatrix (tileOf { q := q, padBad := [last] } |> setInp) 0 e [] ∧
      ¬ Sound { q := q, padBad := [last] } e ∧ Sound { q := q, padBad := [last + 1, 0x7F] } e) := by decide +kernel

/-- A cp.st in queue 1, placed behind a mst of the same buffer. -/
def storeQ : QEntry := { seq := 2, cmd := .cpSt ⟨0, 0, 0, 0, 0⟩, a := 0xF0000 }
theorem witness_MatrixPerformResults_copy :
    (let t : Tile := { acc := [(3, { val := [(0, 1), (16383, 2)] })], q := { qs := [(1, [storeQ]), (6, [entM (.mst 0 3 1 0)])] } }
     HeadsMatrix (tileOf t |> setInp) 0 (entM (.mst 0 3 1 0)) [] ∧
      t.q.get 1 = [storeQ] ∧ (1 : Nat) ≠ 6 ∧ (entM (.mst 0 3 1 0)).seq < storeQ.seq ∧ SMap.wf 0 (t.accOf 3).val = true ∧
      fmtAcc (entM (.mst 0 3 1 0)).fmt.toNat = 0) := by decide +kernel

/-- Tables of no node, of seventeen, and of one node at row and column 127. -/
def tableB (n : Nat) : SMap Byte :=
  (span 0 128).zip ([BitVec.ofNat 8 n, 127, 127, 0, 9, 9, 9, 9, 0xFF] ++ List.replicate 15 0 ++ [1, 0] ++ List.replicate 102 0) |>.filter (fun x => x.2 != 0)
    |>.map (fun x => (0xF0000 + x.1, x.2))
def treeT (n : Nat) : Tile := { pad := tableB n }
theorem witness_MatrixPerformResults_tree :
    (∀ n ∈ [0, 1, 17], HeadsMatrix (matS (.mtree 0 1) (treeT n)) 0 (entM (.mtree 0 1)) [entM (.mz 0 1)] ∧
      Sound ((matS (.mtree 0 1) (treeT n)).tile 0) (entM (.mtree 0 1)) ∧ u8At (((matS (.mtree 0 1) (treeT n)).tile 0).padRow 0xF0000 128) 0 = n) ∧
    (let tb := ((matS (.mtree 0 1) (treeT 1)).tile 0).padRow 0xF0000 128
     u8At tb 1 < 128 ∧ u8At tb 2 < 128 ∧ u8At tb 3 = 0 ∧ zeroAt tb 0x38 0x40 = true ∧ u8At tb 8 = 0xFF ∧ u16At tb 0x18 = 1 ∧
      (∀ n < 15, u8At tb (9 + n) = 0 ∧ u16At tb (0x1A + 2 * n) = 0)) := by decide +kernel

/-! ## The roundabout: an iteration on a zero matrix, and one on a matrix with a NaN -/

/-- A fold over equal elements stands still once one of them leaves the value alone. -/
theorem foldl_replicate_still {α β : Type} (f : β → α → β) (x : α) (b : β) (h : f b x = b) : ∀ n, (List.replicate n x).foldl f b = b
  | 0 => rfl
  | n + 1 => by rw [List.replicate_succ, List.foldl_cons, h, foldl_replicate_still f x b h n]

abbrev sq (c : Nat) : List (List Nat) := List.replicate 128 (List.replicate 128 c)
theorem transpose_zero : transpose (sq 0) = sq 0 := by decide +kernel
theorem rows_zero : rowsOf [] = zeroRows := by decide +kernel
/-- The square of a difference of zeros. -/
def dd : FVal := (fMul (fAdd .rne (NumFmt.fp32.decode (0 : W32).toNat) (NumFmt.fp32.decode (0 : W32).toNat).neg).1
      (fAdd .rne (NumFmt.fp32.decode (0 : W32).toNat) (NumFmt.fp32.decode (0 : W32).toNat).neg).1).1
theorem dd_zero : dd = .fin false 0 0 := by decide +kernel
theorem sum_zero (n : Nat) : (deliver .fp32 .rne false (sumFin (List.replicate (n + 1) dd))).1 = 0 := by
  rw [dd_zero, sumFin]
  rw [foldl_replicate_still _ _ (0 : Int) (by simp [dyAt]), foldl_replicate_still _ _ (0 : Int) (by simp)]
  decide +kernel
theorem frob_zero : frob2 zeroRows zeroRows = 0 := by
  have hf : ∃ n, zeroRows.flatten = List.replicate (n + 1) 0 := ⟨16383, by rw [zeroRows, List.flatten_replicate_replicate]⟩
  obtain ⟨n, hn⟩ := hf
  have h := sum_zero n
  rw [frob2]
  simp only [hn, List.zip_replicate', List.map_replicate]
  rw [if_neg]
  · exact h
  · rw [List.any_replicate]; split <;> decide +kernel
theorem prod_zero : prod16 0x11 (sq 0) (sq 0) zeroRows = List.replicate 128 (List.replicate 128 (0, {})) := by
  have h : accumulateRow 0x11 0 (rowBlocks (List.replicate 128 (elemOf (fmtA 0x11) (fmtFlush 0x11) 0) ++ List.replicate 16 none) [])
      (rowBlocks (List.replicate 128 (elemOf (fmtA 0x11) (fmtFlush 0x11) 0) ++ List.replicate 16 none) []) = (0, {}) := by decide +kernel
  simp only [prod16, transpose_zero, rowBlocks16, product, zeroRows, List.map_replicate, List.zip_replicate', h]
/-- Coefficients zero, a limit of 2, a bound of convergence of 1 and one of divergence of infinity. -/
def ks0 : List Nat := List.replicate 16 0 ++ [2, 0x3F800000, 0x7F800000]
theorem iter_zero : (iterNs 0x11 ks0 zeroRows).1 = [zeroRows] := by
  have hr : bits16 (rb16 0x11 zeroRows) = sq 0 := by decide +kernel
  have hv : vals16 (List.replicate 128 (List.replicate 128 (0, {}))) = zeroRows := by simp [vals16, zeroRows]
  have hz : ∀ (f : Nat × Nat → Nat × FFlags), f (0, 0) = (0, {}) → bits16 (((sq 0).zip (sq 0)).map (fun r => (r.1.zip r.2).map f)) = sq 0 := by
    intro f hf; simp [bits16, sq, hf]
  have hs : ∀ (f : W32 → W32 × FFlags), (f 0).1 = 0 → vals16 (zeroRows.map (fun r => r.map f)) = zeroRows := by
    intro f hf; simp only [vals16, zeroRows, List.map_replicate, hf]
  simp only [iterNs, hr, transpose_zero, prod_zero, hv]
  rw [hz, hs, prod_zero, hv]
  all_goals decide +kernel

theorem frob_nan (n x : List (List W32)) (a b : W32) (u v : List W32) (hn : n.flatten = a :: u) (hx : x.flatten = b :: v)
    (hb : (NumFmt.fp32.decode b.toNat).isNan = true) : frob2 n x = NumFmt.fp32.nanBits := by
  rw [frob2]
  simp only [hn, hx, List.zip_cons_cons, List.map_cons, List.any_cons, hb]
  simp

def qNs (nt : B1) : QEntry := { seq := 1, cmd := .rndNs 0 2 3 nt, fmt := 0x11, vals := ks0, sub := 4 }
def rndS (nt : B1) (ric : W32) (val : SMap W32) : State :=
  { tileOf { acc := SMap.set {} [] 2 { val := val }, ric := ric, q := { qs := [(6, [qNs nt])] } } with inp := { a := 0 } }

theorem witness_RoundaboutResults : (∀ nt ∈ [0, 1], ∀ ric ∈ [1, 2], ∀ v ∈ [[], [(0, 0x7FC00000)]],
      HeadsMatrix (rndS (BitVec.ofNat 1 nt) (BitVec.ofNat 32 ric) v) 0 (qNs (BitVec.ofNat 1 nt)) [] ∧
      (qNs (BitVec.ofNat 1 nt)).cmd = .rndNs 0 2 3 (BitVec.ofNat 1 nt) ∧ (qNs (BitVec.ofNat 1 nt)).sub = 4 ∧
      SMap.wf false ((rndS (BitVec.ofNat 1 nt) (BitVec.ofNat 32 ric) v).tile 0).p = true) ∧
    (qNs 0).vals.getD 16 0 = 2 ∧ ((rndS 0 1 []).tile 0).ric = 1 ∧ ((rndS 0 2 []).tile 0).ric = 2 ∧ (3 : B4) ≠ 0 := by decide +kernel
theorem witness_RoundaboutResults_limit : Rounds (qNs 0) 0 3 0 [2] 2 true ∧ Rounds (qNs 1) 0 3 1 [2] 2 true :=
  ⟨Or.inl ⟨2, rfl, rfl, rfl, rfl⟩, Or.inl ⟨2, rfl, rfl, rfl, rfl⟩⟩

/-- rnd.isr in course, and rnd.poly of degree 1 and of degree 0 as it begins, on zero matrices. -/
def qIsr : QEntry := { qNs 0 with cmd := .rndIsr 0 2 1 3 0 }
def qPoly (n : B4) : QEntry := { qNs 0 with cmd := .rndPoly 0 1 2 n 3 0, sub := 7 }
def rndQ (q : QEntry) : State := { tileOf { acc := SMap.set {} [] 2 {}, ric := 1, q := { qs := [(6, [q])] } } with inp := { a := 0 } }
theorem witness_RoundaboutResults_others :
    (∀ q ∈ [qIsr, qPoly 1, qPoly 0], HeadsMatrix (rndQ q) 0 q [] ∧ (q.sub = 4 ∨ q.sub = 7) ∧ SMap.wf false ((rndQ q).tile 0).p = true) ∧
    (begun ((rndQ qIsr).tile 0) qIsr).ric = 1 ∧ (begun ((rndQ (qPoly 1)).tile 0) (qPoly 1)).ric = 0 := by decide +kernel
theorem witness_RoundaboutResults_rounds : Rounds qIsr 0 3 0 [2, 1] 2 true ∧ Rounds (qPoly 1) 0 3 0 [1] 1 false ∧ Rounds (qPoly 0) 0 3 0 [1] 0 false :=
  ⟨Or.inr (Or.inl ⟨2, 1, by decide, rfl, rfl, rfl, rfl⟩), Or.inr (Or.inr ⟨1, 2, 1, by decide, rfl, rfl, rfl, rfl⟩),
    Or.inr (Or.inr ⟨1, 2, 0, by decide, rfl, rfl, rfl, rfl⟩)⟩
theorem iter_isr : (iterIsr 0x11 ks0 zeroRows zeroRows).1 = [zeroRows, zeroRows] := by
  have hr : bits16 (rb16 0x11 zeroRows) = sq 0 := by decide +kernel
  have hv : vals16 (List.replicate 128 (List.replicate 128 (0, {}))) = zeroRows := by simp [vals16, zeroRows]
  have hp : ∀ b : Bool, pairRound 0x11 (NumFmt.fp32.decode (coef 0x11 (ks0.getD 0 0))) (.fin false (if b then 1 else 0) 0)
      (NumFmt.fp32.decode (coef 0x11 (ks0.getD 1 0))).neg (NumFmt.fp32.read (fmtFlush 0x11) (0 : W32).toNat) = (0, {}) := by decide +kernel
  have ht : bits16 (((span 0 128).zip zeroRows).map (fun r => ((span 0 128).zip r.2).map (fun x =>
      pairRound 0x11 (NumFmt.fp32.decode (coef 0x11 (ks0.getD 0 0))) (.fin false (if r.1 = x.1 then 1 else 0) 0)
        (NumFmt.fp32.decode (coef 0x11 (ks0.getD 1 0))).neg (NumFmt.fp32.read (fmtFlush 0x11) x.2.toNat)))) = sq 0 := by
    have hz : ∀ r ∈ (span 0 128).zip zeroRows, r.2 = List.replicate 128 0 := by
      intro r h; exact List.eq_of_mem_replicate (List.of_mem_zip h).2
    rw [List.map_congr_left (g := fun _ => List.replicate 128 (0, {}))]
    · decide +kernel
    · intro r h
      rw [hz r h, List.map_congr_left (g := fun _ => ((0 : Nat), ({} : FFlags)))]
      · decide +kernel
      · intro x hx
        have h0 : x.2 = (0 : W32) := List.eq_of_mem_replicate (List.of_mem_zip hx).2
        have := hp (decide (r.1 = x.1))
        simpa [h0] using this
  simp only [iterIsr, hr, prod_zero, hv]
  rw [ht, prod_zero, hv]
theorem witness_RoundaboutResults_isr :
    diverges qIsr (residual (begun ((rndQ qIsr).tile 0) qIsr) qIsr 2) (iteration (begun ((rndQ qIsr).tile 0) qIsr) qIsr).1 = false := by
  have hi : (iteration (begun ((rndQ qIsr).tile 0) qIsr) qIsr).1 = [zeroRows, zeroRows] := by
    show (iterIsr 0x11 ks0 (rowsOf []) (rowsOf [])).1 = _
    rw [rows_zero, iter_isr]
  have hr : residual (begun ((rndQ qIsr).tile 0) qIsr) qIsr 2 = 0 := by
    show frob2 ((iteration (begun ((rndQ qIsr).tile 0) qIsr) qIsr).1.headD []) (rowsOf []) = 0
    rw [hi, rows_zero]; exact frob_zero
  rw [hi, hr]; decide +kernel
theorem iter_poly (t : Tile) (n : Nat) : t.iter (qPoly 1) n =
    iterPoly 0x11 ks0 1 n (rowsOf (t.accOf 1).val) (rowsOf (t.accOf 2).val) := rfl
theorem witness_RoundaboutResults_poly : let t := begun ((rndQ (qPoly 1)).tile 0) (qPoly 1)
    diverges (qPoly 1) (residual t (qPoly 1) 1) (iteration t (qPoly 1)).1 = false := by
  have ha : rowsOf ((begun ((rndQ (qPoly 1)).tile 0) (qPoly 1)).accOf 1).val = zeroRows := by decide +kernel
  have hi : (iteration (begun ((rndQ (qPoly 1)).tile 0) (qPoly 1)) (qPoly 1)).1 = [zeroRows] := by
    have hb : rowsOf ((begun ((rndQ (qPoly 1)).tile 0) (qPoly 1)).accOf 2).val = zeroRows := by decide +kernel
    have hn : (begun ((rndQ (qPoly 1)).tile 0) (qPoly 1)).ric.toNat = 0 := by decide +kernel
    rw [iteration, iter_poly, hn, ha, hb]
    have hr : bits16 (rb16 0x11 zeroRows) = sq 0 := by decide +kernel
    have hd : diag (BitVec.ofNat 32 (coef 0x11 (ks0.getD (1 - 1 - 0) 0))) = zeroRows := by decide +kernel
    have hv : vals16 (List.replicate 128 (List.replicate 128 (0, {}))) = zeroRows := by simp [vals16, zeroRows]
    simp only [iterPoly, hr, hd, prod_zero, hv]
  have hr : residual (begun ((rndQ (qPoly 1)).tile 0) (qPoly 1)) (qPoly 1) 1 = 0 := by
    show frob2 ((iteration (begun ((rndQ (qPoly 1)).tile 0) (qPoly 1)) (qPoly 1)).1.headD []) _ = 0
    rw [hi, ha]; exact frob_zero
  intro t
  show diverges (qPoly 1) (residual (begun ((rndQ (qPoly 1)).tile 0) (qPoly 1)) (qPoly 1) 1)
    (iteration (begun ((rndQ (qPoly 1)).tile 0) (qPoly 1)) (qPoly 1)).1 = false
  rw [hi, hr]; decide +kernel

theorem witness_RoundaboutResults_goesOn :
    diverges (qNs 0) (residual ((rndS 0 1 []).tile 0) (qNs 0) 2) (iteration ((rndS 0 1 []).tile 0) (qNs 0)).1 = false := by
  have hi : (iteration ((rndS 0 1 []).tile 0) (qNs 0)).1 = [zeroRows] := by
    show (iterNs 0x11 ks0 (rowsOf [])).1 = _
    rw [rows_zero, iter_zero]
  have hr : residual ((rndS 0 1 []).tile 0) (qNs 0) 2 = 0 := by
    show frob2 ((iteration ((rndS 0 1 []).tile 0) (qNs 0)).1.headD []) (rowsOf []) = 0
    rw [hi, rows_zero]; exact frob_zero
  rw [hi, hr]; decide +kernel

theorem witness_RoundaboutResults_diverges :
    diverges (qNs 0) (residual ((rndS 0 1 [(0, 0x7FC00000)]).tile 0) (qNs 0) 2) (iteration ((rndS 0 1 [(0, 0x7FC00000)]).tile 0) (qNs 0)).1 = true := by
  have hn : ((iteration ((rndS 0 1 [(0, 0x7FC00000)]).tile 0) (qNs 0)).1.headD []).flatten.isEmpty = false := by decide +kernel
  have hx : (rowsOf [(0, (0x7FC00000 : W32))]).flatten.head? = some 0x7FC00000 := by decide +kernel
  obtain ⟨a, u, ha⟩ := List.exists_cons_of_ne_nil (fun h => by rw [h] at hn; exact absurd hn (by decide) :
    ((iteration ((rndS 0 1 [(0, 0x7FC00000)]).tile 0) (qNs 0)).1.headD []).flatten ≠ [])
  obtain ⟨v, hv⟩ := List.head?_eq_some_iff.mp hx
  have hr : residual ((rndS 0 1 [(0, 0x7FC00000)]).tile 0) (qNs 0) 2 = NumFmt.fp32.nanBits :=
    frob_nan _ _ _ _ _ _ ha hv (by decide +kernel)
  rw [hr, diverges]
  have h : (NumFmt.fp32.decode NumFmt.fp32.nanBits).isNan = true := by decide +kernel
  simp only [h, Bool.true_or]

end Sys2Proof.Tests
end

namespace Sys2Proof.Machine

open Sys2Proof Sys2Proof.Claims

/-! ## Bits of numbers and words -/

/-- Bit i of a field is bit lo + i of the register, within the field's width. -/
theorem testBit_fld (w hi lo i : Nat) : (fld w hi lo).testBit i = (decide (i < hi + 1 - lo) && w.testBit (lo + i)) := by
  simp only [fld, Nat.testBit_mod_two_pow, Nat.testBit_div_two_pow, Nat.add_comm]

/-- A number put above the low k bits of another keeps both. -/
theorem testBit_add_mul_two_pow {a k : Nat} (h : a < 2 ^ k) (b i : Nat) :
    (a + b * 2 ^ k).testBit i = if i < k then a.testBit i else b.testBit (i - k) := by
  rw [Nat.add_comm, Nat.mul_comm]
  exact Nat.testBit_two_pow_mul_add b h i

/-- The high part of a number with its low k bits replaced. -/
theorem testBit_div_mul_add {a k : Nat} (h : a < 2 ^ k) (w i : Nat) :
    (w / 2 ^ k * 2 ^ k + a).testBit i = if i < k then a.testBit i else w.testBit i := by
  rw [Nat.add_comm, testBit_add_mul_two_pow h, Nat.testBit_div_two_pow]
  split
  · rfl
  · rw [show i - k + k = i by omega]

/-! ## Fields of registers -/

theorem bitAt_eq_testBit (w i : Nat) : bitAt w i = w.testBit i := by
  rw [Nat.testBit_eq_decide_div_mod_eq]; rfl

theorem bitAt_toNat {n : Nat} (w : BitVec n) (i : Nat) : bitAt w.toNat i = w.getLsbD i := by
  rw [bitAt_eq_testBit, BitVec.testBit_toNat]

/-- The highest bit of a word of 32 bits. -/
theorem bitAt_top {v : Nat} (h : v < 2 ^ 32) : bitAt v 31 = decide (2 ^ 31 ≤ v) := by
  rw [bitAt_eq_testBit, Nat.testBit_eq_decide_div_mod_eq, decide_eq_decide]; omega

/-- A bit above every bit of a number is clear. -/
theorem bitAt_of_lt {v i : Nat} (h : v < 2 ^ i) : bitAt v i = false := by
  rw [bitAt_eq_testBit]; exact Nat.testBit_lt_two_pow h

/-- The lowest field of a register. -/
theorem fld_zero (w hi : Nat) : fld w hi 0 = w % 2 ^ (hi + 1) := by
  rw [fld, Nat.pow_zero, Nat.div_one, Nat.sub_zero]

/-- A register whose field [hi:lo] is replaced has the new bits there and its own elsewhere. -/
theorem testBit_setFld {hi lo : Nat} (h : lo ≤ hi) (w v i : Nat) :
    (setFld w hi lo v).testBit i = if lo ≤ i ∧ i ≤ hi then v.testBit (i - lo) else w.testBit i := by
  have hlow : w % 2 ^ lo < 2 ^ lo := Nat.mod_lt _ (Nat.two_pow_pos lo)
  have hmid : w % 2 ^ lo + v % 2 ^ (hi + 1 - lo) * 2 ^ lo < 2 ^ (hi + 1) := by
    have hv : v % 2 ^ (hi + 1 - lo) + 1 ≤ 2 ^ (hi + 1 - lo) := Nat.mod_lt _ (Nat.two_pow_pos _)
    have hmul := Nat.mul_le_mul_right (2 ^ lo) hv
    rw [← Nat.pow_add, Nat.sub_add_cancel (Nat.le_succ_of_le h), Nat.add_mul] at hmul
    omega
  rw [setFld, Nat.add_assoc, Nat.add_comm (_ * 2 ^ lo), testBit_div_mul_add hmid, testBit_add_mul_two_pow hlow,
    Nat.testBit_mod_two_pow, Nat.testBit_mod_two_pow]
  by_cases h1 : i < lo
  · simp [h1, Nat.not_le.mpr h1, show i < hi + 1 by omega]
  · by_cases h2 : i ≤ hi
    · simp [h1, h2, Nat.le_of_not_lt h1, show i < hi + 1 by omega, show i - lo < hi + 1 - lo by omega]
    · simp [h2, show ¬ i < hi + 1 by omega]

/-- A replaced field reads as it was replaced. -/
theorem fld_setFld_same {hi lo : Nat} (h : lo ≤ hi) (w v : Nat) : fld (setFld w hi lo v) hi lo = v % 2 ^ (hi + 1 - lo) := by
  apply Nat.eq_of_testBit_eq
  intro i
  rw [testBit_fld, testBit_setFld h, Nat.testBit_mod_two_pow]
  by_cases hi' : i < hi + 1 - lo
  · rw [if_pos (by omega), Nat.add_sub_cancel_left]
  · simp [hi']

/-- A field apart from the replaced one reads as before. -/
theorem fld_setFld_of_disjoint {hi lo hi' lo' : Nat} (h : lo ≤ hi) (hd : hi' < lo ∨ hi < lo') (w v : Nat) :
    fld (setFld w hi lo v) hi' lo' = fld w hi' lo' := by
  apply Nat.eq_of_testBit_eq
  intro i
  rw [testBit_fld, testBit_fld, testBit_setFld h]
  by_cases hi' : i < hi' + 1 - lo'
  · rw [if_neg (by omega)]
  · simp [hi']

theorem setFld_lt {w hi lo v n : Nat} (h : lo ≤ hi) (hw : w < 2 ^ n) (hn : hi < n) : setFld w hi lo v < 2 ^ n := by
  apply Nat.lt_pow_two_of_testBit
  intro i hi'
  rw [testBit_setFld h, if_neg (by omega)]
  exact Nat.testBit_lt_two_pow (Nat.lt_of_lt_of_le hw (Nat.pow_le_pow_right (by decide) hi'))

/-- Bit 31 put above a number of 31 bits is its field [31:31]. -/
theorem setFld_top {w : Nat} (h : w < 2 ^ 31) : w + 2 ^ 31 = setFld w 31 31 1 := by simp only [setFld]; omega

/-- The fields of a number held as a word. -/
theorem bits_ofNat {n hi : Nat} (h : hi < n) (x lo : Nat) : bits (BitVec.ofNat n x) hi lo = fld x hi lo := by
  show fld (BitVec.ofNat n x).toNat hi lo = _
  apply Nat.eq_of_testBit_eq
  intro i
  rw [testBit_fld, testBit_fld, BitVec.testBit_toNat, BitVec.getLsbD_ofNat]
  by_cases hi' : i < hi + 1 - lo
  · rw [show decide (lo + i < n) = true by simp; omega, Bool.true_and]
  · simp [hi']

/-- The field [hi:lo] in its place is the word under the field's mask. -/
theorem ofNat_fld_mul {w v hi lo : Nat} {m : BitVec w} (hm : ∀ i < w, m.getLsbD i = (decide (lo ≤ i) && decide (i ≤ hi))) :
    BitVec.ofNat w (fld v hi lo * 2 ^ lo) = BitVec.ofNat w v &&& m := by
  apply BitVec.eq_of_getLsbD_eq
  intro i hi'
  rw [BitVec.getLsbD_ofNat, BitVec.getLsbD_and, BitVec.getLsbD_ofNat, hm i hi', Nat.testBit_mul_two_pow, testBit_fld]
  by_cases h : lo ≤ i
  · rw [show lo + (i - lo) = i by omega, show decide (i - lo < hi + 1 - lo) = decide (i ≤ hi) by rw [decide_eq_decide]; omega]
    simp [h, Bool.and_left_comm, Bool.and_comm]
  · simp [h]

/-- The low k bits of a number are the word under their mask. -/
theorem ofNat_mod_two_pow {w v k : Nat} {m : BitVec w} (hm : ∀ i < w, m.getLsbD i = decide (i < k)) :
    BitVec.ofNat w (v % 2 ^ k) = BitVec.ofNat w v &&& m := by
  apply BitVec.eq_of_getLsbD_eq
  intro i hi
  rw [BitVec.getLsbD_ofNat, BitVec.getLsbD_and, BitVec.getLsbD_ofNat, hm i hi, Nat.testBit_mod_two_pow, Bool.and_comm (decide (i < k)),
    Bool.and_assoc]

/-- Sticky bits [hi:lo] in their place, cleared where a 1 is written: the old word under the field's mask and the complement. -/
theorem ofNat_cleared {n hi lo : Nat} {old m : BitVec n} {v : Nat}
    (hm : ∀ i < n, m.getLsbD i = (decide (lo ≤ i) && decide (i ≤ hi))) :
    BitVec.ofNat n ((fld old.toNat hi lo &&& (fld v hi lo ^^^ (2 ^ (hi + 1 - lo) - 1))) * 2 ^ lo) = old &&& m &&& ~~~BitVec.ofNat n v := by
  apply BitVec.eq_of_getLsbD_eq
  intro i hi'
  simp only [BitVec.getLsbD_ofNat, BitVec.getLsbD_and, BitVec.getLsbD_not, hm i hi', Nat.testBit_mul_two_pow, Nat.testBit_and,
    Nat.testBit_xor, testBit_fld, Nat.testBit_two_pow_sub_one, hi', decide_true, Bool.true_and, BitVec.testBit_toNat]
  by_cases h : lo ≤ i
  · rw [show lo + (i - lo) = i by omega, show decide (i - lo < hi + 1 - lo) = decide (i ≤ hi) by rw [decide_eq_decide]; omega]
    cases decide (i ≤ hi) <;> cases old.getLsbD i <;> cases v.testBit i <;> simp [h]
  · simp [h]

/-- Words under two masks without a common bit add as they join. -/
theorem add_eq_or_of_masks {w : Nat} {x y m n : BitVec w} (hx : x &&& m = x) (hy : y &&& n = y) (h : m &&& n = 0#w) : x + y = x ||| y := by
  apply BitVec.add_eq_or_of_and_eq_zero
  rw [← hx, ← hy, show (x &&& m) &&& (y &&& n) = (x &&& y) &&& (m &&& n) by ac_rfl, h, BitVec.and_zero]

/-- A mask met twice counts once. -/
theorem and_mask_again {w : Nat} (x m c : BitVec w) : x &&& m &&& c &&& m = x &&& m &&& c := by
  rw [BitVec.and_assoc, BitVec.and_comm c, ← BitVec.and_assoc, BitVec.and_assoc x, BitVec.and_self]

/-- A word under two masks without a common bit. -/
theorem and_add_and {w : Nat} {v m n : BitVec w} (h : m &&& n = 0#w) : (v &&& m) + (v &&& n) = v &&& (m ||| n) := by
  rw [add_eq_or_of_masks (by rw [BitVec.and_assoc, BitVec.and_self]) (by rw [BitVec.and_assoc, BitVec.and_self]) h,
    BitVec.and_or_distrib_left]

/-- A field in its place beside the low k bits is the word under the two masks. -/
theorem ofNat_fld_add {w v hi lo k : Nat} {m n : BitVec w} (hm : ∀ i < w, m.getLsbD i = (decide (lo ≤ i) && decide (i ≤ hi)))
    (hn : ∀ i < w, n.getLsbD i = decide (i < k)) (hd : m &&& n = 0#w) :
    BitVec.ofNat w (fld v hi lo * 2 ^ lo + v % 2 ^ k) = BitVec.ofNat w v &&& (m ||| n) := by
  rw [BitVec.ofNat_add, ofNat_fld_mul hm, ofNat_mod_two_pow hn, and_add_and hd]

end Sys2Proof.Machine

namespace Sys2Proof.Machine

open Sys2Proof Sys2Proof.Claims

/-! ## The format register and MSTS (R59, R80) -/

/-- fmt with its low 17 bits replaced, as a word. -/
theorem fmtRestore_eq (fmt : W32) (k : BitVec 17) : fmtRestore fmt k = (fmt &&& 0xFFFE0000#32) ||| k.zeroExtend 32 := by
  have hm : ∀ i < 32, (0xFFFE0000#32).getLsbD i = decide (17 ≤ i) := by decide
  apply BitVec.eq_of_getLsbD_eq
  intro i hi
  simp only [fmtRestore, BitVec.getLsbD_ofNat, testBit_div_mul_add k.isLt, BitVec.getLsbD_or, BitVec.getLsbD_and, hm i hi,
    BitVec.getLsbD_setWidth, hi, decide_true, Bool.true_and, BitVec.testBit_toNat]
  by_cases h : i < 17
  · simp [h]
  · simp [h, Nat.le_of_not_lt h, BitVec.getLsbD_of_ge]

/-- A program's write of fmt, as a word (R59). -/
theorem fmtWrite_eq (fmt : W32) (v : W64) : BitVec.ofNat 32 (fmtWrite fmt.toNat v.toNat) =
    (v.truncate 32 &&& 0x0001FFFF#32) ||| (fmt &&& 0x0F000000#32 &&& ~~~v.truncate 32) := by
  have hst := ofNat_cleared (hi := 27) (lo := 24) (old := fmt) (m := 0x0F000000#32) (v := v.toNat) (by decide)
  have hrw := ofNat_mod_two_pow (v := v.toNat) (k := 17) (m := 0x0001FFFF#32) (by decide)
  change BitVec.ofNat 32 (v.toNat % 2 ^ 17 + (fld fmt.toNat 27 24 &&& (fld v.toNat 27 24 ^^^ (2 ^ (27 + 1 - 24) - 1))) * 2 ^ 24) = _
  rw [BitVec.ofNat_add, hrw, hst, BitVec.ofNat_toNat]
  exact add_eq_or_of_masks (m := 0x0001FFFF#32) (n := 0x0F000000#32) (by rw [BitVec.and_assoc, BitVec.and_self])
    (and_mask_again ..) (by decide)

/-- A program's write of MSTS, as a word (R80). -/
theorem mstsWrite_eq (m : W32) (v : W64) : BitVec.ofNat 32 (mstsWrite m.toNat v.toNat) =
    (m &&& 0x000000E0#32) ||| (m &&& 0x0000001C#32 &&& ~~~v.truncate 32) := by
  have hst := ofNat_cleared (hi := 4) (lo := 2) (old := m) (m := 0x0000001C#32) (v := v.toNat) (by decide)
  have hwin := ofNat_fld_mul (v := m.toNat) (hi := 7) (lo := 5) (m := 0x000000E0#32) (by decide)
  change BitVec.ofNat 32 (fld m.toNat 7 5 * 2 ^ 5 + (fld m.toNat 4 2 &&& (fld v.toNat 4 2 ^^^ (2 ^ (4 + 1 - 2) - 1))) * 2 ^ 2) = _
  rw [BitVec.ofNat_add, hwin, hst, BitVec.ofNat_toNat, BitVec.ofNat_toNat, BitVec.setWidth_eq]
  exact add_eq_or_of_masks (m := 0x000000E0#32) (n := 0x0000001C#32) (by rw [BitVec.and_assoc, BitVec.and_self])
    (and_mask_again ..) (by decide)

/-! ## Scalar instructions of a thread that nothing holds -/

/-- A scalar instruction of a ready thread, with operands, role and place that allow it, runs its own effect. -/
theorem scalarOpIf_of_ready {s : State} {c : Ctx} {bad : Ctx → State → Bool} {i : Instr} {k : RoleClass} {pl : Place} {drain : Bool}
    {body : Ctx → State → Out} (h : Ready s c) (hb : bad c s = false) (hr : roleAllows c.gang.role k = true)
    (hp : placeOk c pl = true) (hd : drain = true → c.th.lq = []) : scalarOpIf bad i k pl drain body s = body c s := by
  obtain ⟨hc, hpark, hstop, hwait, hposted⟩ := h
  exact scalarOpIf_runs hc hpark hstop hwait (Ctx.dueFailures_nil hposted) hb hr hp hd

/-- The same for an instruction none of whose operand values is illegal. -/
theorem scalarOp_of_ready {s : State} {c : Ctx} {i : Instr} {k : RoleClass} {pl : Place} {drain : Bool}
    {body : Ctx → State → Out} (h : Ready s c) (hr : roleAllows c.gang.role k = true)
    (hp : placeOk c pl = true) (hd : drain = true → c.th.lq = []) : scalarOp i k pl drain body s = body c s :=
  scalarOpIf_of_ready h rfl hr hp hd

/-- A place on edge cores stands to a sub-gang's thread. -/
theorem placeOk_edge {c : Ctx} (h : c.isMgmt = false) : placeOk c .edge = true := by simp [placeOk, h]

/-- An instruction that keeps the PC in the thread it ends with goes on at PC + 4. -/
theorem State.finish_wentOn (s : State) {c : Ctx} {th : Thread} (h : th.pc = c.th.pc) : s.finish c th = .next (wentOn s c th) := by
  rw [State.finish_eq, h]; rfl

/-- A program's write of fmt or MSTS ends with the bits of this cycle set (R3). -/
theorem State.finish_keepHot (s : State) {c : Ctx} {th : Thread} (h : th.pc = c.th.pc) :
    s.finish c (s.keepHot c th) = .next (wentOn s c (hotKept s c th)) := State.finish_wentOn s h

/-- An instruction that writes x[D] alone. -/
theorem State.finish_setX (s : State) (c : Ctx) (d : B5) (v : W64) : s.finish c (c.th.setX d.toNat v) = .next (wrote s c d v) := by
  rw [State.finish_eq, Thread.setX_pc]; rfl

/-! ## fmt and the mask stack (R175, R190) -/

theorem exec_fmt {s : State} {c : Ctx} (h : Ready s c) (a : B5) : exec (.fmt a) s = .next (wentOn s c (hotKept s c { c.th with
    fmt := ((c.x a).truncate 32 &&& 0x0001FFFF#32) ||| (c.th.fmt &&& 0x0F000000#32 &&& ~~~(c.x a).truncate 32) })) := by
  show execFmt a s = _
  rw [execFmt, scalarOp_of_ready h rfl rfl (by simp), fmtWrite_eq]
  exact State.finish_keepHot s rfl

theorem exec_fmtImm {s : State} {c : Ctx} (h : Ready s c) (im : BitVec 17) : exec (.fmtImm im) s = .next (wentOn s c { c.th with
    fmt := (c.th.fmt &&& 0xFFFE0000#32) ||| im.zeroExtend 32 }) := by
  show execFmtImm im s = _
  rw [execFmtImm, scalarOp_of_ready h rfl rfl (by simp), ← fmtRestore_eq]
  exact State.finish_wentOn s rfl

theorem exec_mpush {s : State} {c : Ctx} (h : Ready s c) (he : c.isMgmt = false) (p : B3) (hq : c.th.lq = [])
    (hn : c.th.mstack.length < 16) : exec (.mpush p) s = .next (wentOn s c { c.th with
      mstack := (c.th.m, c.th.fmt.truncate 17) :: c.th.mstack, m := c.th.m &&& c.gang.getLp p.toNat }) := by
  show execMpush p s = _
  rw [execMpush, scalarOp_of_ready h rfl (placeOk_edge he) (fun _ => hq), if_neg (Nat.not_le.mpr hn), BitVec.ofNat_toNat]
  exact State.finish_wentOn s rfl

theorem exec_minv {s : State} {c : Ctx} (h : Ready s c) (he : c.isMgmt = false) {m : W32} {k : BitVec 17}
    {rest : List (W32 × BitVec 17)} (hm : c.th.mstack = (m, k) :: rest) : exec .minv s = .next (wentOn s c { c.th with
      m := m &&& ~~~c.th.m, fmt := (c.th.fmt &&& 0xFFFE0000#32) ||| k.zeroExtend 32 }) := by
  show execMinv s = _
  rw [execMinv, scalarOp_of_ready h rfl (placeOk_edge he) (by simp), ← fmtRestore_eq]
  simp only [hm]
  exact State.finish_wentOn s rfl

theorem exec_mpop {s : State} {c : Ctx} (h : Ready s c) (he : c.isMgmt = false) {m : W32} {k : BitVec 17}
    {rest : List (W32 × BitVec 17)} (hm : c.th.mstack = (m, k) :: rest) : exec .mpop s = .next (wentOn s c { c.th with
      m := m, mstack := rest, fmt := (c.th.fmt &&& 0xFFFE0000#32) ||| k.zeroExtend 32 }) := by
  show execMpop s = _
  rw [execMpop, scalarOp_of_ready h rfl (placeOk_edge he) (by simp), ← fmtRestore_eq]
  simp only [hm]
  exact State.finish_wentOn s rfl

/-- A target PC + 4 × displacement that is a number of 64 bits is the one the hardware computes. -/
theorem relTarget_eq {c : Ctx} {n t : Nat} {im : BitVec (n + 1)} (ht : (t : Int) = jumpPc c im.toInt) (hb : t < 2 ^ 64) :
    relTarget c.th.pc (n + 1) im.toNat = t := by
  have : (c.th.pc.toNat : Int) + 4 * sx (n + 1) im.toNat = t := by rw [sx_eq_toInt, ht]; rfl
  rw [relTarget, this, wrapN]
  omega

/-- With the trace of its unit off, a branch that falls through changes its thread alone. -/
theorem State.fellThrough_untraced {s : State} {c : Ctx} (hu : Untraced s c) :
    (s.setTh c c.th.fellThrough).traceNext c = fellOn s c := by
  simp [State.traceNext, State.traceUnit, State.setTh_trc, hu, fellOn, Thread.fellThrough, Thread.advance]

theorem exec_bzM_falls {s : State} {c : Ctx} (h : Ready s c) (he : c.isMgmt = false) (im : BitVec 19) (hm : c.th.m ≠ 0)
    (hu : Untraced s c) : exec (.bzM im) s = .next (fellOn s c) := by
  show execBzM im s = _
  rw [execBzM, scalarOp_of_ready h rfl (placeOk_edge he) (by simp), if_neg hm, State.fellThrough_untraced hu]

theorem exec_bzM_takes {s : State} {c : Ctx} (h : Ready s c) (he : c.isMgmt = false) {im : BitVec 19} {t : Nat} (hm : c.th.m = 0)
    (hu : Untraced s c) (hb : s.codeLen c ≤ 2 ^ 32) (ht : (t : Int) = jumpPc c im.toInt) (hg : GoodTarget s c t) :
    ∃ sp : Spin, exec (.bzM im) s = .next (State.spinSwap (s.setTh c { c.th with pc := BitVec.ofNat 32 t, spin := sp }) c.ref.core) := by
  have hrel : relTarget c.th.pc 19 im.toNat = t := relTarget_eq ht (by have := hg.2; omega)
  refine ⟨(c.th.branchTaken t (s.timeOf c.part)).spin, ?_⟩
  show execBzM im s = _
  rw [execBzM, scalarOp_of_ready h rfl (placeOk_edge he) (by simp), if_pos hm]
  simp only [hrel, (s.targetOk_iff c t).mpr hg, if_true, State.takeBranch]
  rw [State.trace_off (by rw [State.setTh_trc]; exact hu), ← Thread.branchTaken_eq]
  simp [he]

/-- Settles O1, instruction by instruction. -/
theorem maskAndFormatResults : Obligations.MaskAndFormatResults := by
  intro s c h
  refine ⟨exec_fmt h, exec_fmtImm h, fun he => ⟨fun p => exec_mpush h he p, fun m k rest hm => ⟨exec_minv h he hm, exec_mpop h he hm⟩,
    fun im => exec_bzM_falls h he im, fun im t => exec_bzM_takes h he⟩⟩

end Sys2Proof.Machine

namespace Sys2Proof.Machine

open Sys2Proof Sys2Proof.Claims

/-! ## Control and status registers (R186) -/

/-- csr.rd of a number other than MEVT's writes what its register holds. -/
theorem exec_csrRd {s : State} {c : Ctx} (h : Ready s c) (d : B5) {n : BitVec 12} {v : Nat} (hd : n.toNat < 2 → c.th.lq = [])
    (hn : n.toNat ≠ 0x040) (hv : s.csrValue c n.toNat = some v) :
    exec (.csrRd d n) s = .next (wrote s c d (BitVec.ofNat 64 v)) := by
  show execCsrRd d n s = _
  rw [execCsrRd, scalarOp_of_ready h rfl rfl (by simpa using hd)]
  simp only [hv, State.csrPop, hn, if_false]
  exact State.finish_setX s c d _

/-- csr.rd of MEVT takes the oldest event off the list. -/
theorem exec_csrRd_mevt {s : State} {c : Ctx} (h : Ready s c) (hm : c.isMgmt = true) (d : B5) : exec (.csrRd d 0x040) s = .next (wrote
    (s.setMgmt c.hub { s.mgmt c.hub with events := (s.mgmt c.hub).events.drop 1 }) c d ((s.mgmt c.hub).events.headD 0)) := by
  show execCsrRd d 0x040 s = _
  have hv : s.csrValue c (0x040 : BitVec 12).toNat = some ((s.mgmt c.hub).events.headD 0).toNat := by simp [State.csrValue, hm]
  rw [execCsrRd, scalarOp_of_ready h rfl rfl (by simp)]
  simp only [hv, BitVec.ofNat_toNat, BitVec.setWidth_eq]
  exact State.finish_setX _ c d _

/-- DEPTHS as the sum of its four fields. -/
theorem Thread.depths_eq (th : Thread) :
    th.depths = th.mstack.length + 256 * th.rstack.length + 65536 * th.path.length + 16777216 * th.lq.length := by
  simp only [Thread.depths]; omega

/-- What the registers of the table hold, and that none of them is MEVT. -/
theorem csrTable_value : ∀ p ∈ csrTable, p.1.toNat ≠ 0x040 ∧ ∀ (s : State) (c : Ctx), s.csrValue c p.1.toNat = some (p.2 s c) := by
  simp [csrTable, State.csrValue, Thread.depths_eq]

/-- csr.wr of a register of the thread that takes the value. -/
theorem exec_csrWr {s : State} {c : Ctx} (h : Ready s c) (hr : c.gang.role = 0) (a : B5) {n : BitVec 12} {th : Thread}
    (hn : n.toNat ≠ 0x041) (hw : c.th.csrWrite n.toNat (c.x a) = some th) (hpc : th.pc = c.th.pc) :
    exec (.csrWr a n) s = .next (wentOn s c (hotKept s c th)) := by
  show execCsrWr a n s = _
  rw [execCsrWr, scalarOpIf_of_ready h (by simp [badCsrWrite, hw]) (by simp [roleAllows, hr]) rfl (by simp)]
  simp only [hn, false_and, if_false, hw]
  exact State.finish_keepHot s hpc

/-- What the registers of the table become, each with the PC as it was, and that none of them is MASID. -/
theorem csrWrites_value : ∀ p ∈ csrWrites, p.1.toNat ≠ 0x041 ∧ ∀ (th : Thread) (v : W64),
    th.csrWrite p.1.toNat v = some (p.2 th v) ∧ (p.2 th v).pc = th.pc := by
  simp [csrWrites, Thread.csrWrite, fmtWrite_eq, mstsWrite_eq, BitVec.ofNat_toNat]

/-- csr.wr of MASID on a management core takes four bits. -/
theorem exec_csrWr_masid {s : State} {c : Ctx} (h : Ready s c) (hr : c.gang.role = 0) (hm : c.isMgmt = true) (a : B5) :
    exec (.csrWr a 0x041) s =
      .next (wentOn (s.setMgmt c.hub { s.mgmt c.hub with masid := BitVec.ofNat 32 ((c.x a).toNat % 16) }) c c.th) := by
  show execCsrWr a 0x041 s = _
  rw [execCsrWr, scalarOpIf_of_ready h (by simp [badCsrWrite, hm]) (by simp [roleAllows, hr]) rfl (by simp),
    if_pos ⟨rfl, hm⟩]
  exact State.finish_wentOn _ rfl

/-- Settles O3: the reads by the table of what each register holds, the writes by the table of what each becomes. -/
theorem csrResults : Obligations.CsrResults := by
  refine ⟨fun p hp d s c h hd => ?_, fun p hp a s c h hr => ?_, fun a s c h hr ha => ?_, fun a s c h hr ha => ?_,
    fun d s c h hm => ⟨exec_csrRd_mevt h hm d, ?_, ?_⟩, fun d s c h => ⟨s.ginfo c, ?_⟩, fun a s c h hr hm => exec_csrWr_masid h hr hm a⟩
  · obtain ⟨hn, hv⟩ := csrTable_value p hp
    exact exec_csrRd h d hd hn (hv s c)
  · obtain ⟨hn, hv⟩ := csrWrites_value p hp
    exact exec_csrWr h hr a hn (hv c.th (c.x a)).1 (hv c.th (c.x a)).2
  · exact exec_csrWr h hr a (by decide) (by simp [Thread.csrWrite, ha]) rfl
  · exact exec_csrWr h hr a (by decide) (by simp [Thread.csrWrite, ha]) rfl
  · exact exec_csrRd h d (by simp) (by decide) (by simp [State.csrValue, hm])
  · exact exec_csrRd h d (by simp) (by decide) (by simp [State.csrValue, hm])
  · exact exec_csrRd h d (by simp) (by decide) rfl

end Sys2Proof.Machine

namespace Sys2Proof.Machine

open Sys2Proof Sys2Proof.Claims

/-! ## The machine at reset (R352) -/

/-- A device that has not started and lists no turn is due its cold start. -/
theorem State.due_coldStart {s : State} (ha : s.agenda = []) (hr : s.rota = []) (hb : fld s.bstat.toNat 2 0 = 0) :
    s.due = ({ dt := 1, act := .event .coldStart }, { s with agenda := [], rota := [] }) := by
  simp [State.due, ha, State.nextTurn, hr, State.round, hb]

/-- Without determinism and with no class pending, a turn that names a step runs it as the turn begins. -/
theorem step_event {s u : State} {t : Turn} {i : Instr} (hd : s.determ = false) (hdue : s.due = (t, u)) (hi : t.act = .event i)
    (hh : (u.begin t).eventHeld i = false) : step s = exec i (u.begin t) := by
  simp [step, State.turn, hd, hdue, State.runTurn, hi, hh]

theorem step_reset : step State.reset =
    exec .coldStart (State.reset.begin { dt := 1, act := .event .coldStart }) :=
  step_event (by decide) (State.due_coldStart rfl rfl (by decide)) rfl (by decide)

/-- Settles O29: what is reset is read off State.reset, and the step due is the cold start (`step_reset`). -/
theorem resetState : Obligations.ResetState := by
  refine ⟨rfl, rfl, rfl, rfl, rfl, rfl, rfl, rfl, fun p => ?_, fun n => ⟨rfl, rfl, rfl⟩, fun n => ⟨rfl, rfl⟩, fun d n => rfl,
    rfl, rfl, rfl, rfl, rfl, rfl, rfl, rfl, _, step_reset, rfl, by decide⟩
  have hp : State.reset.part p = {} := rfl
  rw [hp]
  exact ⟨rfl, by decide, by decide, rfl, rfl, rfl, rfl, by decide, rfl, rfl, rfl, fun q => ⟨rfl, rfl⟩⟩

end Sys2Proof.Machine

namespace Sys2Proof.Machine

open Sys2Proof Sys2Proof.Claims

/-! ## The map of the window (R341) -/

/-- An aligned access of a register's width finds it. -/
theorem regFind_eq {o n : Nat} {r : Reg} (h : regAt o = some (r, n)) (hn : n = 4 ∨ n = 8) (ho : o % n = 0) : regFind o n = some r := by
  rcases hn with rfl | rfl <;> simp [regFind, h, ho]

/-- The block of partition p stands at 1 MiB × (p + 1). -/
theorem regAt_partOff {p o : Nat} (hp : p < 8) (ho : o < 0x100000) : regAt (partOff p o) = partReg p o := by
  unfold regAt partOff
  rw [if_neg (by omega), if_neg (by omega), if_pos (by omega), show (0x100000 * (p + 1) + o) / 0x100000 - 1 = p by omega,
    show (0x100000 * (p + 1) + o) % 0x100000 = o by omega]

theorem regFind_partOff {p o n : Nat} {r : Reg} (hp : p < 8) (ho : o < 0x100000) (h : partReg p o = some (r, n))
    (hn : n = 4 ∨ n = 8) (ha : o % n = 0) : regFind (partOff p o) n = some r := by
  refine regFind_eq ((regAt_partOff hp ho).trans h) hn ?_
  rcases hn with rfl | rfl <;> (unfold partOff; omega)

/-- QCTL and QTAIL of queue q. -/
theorem partReg_qctl {p q : Nat} (hq : q < 256) : partReg p (0x40 * q + 8) = some (.queue p q 8, 4) := by
  unfold partReg
  rw [if_pos (by omega), show (0x40 * q + 8) % 0x40 = 8 by omega, show (0x40 * q + 8) / 0x40 = q by omega]
  rfl

theorem partReg_qtail {p q : Nat} (hq : q < 256) : partReg p (0x40 * q + 0x14) = some (.queue p q 0x14, 4) := by
  unfold partReg
  rw [if_pos (by omega), show (0x40 * q + 0x14) % 0x40 = 0x14 by omega, show (0x40 * q + 0x14) / 0x40 = q by omega]
  rfl

/-- A traced unit is one of 514. -/
theorem tracedUnit_lt {n : Nat} (h : tracedUnit n = true) : n < 514 := by
  unfold tracedUnit at h
  split at h
  · omega
  · simpa using h

theorem regAt_trbase {n : Nat} (h : tracedUnit n = true) : regAt (0x1000000 + 0x20 * n) = some (.trbase n, 8) := by
  have := tracedUnit_lt h
  unfold regAt
  rw [if_neg (by omega), if_neg (by omega), if_neg (by omega), if_pos (by omega)]
  simp only [show (0x1000000 + 0x20 * n - 0x1000000) / 0x20 = n by omega, show (0x1000000 + 0x20 * n) % 0x20 = 0 by omega, h]
  rfl

theorem regAt_trctl {n : Nat} (h : tracedUnit n = true) : regAt (0x1000000 + 0x20 * n + 8) = some (.trctl n, 4) := by
  have := tracedUnit_lt h
  unfold regAt
  rw [if_neg (by omega), if_neg (by omega), if_neg (by omega), if_pos (by omega)]
  simp only [show (0x1000000 + 0x20 * n + 8 - 0x1000000) / 0x20 = n by omega, show (0x1000000 + 0x20 * n + 8) % 0x20 = 8 by omega, h]
  rfl

theorem regAt_dlqctl {n : Nat} (h : n < 32) : regAt (0x3000000 + 4 * n) = some (.dlqctl n, 4) := by
  unfold regAt
  rw [if_neg (by omega), if_neg (by omega), if_neg (by omega), if_neg (by omega), if_neg (by omega), if_pos (by omega),
    show (0x3000000 + 4 * n - 0x3000000) / 4 = n by omega]

theorem regAt_rtab {id : Nat} (h : id < 4608) : regAt (0x4000000 + 4 * id) = some (.rtab id, 4) := by
  unfold regAt
  rw [if_neg (by omega), if_neg (by omega), if_neg (by omega), if_neg (by omega), if_neg (by omega), if_neg (by omega),
    if_pos (by omega), show (0x4000000 + 4 * id - 0x4000000) / 4 = id by omega]

/-! ## A management core's write (R342) -/

/-- A write reaches the register that it finds, when the mode has it. -/
theorem State.writeBy_reg {s : State} {h o n v : Nat} {r : Reg} (hw : Writes s h) (hf : regFind o n = some r)
    (ht : s.regThere r = true) (hr : r ≠ .dmode) : s.writeBy o n v = s.regSet r n v := by
  obtain ⟨hflag, hiss, hdet⟩ := hw
  simp [State.writeBy, hflag, hiss, State.regWrite, hf, ht, hr, hdet]

/-- A write where no register stands is ignored. -/
theorem State.writeBy_none {s : State} {h o n v : Nat} (hw : Writes s h) (hf : regFind o n = none) : s.writeBy o n v = s := by
  obtain ⟨hflag, hiss, _⟩ := hw
  simp [State.writeBy, hflag, hiss, State.regWrite, hf]

/-- A write in the block of a partition that the mode has. -/
theorem State.writeBy_part {s : State} {h p o n v : Nat} {r : Reg} (hw : Writes s h) (hp : p < 8) (hs : s.isPart p = true)
    (h1 : partReg p o = some (r, n)) (hr : r.part = some p) (ho : o < 0x100000) (hn : n = 4 ∨ n = 8) (ha : o % n = 0) :
    s.writeBy (partOff p o) n v = s.regSet r n v :=
  State.writeBy_reg hw (regFind_partOff hp ho h1 hn ha) (by simp [State.regThere, hr, hs]) (by rintro rfl; cases hr)

theorem exec_registerWrite {s : State} {h : Nat} (hw : Writes s h) :
    exec .registerWrite s = .next (s.writeBy s.inp.a s.inp.b s.inp.v.toNat) := by
  show execRegisterWrite s = _
  rw [execRegisterWrite, hw.1, if_neg (by decide)]

/-- REGISTER_WRITE of a register outside the partition blocks. -/
theorem exec_registerWrite_reg {s : State} {h o n : Nat} {r : Reg} (hw : Writes s h) (ha : s.inp.a = o ∧ s.inp.b = n)
    (hf : regFind o n = some r) (hp : r.part = none) (hr : r ≠ .dmode) :
    exec .registerWrite s = .next (s.regSet r n s.inp.v.toNat) := by
  obtain ⟨rfl, rfl⟩ := ha
  rw [exec_registerWrite hw, State.writeBy_reg hw hf (by simp [State.regThere, hp]) hr]

/-- REGISTER_WRITE of a register of a partition block. -/
theorem exec_registerWrite_part {s : State} {h p o n : Nat} {r : Reg} (hw : Writes s h)
    (hb : s.isPart p = true ∧ p < 8 ∧ s.inp.a = 0x100000 * (p + 1) + o ∧ s.inp.b = n)
    (h1 : partReg p o = some (r, n)) (hr : r.part = some p) (ho : o < 0x100000) (hn : n = 4 ∨ n = 8) (ha : o % n = 0) :
    exec .registerWrite s = .next (s.regSet r n s.inp.v.toNat) := by
  obtain ⟨hs, hp, hia, hib⟩ := hb
  rw [exec_registerWrite hw, hia, hib]
  exact congrArg _ (State.writeBy_part hw hp hs h1 hr ho hn ha)

/-! ## What each register takes (R3, R4) -/

/-- HFSTAT: a bit below 6 stays unless a 1 is written to it, and one set in this cycle ends set (R3, R343). -/
theorem hfstatWrite_getLsbD (hf : W32) (v : W64) (hot : Nat) {k : Nat} (hk : k < 32) :
    (BitVec.ofNat 32 (Nat.lor (Nat.land hf.toNat (Nat.xor (v.toNat % 64) 63)) hot)).getLsbD k =
      ((decide (k < 6) && hf.getLsbD k && !v.getLsbD k) || hot.testBit k) := by
  have h63 : ∀ i, (63 : Nat).testBit i = decide (i < 6) := Nat.testBit_two_pow_sub_one 6
  change (BitVec.ofNat 32 ((hf.toNat &&& (v.toNat % 2 ^ 6 ^^^ 63)) ||| hot)).getLsbD k = _
  simp only [BitVec.getLsbD_ofNat, hk, decide_true, Bool.true_and, Nat.testBit_or, Nat.testBit_and, Nat.testBit_xor,
    Nat.testBit_mod_two_pow, h63, BitVec.testBit_toNat]
  by_cases h : k < 6 <;> simp [h]

/-- A word register keeps the low bits that its mask names. -/
theorem lowBits32_eq {k : Nat} {m : W32} (hm : ∀ i < 32, m.getLsbD i = decide (i < k)) (v : W64) :
    BitVec.ofNat 32 (v.toNat % 2 ^ k) = v.truncate 32 &&& m := by
  rw [ofNat_mod_two_pow hm, BitVec.ofNat_toNat]

theorem lowBits64_eq {k : Nat} {m : W64} (hm : ∀ i < 64, m.getLsbD i = decide (i < k)) (v : W64) :
    BitVec.ofNat 64 (v.toNat % 2 ^ k) = v &&& m := by
  rw [ofNat_mod_two_pow hm, BitVec.ofNat_toNat, BitVec.setWidth_eq]

theorem State.regSet_vfmap (s : State) (n : Nat) (v : W64) :
    s.regSet .vfmap n v.toNat = { s with vfmap := v &&& 0xFFFFFFFFF } :=
  congrArg (fun x => { s with vfmap := x }) (lowBits64_eq (k := 36) (m := 0xFFFFFFFFF) (by decide) v)

theorem State.regSet_fabctl (s : State) (n : Nat) (v : W64) :
    s.regSet .fabctl n v.toNat = { s with fabctl := v.truncate 32 &&& 0x1F } :=
  congrArg (fun x => { s with fabctl := x }) (lowBits32_eq (k := 5) (m := 0x1F) (by decide) v)

theorem State.regSet_rtab (s : State) (id n : Nat) (v : W64) :
    s.regSet (.rtab id) n v.toNat = { s with rtab := SMap.set 0 s.rtab id (v.truncate 32 &&& 0x3FFFF) } :=
  congrArg (fun x => { s with rtab := SMap.set 0 s.rtab id x }) (lowBits32_eq (k := 18) (m := 0x3FFFF) (by decide) v)

theorem State.regSet_psched (s : State) (p n : Nat) (v : W64) :
    s.regSet (.psched p) n v.toNat = onlyPart s p { s.part p with psched := v.truncate 32 &&& 0xFFFFFF } :=
  congrArg (fun x => s.setPart p { s.part p with psched := x }) (lowBits32_eq (k := 24) (m := 0xFFFFFF) (by decide) v)

/-- A plain register keeps the field that its mask names. -/
theorem mask64_eq {hi lo : Nat} {m : W64} (hm : ∀ i < 64, m.getLsbD i = (decide (lo ≤ i) && decide (i ≤ hi))) (v : W64) :
    mask64 v.toNat hi lo = v &&& m := by
  rw [mask64, ofNat_fld_mul hm, BitVec.ofNat_toNat, BitVec.setWidth_eq]

theorem State.regSet_ptroot (s : State) (p n : Nat) (v : W64) :
    s.regSet (.ptroot p) n v.toNat = onlyPart s p { s.part p with ptroot := v &&& 0xFFFFFFFFF001 } := by
  have hv : mask64 v.toNat 47 12 + BitVec.ofNat 64 (v.toNat % 2 ^ 1) = v &&& (0xFFFFFFFFF000 ||| 1) := by
    rw [mask64_eq (m := 0xFFFFFFFFF000) (by decide), lowBits64_eq (m := 1) (by decide), and_add_and (by decide)]
  exact congrArg (fun x => s.setPart p { s.part p with ptroot := x }) hv

theorem State.regSet_pshad (s : State) (p n : Nat) (v : W64) :
    s.regSet (.pshad p) n v.toNat = onlyPart s p { s.part p with pshad := v &&& 0xFFFFFFF00000 } :=
  congrArg (fun x => s.setPart p { s.part p with pshad := x }) (mask64_eq (hi := 47) (lo := 20) (m := 0xFFFFFFF00000) (by decide) v)

theorem State.regSet_slbase (s : State) (p n : Nat) (v : W64) :
    s.regSet (.slbase p) n v.toNat = onlyPart s p { s.part p with slbase := v &&& 0x1FFFFFFFFFFFFE0 } :=
  congrArg (fun x => s.setPart p { s.part p with slbase := x }) (mask64_eq (hi := 56) (lo := 5) (m := 0x1FFFFFFFFFFFFE0) (by decide) v)

theorem State.regSet_trbase (s : State) (u n : Nat) (v : W64) :
    s.regSet (.trbase u) n v.toNat = s.setTrc u { s.trc u with base := v &&& 0x1FFFFFFFFFFF000 } :=
  congrArg (fun x => s.setTrc u { s.trc u with base := x }) (mask64_eq (hi := 56) (lo := 12) (m := 0x1FFFFFFFFFFF000) (by decide) v)

/-- What REGISTER_WRITE does to each plain register (R3, R4, R341, R342). -/
theorem registerWriteResults : RegisterWriteResults := by
  intro s h p hw
  refine ⟨fun hf => ?_, ?_, fun ha => ⟨_, exec_registerWrite_reg hw ha rfl rfl (by decide), fun k hk => hfstatWrite_getLsbD _ _ _ hk⟩,
    fun ha => ?_, fun ha => ?_, fun id hid ha => ?_, fun hb => ?_, fun hb => ?_, fun hb => ?_, fun hb => ?_, fun n hn ha => ?_⟩
  · rw [exec_registerWrite hw, State.writeBy_none hw hf]
  · rintro (ha | ha | ha | hb | hb)
    · exact exec_registerWrite_reg hw ha (r := .bstat) rfl rfl (by decide)
    · exact exec_registerWrite_reg hw ha (r := .devid) rfl rfl (by decide)
    · exact exec_registerWrite_reg hw ha (r := .drcnt) rfl rfl (by decide)
    · exact exec_registerWrite_part hw hb (r := .pcst p) rfl rfl (by decide) (.inl rfl) rfl
    · exact exec_registerWrite_part hw hb (r := .slcnt p) rfl rfl (by decide) (.inl rfl) rfl
  · rw [exec_registerWrite_reg hw ha (r := .vfmap) rfl rfl (by decide), State.regSet_vfmap]
  · rw [exec_registerWrite_reg hw ha (r := .fabctl) rfl rfl (by decide), State.regSet_fabctl]
  · rw [exec_registerWrite_reg hw ha (regFind_eq (regAt_rtab hid) (.inl rfl) (by omega)) rfl (by simp), State.regSet_rtab]
  · rw [exec_registerWrite_part hw hb (r := .psched p) rfl rfl (by decide) (.inl rfl) rfl, State.regSet_psched]
  · rw [exec_registerWrite_part hw hb (r := .ptroot p) rfl rfl (by decide) (.inr rfl) rfl, State.regSet_ptroot]
  · rw [exec_registerWrite_part hw hb (r := .pshad p) rfl rfl (by decide) (.inr rfl) rfl, State.regSet_pshad]
  · rw [exec_registerWrite_part hw hb (r := .slbase p) rfl rfl (by decide) (.inr rfl) rfl, State.regSet_slbase]
  · rw [exec_registerWrite_reg hw ha (regFind_eq (regAt_trbase hn) (.inr rfl) (by omega)) rfl (by simp), State.regSet_trbase]

end Sys2Proof.Machine

namespace Sys2Proof

/-- The second of two writes to one key of a canonical map stands. -/
theorem SMap.set_set_of_wf {α : Type} [DecidableEq α] {d : α} {m : SMap α} (k : Nat) (v w : α) (h : SMap.wf d m = true) :
    SMap.set d (SMap.set d m k v) k w = SMap.set d m k w := by
  by_cases hv : v = d
  · subst hv
    induction m with
    | nil => simp [SMap.set]
    | cons x t ih =>
      obtain ⟨k', v'⟩ := x
      simp only [SMap.wf, Bool.and_eq_true, bne_iff_ne, ne_eq] at h
      obtain ⟨⟨_, habove⟩, ht⟩ := h
      rcases Nat.lt_trichotomy k k' with hk | rfl | hk
      · simp [SMap.set, hk]
      · cases t with
        | nil => simp [SMap.set]
        | cons y u =>
          simp only [SMap.above, Bool.and_eq_true, decide_eq_true_eq] at habove
          simp [SMap.set, habove.1]
      · simp [SMap.set, Nat.lt_asymm hk, Nat.ne_of_gt hk, ih ht]
  · exact SMap.set_set m k w hv

end Sys2Proof

namespace Sys2Proof.Machine

open Sys2Proof Sys2Proof.Claims

theorem State.setPart_setPart {s : State} (h : SMap.wf {} s.parts = true) (p : Nat) (b b' : Part) :
    (s.setPart p b).setPart p b' = s.setPart p b' := by
  simp only [State.setPart, SMap.set_set_of_wf p b b' h]

/-! ## The named writes of a management core reach their registers -/

section
variable {s : State} {h : Nat} (hw : Writes s h)
include hw

/-- A named write at an offset of the block of partition inp.a. -/
theorem writes_part {i : Instr} {o : Nat} {r : Reg} (hi : exec i s = .next (s.writeBy (partOff s.inp.a o) 4 s.inp.v.toNat))
    (hp : s.inp.a < 8) (hs : s.isPart s.inp.a = true) (h1 : partReg s.inp.a o = some (r, 4)) (hr : r.part = some s.inp.a)
    (ho : o < 0x100000) (ha : o % 4 = 0) : exec i s = .next (s.regSet r 4 s.inp.v.toNat) := by
  rw [hi, State.writeBy_part hw hp hs h1 hr ho (.inl rfl) ha]

theorem exec_dmapWrite (hp : s.inp.a < 8) (hs : s.isPart s.inp.a = true) :
    exec .dmapWrite s = .next (s.dmapWrite s.inp.a s.inp.v.toNat) :=
  writes_part hw (r := .dmap s.inp.a) rfl hp hs rfl rfl (by decide) rfl

theorem exec_slctlWrite (hp : s.inp.a < 8) (hs : s.isPart s.inp.a = true) :
    exec .slctlWrite s = .next (s.slctlWrite s.inp.a s.inp.v.toNat) :=
  writes_part hw (r := .slctl s.inp.a) rfl hp hs rfl rfl (by decide) rfl

theorem exec_rctlWrite (hp : s.inp.a < 8) (hs : s.isPart s.inp.a = true) :
    exec .rctlWrite s = .next (s.rctlWrite s.inp.a s.inp.v.toNat) :=
  writes_part hw (r := .rctl s.inp.a) rfl hp hs rfl rfl (by decide) rfl

theorem exec_qctlWrite (hp : s.inp.a < 8) (hs : s.isPart s.inp.a = true) (hq : s.inp.b < 256) :
    exec .qctlWrite s = .next (s.queueWrite s.inp.a s.inp.b 0x08 s.inp.v.toNat) :=
  writes_part hw rfl hp hs (partReg_qctl hq) rfl (by omega) (by omega)

theorem exec_qtailWrite (hp : s.inp.a < 8) (hs : s.isPart s.inp.a = true) (hq : s.inp.b < 256) :
    exec .qtailWrite s = .next (s.queueWrite s.inp.a s.inp.b 0x14 s.inp.v.toNat) :=
  writes_part hw rfl hp hs (partReg_qtail hq) rfl (by omega) (by omega)

theorem exec_dlqctlWrite (hp : s.inp.a < 32) : exec .dlqctlWrite s = .next (s.dlqctlWrite s.inp.a s.inp.v.toNat) := by
  show execDlqctlWrite s = _
  rw [execDlqctlWrite, State.writeBy_reg hw (regFind_eq (regAt_dlqctl hp) (.inl rfl) (by omega)) rfl (by simp)]
  rfl

theorem exec_trctlWrite (hp : tracedUnit s.inp.a = true) : exec .trctlWrite s = .next (s.trctlWrite s.inp.a s.inp.v.toNat) := by
  show execTrctlWrite s = _
  rw [execTrctlWrite, State.writeBy_reg hw (regFind_eq (regAt_trctl hp) (.inl rfl) (by omega)) rfl (by simp)]
  rfl

end

/-! ## DMAP (R272) -/

/-- One bit of a word set. -/
theorem ofNat_setFld_bit (w : W32) {k : Nat} {m : W32} (hm : ∀ i < 32, m.getLsbD i = decide (i = k)) :
    BitVec.ofNat 32 (setFld w.toNat k k 1) = w ||| m := by
  apply BitVec.eq_of_getLsbD_eq
  intro i hi
  rw [BitVec.getLsbD_ofNat, testBit_setFld (Nat.le_refl k), BitVec.getLsbD_or, hm i hi, BitVec.testBit_toNat]
  by_cases h : i = k
  · subst h; simp [hi]
  · rw [if_neg (by omega)]; simp [hi, h]

/-- A write that names the partition's dies takes effect while the partition holds no context (R272). -/
theorem State.dmapWrite_takes {s : State} {p v : Nat} (hn : dmapNames s.mode p v = true) (hst : s.pcState p = 0 ∨ s.pcState p = 2)
    (hv : v < 2 ^ 9) : s.dmapWrite p v = onlyPart s p { s.part p with dmap := BitVec.ofNat 32 (setFld (s.part p).dmap.toNat 8 0 v) } := by
  have hf : fld v 8 0 = v := (fld_zero v 8).trans (Nat.mod_eq_of_lt hv)
  rcases hst with h | h <;> simp [State.dmapWrite, hn, h, bitAt_of_lt hv, hf, onlyPart]

/-- A write that names other dies sets MAP_ERR in this cycle and nothing else (R3, R272). -/
theorem State.dmapWrite_errs {s : State} {p v : Nat} (hn : dmapNames s.mode p v = false) (hv : v < 2 ^ 9) :
    s.dmapWrite p v = (onlyPart s p { s.part p with dmap := (s.part p).dmap ||| 0x200 }).heat (.mapErr p) 512 := by
  rw [← ofNat_setFld_bit (k := 9) (m := 0x200) _ (by decide)]
  simp [State.dmapWrite, hn, bitAt_of_lt hv, onlyPart]

/-! ## QCTL and QTAIL (R275, R276) -/

/-- QCTL below EN: PRIO as written, SIZE and FRUN from a register or from what is written. -/
def qctlWord (v src : Nat) : Nat := setFld (setFld (v % 8) 25 8 (fld src 25 8)) 7 4 (fld src 7 4)

theorem qctlWord_lt (v src : Nat) : qctlWord v src < 2 ^ 31 :=
  setFld_lt (by decide) (setFld_lt (by decide) (by omega) (by decide)) (by decide)

/-- The fields of QCTL with EN clear. -/
theorem bits_qctlWord (v src : Nat) : bits (BitVec.ofNat 32 (qctlWord v src)) 31 31 = 0 := by
  rw [bits_ofNat (by decide), fld, Nat.div_eq_of_lt (qctlWord_lt v src), Nat.zero_mod]

/-- A field below EN. -/
theorem bits_qctlWord_en {v src hi : Nat} (lo : Nat) (h : hi < 31) :
    bits (BitVec.ofNat 32 (qctlWord v src + 2 ^ 31)) hi lo = fld (qctlWord v src) hi lo := by
  rw [bits_ofNat (by omega), setFld_top (qctlWord_lt v src), fld_setFld_of_disjoint (by decide) (.inl h)]

theorem bits_qctlWord_top (v src : Nat) : bits (BitVec.ofNat 32 (qctlWord v src + 2 ^ 31)) 31 31 = 1 := by
  rw [bits_ofNat (by decide), setFld_top (qctlWord_lt v src), fld_setFld_same (by decide)]
  rfl

theorem fld_qctlWord_size (v src : Nat) : fld (qctlWord v src) 7 4 = fld src 7 4 := by
  rw [qctlWord, fld_setFld_same (by decide)]
  exact Nat.mod_mod _ _

theorem fld_qctlWord_frun (v src : Nat) : fld (qctlWord v src) 25 8 = fld src 25 8 := by
  rw [qctlWord, fld_setFld_of_disjoint (by decide) (by decide), fld_setFld_same (by decide)]
  exact Nat.mod_mod _ _

/-- A field apart from SIZE and FRUN is that of the low three bits written. -/
theorem fld_qctlWord_other {hi lo : Nat} (v src : Nat) (h1 : hi < 4 ∨ 7 < lo) (h2 : hi < 8 ∨ 25 < lo) :
    fld (qctlWord v src) hi lo = fld (v % 8) hi lo := by
  rw [qctlWord, fld_setFld_of_disjoint (by decide) h1, fld_setFld_of_disjoint (by decide) h2]

/-- Enabling a disabled queue empties its ring (R275). -/
theorem HwQueue.writeCtl_enable {q : HwQueue} {v : Nat} (he : q.en = false) (hb : bitAt v 31 = true) (hs : v / 16 % 16 ≤ 8) :
    q.badEnable v = false ∧ q.writeCtl v = { q with
      ctl := BitVec.ofNat 32 (qctlWord v v + 2 ^ 31), head := q.tail, arrivals := [], stat := q.stat &&& 0xC0 } := by
  have hbad : q.badEnable v = false := by
    have : ¬ 8 < fld v 7 4 := Nat.not_lt.mpr hs
    simp [HwQueue.badEnable, this]
  exact ⟨hbad, by simp [HwQueue.writeCtl, he, hb, hbad, qctlWord]⟩

/-- An enabled queue takes PRIO alone (R275). -/
theorem HwQueue.writeCtl_enabled {q : HwQueue} {v : Nat} (he : q.en = true) (hb : bitAt v 31 = true) :
    q.badEnable v = false ∧ q.writeCtl v = { q with ctl := BitVec.ofNat 32 (qctlWord v q.ctl.toNat + 2 ^ 31) } := by
  exact ⟨by simp [HwQueue.badEnable, he], by simp [HwQueue.writeCtl, he, hb, qctlWord]⟩

/-- A write with EN 0 disables the queue: the entries not read run nothing (R275). -/
theorem HwQueue.writeCtl_disable {q : HwQueue} {v : Nat} (hb : bitAt v 31 = false) :
    q.badEnable v = false ∧ q.writeCtl v = { q with
      ctl := BitVec.ofNat 32 (qctlWord v (if q.en then q.ctl.toNat else v)), arrivals := [] } := by
  refine ⟨by simp [HwQueue.badEnable, hb], ?_⟩
  cases he : q.en <;> simp [HwQueue.writeCtl, he, hb, qctlWord]

/-- A doorbell within the ring: the entries up to it arrive now, after those that have (R276, R287). -/
theorem HwQueue.writeTail_arrives {q : HwQueue} {v k : Nat} (he : q.en = true)
    (hn : (BitVec.ofNat 32 v - q.head).toNat ≤ 16 * 2 ^ fld q.ctl.toNat 7 4)
    (ha : q.arrivals.length ≤ (BitVec.ofNat 32 v - q.head).toNat) :
    q.badTail v = false ∧ q.writeTail v k = { q with
      tail := BitVec.ofNat 32 v, arrivals := q.arrivals ++ span k ((BitVec.ofNat 32 v - q.head).toNat - q.arrivals.length) } := by
  have hbad : q.badTail v = false := by rw [HwQueue.badTail, decide_eq_false (Nat.not_lt.mpr hn), Bool.and_false]
  exact ⟨hbad, by simp only [HwQueue.writeTail, he, hbad, List.take_of_length_le ha]; rfl⟩

/-- A doorbell past the ring disables the queue with QERR (R276). -/
theorem HwQueue.writeTail_errs {q : HwQueue} {v k : Nat} (he : q.en = true)
    (hn : 16 * 2 ^ fld q.ctl.toNat 7 4 < (BitVec.ofNat 32 v - q.head).toNat) :
    q.badTail v = true ∧ q.writeTail v k = ({ q with tail := BitVec.ofNat 32 v } : HwQueue).setQerr.disable := by
  have hbad : q.badTail v = true := by rw [HwQueue.badTail, he, decide_eq_true hn]; rfl
  exact ⟨hbad, by simp only [HwQueue.writeTail, he, hbad]; rfl⟩

/-- A write of QCTL that raises no error changes its queue alone. -/
theorem State.queueWrite_ctl {s : State} {p q v : Nat} {hq : HwQueue} (h : (s.hwq p q).badEnable v = false ∧ (s.hwq p q).writeCtl v = hq) :
    s.queueWrite p q 0x08 v = s.setHwq p q hq := by
  obtain ⟨hb, rfl⟩ := h
  simp [State.queueWrite, hb]

/-- A doorbell that raises no error changes its queue and the count of arrivals. -/
theorem State.queueWrite_tail {s : State} {p q v : Nat} {hq : HwQueue}
    (h : (s.hwq p q).badTail v = false ∧ (s.hwq p q).writeTail v s.seq = hq) :
    s.queueWrite p q 0x14 v = { s.setHwq p q hq with seq := s.seq + hq.arrivals.length } := by
  obtain ⟨hb, rfl⟩ := h
  simp [State.queueWrite, hb]

/-- One past the ring sets QERR in this cycle (R3, R276). -/
theorem State.queueWrite_badTail {s : State} {p q v : Nat} {hq : HwQueue}
    (h : (s.hwq p q).badTail v = true ∧ (s.hwq p q).writeTail v s.seq = hq) :
    s.queueWrite p q 0x14 v = { (s.heat (.qerr p q) 64).setHwq p q hq with seq := s.seq + hq.arrivals.length } := by
  obtain ⟨hb, rfl⟩ := h
  simp [State.queueWrite, hb]

/-- A queue disabled with QERR: EN is clear and the error stands. -/
theorem HwQueue.setQerr_disable_bits (q : HwQueue) :
    q.setQerr.disable.ctl.getLsbD 31 = false ∧ q.setQerr.disable.stat.getLsbD 6 = true := by
  simp [HwQueue.setQerr, HwQueue.disable]

/-! ## SLCTL, RCTL, DLQCTL and TRCTL (R286, R295, R311, R316) -/

theorem State.slctlWrite_ignored {s : State} {p v : Nat} (h : v % 32 < 4 ∨ 16 < v % 32) : s.slctlWrite p v = s := by
  rw [State.slctlWrite, fld_zero]; exact if_pos h

theorem State.slctlWrite_takes {s : State} {p v : Nat} (h1 : 4 ≤ v % 32) (h2 : v % 32 ≤ 16) :
    s.slctlWrite p v = onlyPart s p { s.part p with slctl := BitVec.ofNat 32 v &&& 0x8000001F } := by
  have hword := ofNat_fld_add (v := v) (hi := 31) (lo := 31) (k := 5) (m := (0x80000000 : W32)) (n := 0x1F) (by decide) (by decide)
    (by decide)
  rw [State.slctlWrite, fld_zero, if_neg (by omega)]
  exact congrArg (fun x => s.setPart p { s.part p with slctl := x }) hword

theorem State.dlqctlWrite_takes {s : State} {n v : Nat} (h : (s.dlq n).entries = []) :
    s.dlqctlWrite n v = s.setDlq n { s.dlq n with ctl := BitVec.ofNat 32 v &&& 0x87 } := by
  have hword := ofNat_fld_add (v := v) (hi := 7) (lo := 7) (k := 3) (m := (0x80 : W32)) (n := 7) (by decide) (by decide) (by decide)
  rw [State.dlqctlWrite, if_pos h]
  exact congrArg (fun x => s.setDlq n { s.dlq n with ctl := x }) hword

theorem State.dlqctlWrite_ignored {s : State} {n v : Nat} (h : (s.dlq n).entries ≠ []) : s.dlqctlWrite n v = s := if_neg h

/-- RCTL as a write leaves it: OVF is cleared by a 1 unless the device has set it in this cycle (R3, R316). -/
def rctlWord (s : State) (p v : Nat) : Nat :=
  fld v 7 3 * 8 + (if bitAt v 2 && s.hotBits (.ovf p) == 0 then 0 else fld (s.part p).rctl.toNat 2 2) * 4 + v % 4

theorem State.rctlWrite_reserved {s : State} {p v : Nat} (h : v % 4 = 3) : s.rctlWrite p v = s := by
  simp only [State.rctlWrite]
  rw [if_pos h]

theorem State.rctlWrite_unfit {s : State} {p v : Nat} (h0 : v % 4 ≠ 0) (h3 : v % 4 < 3)
    (hbad : fld v 7 3 < 16 ∨ (s.part p).rbase.toNat % 2 ^ fld v 7 3 ≠ 0) : s.rctlWrite p v = s := by
  simp only [State.rctlWrite]
  rw [if_neg (by omega), if_pos ⟨h0, by simpa using hbad⟩]

theorem State.rctlWrite_takes {s : State} {p v : Nat} (hwf : SMap.wf {} s.parts = true)
    (h : v % 4 = 0 ∨ (v % 4 < 3 ∧ 16 ≤ fld v 7 3 ∧ (s.part p).rbase.toNat % 2 ^ fld v 7 3 = 0)) :
    s.rctlWrite p v = onlyPart s p { s.part p with rctl := BitVec.ofNat 32 (rctlWord s p v) } := by
  simp only [State.rctlWrite]
  rw [if_neg (by omega), if_neg, State.setPart_setPart hwf, State.part_setPart hwf, if_pos rfl]
  · rfl
  · rintro ⟨h0, hbad⟩
    obtain h | ⟨_, hlog, hbase⟩ := h
    · exact h0 h
    · simp [hbase, Nat.not_lt.mpr hlog] at hbad

/-- The fields of RCTL after a write that is taken. -/
theorem bits_rctlWord (s : State) (p v : Nat) :
    bits (BitVec.ofNat 32 (rctlWord s p v)) 1 0 = v % 4 ∧ bits (BitVec.ofNat 32 (rctlWord s p v)) 7 3 = v / 8 % 32 ∧
      bits (BitVec.ofNat 32 (rctlWord s p v)) 2 2 =
        if v / 4 % 2 = 1 ∧ s.hotBits (.ovf p) = 0 then 0 else bits (s.part p).rctl 2 2 := by
  have hovf : (if bitAt v 2 && s.hotBits (.ovf p) == 0 then 0 else fld (s.part p).rctl.toNat 2 2) =
      if v / 4 % 2 = 1 ∧ s.hotBits (.ovf p) = 0 then 0 else bits (s.part p).rctl 2 2 := by
    simp [bitAt, bits, fld]
  have hlt : (if v / 4 % 2 = 1 ∧ s.hotBits (.ovf p) = 0 then 0 else bits (s.part p).rctl 2 2) < 2 := by
    split
    · decide
    · exact Nat.mod_lt _ (by decide)
  simp only [bits_ofNat (show 1 < 32 by decide), bits_ofNat (show 7 < 32 by decide), bits_ofNat (show 2 < 32 by decide), rctlWord, hovf]
  generalize (if v / 4 % 2 = 1 ∧ s.hotBits (.ovf p) = 0 then 0 else bits (s.part p).rctl 2 2) = ovf at hlt ⊢
  simp only [fld]
  omega

theorem State.trctlWrite_ignored {s : State} {n v : Nat} (h : v % 32 < 12 ∨ 30 < v % 32) : s.trctlWrite n v = s := by
  rw [State.trctlWrite, fld_zero]; exact if_pos h

/-- The fields of TRCTL that a write takes. -/
theorem trctlWord_eq (v : Nat) : BitVec.ofNat 32 (fld v 31 30 * 2 ^ 30 + v % 2 ^ (4 + 1)) = BitVec.ofNat 32 v &&& 0xC000001F :=
  ofNat_fld_add (m := 0xC0000000) (n := 0x1F) (by decide) (by decide) (by decide)

/-- A write that does not turn tracing on changes the control alone. -/
theorem State.trctlWrite_takes {s : State} {n v : Nat} (h1 : 12 ≤ v % 32) (h2 : v % 32 ≤ 30)
    (hon : (bitAt v 31 && !bitAt (s.trc n).ctl.toNat 31) = false) :
    s.trctlWrite n v = s.setTrc n { s.trc n with ctl := BitVec.ofNat 32 v &&& 0xC000001F } := by
  simp only [State.trctlWrite, hon, fld_zero, trctlWord_eq, Bool.or_false]
  rw [if_neg (by omega)]; rfl

/-! ### What tracing leaves alone (R311) -/

/-- A state without what the writes of a device's own unit touch: memory and its marks, the partitions' inputs, the links and the
trace blocks. -/
def State.besideTrace (s : State) : State :=
  { s with
    mem := [], bad := [], l2 := [], parts := [], remoteOps := [], inFlight := [], seq := 0, outFabric := [], drcnt := 0, traces := [] }

/-- A fold over states with a second component keeps what each of its steps keeps. -/
theorem foldl_fst_keeps {α β γ : Type} {g : State → γ} {f : State × β → α → State × β} (hf : ∀ a x, g (f a x).1 = g a.1) :
    ∀ (l : List α) (a : State × β), g (l.foldl f a).1 = g a.1
  | [], _ => rfl
  | x :: l, a => (foldl_fst_keeps hf l _).trans (hf a x)

theorem foldl_keeps {α γ : Type} {g : State → γ} {f : State → α → State} (hf : ∀ s x, g (f s x) = g s) :
    ∀ (l : List α) (s : State), g (l.foldl f s) = g s
  | [], _ => rfl
  | x :: l, s => (foldl_keeps hf l _).trans (hf s x)

theorem State.putBytes_besideTrace : ∀ (bs : List Byte) (s : State) (k : Nat), (s.putBytes k bs).besideTrace = s.besideTrace
  | [], _, _ => rfl
  | _ :: t, _, k => State.putBytes_besideTrace t _ (k + 1)

theorem State.remotePost_besideTrace (s : State) (who : Issuer) (sg dev pa : Nat) (bs : List Byte) (va : Nat) (marked : Bool) :
    (s.remotePost who sg dev pa bs va marked).besideTrace = s.besideTrace := by
  simp only [State.remotePost, State.sendNoted, State.sendPacket]
  split <;> rfl

theorem State.deferTable_besideTrace (s : State) (p k : Nat) (bs : List Byte) : (s.deferTable p k bs).besideTrace = s.besideTrace := by
  unfold State.deferTable
  refine foldl_keeps (fun u x => ?_) _ s
  rfl

theorem State.besideTrace_drcnt (s : State) (x : W64) : ({ s with drcnt := x } : State).besideTrace = s.besideTrace := rfl

theorem State.writeLoc_besideTrace {l : Loc} (hl : ∀ d pa, l ≠ .remote d pa) (s : State) (who : Issuer) (bs : List Byte) :
    (s.writeLoc who l bs).besideTrace = s.besideTrace := by
  cases l with
  | hbm k =>
    simp only [State.writeLoc]
    split
    · exact State.deferTable_besideTrace ..
    · exact State.putBytes_besideTrace bs s k
  | remote d pa => exact absurd rfl (hl d pa)
  | reg o => rfl

theorem State.writeOwn_besideTrace {s t : State} {n p va : Nat} {bs : List Byte} (h : s.writeOwn n p va bs = .ok t) :
    t.besideTrace = s.besideTrace := by
  unfold State.writeOwn at h
  split at h
  · cases h
  · cases h
    refine foldl_fst_keeps (fun a x => ?_) _ _
    simp only
    split
    · exact State.remotePost_besideTrace ..
    · rename_i hl
      exact State.writeLoc_besideTrace hl ..

theorem State.countErr_besideTrace (s : State) (e : MErr) : (s.countErr e).besideTrace = s.besideTrace := by
  unfold State.countErr
  split
  · exact State.besideTrace_drcnt s _
  · rfl

theorem State.putPacket_besideTrace (s : State) (n p : Nat) (ws : List Nat) : (s.putPacket n p ws).1.besideTrace = s.besideTrace := by
  unfold State.putPacket
  simp only
  split
  · rfl
  · split
    · exact State.countErr_besideTrace ..
    · rename_i h1
      split
      · exact State.countErr_besideTrace ..
      · rename_i h2
        exact (State.writeOwn_besideTrace h2).trans (State.writeOwn_besideTrace h1)

theorem State.putPackets_besideTrace (n p : Nat) : ∀ (ws : List (List Nat)) (s : State),
    (s.putPackets n p ws).1.besideTrace = s.besideTrace
  | [], _ => rfl
  | w :: ws, s => by
    have hp := State.putPacket_besideTrace s n p w
    unfold State.putPackets
    split
    · rename_i heq; rw [heq] at hp; exact (State.putPackets_besideTrace n p ws _).trans hp
    · exact hp

theorem State.traceRaw_besideTrace (s : State) (n p gs sub kind payload : Nat) (more : List Nat) (pos lpc : Nat) (edge f : Bool) :
    (s.traceRaw n p gs sub kind payload more pos lpc edge f).besideTrace = s.besideTrace := by
  unfold State.traceRaw
  extract_lets t edge' now dt d lost due sync
  split
  · rfl
  · have hl := State.putPackets_besideTrace n p lost s
    split <;> rename_i heq <;> rw [heq] at hl
    · exact hl
    · rename_i u
      have hs := (State.putPackets_besideTrace n p sync u).trans hl
      split <;> rename_i heq <;> rw [heq] at hs
      · exact hs
      · rename_i w
        have hd : (if due then w.setTrc n { w.trc n with lost := 0, needSync := false, sinceSync := 0 } else w).besideTrace =
            s.besideTrace := by split <;> exact hs
        simp only
        split
        · exact hd
        · exact (State.putPacket_besideTrace ..).trans hd

/-- The partition of a traced unit is none of what tracing changes. -/
theorem State.tracedPart_of_besideTrace {s t : State} (h : t.besideTrace = s.besideTrace) (n : Nat) : t.tracedPart n = s.tracedPart n := by
  show t.besideTrace.tracedPart n = s.besideTrace.tracedPart n
  rw [h]

/-- SYNC packets written one after another are all of the partition that the unit has at first. -/
theorem State.foldl_traceRaw_tracedPart (n p : Nat) (edge : Bool) : ∀ (l : List (Nat × Nat × Nat × Nat)) (s : State), s.tracedPart n = p →
    l.foldl (fun (u : State) x => u.traceRaw n (u.tracedPart n) x.1 x.2.1 1 0 [] x.2.2.1 x.2.2.2 edge true) s =
      l.foldl (fun (u : State) x => u.traceRaw n p x.1 x.2.1 1 0 [] x.2.2.1 x.2.2.2 edge true) s
  | [], _, _ => rfl
  | x :: l, s, h => by
    simp only [List.foldl_cons, h]
    exact State.foldl_traceRaw_tracedPart n p edge l _ ((State.tracedPart_of_besideTrace (State.traceRaw_besideTrace ..) n).trans h)

/-- Tracing comes on with a SYNC of every place of the unit (R312; log entry 74). -/
theorem State.trctlWrite_on {s : State} {n v : Nat} (h1 : 12 ≤ v % 32) (h2 : v % 32 ≤ 30)
    (hon : (bitAt v 31 && !bitAt (s.trc n).ctl.toNat 31) = true) :
    s.trctlWrite n v = (s.tracedAt n).foldl (fun (u : State) x =>
        u.traceRaw n (s.tracedPart n) x.1 x.2.1 1 0 [] x.2.2.1 x.2.2.2 (edgeUnit n) true)
      (s.setTrc n { s.trc n with ctl := BitVec.ofNat 32 v &&& 0xC000001F, needSync := true, run := 0 }) := by
  simp only [State.trctlWrite, hon, fld_zero, trctlWord_eq, Bool.or_true, if_true]
  rw [if_neg (by omega)]
  exact State.foldl_traceRaw_tracedPart n _ _ _ _ rfl

end Sys2Proof.Machine

namespace Sys2Proof.Machine

open Sys2Proof Sys2Proof.Claims

/-! ## The named writes, clause by clause -/

section
variable {s : State} {h : Nat} (hw : Writes s h)
include hw

/-- DMAP_WRITE of the partition's dies: the map changes and MAP_ERR stands (R272). -/
theorem exec_dmapWrite_takes (hp : s.inp.a < 8) (hs : s.isPart s.inp.a = true)
    (hn : dmapNames s.mode s.inp.a s.inp.v.toNat = true) (hst : s.pcState s.inp.a = 0 ∨ s.pcState s.inp.a = 2)
    (hv : s.inp.v.toNat < 2 ^ 9) : ∃ m : W32,
    exec .dmapWrite s = .next (onlyPart s s.inp.a { s.part s.inp.a with dmap := m }) ∧ bits m 8 0 = s.inp.v.toNat ∧
      bits m 31 9 = bits (s.part s.inp.a).dmap 31 9 := by
  refine ⟨_, by rw [exec_dmapWrite hw hp hs, State.dmapWrite_takes hn hst hv], ?_, ?_⟩
  · rw [bits_ofNat (by decide), fld_setFld_same (by decide)]
    exact Nat.mod_eq_of_lt hv
  · rw [bits_ofNat (by decide), fld_setFld_of_disjoint (by decide) (by decide)]
    rfl

section
variable (hp : s.inp.a < 8) (hs : s.isPart s.inp.a = true) (hq : s.inp.b < 256)
include hp hs hq

/-- QCTL_WRITE that raises no error changes its queue alone. -/
theorem exec_qctlWrite_eq {q : HwQueue} (h : (s.hwq s.inp.a s.inp.b).badEnable s.inp.v.toNat = false ∧
    (s.hwq s.inp.a s.inp.b).writeCtl s.inp.v.toNat = q) : exec .qctlWrite s = .next (s.setHwq s.inp.a s.inp.b q) := by
  rw [exec_qctlWrite hw hp hs hq, State.queueWrite_ctl h]

/-- QCTL_WRITE enables a disabled queue with an empty ring, every field as written (R275). -/
theorem exec_qctlWrite_enable (hv : s.inp.v.toNat < 2 ^ 32) (he : (s.hwq s.inp.a s.inp.b).ctl.getLsbD 31 = false)
    (h31 : 2 ^ 31 ≤ s.inp.v.toNat) (hsz : s.inp.v.toNat / 16 % 16 ≤ 8) : let v := s.inp.v.toNat
    let q := s.hwq s.inp.a s.inp.b
    ∃ m : W32, exec .qctlWrite s = .next (s.setHwq s.inp.a s.inp.b { q with
        ctl := m, head := q.tail, arrivals := [], stat := q.stat &&& 0xC0 }) ∧
      bits m 31 31 = 1 ∧ bits m 7 4 = v / 16 % 16 ∧ bits m 25 8 = v / 256 % 2 ^ 18 ∧ bits m 2 0 = v % 8 ∧
      bits m 30 26 = 0 ∧ bits m 3 3 = 0 := by
  intro v q
  have h31' : bitAt v 31 = true := by rw [bitAt_top hv]; exact decide_eq_true h31
  refine ⟨_, exec_qctlWrite_eq hw hp hs hq (HwQueue.writeCtl_enable ((bitAt_toNat _ _).trans he) h31' hsz), bits_qctlWord_top v v,
    (bits_qctlWord_en 4 (by decide)).trans (fld_qctlWord_size v v), (bits_qctlWord_en 8 (by decide)).trans (fld_qctlWord_frun v v),
    ?_, ?_, ?_⟩
  · rw [bits_qctlWord_en 0 (by decide), fld_qctlWord_other v v (by decide) (by decide)]
    simp only [fld]; omega
  · rw [bits_qctlWord_en 26 (by decide), fld_qctlWord_other v v (by decide) (by decide)]
    simp only [fld]; omega
  · rw [bits_qctlWord_en 3 (by decide), fld_qctlWord_other v v (by decide) (by decide)]
    simp only [fld]; omega

/-- QCTL_WRITE of an enabled queue changes its low three bits and leaves SIZE and FRUN (R275). -/
theorem exec_qctlWrite_enabled (hv : s.inp.v.toNat < 2 ^ 32) (he : (s.hwq s.inp.a s.inp.b).ctl.getLsbD 31 = true)
    (h31 : 2 ^ 31 ≤ s.inp.v.toNat) : let v := s.inp.v.toNat
    let q := s.hwq s.inp.a s.inp.b
    ∃ m : W32, exec .qctlWrite s = .next (s.setHwq s.inp.a s.inp.b { q with ctl := m }) ∧ bits m 2 0 = v % 8 ∧
      bits m 31 31 = 1 ∧ bits m 7 4 = bits q.ctl 7 4 ∧ bits m 25 8 = bits q.ctl 25 8 := by
  intro v q
  have h31' : bitAt v 31 = true := by rw [bitAt_top hv]; exact decide_eq_true h31
  refine ⟨_, exec_qctlWrite_eq hw hp hs hq (HwQueue.writeCtl_enabled ((bitAt_toNat _ _).trans he) h31'), ?_, bits_qctlWord_top v _,
    (bits_qctlWord_en 4 (by decide)).trans (fld_qctlWord_size v _), (bits_qctlWord_en 8 (by decide)).trans (fld_qctlWord_frun v _)⟩
  rw [bits_qctlWord_en 0 (by decide), fld_qctlWord_other v _ (by decide) (by decide)]
  simp only [fld]; omega

/-- QCTL_WRITE with EN 0 (R275). -/
theorem exec_qctlWrite_disable (hv : s.inp.v.toNat < 2 ^ 31) : ∃ m : W32, bits m 31 31 = 0 ∧
    exec .qctlWrite s = .next (s.setHwq s.inp.a s.inp.b { s.hwq s.inp.a s.inp.b with ctl := m, arrivals := [] }) := by
  have h31 : bitAt s.inp.v.toNat 31 = false := by
    rw [bitAt_top (by omega)]; exact decide_eq_false (Nat.not_le.mpr hv)
  exact ⟨_, bits_qctlWord _ _, exec_qctlWrite_eq hw hp hs hq (HwQueue.writeCtl_disable h31)⟩

/-- QTAIL_WRITE within the ring: the entries up to the tail arrive (R276, R287). -/
theorem exec_qtailWrite_arrives : let q := s.hwq s.inp.a s.inp.b
    let v := s.inp.v.toNat
    let n := (BitVec.ofNat 32 v - q.head).toNat
    q.ctl.getLsbD 31 = true → n ≤ 16 * 2 ^ bits q.ctl 7 4 → q.arrivals.length ≤ n → ∃ k : Nat,
      exec .qtailWrite s = .next { s.setHwq s.inp.a s.inp.b { q with
        tail := BitVec.ofNat 32 v, arrivals := q.arrivals ++ span s.seq (n - q.arrivals.length) } with seq := k } := by
  intro q v n he hn ha
  have harr := HwQueue.writeTail_arrives (k := s.seq) ((bitAt_toNat _ _).trans he) hn ha
  exact ⟨_, (exec_qtailWrite hw hp hs hq).trans (congrArg _ (State.queueWrite_tail harr))⟩

/-- QTAIL_WRITE past the ring: the queue is disabled with QERR, set in this cycle (R3, R276). -/
theorem exec_qtailWrite_errs : let q := s.hwq s.inp.a s.inp.b
    let v := s.inp.v.toNat
    q.ctl.getLsbD 31 = true → 16 * 2 ^ bits q.ctl 7 4 < (BitVec.ofNat 32 v - q.head).toNat → ∃ (t : State) (q' : HwQueue),
      exec .qtailWrite s = .next t ∧ t = { (s.heat (.qerr s.inp.a s.inp.b) 64).setHwq s.inp.a s.inp.b q' with seq := t.seq } ∧
      q'.ctl.getLsbD 31 = false ∧ q'.stat.getLsbD 6 = true ∧ q'.tail = BitVec.ofNat 32 v := by
  intro q v he hn
  have herr := HwQueue.writeTail_errs (k := s.seq) ((bitAt_toNat _ _).trans he) hn
  obtain ⟨hctl, hstat⟩ := HwQueue.setQerr_disable_bits { q with tail := BitVec.ofNat 32 v }
  exact ⟨_, _, (exec_qtailWrite hw hp hs hq).trans (congrArg _ (State.queueWrite_badTail herr)), rfl, hctl, hstat, rfl⟩

end

/-- TRCTL_WRITE with a ring size that the trace has (R311). -/
theorem exec_trctlWrite_size (hv : s.inp.v.toNat < 2 ^ 32) (hu : tracedUnit s.inp.a = true) (h1 : 12 ≤ s.inp.v.toNat % 32)
    (h2 : s.inp.v.toNat % 32 ≤ 30) : let t := s.trc s.inp.a
    let on := { t with ctl := BitVec.ofNat 32 s.inp.v.toNat &&& 0xC000001F }
    (s.inp.v.toNat < 2 ^ 31 ∨ t.ctl.getLsbD 31 = true → exec .trctlWrite s = .next (s.setTrc s.inp.a on)) ∧
    (2 ^ 31 ≤ s.inp.v.toNat → t.ctl.getLsbD 31 = false → exec .trctlWrite s = .next ((s.tracedAt s.inp.a).foldl (fun (u : State) x =>
      u.traceRaw s.inp.a (s.tracedPart s.inp.a) x.1 x.2.1 1 0 [] x.2.2.1 x.2.2.2 (edgeUnit s.inp.a) true)
      (s.setTrc s.inp.a { on with needSync := true, run := 0 }))) := by
  intro t on
  have h31 : (bitAt s.inp.v.toNat 31 && !bitAt t.ctl.toNat 31) = (decide (2 ^ 31 ≤ s.inp.v.toNat) && !t.ctl.getLsbD 31) := by
    rw [bitAt_top hv, bitAt_toNat]
  rw [exec_trctlWrite hw hu]
  refine ⟨fun h => ?_, fun hon hoff => ?_⟩
  · rw [State.trctlWrite_takes h1 h2]
    rw [h31]
    rcases h with h | h
    · rw [decide_eq_false (Nat.not_le.mpr h), Bool.false_and]
    · rw [h, Bool.not_true, Bool.and_false]
  · rw [State.trctlWrite_on h1 h2]
    rw [h31, decide_eq_true hon, hoff]; rfl

end

/-- What the named writes do to the control registers (R272, R275, R276, R286, R295, R311, R316). -/
theorem controlRegisterResults : ControlRegisterResults := by
  intro s h hw v p
  have hval : s.inp.v.toNat < 2 ^ 32 → v = s.inp.v.toNat := Nat.mod_eq_of_lt
  have hpa : p = s.inp.a := rfl
  clear_value v p
  subst hpa
  refine ⟨fun hv hp hs hwf => ?_, fun hv hp => ?_, fun hv hu => ?_⟩ <;> obtain rfl := hval hv
  · have hslctl := exec_slctlWrite hw hp hs
    have hrctl := exec_rctlWrite hw hp hs
    refine ⟨fun hn _ hst h9 => exec_dmapWrite_takes hw hp hs hn hst (by omega), fun hn h9 => ?_, fun q hq hb => ?_, fun hr => ?_,
      fun h1 h2 => ?_, fun h3 => ?_, fun hr => ?_, fun h0 h3 hbad => ?_⟩
    · rw [exec_dmapWrite hw hp hs, State.dmapWrite_errs hn (by omega)]
    · subst hb
      refine ⟨exec_qctlWrite_enable hw hp hs hq hv, exec_qctlWrite_enabled hw hp hs hq hv, exec_qctlWrite_disable hw hp hs hq,
        exec_qtailWrite_arrives hw hp hs hq, exec_qtailWrite_errs hw hp hs hq⟩
    · rw [hslctl, State.slctlWrite_ignored hr]
    · rw [hslctl, State.slctlWrite_takes h1 h2]
    · rw [hrctl, State.rctlWrite_reserved h3]
    · exact ⟨_, by rw [hrctl, State.rctlWrite_takes hwf hr], bits_rctlWord s s.inp.a s.inp.v.toNat⟩
    · rw [hrctl, State.rctlWrite_unfit (by omega) h3 hbad]
  · exact ⟨fun he => by rw [exec_dlqctlWrite hw hp, State.dlqctlWrite_takes he],
      fun he => by rw [exec_dlqctlWrite hw hp, State.dlqctlWrite_ignored he]⟩
  · exact ⟨fun hr => by rw [exec_trctlWrite hw hu, State.trctlWrite_ignored hr], fun h1 h2 => exec_trctlWrite_size hw hv hu h1 h2⟩

/-- Settles O49: the plain registers of the window, then the control registers. -/
theorem registerWindowResults : Obligations.RegisterWindowResults := ⟨registerWriteResults, controlRegisterResults⟩

end Sys2Proof.Machine

namespace Sys2Proof

/-! ## Spans, sorted lists and association lists -/

/-- The numbers of a span are those of the library's range. -/
theorem span_eq_range' : ∀ a n : Nat, span a n = List.range' a n
  | _, 0 => rfl
  | a, n + 1 => by rw [span, span_eq_range' (a + 1) n, List.range'_succ]

/-- The numbers of a span. -/
theorem mem_span {a n k : Nat} : k ∈ span a n ↔ a ≤ k ∧ k < a + n := by
  rw [span_eq_range', List.mem_range'_1]

theorem mem_insBy {α : Type} {key : α → Nat} {x a : α} : ∀ {l : List α}, a ∈ insBy key x l ↔ a = x ∨ a ∈ l
  | [] => by simp [insBy]
  | h :: t => by
    rw [insBy]
    split
    · exact List.mem_cons
    · rw [List.mem_cons, mem_insBy, List.mem_cons, or_left_comm]

/-- Sorting keeps the elements of a list. -/
theorem mem_sortBy {α : Type} {key : α → Nat} {l : List α} {a : α} : a ∈ sortBy key l ↔ a ∈ l := by
  have hfold : ∀ (l acc : List α), a ∈ l.foldl (fun acc x => insBy key x acc) acc ↔ a ∈ l ∨ a ∈ acc := by
    intro l
    induction l with
    | nil => simp
    | cons x l ih =>
      intro acc
      rw [List.foldl_cons, ih, mem_insBy, List.mem_cons]
      tauto
  rw [sortBy, hfold]
  simp

/-- What an association list answers stands in it. -/
theorem mem_of_alGet {α : Type} {k : Nat} {v : α} : ∀ {l : List (Nat × α)}, alGet l k = some v → (k, v) ∈ l
  | (k', v') :: t, h => by
    rw [alGet] at h
    split at h
    · rename_i hk
      exact List.mem_cons.mpr (.inl (Prod.ext hk (Option.some.inj h).symm))
    · exact List.mem_cons_of_mem _ (mem_of_alGet h)

end Sys2Proof

namespace Sys2Proof.Machine

open Sys2Proof Sys2Proof.Claims

/-! ## What the flash and the fuses let start (R349, R353) -/

/-- The place of a digest among the fused ones that are not revoked. -/
theorem Fuses.any_digest_iff (f : Fuses) (x : List Byte) : ((f.digests.zip (span 0 4)).any (fun d => d.1 == x && !bitAt f.revoked d.2)) = true ↔
    ∃ k < 4, f.digests[k]? = some x ∧ f.revoked.testBit k = false := by
  have hs : ∀ k j, (span 0 4)[k]? = some j ↔ k < 4 ∧ j = k := by
    intro k j
    rw [span_eq_range', List.getElem?_eq_some_iff]
    simp [eq_comm]
  simp only [List.any_eq_true, List.mem_iff_getElem?, List.getElem?_zip_eq_some, hs, bitAt_eq_testBit, Bool.and_eq_true, beq_iff_eq,
    Bool.not_eq_true', Prod.exists]
  constructor
  · rintro ⟨x, j, ⟨k, hx, hk, rfl⟩, rfl, hr⟩
    exact ⟨j, hk, hx, hr⟩
  · rintro ⟨k, hk, hx, hr⟩
    exact ⟨x, k, ⟨k, hx, hk, rfl⟩, rfl, hr⟩

/-- An image is let run when it is signed under a fused key that is not revoked and is no older than the fuses allow. -/
theorem Fuses.refuses_eq_none_iff (f : Fuses) (i : Image) : f.refuses i = none ↔
    i.signed = true ∧ f.minVersion ≤ i.version ∧ ∃ k < 4, f.digests[k]? = some i.digest ∧ f.revoked.testBit k = false := by
  rw [← f.any_digest_iff i.digest, Fuses.refuses]
  cases i.signed <;> cases (f.digests.zip (span 0 4)).any _ <;> simp [BitVec.not_lt]

/-- An image is refused with REASON 1, or with REASON 2 for its age. -/
theorem Fuses.refuses_eq_some {f : Fuses} {i : Image} {r : Nat} (h : f.refuses i = some r) : r = 1 ∨ (r = 2 ∧ i.version < f.minVersion) := by
  unfold Fuses.refuses at h
  split at h
  · exact .inl (Option.some.inj h).symm
  · split at h
    · exact .inr ⟨(Option.some.inj h).symm, ‹_›⟩
    · cases h

theorem BootCfg.ok_iff (b : BootCfg) : b.ok = true ↔ ConfigOk b := by
  simp [BootCfg.ok, and_assoc]

/-- Verified images leave the configuration alone to fail a start. -/
theorem State.flashFault_of_verified {s : State} (h : Verified s) : s.flashFault = if s.flash.ok then none else some 7 := by
  have hnone : [s.images.manifest, s.images.firmware, s.images.hub].findSome? s.fuses.refuses = none :=
    List.findSome?_eq_none_iff.mpr (fun i hi => (s.fuses.refuses_eq_none_iff i).mpr (h i hi))
  rw [State.flashFault, hnone]

/-- An image that does not verify fails every attempt, with REASON 1 when every image is new enough. -/
theorem State.flashFault_of_unverified {s : State} (h : ¬ Verified s) : ∃ r : Nat, s.flashFault = some r ∧
    ((∀ i ∈ [s.images.manifest, s.images.firmware, s.images.hub], s.fuses.minVersion ≤ i.version) → r = 1) ∧ (r = 1 ∨ r = 2) := by
  have hsome : [s.images.manifest, s.images.firmware, s.images.hub].findSome? s.fuses.refuses ≠ none := fun hn =>
    h (fun i hi => (s.fuses.refuses_eq_none_iff i).mp (List.findSome?_eq_none_iff.mp hn i hi))
  obtain ⟨r, hr⟩ := Option.ne_none_iff_exists'.mp hsome
  obtain ⟨i, hi, hri⟩ := List.exists_of_findSome?_eq_some hr
  refine ⟨r, by rw [State.flashFault, hr], fun hv => ?_, (Fuses.refuses_eq_some hri).imp_right And.left⟩
  exact (Fuses.refuses_eq_some hri).resolve_right (fun hold => BitVec.not_lt.mpr (hv i hi) hold.2)

/-! ## What a start leaves (R22, R352, R353) -/

/-- What outlives every start holds no work and no translation. -/
theorem State.bare_fresh (s : State) : Fresh s.bare :=
  ⟨rfl, rfl, rfl, rfl, rfl, rfl, rfl, rfl, rfl, rfl, rfl, rfl, rfl, rfl, rfl, rfl, rfl, rfl, rfl, rfl, rfl, rfl⟩

/-- A device held in recovery. -/
theorem State.recovery_held (s : State) (reason : Nat) {scrubbing : Bool} (h : bits s.bstat 2 0 = 0) :
    Fresh (s.recovery reason scrubbing) ∧ Held (s.recovery reason scrubbing) reason := by
  have hfld : fld s.bstat.toNat 2 0 = 0 := h
  rw [State.recovery, if_pos (.inr hfld)]
  refine ⟨s.bare_fresh, rfl, rfl, ?_, ?_, ?_⟩ <;> rw [bits_ofNat (by decide), fld] <;> omega

/-- DMODE of a start above each of its fields. -/
theorem startDmode_div {c p f d : Nat} (hc : c < 3) (hp : p < 4) (hf : f < 2) (hd : d < 2) :
    let w := c * 2 ^ 10 + c * 2 ^ 8 + p * 2 ^ 4 + f * 2 ^ 2 + d * 2 + d
    w / 2 ^ 10 = c ∧ w / 2 ^ 8 = 5 * c ∧ w / 2 ^ 6 = 20 * c ∧ w / 2 ^ 4 = 80 * c + p ∧ w / 2 ^ 2 = 320 * c + 4 * p + f ∧
      w / 2 ^ 1 = 640 * c + 8 * p + 2 * f + d := by
  omega

section
variable {s : State} (hv : s.inp.v = 0) (determ : Nat) (warm scrubbed : Bool)
include hv

/-- No port has failed its training. -/
theorem State.portsDown_eq_nil : (span 0 18).filter (bitAt s.inp.v.toNat) = [] := by
  rw [hv]; rfl

/-- A start whose ports have all trained leaves memory, its marks and its keys, and what was fresh. -/
theorem State.startUp_keeps : (s.startUp determ warm scrubbed).mem = s.mem ∧ (s.startUp determ warm scrubbed).bad = s.bad ∧
    (s.startUp determ warm scrubbed).keyGen = s.keyGen ∧ (s.startUp determ warm scrubbed).memEpoch = s.memEpoch ∧
    (Fresh s → Fresh (s.startUp determ warm scrubbed)) := by
  simp only [State.startUp, State.portsDown_eq_nil hv, if_true]
  exact ⟨trivial, trivial, trivial, trivial, id⟩

/-- Both management cores stand at the first instruction of the firmware. -/
theorem State.startUp_booted : Booted (s.startUp determ warm scrubbed) s.images.firmware.bytes.length := by
  simp only [State.startUp, State.portsDown_eq_nil hv, if_true]
  refine ⟨rfl, fun h hh => ?_⟩
  have hm : SMap.get {} (SMap.set {} (SMap.set {} [] 0 (bootMgmt s.firmware)) 1 (bootMgmt s.firmware)) h = bootMgmt s.firmware := by
    rw [SMap.get_set (SMap.wf_set rfl), SMap.get_set rfl]
    obtain rfl | rfl : h = 0 ∨ h = 1 := by omega
    all_goals rfl
  rw [State.mgmt, hm]
  exact ⟨rfl, rfl, rfl, rfl⟩

/-- The registers of a well-formed configuration are in force. -/
theorem State.startUp_configured (hc : ConfigOk s.flash) (hd : determ < 2) : Configured (s.startUp determ warm scrubbed) s.flash determ := by
  obtain ⟨hid, hcl, hp, hf, -⟩ := hc
  obtain ⟨h10, h8, h6, h4, h2, h1⟩ := startDmode_div hcl hp hf hd
  simp only [State.startUp, State.portsDown_eq_nil hv, if_true]
  refine ⟨?_, ?_, ?_, ?_, ?_, ?_, ?_, rfl, ?_, rfl, rfl⟩
  case refine_8 => rw [BitVec.toNat_ofNat]; omega
  all_goals
    rw [startDmode, bits_ofNat (by decide), fld]
    omega

/-- BSTAT tells how the device has started, and the five measurements are taken. -/
theorem State.startUp_status : (s.startUp determ warm scrubbed).bstat.toNat = 1 + b2n scrubbed * 8 + b2n warm * 16 ∧
    Measured s (s.startUp determ warm scrubbed) ∧ (s.startUp determ warm scrubbed).portsDown = [] := by
  simp only [State.startUp, State.portsDown_eq_nil hv, if_true]
  refine ⟨?_, rfl, trivial⟩
  cases scrubbed <;> cases warm <;> rfl

end

/-! ## Cold starts (R352, R353) -/

/-- An event of the cold start runs it while no start has ended. -/
theorem exec_coldStart {s : State} (h : bits s.bstat 2 0 = 0) : exec .coldStart s = .next (s.coldUp s.inp.nums) :=
  congrArg Host.Outcome.next (if_pos h)

/-- Attempts that end in recovery. -/
theorem exec_coldStart_held {s : State} {r : Nat} (h : bits s.bstat 2 0 = 0)
    (hr : recoveryReason s.flashFault (s.inp.nums.filter coldFault) = some r) :
    ∃ t : State, exec .coldStart s = .next t ∧ Fresh t ∧ Held t r := by
  rw [exec_coldStart h, State.coldUp, hr]
  exact ⟨_, rfl, s.recovery_held r h⟩

/-- A cold start that succeeds: new keys, and registers, units and cores as at reset. -/
theorem exec_coldStart_starts {s : State} (h : bits s.bstat 2 0 = 0) (hver : Verified s) (hc : ConfigOk s.flash)
    (hn : (s.inp.nums.filter coldFault).length < 4) (hv : s.inp.v = 0) :
    ∃ t : State, exec .coldStart s = .next t ∧ t.mem = [] ∧ t.bad = [] ∧ t.keyGen = s.keyGen + 1 ∧ Fresh t ∧ Measured s t ∧
      Booted t s.images.firmware.bytes.length ∧ Configured t s.flash s.flash.determ ∧ t.bstat.toNat = 1 + 8 ∧ t.portsDown = [] := by
  have hr : recoveryReason s.flashFault (s.inp.nums.filter coldFault) = none := by
    rw [State.flashFault_of_verified hver, (BootCfg.ok_iff _).mpr hc]
    exact List.getElem?_eq_none (by omega)
  obtain ⟨-, -, -, -, hdet, -⟩ := id hc
  have hb : ({ s.bare with keyGen := s.keyGen + 1 } : State).inp.v = 0 := hv
  obtain ⟨hmem, hbad, hkey, -, hfresh⟩ := State.startUp_keeps hb s.flash.determ false true
  obtain ⟨hst, hmeas, hports⟩ := State.startUp_status hb s.flash.determ false true
  rw [exec_coldStart h, State.coldUp, hr]
  exact ⟨_, rfl, hmem, hbad, hkey, hfresh s.bare_fresh, hmeas, State.startUp_booted hb _ _ _,
    State.startUp_configured hb _ _ _ hc hdet, hst, hports⟩

/-- Four failures past the images hold the device with the fourth's REASON. -/
theorem recoveryReason_fourth {l : List Nat} (hl : ∀ r ∈ l, 3 ≤ r ∧ r ≤ 6) (hn : 4 ≤ l.length) :
    recoveryReason none (l.filter coldFault) = some (l.getD 3 0) := by
  rw [List.filter_eq_self.mpr (fun r hr => by simp [coldFault, hl r hr])]
  show l[3]? = _
  rw [List.getD_eq_getElem?_getD, List.getElem?_eq_getElem (by omega)]
  rfl

/-! ## Warm starts (R22, R24, R352) -/

/-- What a warm start works over keeps its inputs, the flash and the fuses, and holds no work. -/
theorem State.warmKeep_base (s : State) : s.warmKeep.inp = s.inp ∧ s.warmKeep.flash = s.flash ∧ s.warmKeep.images = s.images ∧
    s.warmKeep.measure = s.measure ∧ Fresh s.warmKeep := by
  unfold State.warmKeep
  dsimp only
  split
  · exact ⟨rfl, rfl, rfl, rfl, s.bare_fresh⟩
  · split <;> exact ⟨rfl, rfl, rfl, rfl, s.bare_fresh⟩

theorem State.warmKeep_same {s : State} (ho : s.owner = s.flash.owner) (hp : bits s.dmode 5 4 = s.flash.part) :
    s.warmKeep = { s.bare with keyGen := s.keyGen, memEpoch := s.memEpoch, mem := s.mem, bad := s.bad, snaps := s.snaps } :=
  (if_neg (not_not.mpr ho)).trans (if_neg (not_not.mpr hp))

theorem State.warmKeep_owner {s : State} (ho : s.owner ≠ s.flash.owner) : s.warmKeep = { s.bare with keyGen := s.keyGen + 1 } := if_pos ho

theorem State.warmKeep_part {s : State} (ho : s.owner = s.flash.owner) (hp : bits s.dmode 5 4 ≠ s.flash.part) :
    s.warmKeep = { s.bare with keyGen := s.keyGen + 1, memEpoch := s.draws + 1, bad := s.bad } :=
  (if_neg (not_not.mpr ho)).trans (if_pos hp)

/-- A warm start without a failed attempt. -/
theorem exec_warmStart {s : State} (h : bits s.bstat 2 0 ≠ 0) (hver : Verified s) (hc : ConfigOk s.flash) (hn : s.inp.nums = []) :
    exec .warmStart s = .next (s.warmKeep.startUp (bits s.dmode 0 0) true (s.owner != s.flash.owner)) := by
  have hf : s.flashFault = none := by rw [State.flashFault_of_verified hver, (BootCfg.ok_iff _).mpr hc]; rfl
  have hup : s.warmUp s.inp.nums = s.warmKeep.startUp (bits s.dmode 0 0) true (s.owner != s.flash.owner) := by
    rw [State.warmUp, hf, hn]
    exact if_neg (by simp)
  exact congrArg Host.Outcome.next ((if_neg h).trans hup)

/-- A warm start keeps what the owner and PART let it keep. -/
theorem exec_warmStart_starts {s : State} (h : bits s.bstat 2 0 ≠ 0) (hver : Verified s) (hc : ConfigOk s.flash) (hn : s.inp.nums = [])
    (hv : s.inp.v = 0) : ∃ t : State, exec .warmStart s = .next t ∧ Fresh t ∧ Measured s t ∧ Booted t s.images.firmware.bytes.length ∧
      Configured t s.flash (bits s.dmode 0 0) ∧
      (s.owner = s.flash.owner → bits s.dmode 5 4 = s.flash.part →
        t.mem = s.mem ∧ t.bad = s.bad ∧ t.keyGen = s.keyGen ∧ t.memEpoch = s.memEpoch ∧ t.bstat.toNat = 1 + 16) ∧
      (s.owner ≠ s.flash.owner → t.mem = [] ∧ t.bad = [] ∧ t.keyGen = s.keyGen + 1 ∧ t.bstat.toNat = 1 + 8 + 16) ∧
      (s.owner = s.flash.owner → bits s.dmode 5 4 ≠ s.flash.part → t.mem = [] ∧ t.keyGen = s.keyGen + 1 ∧ t.bstat.toNat = 1 + 16) := by
  obtain ⟨hinp, hflash, himg, hmea, hfr⟩ := s.warmKeep_base
  have hv' : s.warmKeep.inp.v = 0 := by rw [hinp, hv]
  obtain ⟨hmem, hbad, hkey, hep, hfresh⟩ := State.startUp_keeps hv' (bits s.dmode 0 0) true (s.owner != s.flash.owner)
  obtain ⟨hst, hmeas, -⟩ := State.startUp_status hv' (bits s.dmode 0 0) true (s.owner != s.flash.owner)
  have hboot := State.startUp_booted hv' (bits s.dmode 0 0) true (s.owner != s.flash.owner)
  have hconf := State.startUp_configured hv' (bits s.dmode 0 0) true (s.owner != s.flash.owner) (hflash ▸ hc) (Nat.mod_lt _ (by decide))
  rw [himg] at hboot
  rw [hflash] at hconf
  refine ⟨_, exec_warmStart h hver hc hn, hfresh hfr, hmeas.trans hmea, hboot, hconf, fun ho hp => ?_, fun ho => ?_, fun ho hp => ?_⟩
  · rw [hmem, hbad, hkey, hep, hst, State.warmKeep_same ho hp, ho, bne_self_eq_false]
    exact ⟨rfl, rfl, rfl, rfl, rfl⟩
  · rw [hmem, hbad, hkey, hst, State.warmKeep_owner ho, bne_iff_ne.mpr ho]
    exact ⟨rfl, rfl, rfl, rfl⟩
  · rw [hmem, hkey, hst, State.warmKeep_part ho hp, ho, bne_self_eq_false]
    exact ⟨rfl, rfl, rfl⟩

/-- Settles O9, one kind of start after another. -/
theorem startResults : Obligations.StartResults := by
  intro s
  refine ⟨exec_coldStart_starts, fun h hver hc hl hn => ?_, fun h hver => ?_, fun h hver hc => ?_, fun h => ?_, exec_warmStart_starts,
    ⟨s.bare, rfl, rfl, rfl, rfl, rfl, rfl, rfl, rfl, s.bare_fresh, rfl⟩, fun h1 h8 => ?_⟩
  · refine exec_coldStart_held h ?_
    rw [State.flashFault_of_verified hver, (BootCfg.ok_iff _).mpr hc]
    exact recoveryReason_fourth hl hn
  · obtain ⟨r, hr, h1, h12⟩ := State.flashFault_of_unverified hver
    obtain ⟨t, ht, hfr, hheld⟩ := exec_coldStart_held (r := r) h (by rw [hr]; rfl)
    exact ⟨t, r, ht, hfr, hheld, h1, h12⟩
  · have hbad : s.flash.ok = false := by rw [← Bool.not_eq_true, BootCfg.ok_iff]; exact hc
    exact exec_coldStart_held h (by rw [State.flashFault_of_verified hver, hbad]; rfl)
  · exact congrArg Host.Outcome.next (if_neg h)
  · exact congrArg Host.Outcome.next (if_pos ⟨h1, h8⟩)

end Sys2Proof.Machine

namespace Sys2Proof.Machine

open Sys2Proof Sys2Proof.Claims

/-! ## A stored power class of 3 (R22, R23) -/

/-- Refutes O10. Its first clause lets PCLASS of the state hold 3, requested and in force, which R22 calls invalid: a write of FABRIC then
carries that class along, sets MODE_ERR and takes no field. -/
theorem not_deviceModeResults : ¬ Obligations.DeviceModeResults := by
  intro h
  obtain ⟨hw, -⟩ := h { State.reset with dmode := 0xF00 }
  obtain ⟨hk, -⟩ := hw (by decide) (by decide) (by decide)
  obtain ⟨m, q, he, -⟩ := hk (.dmodeFabricWrite, 2, 2, 2) (by decide) (by decide)
  have hhot : (({ State.reset with dmode := 0xF00 } : State).dmodeWrite 0xF00).hot = [] :=
    congrArg State.hot (Host.Outcome.next.inj he)
  exact absurd hhot (by decide)

end Sys2Proof.Machine

namespace Sys2Proof.Machine

open Sys2Proof Sys2Proof.Claims

/-! ## GTERM of a launch that the front end still holds (R290, R302) -/

/-- A parked sub-gang whose crew holds item 0 of launch 0, with item 1 running elsewhere. The launch is one of graph run 0 and its
dispatch has not begun. -/
def parkedOfArrived : State :=
  { State.reset with
    cores := [(0, { gangs := [(0, { subs := [(0, { parked := true })] })], crews := [(0, { items := [{ item := 0 }] })] })]
    launches := [(0, { run := some (0, 0), items := [{ st := .running }, { st := .running }] })]
    parts := [(0, { runs := [(0, {})] })] }

/-- The sub-gang that handle 0 names in it. -/
def parkedCtx : Ctx :=
  { ref := { core := 0, slot := 0, sub := 0 }, th := { parked := true }, gang := { subs := [(0, { parked := true })] }
    crew := { items := [{ item := 0 }] } }

/-- The failure of the launch drops the launches of its run that have not begun, and so this launch itself (R290). -/
theorem gterm_parkedOfArrived_launch : (parkedOfArrived.gterm 0).launch 0 = none := by decide

/-- Refutes O56. The clause on GTERM lets the launch of the parked sub-gang be one of a graph run whose dispatch has not begun: the
failure then drops it from the launches, where the clause has it stay with cause 0x12. -/
theorem not_translationAndFaults : ¬ Obligations.TranslationAndFaults := by
  rintro ⟨-, hresp⟩
  obtain ⟨-, hterm, -⟩ := hresp parkedOfArrived 0 0 0 (by decide)
  obtain ⟨t, l', ht, -, -, hl, -⟩ := hterm parkedCtx 0 _ rfl (by decide) (by decide) (by decide) rfl rfl rfl rfl rfl rfl
    ⟨1, by decide, _, rfl, rfl⟩
  have hgone : t.launch 0 = none := (Host.Outcome.next.inj ht) ▸ gterm_parkedOfArrived_launch
  nomatch hgone.symm.trans hl

end Sys2Proof.Machine

namespace Sys2Proof.Machine

open Sys2Proof Sys2Proof.Claims

/-! ## The turn that is due (R25, R51) -/

/-- Without determinism the agenda's head is due. -/
theorem State.due_agenda {s : State} (hd : s.determ = false) {x : Turn} {l : List Turn} (ha : s.agenda = x :: l) :
    s.due = (x, { s with agenda := l }) := by
  simp [State.due, hd, ha]

/-- Under determinism what comes from outside is due, and takes no cycle. -/
theorem State.due_outside {s : State} (hd : s.determ = true) {x : Turn} {l : List Turn} (ha : s.agenda = x :: l)
    (hx : x.outside = true) : s.due = ({ x with dt := 0 }, { s with agenda := l }) := by
  simp [State.due, hd, ha, hx]

/-- With nothing of the agenda due, it is the rota's turn. -/
theorem State.due_rota {s : State} (h : s.agenda = [] ∨ (s.determ = true ∧ ∀ x ∈ s.agenda, x.outside = false)) :
    s.due = { s with agenda := [] }.nextTurn := by
  have hnone : (if s.determ then s.agenda.dropWhile (fun t => !t.outside) else s.agenda) = [] := by
    rcases h with ha | ⟨hd, ho⟩
    · rw [ha]; exact ite_self _
    · rw [if_pos hd, List.dropWhile_eq_nil_iff]
      intro x hx
      rw [ho x hx]; rfl
  rw [State.due, hnone]

/-- A round is the turns of the stations, the hubs, the partitions and the device, in that order. -/
theorem State.round_acts {s : State} (h : bits s.bstat 2 0 ≠ 0) : s.round.map Turn.act =
    (stationOrder.flatMap (fun x => if x.2 then s.coreTurns x.1 else s.tileTurns x.1) ++
      s.hubTurns 0 ++ s.hubTurns 1 ++ (span 0 s.mode).flatMap s.partTurns ++ s.deviceTurns).map Turn.act := by
  have hb : fld s.bstat.toNat 2 0 ≠ 0 := h
  rw [State.round, if_neg hb]
  split
  · rename_i hl; rw [hl]
  · rename_i hl; rw [hl]; rfl

/-- Every unit of the device has its place among the stations. -/
theorem mem_stationOrder {e : Nat} (h : e < 192) (b : Bool) : (e, b) ∈ stationOrder := by
  rw [stationOrder, mem_sortBy, List.mem_flatMap]
  exact ⟨e, mem_span.mpr ⟨Nat.zero_le e, by omega⟩, by cases b <;> simp⟩

/-- A turn of a station is one of the round. -/
theorem State.mem_round_of_station {s : State} (hb : bits s.bstat 2 0 ≠ 0) {e : Nat} (he : e < 192) (edge : Bool) {t : Turn}
    (ht : t ∈ if edge then s.coreTurns e else s.tileTurns e) : t.act ∈ s.round.map Turn.act := by
  rw [State.round_acts hb]
  have hst : t ∈ stationOrder.flatMap (fun x => if x.2 then s.coreTurns x.1 else s.tileTurns x.1) :=
    List.mem_flatMap.mpr ⟨(e, edge), mem_stationOrder he edge, ht⟩
  exact List.mem_map_of_mem (by simp only [List.mem_append, hst, true_or])

/-- A sub-gang at a place stands in its core's lists. -/
theorem State.subGang_mem {s : State} {r : SgRef} {c : Ctx} (h : s.subGang r = some c) :
    ∃ (g : Gang) (th : Thread), (r.slot, g) ∈ (s.core r.core).gangs ∧ (r.sub, th) ∈ g.subs := by
  rw [State.subGang] at h
  split at h
  · cases h
  · rename_i g hg
    split at h
    · rename_i th cr hth hcr
      exact ⟨g, th, mem_of_alGet hg, mem_of_alGet hth⟩
    · cases h

/-- The round holds the scalar and the lane turn of every sub-gang. -/
theorem State.subGang_mem_round {s : State} (hb : bits s.bstat 2 0 ≠ 0) {r : SgRef} {c : Ctx} (hr : r.core < 192)
    (h : s.subGang r = some c) : Act.scalar r ∈ s.round.map Turn.act ∧ Act.lane r ∈ s.round.map Turn.act := by
  obtain ⟨g, th, hg, hth⟩ := State.subGang_mem h
  have hcore : ∀ t ∈ [agentTurn (.scalar r), agentTurn (.lane r)], t ∈ s.coreTurns r.core := by
    intro t ht
    have hgang : t ∈ (s.core r.core).gangs.flatMap (fun g => g.2.subs.flatMap (fun t =>
        let r : SgRef := { core := r.core, slot := g.1, sub := t.1 }
        [agentTurn (.scalar r), agentTurn (.lane r)])) :=
      List.mem_flatMap.mpr ⟨_, hg, List.mem_flatMap.mpr ⟨_, hth, ht⟩⟩
    simp only [State.coreTurns, List.mem_append, hgang, true_or]
  exact ⟨State.mem_round_of_station hb hr true (hcore _ List.mem_cons_self),
    State.mem_round_of_station hb hr true (hcore _ (List.mem_cons_of_mem _ List.mem_cons_self))⟩

/-- It holds the turn of every tile engine that holds something. -/
theorem State.tile_mem_round {s : State} (hb : bits s.bstat 2 0 ≠ 0) {e : Nat} (he : e < 192) (ht : s.tile e ≠ {}) :
    Act.tile e ∈ s.round.map Turn.act := by
  refine State.mem_round_of_station hb he false (t := agentTurn (.tile e)) ?_
  rw [if_neg Bool.false_ne_true, State.tileTurns, if_neg ht]
  simp only [List.mem_append, List.mem_singleton, true_or]

/-- It holds the turns of both management cores. -/
theorem State.mgmt_mem_round {s : State} (hb : bits s.bstat 2 0 ≠ 0) {h : Nat} (hh : h < 2) : Act.mgmt h ∈ s.round.map Turn.act := by
  have hub : agentTurn (.mgmt h) ∈ s.hubTurns h := by simp [State.hubTurns]
  rw [State.round_acts hb]
  refine List.mem_map_of_mem (f := Turn.act) (a := agentTurn (.mgmt h)) ?_
  obtain rfl | rfl : h = 0 ∨ h = 1 := by omega
  all_goals simp only [List.mem_append, hub, true_or, or_true]

/-! ## The turn that runs (R168, R170, R173) -/

/-- A turn of an agent makes it the acting one. -/
theorem State.begin_cur {s : State} {t : Turn} {a : Act} (ht : t.act = a) (ha : ∀ i, a ≠ .event i) : (s.begin t).cur = a := by
  subst ht
  rw [State.begin]
  cases h : t.act with
  | event i => exact absurd h (ha i)
  | _ => rfl

/-- A turn that stops at no epoch boundary runs. -/
theorem step_runTurn {s : State} (h : s.determ = true → s.due.1.dt < s.toEpoch) : step s = s.due.2.runTurn s.due.1 :=
  if_neg (fun hb => Nat.not_le.mpr (h hb.1) hb.2)

theorem step_boundary {s : State} (hd : s.determ = true) (h : s.toEpoch ≤ s.due.1.dt) : step s = s.due.2.toBoundary s.due.1 :=
  if_pos ⟨hd, h⟩

/-- The turn of an agent runs with that agent acting. -/
theorem step_agent {s u : State} (h : s.determ = true → s.due.1.dt < s.toEpoch) (hu : u = s.due.2.begin s.due.1)
    (ha : ∀ i, s.due.1.act ≠ .event i) : step s = u.act ∧ u.cur = s.due.1.act := by
  subst hu
  refine ⟨(step_runTurn h).trans ?_, State.begin_cur rfl ha⟩
  unfold State.runTurn
  split
  · exact absurd ‹_› (ha _)
  · rfl

/-- A scalar turn, and a management core's once a start has ended, is what the thread does next. -/
theorem State.act_scalarTurn {u : State} (hc : u.classHeld = false)
    (h : (∃ r, u.cur = .scalar r ∧ u.spinHeld r = false) ∨ (∃ k, u.cur = .mgmt k ∧ bits u.bstat 2 0 = 1)) : u.act = u.scalarTurn exec := by
  rw [State.act, hc, if_neg Bool.false_ne_true]
  obtain ⟨r, hcur, hs⟩ | ⟨k, hcur, hb⟩ := h
  · simp only [hcur, hs]; rfl
  · simp only [hcur]; exact if_pos hb

/-- A lane turn is the head of the lane queue's. -/
theorem State.act_laneTurn {u : State} {r : SgRef} (hc : u.classHeld = false) (hcur : u.cur = .lane r) (hs : u.spinHeld r = false) :
    u.act = u.laneTurn exec := by
  rw [State.act, hc, if_neg Bool.false_ne_true]
  simp only [hcur, hs]; rfl

/-- A tile engine's turn is what the engine does next. -/
theorem State.act_tile {u : State} {e : Nat} (hc : u.classHeld = false) (hcur : u.cur = .tile e) :
    u.act = exec (u.tile e).due { u with inp := { u.inp with a := e } } := by
  rw [State.act, hc, if_neg Bool.false_ne_true]
  simp only [hcur]

/-- A ready thread issues. -/
theorem Ctx.held_of_ready {u : State} {c : Ctx} (h : Ready u c) : c.held = false := by
  obtain ⟨-, hpark, hstop, hwait, -⟩ := h
  rw [Ctx.held, hpark, hstop, hwait]; rfl

section
variable {u : State} {c : Ctx} (h : Ready u c) (run : Instr → State → Out)
include h

/-- A ready thread goes on with the lane.iss that it is at (R173). -/
theorem State.scalarTurn_lanes (h0 : c.th.issRem ≠ 0) : u.scalarTurn run = u.counted c (.laneIss 0) (run (.laneIss 0) u) := by
  have hheld := Ctx.held_of_ready h
  obtain ⟨hc, -, -, -, hposted⟩ := h
  simp only [State.scalarTurn, hc, hheld, Ctx.dueFailures_nil hposted]
  exact if_pos h0

section
variable (h0 : c.th.issRem = 0)
include h0

/-- It meets a PC outside its section (R168). -/
theorem State.scalarTurn_outside (hpc : c.th.pc.toNat % 4 ≠ 0 ∨ u.codeLen c ≤ c.th.pc.toNat) :
    u.scalarTurn run = run .scalarFetchOutOfRange u := by
  have hheld := Ctx.held_of_ready h
  obtain ⟨hc, -, -, -, hposted⟩ := h
  simp only [State.scalarTurn, hc, hheld, Ctx.dueFailures_nil hposted]
  exact (if_neg (not_not.mpr h0)).trans (if_pos hpc)

/-- It runs the word that it has fetched (R126). -/
theorem State.scalarTurn_fetched {v : State} {w : Nat} (h4 : c.th.pc.toNat % 4 = 0) (hlen : c.th.pc.toNat < u.codeLen c)
    (hw : u.fetchWord c = (v, .ok w)) : u.scalarTurn run = v.counted c (scalarInstr w) (run (scalarInstr w) v) := by
  have hin : ¬ (c.th.pc.toNat % 4 ≠ 0 ∨ u.codeLen c ≤ c.th.pc.toNat) := by omega
  have hheld := Ctx.held_of_ready h
  obtain ⟨hc, -, -, -, hposted⟩ := h
  simp only [State.scalarTurn, hc, hheld, Ctx.dueFailures_nil hposted, hw]
  exact (if_neg (not_not.mpr h0)).trans (if_neg hin)

end

end

/-- The word at the PC of a thread, and the state in which it is known. -/
theorem State.fetchWord_eq {u v w : State} {c : Ctx} {bs : List Byte}
    (h : (c.isMgmt = true ∧ v = u ∧ bs = SMap.getN 0 (u.mgmt c.hub).fw c.th.pc.toNat 4) ∨
      (c.isMgmt = false ∧ u.roRead c.iss c.part (c.desc.esaddr + c.th.pc.toNat) 4 (20000 + c.sg) c.ref.core c.crew.launch = (w, .ok bs) ∧
        v = w.clearRemote c.iss (20000 + c.sg))) : u.fetchWord c = (v, .ok (leNat bs)) := by
  obtain ⟨hm, rfl, rfl⟩ | ⟨hm, hr, rfl⟩ := h
  · simp [State.fetchWord, hm]
  · simp [State.fetchWord, hm, hr]

/-- The head of the lane queue runs. -/
theorem State.laneTurn_head {u : State} {r : SgRef} {c : Ctx} {e : LaneEntry} {l : List LaneEntry} {i : Instr} (hcur : u.cur = .lane r)
    (hc : u.subGang r = some c) (hl : c.th.lq = e :: l) (hi : decodeLane e.word.toNat = some i) (run : Instr → State → Out) :
    u.laneTurn run = run i u := by
  simp [State.laneTurn, State.ctx, hcur, hc, hl, hi]

/-- A trace that is off counts no instruction. -/
theorem State.counted_off {s : State} {c : Ctx} (i : Instr) {o : Out} (h : ∀ x : State, o = .next x → (x.trc c.unit).ctl.getLsbD 31 = false) :
    s.counted c i o = o := by
  cases o with
  | next t =>
    have ht : bitAt (t.trc c.unit).ctl.toNat 31 = false := (bitAt_toNat _ _).trans (h t rfl)
    simp [State.counted, State.countUnits, ht]
  | _ => rfl

/-! ## The bytes at the PC (R129) -/

theorem map_getD_zip_none {α : Type} : ∀ l : List α, (l.zip (List.replicate l.length none)).map (fun x => x.2.getD x.1) = l
  | [] => rfl
  | _ :: l => congrArg (List.cons _) (map_getD_zip_none l)

/-- Bytes read where the cache serves none of them are those at their home. -/
theorem State.roRead_home {s : State} {who : Issuer} {p va n sg k l : Nat} {bs : List Byte} (hn : 0 < n) (hlen : bs.length = n)
    (hbs : Holds s who p va bs sg) (hmiss : ∀ i < n, s.roHit k l va n (va + i) = none) :
    ∃ m : SMap L1Line, s.roRead who p va n sg k l = ({ s with roCache := m }, .ok bs) := by
  have hhits : (span va n).map (s.roHit k l va n) = List.replicate n none := by
    rw [List.eq_replicate_iff]
    refine ⟨by rw [List.length_map, span_eq_range', List.length_range'], fun x hx => ?_⟩
    obtain ⟨a, ha, rfl⟩ := List.mem_map.mp hx
    obtain ⟨h1, h2⟩ := mem_span.mp ha
    rw [← hmiss (a - va) (by omega), Nat.add_sub_cancel' h1]
  have hall : (List.replicate n (none : Option Byte)).all Option.isSome = false := by
    rw [List.all_replicate, if_neg (by omega)]; rfl
  have hmap : (bs.zip (List.replicate n (none : Option Byte))).map (fun x => x.2.getD x.1) = bs := by
    rw [← hlen]; exact map_getD_zip_none bs
  have hread : s.readVa who p va n sg = (s, .ok bs) := hlen ▸ hbs
  simp only [State.roRead, hhits, hall, hread, hmap]
  exact ⟨_, rfl⟩

/-- Settles O26: the turn that is due, then the turn that runs by the agent that it names, then the bytes at the PC. -/
theorem stepRunsTheDecodedInstruction : Obligations.StepRunsTheDecodedInstruction := by
  intro s t rest u
  refine ⟨⟨fun hd x l => State.due_agenda hd, fun hd x l => State.due_outside hd, fun h => ?_, fun hb => ?_⟩, fun hd h => step_boundary hd h,
    fun h => ⟨fun i hi => ?_, fun c ht hcl hr => ?_, fun r c e l i ht hcl hs hc hl hi => ?_, fun e ht hcl => ?_⟩,
    fun c i o => State.counted_off i, fun who p va n sg k l bs => State.roRead_home⟩
  · rw [State.due_rota h]
    refine ⟨fun x l hx => by simp only [State.nextTurn, hx], fun x l hr hx => ?_⟩
    simp only [State.nextTurn, hr]
    rw [hr] at hx
    simp only [hx]
  · exact ⟨fun r c hr => State.subGang_mem_round hb hr, fun e he => State.tile_mem_round hb he, fun h hh => State.mgmt_mem_round hb hh⟩
  · rw [step_runTurn h, State.runTurn]
    simp only [show s.due.1.act = .event i from hi]
    rfl
  · have hev : ∀ i, s.due.1.act ≠ .event i := by
      intro i hi
      obtain ⟨r, hr, -⟩ | ⟨k, hk, -⟩ := ht
      · exact absurd (hr.symm.trans hi) (by simp)
      · exact absurd (hk.symm.trans hi) (by simp)
    obtain ⟨hstep, hcur⟩ := step_agent h rfl hev
    rw [hstep, State.act_scalarTurn hcl (hcur ▸ ht)]
    refine ⟨State.scalarTurn_lanes hr exec, State.scalarTurn_outside hr exec, fun v w bs h0 h4 hlen hread => ?_⟩
    rw [State.scalarTurn_fetched hr exec h0 h4 hlen (State.fetchWord_eq hread)]
    exact ⟨fun i hi => by rw [scalarInstr, hi]; rfl, fun hi => by rw [scalarInstr, hi]; rfl⟩
  · obtain ⟨hstep, hcur⟩ := step_agent h rfl (by simp [show s.due.1.act = .lane r from ht])
    have hcur' : u.cur = .lane r := hcur.trans ht
    exact hstep.trans ((State.act_laneTurn hcl hcur' hs).trans (State.laneTurn_head hcur' hc hl hi exec))
  · obtain ⟨hstep, hcur⟩ := step_agent h rfl (by simp [show s.due.1.act = .tile e from ht])
    exact hstep.trans (State.act_tile hcl (hcur.trans ht))

end Sys2Proof.Machine

namespace Sys2Proof.Machine

open Sys2Proof Sys2Proof.Claims

/-! ## The trace of a branch that falls through (R311, R313) -/

/-- A management core at its first instruction, with the trace of its unit on. -/
def tracedMgmt : State := { State.reset with cur := .mgmt 0, traces := [(512, { ctl := 0x80000000 })] }

/-- The thread that acts in it. -/
def tracedMgmtCtx : Ctx := { ref := { core := 0, slot := 0, sub := 0 }, th := {}, isMgmt := true }

/-- The state after its branch bne x0, x0 has fallen through: the trace counts the branch as executed in sequence (R313). -/
def tracedMgmtFell : State := (tracedMgmt.setTh tracedMgmtCtx tracedMgmtCtx.th.fellThrough).traceNext tracedMgmtCtx

/-- Refutes O22. Its clause on a branch that falls through asks for no trace that is off, and a trace that is on counts the branch
in its pending run, which is no register of the thread. -/
theorem not_scalarFrame : ¬ Obligations.ScalarFrame := by
  intro h
  have hready : Ready tracedMgmt tracedMgmtCtx := by decide
  have hruns : exec (.bne { a := 0, b := 0, i := 0 }) tracedMgmt = .next tracedMgmtFell := by rfl
  obtain ⟨-, hbranch⟩ := h tracedMgmt tracedMgmtFell tracedMgmtCtx _ hready (by decide) (by decide) hruns
  obtain ⟨-, -, -, -, hsame, -⟩ := (hbranch (.bne, fun a b => a ≠ b) _ (by simp [branchTable]) rfl).1 (not_not.mpr rfl)
  have htraces : tracedMgmtFell.traces = tracedMgmt.traces := by rw [hsame]
  exact absurd htraces (by decide)

end Sys2Proof.Machine

namespace Sys2Proof.Machine

open Sys2Proof Sys2Proof.Claims

/-! ## Branches (R190) -/

/-- A taken branch whose PC + 4 × displacement is no target of the section has none in the number that the hardware computes either. -/
theorem relTarget_bad {s : State} {c : Ctx} {im : BitVec 15} (hlen : s.codeLen c ≤ 2 ^ 32)
    (ht : ∀ t : Nat, (t : Int) = jumpPc c im.toInt → ¬ GoodTarget s c t) : s.targetOk c (relTarget c.th.pc 15 im.toNat) = false := by
  rw [← Bool.not_eq_true, s.targetOk_iff]
  rintro ⟨h4, hlt⟩
  have hlo := BitVec.le_toInt im
  have hhi := BitVec.toInt_lt (x := im)
  have hrel : relTarget c.th.pc 15 im.toNat = (jumpPc c im.toInt % 2 ^ 64).toNat := by
    rw [relTarget, sx_eq_toInt]; rfl
  have hpc : jumpPc c im.toInt = c.th.pc.toNat + 4 * im.toInt := rfl
  by_cases hneg : jumpPc c im.toInt < 0
  · omega
  · refine ht (jumpPc c im.toInt).toNat (by omega) ⟨?_, ?_⟩ <;> omega

section
variable {s : State} {c : Ctx} {i : Instr} {f : EB} {p : W64 → W64 → Bool} (h : Ready s c)
include h

/-- A branch whose condition fails, with the trace of its unit off. -/
theorem branchOp_fellOn (hu : Untraced s c) (hn : p (c.x f.a) (c.x f.b) = false) : branchOp i f p s = .next (fellOn s c) := by
  obtain ⟨hc, hpark, hstop, hwait, hposted⟩ := h
  rw [branchOp_falls hc hpark hstop hwait hposted hn hu]
  rfl

/-- A branch taken to a target inside the section, with the trace of its unit off. -/
theorem branchOp_taken (hu : Untraced s c) (hlen : s.codeLen c ≤ 2 ^ 32) (hn : p (c.x f.a) (c.x f.b) = true) {t : Nat}
    (ht : (t : Int) = jumpPc c f.i.toInt) (hg : GoodTarget s c t) : ∃ sp : Spin, branchOp i f p s = .next
      (let u := s.setTh c { c.th with pc := BitVec.ofNat 32 t, spin := sp }
       if c.isMgmt then u else u.spinSwap c.ref.core) := by
  have hrel : relTarget c.th.pc 15 f.i.toNat = t := relTarget_eq ht (by have := hg.2; omega)
  obtain ⟨hc, hpark, hstop, hwait, hposted⟩ := h
  rw [branchOp_takes hc hpark hstop hwait hposted hn (by rw [hrel]; exact (s.targetOk_iff c t).mpr hg) hu, hrel]
  exact ⟨_, by rw [← Thread.branchTaken_eq]⟩

/-- A branch taken out of the section, with the lane queue drained. -/
theorem branchOp_traps (hlen : s.codeLen c ≤ 2 ^ 32) (hn : p (c.x f.a) (c.x f.b) = true) (hq : c.th.lq = [])
    (ht : ∀ t : Nat, (t : Int) = jumpPc c f.i.toInt → ¬ GoodTarget s c t) :
    branchOp i f p s = .next (s.takeTrap c (faultAt c i 0x13 0 0)) := by
  obtain ⟨hc, hpark, hstop, hwait, hposted⟩ := h
  rw [branchOp_faults hc hpark hstop hwait hposted hn (relTarget_bad hlen ht), State.scalarTrap_empty hq]
  rfl

end

/-- Each branch of R190 is the shared operation on a test that tells its condition. -/
theorem branchTable_exec : ∀ p ∈ branchTable, ∃ test : W64 → W64 → Bool, (∀ a b, test a b = true ↔ p.2 a b) ∧
    ∀ (f : EB) (s : State), exec (p.1 f) s = branchOp (p.1 f) f test s := by
  simp only [branchTable, List.forall_mem_cons, List.not_mem_nil, false_implies, implies_true, and_true]
  refine ⟨⟨fun a b => a == b, fun a b => ?_, fun f s => rfl⟩, ⟨fun a b => a != b, fun a b => ?_, fun f s => rfl⟩,
    ⟨fun a b => a.slt b, fun a b => ?_, fun f s => rfl⟩, ⟨fun a b => !a.slt b, fun a b => ?_, fun f s => rfl⟩,
    ⟨fun a b => a.ult b, fun a b => ?_, fun f s => rfl⟩, ⟨fun a b => !a.ult b, fun a b => ?_, fun f s => rfl⟩⟩
  · exact beq_iff_eq
  · exact bne_iff_ne
  · exact BitVec.slt_iff_toInt_lt
  · rw [Bool.not_eq_true', ← Bool.not_eq_true, BitVec.slt_iff_toInt_lt, Int.not_lt]
  · exact BitVec.ult_iff_toNat_lt
  · rw [Bool.not_eq_true', ← Bool.not_eq_true, BitVec.ult_iff_toNat_lt, Nat.not_lt]

theorem branchResults : BranchResults := by
  intro p hp f s c h hu hlen
  obtain ⟨test, htest, hexec⟩ := branchTable_exec p hp
  rw [hexec]
  refine ⟨fun hn => branchOp_fellOn h hu ?_, fun hn t ht hg => branchOp_taken h hu hlen ((htest _ _).mpr hn) ht hg,
    fun hn hq ht => branchOp_traps h hlen ((htest _ _).mpr hn) hq ht⟩
  rwa [← Bool.not_eq_true, htest]

/-! ## Jumps, calls and the return (R179, R180) -/

/-- A jump with a good target and room for its push, with the trace of its unit off. -/
theorem State.jumpTo_jumped {s : State} {c : Ctx} {i : Instr} {d : B5} {call : B1} {t : Nat} (hu : Untraced s c) (hg : GoodTarget s c t)
    (hr : CallRoom c call) : s.jumpTo c i d.toNat (call == 1) t = .next (jumped s c d call t) := by
  have hroom : ¬ ((call == 1) = true ∧ 16 ≤ c.th.rstack.length) := fun hfull => by
    have := hr (beq_iff_eq.mp hfull.1)
    omega
  simp only [State.jumpTo, (s.targetOk_iff c t).mpr hg, Bool.not_true, Bool.false_eq_true, if_false, hroom]
  rw [State.trace_off (by rw [State.setTh_trc]; exact hu)]
  simp only [jumped, beq_iff_eq]
  rfl

/-- The lanes of a mask, by their bits. -/
theorem mem_lanesOf {m : W32} {l : Nat} : l ∈ lanesOf m ↔ l < 32 ∧ m.getLsbD l = true := by
  simp [lanesOf, mem_span]

theorem lanesOf_ne_nil {m : W32} (h : m ≠ 0) : lanesOf m ≠ [] := by
  intro hnil
  refine h (BitVec.eq_of_getLsbD_eq fun l hl => ?_)
  have hno : l ∉ lanesOf m := by rw [hnil]; exact List.not_mem_nil
  rw [mem_lanesOf] at hno
  simpa [hl] using hno

section
variable {s : State} {c : Ctx} (h : Ready s c) (hu : Untraced s c)
include h hu

theorem exec_jal (d : B5) (call : B1) {im : BitVec 19} {t : Nat} (ht : (t : Int) = jumpPc c im.toInt) (hg : GoodTarget s c t)
    (hr : CallRoom c call) : exec (.jal d call im) s = .next (jumped s c d call t) := by
  have hlo := BitVec.toInt_lt (x := im)
  have hrel : relTarget c.th.pc 19 im.toNat = t := by
    refine relTarget_eq ht ?_
    have hpc : jumpPc c im.toInt = c.th.pc.toNat + 4 * im.toInt := rfl
    omega
  show execJal d call im s = _
  rw [execJal, scalarOp_of_ready h rfl rfl (by simp), hrel, State.jumpTo_jumped hu hg hr]

theorem exec_jr (d a : B5) (call : B1) (hg : GoodTarget s c (c.x a).toNat) (hr : CallRoom c call) :
    exec (.jr d a call) s = .next (jumped s c d call (c.x a).toNat) := by
  show execJr d a call s = _
  rw [execJr, scalarOp_of_ready h rfl rfl (by simp), State.jumpTo_jumped hu hg hr]

/-- jr.w with one value in every active lane. -/
theorem exec_jrW (d : B5) (call : B1) {n : B7} {v : W32} (he : c.isMgmt = false) (hq : c.th.lq = []) (hm : c.th.m ≠ 0)
    (hv : ∀ l < 32, c.th.m.getLsbD l = true → c.gang.getW l n.toNat = v) (hg : GoodTarget s c v.toNat) (hr : CallRoom c call) :
    exec (.jrW d call n) s = .next (jumped s c d call v.toNat) := by
  have hval : ∀ l ∈ lanesOf c.th.m, c.gang.getW l n.toNat = v := fun l hl => hv l (mem_lanesOf.mp hl).1 (mem_lanesOf.mp hl).2
  show execJrW d call n s = _
  rw [execJrW, scalarOp_of_ready h rfl (placeOk_edge he) (fun _ => hq)]
  obtain ⟨l0, rest, hl⟩ := List.exists_cons_of_ne_nil (lanesOf_ne_nil hm)
  rw [hl, List.forall_mem_cons] at hval
  have hbad : rest.filter (fun l => c.gang.getW l n.toNat != v) = [] := by
    simpa [List.filter_eq_nil_iff] using hval.2
  simp only [hl, hval.1, hbad, ne_eq, not_true_eq_false, if_false, State.jumpTo_jumped hu hg hr]

theorem exec_ret {p l : W32} {rest : List (W32 × W32)} (hs : c.th.rstack = (p, l) :: rest) :
    exec .ret s = .next (s.setTh c { c.th with pc := p, lpc := l, rstack := rest, spin := {} }) := by
  show execRet s = _
  rw [execRet, scalarOp_of_ready h rfl rfl (by simp)]
  simp only [hs]
  rw [State.trace_off (by rw [State.setTh_trc]; exact hu)]

end

theorem jumpResults : JumpResults := fun _ _ h hu =>
  ⟨fun d call _ _ ht hg hr => exec_jal h hu d call ht hg hr, fun d a call hg hr => exec_jr h hu d a call hg hr,
    fun d call _ _ he hq hm hv hg hr => exec_jrW h hu d call he hq hm hv hg hr, fun _ _ _ hs => exec_ret h hu hs⟩

/-- Settles O33: the branches by the shared branch operation, the jumps by the shared end of a jump. -/
theorem controlTransferResults : Obligations.ControlTransferResults := ⟨branchResults, jumpResults⟩

end Sys2Proof.Machine

namespace Sys2Proof

/-! ## Little-endian bytes (R2) -/

@[simp] theorem length_leBytes : ∀ n v : Nat, (leBytes n v).length = n
  | 0, _ => rfl
  | n + 1, v => congrArg (· + 1) (length_leBytes n (v / 256))

@[simp] theorem length_span : ∀ a n : Nat, (span a n).length = n
  | _, 0 => rfl
  | a, n + 1 => congrArg (· + 1) (length_span (a + 1) n)

@[simp] theorem SMap.length_getN {α : Type} (d : α) (m : SMap α) (k n : Nat) : (SMap.getN d m k n).length = n := by
  simp [SMap.getN]

/-- The bytes of a number from byte a on, each by its place. -/
theorem map_span_bytes : ∀ n a v : Nat, (span a n).map (fun i => BitVec.ofNat 8 (v / 256 ^ i)) = leBytes n (v / 256 ^ a)
  | 0, _, _ => rfl
  | n + 1, a, v => by
    rw [leBytes, Nat.div_div_eq_div_mul, ← Nat.pow_succ, ← map_span_bytes n (a + 1) v]
    rfl

/-- The low n bytes of a number hang on its low 8 n bits alone. -/
theorem leBytes_mod : ∀ n v : Nat, leBytes n (v % 2 ^ (8 * n)) = leBytes n v
  | 0, _ => rfl
  | n + 1, v => by
    have hpow : 2 ^ (8 * (n + 1)) = 256 * 2 ^ (8 * n) := by rw [Nat.mul_succ, Nat.add_comm, Nat.pow_add]
    have hlow : BitVec.ofNat 8 (v % (256 * 2 ^ (8 * n))) = BitVec.ofNat 8 v :=
      BitVec.eq_of_toNat_eq (Nat.mod_mul_right_mod v 256 (2 ^ (8 * n)))
    rw [hpow, leBytes, leBytes, hlow, Nat.mod_mul_right_div_self, leBytes_mod n]

/-- A number is what its bytes tell, modulo their range. -/
theorem leNat_leBytes : ∀ n v : Nat, leNat (leBytes n v) = v % 256 ^ n
  | 0, v => (Nat.mod_one v).symm
  | n + 1, v => by
    rw [leBytes, leNat, leNat_leBytes n, Nat.pow_succ, Nat.mul_comm (256 ^ n), Nat.mod_mul]
    rfl

end Sys2Proof

namespace Sys2Proof.Machine

open Sys2Proof Sys2Proof.Claims

/-! ## Operands of scalar accesses (R189, R191) -/

theorem lowBytes_eq (z : Nat) (v : W64) : lowBytes z v = leBytes z v.toNat := by
  have h := map_span_bytes z 0 v.toNat
  simp only [Nat.pow_zero, Nat.div_one] at h
  simp only [lowBytes, Nat.pow_mul]
  exact h

theorem emAddr_eq (c : Ctx) (f : EM) (z : Nat) : (emAddr c f z).toNat = emPlaceOf c f z := by
  have hext : f.i.signExtend 64 = BitVec.ofInt 64 f.i.toInt := rfl
  have hsum : c.x f.a + f.i.signExtend 64 * BitVec.ofNat 64 z = BitVec.ofInt 64 ((c.x f.a).toInt + f.i.toInt * z) := by
    rw [BitVec.ofInt_add, BitVec.ofInt_mul, BitVec.ofInt_toInt, BitVec.ofInt_natCast, hext]
  rw [emAddr, emPlaceOf, hsum]

theorem signBytes_eq {z : Nat} {bs : List Byte} (h : bs.length = z) : signBytes z bs = signedBytes bs := by
  rw [signBytes, signedBytes, h]

/-- An area of core memory within its size (R21). -/
theorem Crew.cmemOk_iff (cr : Crew) (a n : Nat) : cr.cmemOk a n = true ↔ a + n ≤ 1024 * cr.cmemKiB := by
  rw [Crew.cmemOk, decide_eq_true_iff, Crew.cmemBytes, Nat.mul_comm]

/-- An instruction that ends without a spin mark. -/
theorem State.finish_clearSpin (s : State) (c : Ctx) (th : Thread) : s.finish c th.clearSpin = .next (wentOnClear s c th) := rfl

/-- What a release does before its store, in the words of the statements (R87, R103). -/
theorem releaseGate_of_gated {rel : Bool} {s g : State} {c : Ctx} {sg sc : Nat} {ds : List Nat} (h : Gated rel s c sg sc ds g) :
    (if rel = true then s.releaseGate c sc ds sg else (s, .done)) = (g, .done) := by
  cases rel with
  | false => exact Prod.ext (Eq.symm h) rfl
  | true =>
    have hwb : (if c.isMgmt = true then s else s.releaseWb c.ref.core sc) =
        if c.isMgmt = false ∧ 3 ≤ sc then s.writeBackAll c.ref.core else s := by
      cases c.isMgmt <;> simp [State.releaseWb]
    rw [if_pos rfl, State.releaseGate, hwb]
    exact h

/-! ## Loads (R189) -/

section
variable {s : State} {c : Ctx} {f : EM} {z : Nat} (i : Instr)

section
variable (h : May s c .common (emPlace f)) (hal : emPlaceOf c f z % z = 0)
include h hal

theorem scalarLoad_cmem (hc : f.c = 1) (hin : emPlaceOf c f z + z ≤ 1024 * c.crew.cmemKiB) :
    scalarLoad i f z s = .next (wrote s c f.d (signedBytes (SMap.getN 0 c.crew.cmem (emPlaceOf c f z) z))) := by
  obtain ⟨hr, hrole, hpl⟩ := h
  rw [scalarLoad, scalarOp_of_ready hr hrole hpl (by simp)]
  simp only [emAddr_eq, hal, hc, (Crew.cmemOk_iff ..).mpr hin, ne_eq, not_true_eq_false, if_false, if_true, Crew.cmemRead]
  rw [signBytes_eq (SMap.length_getN ..), State.finish_setX]

theorem scalarLoad_waits (hc : f.c = 0) (hq : c.th.laneFirst (f.s == 1) = true) : scalarLoad i f z s = .next s := by
  obtain ⟨hr, hrole, hpl⟩ := h
  rw [scalarLoad, scalarOp_of_ready hr hrole hpl (by simp)]
  simp only [emAddr_eq, hal, hc, hq, ne_eq, not_true_eq_false, if_false, if_true, show ¬ (0 : B1) = 1 by decide, State.wait]

/-- A load that its place answers. -/
theorem scalarLoad_answered {u : State} {bs : List Byte} (hc : f.c = 0) (hq : c.th.laneFirst (f.s == 1) = false) (hlen : bs.length = z)
    (hans : (if c.isMgmt then s.mgmtRead c (emPlaceOf c f z) z
      else s.edgeLoad c c.sg (emPlaceOf c f z) z (f.s == 1) f.o.toNat f.k.toNat 0) = (u, .ok bs)) :
    scalarLoad i f z s = .next (wrote (u.clearRemote c.iss c.sg) c f.d (signedBytes bs)) := by
  obtain ⟨hr, hrole, hpl⟩ := h
  rw [scalarLoad, scalarOp_of_ready hr hrole hpl (by simp)]
  simp only [emAddr_eq, hal, hc, hq, hans, ne_eq, not_true_eq_false, if_false, Bool.false_eq_true, show ¬ (0 : B1) = 1 by decide]
  rw [signBytes_eq hlen, State.finish_setX]

end

/-! ## Stores (R189) -/

section
variable (h : May s c .commit (emPlace f)) (hal : emPlaceOf c f z % z = 0)
include h hal

theorem scalarStore_cmem (hc : f.c = 1) (hin : emPlaceOf c f z + z ≤ 1024 * c.crew.cmemKiB) :
    scalarStore i f z s = .next (wentOnClear (s.updCrew c.ref.core c.gang.crew (fun cr =>
      { cr with cmem := SMap.setN 0 cr.cmem (emPlaceOf c f z) (lowBytes z (c.x f.d)) })) c c.th) := by
  obtain ⟨hr, hrole, hpl⟩ := h
  rw [scalarStore, scalarOp_of_ready hr hrole hpl (by simp)]
  simp only [emAddr_eq, hal, hc, (Crew.cmemOk_iff ..).mpr hin, ne_eq, not_true_eq_false, if_false, if_true, ← lowBytes_eq]
  exact State.finish_clearSpin ..

theorem scalarStore_waits (hc : f.c = 0) (hq : c.th.laneFirst true = true) : scalarStore i f z s = .next s := by
  obtain ⟨hr, hrole, hpl⟩ := h
  rw [scalarStore, scalarOp_of_ready hr hrole hpl (by simp)]
  simp [emAddr_eq, hal, hc, hq, State.wait]

/-- A store that its place takes, before its release and after. -/
theorem scalarStore_taken {v g u : State} (hc : f.c = 0) (hq : c.th.laneFirst true = false)
    (hfirst : s.scalarPut c f (emPlaceOf c f z) (lowBytes z (c.x f.d)) = .ok v)
    (hgate : Gated (f.s == 1 && f.o == 2) s c c.sg f.k.toNat (s.addrDev c (emPlaceOf c f z)) g)
    (hput : g.scalarPut c f (emPlaceOf c f z) (lowBytes z (c.x f.d)) = .ok u) :
    scalarStore i f z s = .next (wentOnClear u c (u.thNow c)) := by
  have hg := releaseGate_of_gated hgate
  simp only [Bool.and_eq_true, beq_iff_eq] at hg
  obtain ⟨hr, hrole, hpl⟩ := h
  rw [scalarStore, scalarOp_of_ready hr hrole hpl (by simp)]
  simp only [emAddr_eq, hal, hc, hq, ← lowBytes_eq, hfirst, hg, hput, ne_eq, not_true_eq_false, if_false, Bool.false_eq_true,
    show ¬ (0 : B1) = 1 by decide]
  exact State.finish_clearSpin ..

end

end

/-- Each load and each store of R189 is the shared access of its size. -/
theorem loads_exec : ∀ p ∈ loads, ∀ (f : EM) (s : State), exec (p.1 f) s = scalarLoad (p.1 f) f p.2 s := by
  simp only [loads, List.forall_mem_cons, List.not_mem_nil, false_implies, implies_true, and_true]
  exact ⟨fun _ _ => rfl, fun _ _ => rfl, fun _ _ => rfl, fun _ _ => rfl⟩

theorem stores_exec : ∀ p ∈ stores, ∀ (f : EM) (s : State), exec (p.1 f) s = scalarStore (p.1 f) f p.2 s := by
  simp only [stores, List.forall_mem_cons, List.not_mem_nil, false_implies, implies_true, and_true]
  exact ⟨fun _ _ => rfl, fun _ _ => rfl, fun _ _ => rfl, fun _ _ => rfl⟩

theorem scalarLoadResults : ScalarLoadResults := by
  intro p hp f s c h hal
  simp only [loads_exec p hp]
  exact ⟨scalarLoad_cmem _ h hal, scalarLoad_waits _ h hal,
    fun _ _ hc hq he hlen hans => scalarLoad_answered _ h hal hc hq hlen (by rw [he]; exact hans),
    fun _ _ hc hq hm hlen hans => scalarLoad_answered _ h hal hc hq hlen (by rw [hm]; exact hans)⟩

theorem scalarStoreResults : ScalarStoreResults := by
  intro p hp f s c h hal
  simp only [stores_exec p hp]
  refine ⟨scalarStore_cmem _ h hal, scalarStore_waits _ h hal, fun v g u hc hq he hfirst hgate hput => ?_,
    fun v g u hc hq hm hfirst hgate hput => ?_⟩
  · rw [scalarStore_taken (p.1 f) h hal hc hq (by rw [State.scalarPut, he]; exact hfirst) hgate (by rw [State.scalarPut, he]; exact hput),
      State.thNow, he]
    rfl
  · rw [scalarStore_taken (p.1 f) h hal hc hq (by rw [State.scalarPut, hm]; exact hfirst) hgate (by rw [State.scalarPut, hm]; exact hput),
      State.thNow, hm]
    rfl

/-! ## Atomics (R191) -/

theorem amoNew_eq : ∀ p ∈ atomicCodes, ∀ z old b e : Nat, amoNew p.1 z old b e = p.2 z old b e := by
  have hmin : ∀ old b : Nat, (if b < old then b else old) = Min.min old b := fun old b => by
    rw [Nat.min_def]; split <;> split <;> omega
  have hmax : ∀ old b : Nat, (if old < b then b else old) = Max.max old b := fun old b => by
    rw [Nat.max_def]; split <;> split <;> omega
  simp [atomicCodes, amoNew, hmin, hmax]

/-- An atomic changes memory when it writes another value than it read (R52). -/
theorem changes_iff (f : AmoF) (z old b e : Nat) : changes f z old b e = true ↔ ∃ n, amoNew f.o.toNat z old b e = some n ∧ n ≠ old := by
  simp [changes, Option.any_eq_true]

/-- An atomic that its place answers: ds are the devices that it targets, and v is the state past the acquire. -/
theorem exec_amo {f : AmoF} {s g u v : State} {c : Ctx} {l : Loc} {old : List Byte} {ds : List Nat} (h : May s c .commit .both) {z : Nat}
    (hz : z = if f.z = 1 then 8 else 4) (hal : (c.x f.a).toNat % z = 0) (hq : c.th.laneFirst true = false)
    (hloc : s.amoLoc c f.s.toNat (c.x f.a).toNat = .ok l) (hlen : old.length = z) (hds : ds = l.dev.toList)
    (hgate : Gated ((f.r == 2 || f.r == 3) && !s.remoteOps.any (fun r => r.who == c.iss && r.sg == c.sg && r.atomic)) s c c.sg
      f.s.toNat ds g)
    (hat : g.amoAt c f.s.toNat z (fun o => amoNew f.o.toNat z o ((c.x f.b).toNat % 2 ^ (8 * z)) ((c.x f.d).toNat % 2 ^ (8 * z)))
      (lowBytes z (c.x f.b) ++ lowBytes z (c.x f.d)) l = (u, .ok old))
    (hv : v = if (f.r = 1 ∨ f.r = 3) ∧ c.isMgmt = false then u.acquire c.ref.core f.s.toNat else u) :
    exec (.amo f) s = (v.clearRemote c.iss c.sg).finish c
      ((if changes f z (leNat old) ((c.x f.b).toNat % 2 ^ (8 * z)) ((c.x f.d).toNat % 2 ^ (8 * z)) then (v.thNow c).clearSpin
        else v.thNow c).setX f.d.toNat (signedBytes old)) := by
  have hg := releaseGate_of_gated hgate
  obtain ⟨hr, hrole, hpl⟩ := h
  show execAmo f s = _
  rw [execAmo, scalarOp_of_ready hr hrole hpl (by simp)]
  simp only [← hz, hal, hq, hloc, ← hds, hg, leBytes_mod, ← lowBytes_eq, hat, ← hv, signBytes_eq hlen, ne_eq, not_true_eq_false, if_false,
    Bool.false_eq_true]

theorem atomicResults : AtomicResults := by
  refine ⟨amoNew_eq, ?_⟩
  intro f s g u c l old h z sc b e sent hal hq hloc hlen hgate hat v th
  have hth : (if changes f z (leNat old) b e then (v.thNow c).clearSpin else v.thNow c) = th := by
    simp only [changes_iff]
    rfl
  have hpc : th.pc = (v.thNow c).pc := by simp only [th]; split <;> rfl
  rw [exec_amo h rfl hal hq hloc hlen (by cases l <;> rfl) hgate hat rfl]
  refine Eq.trans (congrArg (fun y => (v.clearRemote c.iss c.sg).finish c (y.setX f.d.toNat (signedBytes old))) hth) ?_
  rw [State.finish_eq, Thread.setX_pc, hpc]

/-- Settles O32: the loads, stores and atomics by the shared access of each. -/
theorem scalarMemoryResults : Obligations.ScalarMemoryResults := ⟨scalarLoadResults, scalarStoreResults, atomicResults⟩

end Sys2Proof.Machine

namespace Sys2Proof.Machine

open Sys2Proof Sys2Proof.Claims

/-! ## Illegal instructions and roles (R50, R122, R193) -/

section
variable {s : State} {c : Ctx} (h : Ready s c) (hq : c.th.lq = [])
include h hq

section
variable {bad : Ctx → State → Bool} {i : Instr} {k : RoleClass} {pl : Place} {drain : Bool} {body : Ctx → State → Out}

/-- Where the place forbids it, or an operand value is illegal, a drained thread takes cause 0x01 at its PC. -/
theorem scalarOpIf_takes_illegal (hb : (!placeOk c pl || bad c s) = true) :
    scalarOpIf bad i k pl drain body s = .next (s.takeTrap c (faultAt c i 0x01 0 0)) := by
  obtain ⟨hc, hpark, hstop, hwait, hposted⟩ := h
  rw [scalarOpIf_illegal hc hpark hstop hwait (Ctx.dueFailures_nil hposted) hb, State.scalarTrap_empty hq]
  rfl

/-- Where the role forbids it, a legal instruction of a drained thread takes cause 0x02 at its PC. -/
theorem scalarOpIf_takes_role (hb : bad c s = false) (hr : roleAllows c.gang.role k = false) (hpl : placeOk c pl = true) :
    scalarOpIf bad i k pl drain body s = .next (s.takeTrap c (faultAt c i 0x02 0 0)) := by
  obtain ⟨hc, hpark, hstop, hwait, hposted⟩ := h
  rw [scalarOpIf_role hc hpark hstop hwait (Ctx.dueFailures_nil hposted) hb hpl hr, State.scalarTrap_empty hq]
  rfl

theorem scalarOp_takes_illegal (hpl : placeOk c pl = false) :
    scalarOp i k pl drain body s = .next (s.takeTrap c (faultAt c i 0x01 0 0)) :=
  scalarOpIf_takes_illegal h hq (by rw [hpl]; rfl)

theorem scalarOp_takes_role (hr : roleAllows c.gang.role k = false) (hpl : placeOk c pl = true) :
    scalarOp i k pl drain body s = .next (s.takeTrap c (faultAt c i 0x02 0 0)) :=
  scalarOpIf_takes_role h hq rfl hr hpl

end

section
variable {i : Instr} {f : EM} {z : Nat}

/-- A form of core memory has no place on a management core. -/
theorem scalarLoad_takes_illegal (hm : c.isMgmt = true) (hf : f.c = 1) :
    scalarLoad i f z s = .next (s.takeTrap c (faultAt c i 0x01 0 0)) :=
  scalarOp_takes_illegal h hq (by rw [emPlace, if_pos hf, placeOk, hm]; rfl)

theorem scalarStore_takes_illegal (hm : c.isMgmt = true) (hf : f.c = 1) :
    scalarStore i f z s = .next (s.takeTrap c (faultAt c i 0x01 0 0)) :=
  scalarOp_takes_illegal h hq (by rw [emPlace, if_pos hf, placeOk, hm]; rfl)

theorem scalarStore_takes_role (hr : roleAllows c.gang.role .commit = false) (he : c.isMgmt = false) :
    scalarStore i f z s = .next (s.takeTrap c (faultAt c i 0x02 0 0)) := by
  have hpl : placeOk c (emPlace f) = true := by
    rw [emPlace]
    split
    · exact placeOk_edge he
    · rfl
  exact scalarOp_takes_role h hq hr hpl

end

section
variable {i : Instr} {f : EC} {a b d : B5} {k : RoleClass} {pl : Place}

/-- An engine command of a thread is a scalar instruction, which the geometry of a ring may make illegal. -/
theorem engineOp_takes_illegal (hb : badGeometry i c s = true) :
    engineOp i f a b d k pl s = .next (s.takeTrap c (faultAt c i 0x01 0 0)) := by
  have hb' : (!placeOk c pl || badGeometry i c s) = true := by rw [hb, Bool.or_true]
  have hc := h.1
  unfold engineOp
  split
  · rename_i e hcur
    simp [State.ctx, hcur] at hc
  · exact scalarOpIf_takes_illegal h hq hb'

theorem engineOp_takes_role (hr : roleAllows c.gang.role k = false) (hpl : placeOk c pl = true) (hb : badGeometry i c s = false) :
    engineOp i f a b d k pl s = .next (s.takeTrap c (faultAt c i 0x02 0 0)) := by
  have hc := h.1
  unfold engineOp
  split
  · rename_i e hcur
    simp [State.ctx, hcur] at hc
  · exact scalarOpIf_takes_role h hq hb hr hpl

end

/-- The system extension is illegal off a management core. -/
theorem exec_systemOnly_illegal {i : Instr} (hi : systemOnly i = true) (he : c.isMgmt = false) :
    exec i s = .next (s.takeTrap c (faultAt c i 0x01 0 0)) := by
  have hpl : placeOk c .system = false := he
  cases i with
  | wfe => exact (scalarOp_takes_illegal h hq hpl : execWfe s = _)
  | tlbinv a z => exact (scalarOp_takes_illegal h hq hpl : execTlbinv a z s = _)
  | gstRd f => exact (scalarOp_takes_illegal h hq hpl : execGstRd f s = _)
  | gstWr f => exact (scalarOp_takes_illegal h hq hpl : execGstWr f s = _)
  | gstRes f => exact (scalarOp_takes_illegal h hq hpl : execGstRes f s = _)
  | _ => cases hi

/-- The instructions of the lanes, and those of core memory, are illegal on a management core. -/
theorem exec_edgeOnly_illegal {i : Instr} (hi : edgeOnly i = true) (hm : c.isMgmt = true) :
    exec i s = .next (s.takeTrap c (faultAt c i 0x01 0 0)) := by
  have hpl : placeOk c .edge = false := by rw [placeOk, hm]; rfl
  cases i with
  | minv => exact (scalarOp_takes_illegal h hq hpl : execMinv s = _)
  | mpop => exact (scalarOp_takes_illegal h hq hpl : execMpop s = _)
  | regang => exact (scalarOp_takes_illegal h hq hpl : execRegang s = _)
  | exit => exact (scalarOp_takes_illegal h hq hpl : execExit s = _)
  | laneIss n => exact (scalarOp_takes_illegal h hq hpl : execLaneIss n s = _)
  | laneJmp n => exact (scalarOp_takes_illegal h hq hpl : execLaneJmp n s = _)
  | laneJmpInd n => exact (scalarOp_takes_illegal h hq hpl : execLaneJmpInd n s = _)
  | mpush n => exact (scalarOp_takes_illegal h hq hpl : execMpush n s = _)
  | bzM n => exact (scalarOp_takes_illegal h hq hpl : execBzM n s = _)
  | part p n => exact (scalarOp_takes_illegal h hq hpl : execPart p n s = _)
  | bar p n => exact (scalarOp_takes_illegal h hq hpl : execBar p n s = _)
  | jrW d cl n => exact (scalarOp_takes_illegal h hq hpl : execJrW d cl n s = _)
  | ldB f | ldH f | ldW f | ldD f => exact scalarLoad_takes_illegal h hq hm (beq_iff_eq.mp hi)
  | stB f | stH f | stW f | stD f => exact scalarStore_takes_illegal h hq hm (beq_iff_eq.mp hi)
  | _ => cases hi

/-- What a role may not issue takes the role trap. -/
theorem exec_role_trap {i : Instr} (hi : roleMay c.gang.role i = false) (he : c.isMgmt = false)
    (hg : ∀ f : EC, i = .ringArmInit f → ringGeometry (c.x f.a).toNat (s.localSize c.iss) ≠ none) :
    exec i s = .next (s.takeTrap c (faultAt c i 0x02 0 0)) := by
  have hpl : placeOk c .edge = true := placeOk_edge he
  cases i with
  | cpLd f | cpSt f | cpMc f | ringArm f | jn f => exact engineOp_takes_role h hq hi hpl rfl
  | cpG2g f => exact engineOp_takes_role h hq hi rfl rfl
  | ringArmInit f =>
    have hgeo : badGeometry (.ringArmInit f) c s = false := Option.isNone_eq_false_iff.mpr (Option.ne_none_iff_isSome.mp (hg f rfl))
    exact engineOp_takes_role h hq hi hpl hgeo
  | laneIss n => exact (scalarOp_takes_role h hq hi hpl : execLaneIss n s = _)
  | laneJmp n => exact (scalarOp_takes_role h hq hi hpl : execLaneJmp n s = _)
  | laneJmpInd n => exact (scalarOp_takes_role h hq hi hpl : execLaneJmpInd n s = _)
  | kvCmt f | rlkBind f | rlkAcq f | rlkRel f | cairnOpen f | cairnApp f | cairnQry f | cairnSave f | cairnRst f | cairnClose f
  | wpUpd f | wpPre f | launch f => exact engineOp_takes_role h hq hi rfl rfl
  | stB f | stH f | stW f | stD f => exact scalarStore_takes_role h hq hi he
  | amo f => exact (scalarOp_takes_role h hq hi rfl : execAmo f s = _)
  | _ => cases hi

/-! ## csr.wr outside role 0, and of values that its register does not take (R50, R186) -/

theorem exec_csrWr_illegal {a : B5} {n : BitVec 12} (hn : n.toNat ≠ 0x041) (hw : c.th.csrWrite n.toNat (c.x a) = none) :
    exec (.csrWr a n) s = .next (s.takeTrap c (faultAt c (.csrWr a n) 0x01 0 0)) :=
  (scalarOpIf_takes_illegal h hq (by simp [badCsrWrite, hn, hw]) : execCsrWr a n s = _)

theorem exec_csrWr_role {a : B5} {n : BitVec 12} {th : Thread} (hw : c.th.csrWrite n.toNat (c.x a) = some th) (hr : c.gang.role ≠ 0) :
    exec (.csrWr a n) s = .next (s.takeTrap c (faultAt c (.csrWr a n) 0x02 0 0)) :=
  (scalarOpIf_takes_role h hq (by simp [badCsrWrite, hw]) (by simp [roleAllows, hr]) rfl : execCsrWr a n s = _)

end

/-- Settles O25: the places, the roles, the geometry of a ring, then csr.wr. -/
theorem rolesAndPlaces : Obligations.RolesAndPlaces := by
  intro s c i h hq
  refine ⟨exec_systemOnly_illegal h hq, exec_edgeOnly_illegal h hq, exec_role_trap h hq, fun f hi _ hg => ?_,
    fun a n hn hr _ => ?_, fun a => ⟨fun hv => ?_, fun hv => ?_, fun hv hr _ => ?_⟩⟩
  · subst hi
    exact engineOp_takes_illegal h hq (by rw [badGeometry, hg]; rfl)
  · obtain ⟨p, hp, rfl⟩ := List.mem_map.mp hn
    exact exec_csrWr_role h hq ((csrWrites_value p hp).2 c.th (c.x a)).1 hr
  · exact exec_csrWr_illegal h hq (by decide) (if_neg hv)
  · exact exec_csrWr_illegal h hq (by decide) (if_neg (Nat.not_le.mpr hv))
  · exact exec_csrWr_role h hq (if_pos hv) hr

end Sys2Proof.Machine

namespace Sys2Proof.Machine

open Sys2Proof Sys2Proof.Claims

/-! ## What a mask keeps of a box (R36) -/

section
variable {r0 r1 c0 c1 : Nat} {off band : Int}

/-- Every element of a box lies on or below a diagonal when its last corner does. -/
theorem box_below_iff (hr : r0 ≤ r1) (hc : c0 ≤ c1) : (c1 : Int) ≤ r0 + off ↔
    ∀ i j : Nat, r0 ≤ i → i ≤ r1 → c0 ≤ j → j ≤ c1 → (j : Int) ≤ i + off :=
  ⟨fun _ _ _ _ _ _ _ => by omega, fun h => h r0 c1 (Nat.le_refl _) hr hc (Nat.le_refl _)⟩

/-- Every element lies above it when the first corner does. -/
theorem box_above_iff (hr : r0 ≤ r1) (hc : c0 ≤ c1) : (r1 : Int) + off < c0 ↔
    ∀ i j : Nat, r0 ≤ i → i ≤ r1 → c0 ≤ j → j ≤ c1 → ¬ (j : Int) ≤ i + off :=
  ⟨fun _ _ _ _ _ _ _ => by omega, fun h => Int.not_le.mp (h r1 c0 hr (Nat.le_refl _) (Nat.le_refl _) hc)⟩

/-- Every element lies in a band when both corners do. -/
theorem box_in_band_iff (hr : r0 ≤ r1) (hc : c0 ≤ c1) : ((c1 : Int) ≤ r0 + off ∧ r1 + off - band < c0) ↔
    ∀ i j : Nat, r0 ≤ i → i ≤ r1 → c0 ≤ j → j ≤ c1 → (i : Int) + off - band < j ∧ (j : Int) ≤ i + off :=
  ⟨fun _ _ _ _ _ _ _ => by omega, fun h =>
    ⟨(h r0 c1 (Nat.le_refl _) hr hc (Nat.le_refl _)).2, (h r1 c0 hr (Nat.le_refl _) (Nat.le_refl _) hc).1⟩⟩

/-- A box that no corner puts wholly above or below a band has an element in it: the differences of column and row take every
value between those of the corners. -/
theorem box_meets_band (hr : r0 ≤ r1) (hc : c0 ≤ c1) (hb : 1 ≤ band) (habove : (c0 : Int) ≤ r1 + off) (hbelow : r0 + off - band < c1) :
    ∃ i j : Nat, r0 ≤ i ∧ i ≤ r1 ∧ c0 ≤ j ∧ j ≤ c1 ∧ (i : Int) + off - band < j ∧ (j : Int) ≤ i + off := by
  by_cases hcorner : (c1 : Int) ≤ r0 + off
  · exact ⟨r0, c1, by omega⟩
  · by_cases hrow : (c1 : Int) ≤ r1 + off
    · exact ⟨(c1 - off).toNat, c1, by omega⟩
    · exact ⟨r1, (r1 + off).toNat, by omega⟩

/-- No element lies in the band when the box lies wholly above or below it. -/
theorem box_off_band_iff (hr : r0 ≤ r1) (hc : c0 ≤ c1) (hb : 1 ≤ band) : ((r1 : Int) + off < c0 ∨ (c1 : Int) ≤ r0 + off - band) ↔
    ∀ i j : Nat, r0 ≤ i → i ≤ r1 → c0 ≤ j → j ≤ c1 → ¬ ((i : Int) + off - band < j ∧ (j : Int) ≤ i + off) := by
  refine ⟨fun _ _ _ _ _ _ _ => by omega, fun h => ?_⟩
  by_contra hmeets
  obtain ⟨i, j, hi0, hi1, hj0, hj1, hin⟩ := box_meets_band (off := off) hr hc hb (by omega) (by omega)
  exact h i j hi0 hi1 hj0 hj1 hin

end

/-! ### KEPT, mask by mask -/

section
variable {d : Desc} {bs lo hi : List Nat}

theorem kept_full (h : d.mask = 0) : kept d bs lo hi = 2 := by simp only [kept, h]

/-- Under the causal mask: NONE above the diagonal, ALL below it. -/
theorem kept_causal (h : d.mask = 1) (hr : lo.getD d.mi 0 ≤ hi.getD d.mi 0) (hc : lo.getD d.mj 0 ≤ hi.getD d.mj 0) :
    (kept d bs lo hi = 2 ↔ (hi.getD d.mj 0 : Int) ≤ lo.getD d.mi 0 + d.moff) ∧
    (kept d bs lo hi = 0 ↔ (hi.getD d.mi 0 : Int) + d.moff < lo.getD d.mj 0) := by
  simp only [kept, h]
  split
  · omega
  · split <;> omega

/-- Under the banded mask: NONE above or below the band, ALL within it. -/
theorem kept_banded (h : d.mask = 2) (hr : lo.getD d.mi 0 ≤ hi.getD d.mi 0) (hc : lo.getD d.mj 0 ≤ hi.getD d.mj 0) :
    (kept d bs lo hi = 2 ↔ (hi.getD d.mj 0 : Int) ≤ lo.getD d.mi 0 + d.moff ∧ (hi.getD d.mi 0 : Int) + d.moff - d.mband < lo.getD d.mj 0) ∧
    (kept d bs lo hi = 0 ↔ (hi.getD d.mi 0 : Int) + d.moff < lo.getD d.mj 0 ∨ (hi.getD d.mj 0 : Int) ≤ lo.getD d.mi 0 + d.moff - d.mband) := by
  simp only [kept, h]
  split
  · omega
  · split <;> omega

/-- Under the tree mask a tile outside the tree is ALL, and one of it SOME. -/
theorem kept_tree (h : d.mask = 3) : kept d bs lo hi ≠ 0 ∧
    (kept d bs lo hi = 2 ↔ d.mband ≤ lo.getD d.mi 0 ∨ (hi.getD d.mj 0 : Int) < (bs.getD d.mj 0 : Int) - d.mband) := by
  simp only [kept, h]
  split <;> omega

end

/-- Settles O13: each mask's conditions on the corners of the box, and what they say of its elements. -/
theorem keptTellsWhichElementsRemain : Obligations.KeptTellsWhichElementsRemain := by
  intro d bs lo hi r0 r1 c0 c1 hr hc k all
  refine ⟨kept_full, fun h => ?_, fun h hb => ?_, kept_tree⟩
  · obtain ⟨hall, hnone⟩ := kept_causal (bs := bs) h hr hc
    exact ⟨hall.trans (box_below_iff hr hc), hnone.trans (box_above_iff hr hc)⟩
  · obtain ⟨hall, hnone⟩ := kept_banded (bs := bs) h hr hc
    exact ⟨hall.trans (box_in_band_iff hr hc), hnone.trans (box_off_band_iff hr hc (by omega))⟩

end Sys2Proof.Machine

namespace Sys2Proof

/-! ## Records as fields: a width in bytes and a value each -/

/-- The bytes of a list of fields, one after another. -/
def fieldBytes (fs : List (Nat × Nat)) : List Byte := fs.flatMap (fun x => leBytes x.1 x.2)

/-- The width of the fields before field k. -/
def fieldsWidth (fs : List (Nat × Nat)) (k : Nat) : Nat := ((fs.take k).map Prod.fst).sum

theorem length_fieldBytes (fs : List (Nat × Nat)) : (fieldBytes fs).length = fieldsWidth fs fs.length := by
  rw [fieldBytes, List.length_flatMap, fieldsWidth, List.take_length]
  exact congrArg List.sum (List.map_congr_left fun x _ => length_leBytes x.1 x.2)

/-- Fields before k, and those from k on. -/
theorem fieldBytes_split (fs : List (Nat × Nat)) (k : Nat) : fieldBytes fs = fieldBytes (fs.take k) ++ fieldBytes (fs.drop k) := by
  rw [fieldBytes, fieldBytes, fieldBytes, ← List.flatMap_append, List.take_append_drop]

theorem length_fieldBytes_take (fs : List (Nat × Nat)) (k : Nat) : (fieldBytes (fs.take k)).length = fieldsWidth fs k := by
  rw [length_fieldBytes, fieldsWidth, List.take_length, fieldsWidth]

theorem drop_fieldBytes (fs : List (Nat × Nat)) (k : Nat) : (fieldBytes fs).drop (fieldsWidth fs k) = fieldBytes (fs.drop k) := by
  rw [fieldBytes_split fs k]
  exact List.drop_left' (length_fieldBytes_take fs k)

theorem take_fieldBytes (fs : List (Nat × Nat)) (k : Nat) : (fieldBytes fs).take (fieldsWidth fs k) = fieldBytes (fs.take k) := by
  rw [fieldBytes_split fs k]
  exact List.take_left' (length_fieldBytes_take fs k)

/-- Field k stands at its offset. -/
theorem leNat_field {fs : List (Nat × Nat)} {k n v o : Nat} (h : fs[k]? = some (n, v)) (ho : fieldsWidth fs k = o) :
    leNat (((fieldBytes fs).drop o).take n) = v % 256 ^ n := by
  obtain ⟨hk, hv⟩ := List.getElem?_eq_some_iff.mp h
  have hfield : (fieldBytes (fs.drop k)).take n = leBytes n v := by
    rw [List.drop_eq_getElem_cons hk, hv, fieldBytes, List.flatMap_cons]
    exact List.take_left' (length_leBytes n v)
  rw [← ho, drop_fieldBytes, hfield, leNat_leBytes]

/-- Fields of value zero are zero bytes. -/
theorem zeroAt_fields {fs : List (Nat × Nat)} {k j o e : Nat} (hz : ∀ x ∈ (fs.drop k).take j, x.2 = 0) (ho : fieldsWidth fs k = o)
    (he : fieldsWidth (fs.drop k) j = e - o) : zeroAt (fieldBytes fs) o e = true := by
  have hzero : ∀ n : Nat, ∀ b ∈ leBytes n 0, b = (0 : Byte) := by
    intro n
    induction n with
    | zero => simp [leBytes]
    | succ n ih => simpa [leBytes] using ih
  rw [zeroAt, ← ho, drop_fieldBytes, ho, ← he, take_fieldBytes, List.all_eq_true]
  intro b hb
  obtain ⟨x, hx, hbx⟩ := List.mem_flatMap.mp hb
  rw [hz x hx] at hbx
  exact beq_iff_eq.mpr (hzero _ b hbx)

end Sys2Proof

namespace Sys2Proof.Machine

open Sys2Proof Sys2Proof.Claims

/-! ## Tile entries (R39) -/

/-- A number of sixteen-bit digits, digit by digit. -/
theorem bits_digits {a b c d : Nat} (ha : a < 65536) (hb : b < 65536) (hc : c < 65536) (hd : d < 65536) :
    let w := BitVec.ofNat 64 (a + b * 2 ^ 16 + c * 2 ^ 32 + d * 2 ^ 48)
    bits w 15 0 = a ∧ bits w 31 16 = b ∧ bits w 47 32 = c ∧ bits w 63 48 = d := by
  simp only [bits, BitVec.toNat_ofNat]
  omega

/-! ## Records of items (R40, R42) -/

/-- The fields of an item's record, each with its width in bytes. -/
def recordFields (d : Desc) (it : Item) : List (Nat × Nat) :=
  [(4, it.t.getD 0 0), (4, it.t.getD 1 0), (4, it.t.getD 2 0), (4, it.t.getD 3 0),
    (4, it.lo.getD 0 0), (4, it.lo.getD 1 0), (4, it.lo.getD 2 0), (4, it.lo.getD 3 0),
    (2, it.vext.getD 0 0), (2, it.vext.getD 1 0), (2, it.vext.getD 2 0), (2, it.vext.getD 3 0), (1, it.cls), (1, d.mask), (2, 0),
    (4, if d.grouped then it.group else 2 ^ 32 - 1), (4, wrapN 32 d.moff), (4, d.mband),
    (4, if it.cls = 3 then it.sstat else 0), (2, if it.cls = 3 then it.sbun else 0), (1, if it.cls = 3 then it.seng else 0), (1, 0)]

theorem itemRecord_eq (d : Desc) (it : Item) : itemRecord d it = fieldBytes (recordFields d it) := by
  simp [itemRecord, fieldBytes, recordFields, span, zeros, leBytes]

theorem length_itemRecord (d : Desc) (it : Item) : (itemRecord d it).length = 64 := by
  rw [itemRecord_eq, length_fieldBytes]
  simp [fieldsWidth, recordFields]

/-- A signed number of 32 bits is what its word tells. -/
theorem sx_wrapN {z : Int} (hlo : -(2 : Int) ^ 31 ≤ z) (hhi : z < 2 ^ 31) : sx 32 (wrapN 32 z) = z := by
  rw [sx, wrapN]
  split <;> omega

section
variable (d : Desc) (it : Item)

/-- Field k of a record, at its offset. -/
theorem itemRecord_field {k n v o : Nat} (h : (recordFields d it)[k]? = some (n, v)) (ho : fieldsWidth (recordFields d it) k = o)
    (hv : v < 256 ^ n) : leNat (((itemRecord d it).drop o).take n) = v := by
  rw [itemRecord_eq, leNat_field h ho, Nat.mod_eq_of_lt hv]

/-- Where the indices, the origin and the valid extents of dimension i stand. -/
theorem recordFields_dims {i : Nat} (hi : i < 4) :
    ((recordFields d it)[i]? = some (4, it.t.getD i 0) ∧ fieldsWidth (recordFields d it) i = 4 * i) ∧
    ((recordFields d it)[4 + i]? = some (4, it.lo.getD i 0) ∧ fieldsWidth (recordFields d it) (4 + i) = 16 + 4 * i) ∧
    (recordFields d it)[8 + i]? = some (2, it.vext.getD i 0) ∧ fieldsWidth (recordFields d it) (8 + i) = 32 + 2 * i := by
  obtain rfl | rfl | rfl | rfl : i = 0 ∨ i = 1 ∨ i = 2 ∨ i = 3 := by omega
  all_goals exact ⟨⟨rfl, rfl⟩, ⟨rfl, rfl⟩, rfl, by simp [fieldsWidth, recordFields]⟩

theorem itemRecord_dims {i : Nat} (hi : i < 4) (h : it.t.getD i 0 < 2 ^ 32 ∧ it.lo.getD i 0 < 2 ^ 32 ∧ it.vext.getD i 0 < 65536) :
    u32At (itemRecord d it) (4 * i) = it.t.getD i 0 ∧ u32At (itemRecord d it) (16 + 4 * i) = it.lo.getD i 0 ∧
    u16At (itemRecord d it) (32 + 2 * i) = it.vext.getD i 0 := by
  obtain ⟨⟨ht, ht'⟩, ⟨hl, hl'⟩, hv, hv'⟩ := recordFields_dims d it hi
  obtain ⟨hbt, hbl, hbv⟩ := h
  exact ⟨itemRecord_field d it ht ht' hbt, itemRecord_field d it hl hl' hbl, itemRecord_field d it hv hv' hbv⟩

theorem itemRecord_class (h : it.cls < 256) : u8At (itemRecord d it) 0x28 = it.cls :=
  itemRecord_field d it (k := 12) rfl (by simp [fieldsWidth, recordFields]) h

theorem itemRecord_mask (h : d.mask < 256) : u8At (itemRecord d it) 0x29 = d.mask :=
  itemRecord_field d it (k := 13) rfl (by simp [fieldsWidth, recordFields]) h

theorem itemRecord_group (h : it.group < 65536) : u32At (itemRecord d it) 0x2C = if d.grouped then it.group else 2 ^ 32 - 1 :=
  itemRecord_field d it (k := 15) rfl (by simp [fieldsWidth, recordFields]) (by split <;> omega)

theorem itemRecord_moff (hlo : -(2 : Int) ^ 31 ≤ d.moff) (hhi : d.moff < 2 ^ 31) : sx 32 (u32At (itemRecord d it) 0x30) = d.moff := by
  have hlt : wrapN 32 d.moff < 256 ^ 4 := by rw [wrapN]; omega
  have hfield : u32At (itemRecord d it) 0x30 = wrapN 32 d.moff :=
    itemRecord_field d it (k := 16) rfl (by simp [fieldsWidth, recordFields]) hlt
  rw [hfield, sx_wrapN hlo hhi]

theorem itemRecord_mband (h : d.mband < 2 ^ 32) : u32At (itemRecord d it) 0x34 = d.mband :=
  itemRecord_field d it (k := 17) rfl (by simp [fieldsWidth, recordFields]) h

/-- The bytes between the mask and the group are zero, and so are those past the mask fields of an item that is no fallback. -/
theorem itemRecord_reserved : zeroAt (itemRecord d it) 0x2A 0x2C = true := by
  rw [itemRecord_eq]
  exact zeroAt_fields (k := 14) (j := 1) (by simp [recordFields]) (by simp [fieldsWidth, recordFields]) (by simp [fieldsWidth, recordFields])

theorem itemRecord_tail (h : it.cls ≠ 3) : zeroAt (itemRecord d it) 0x38 0x40 = true := by
  rw [itemRecord_eq]
  exact zeroAt_fields (k := 18) (j := 4) (by simp [recordFields, h]) (by simp [fieldsWidth, recordFields])
    (by simp [fieldsWidth, recordFields])

end

/-- The end record stands for no tile (R42; log entry 70). -/
theorem endRecord_noTile (d : Desc) : zeroAt (endRecord d) 0 0x28 = true := by
  rw [endRecord, itemRecord_eq]
  exact zeroAt_fields (k := 0) (j := 12) (by simp [recordFields]) rfl (by simp [fieldsWidth, recordFields])

/-- Settles O14: the entry digit by digit, the records field by field. -/
theorem entriesAndRecords : Obligations.EntriesAndRecords := by
  refine ⟨fun d it ht hg => ?_, fun d it hf hc hm hg hb => ?_, fun d hm hb => ?_⟩
  · have htop : (if d.grouped = true then it.group else it.t.getD 3 0) < 65536 := by
      split
      · exact hg
      · exact ht 3 (by decide)
    obtain ⟨h0, h1, h2, h3⟩ := bits_digits (ht 0 (by decide)) (ht 1 (by decide)) (ht 2 (by decide)) htop
    refine ⟨fun i hi => ?_, h3⟩
    obtain rfl | rfl | rfl : i = 0 ∨ i = 1 ∨ i = 2 := by omega
    · exact h0
    · exact h1
    · exact h2
  · exact ⟨length_itemRecord d it, fun i hi => itemRecord_dims d it hi (hf i hi), itemRecord_class d it hc, itemRecord_mask d it hm, itemRecord_group d it hg,
      itemRecord_mband d it hb, itemRecord_moff d it, itemRecord_tail d it⟩
  · exact ⟨length_itemRecord d _, itemRecord_class d _ (by decide), itemRecord_mask d _ hm, itemRecord_mband d _ hb,
      itemRecord_moff d _, itemRecord_group d _ (by decide), endRecord_noTile d, itemRecord_reserved d _, itemRecord_tail d _ (by decide)⟩

end Sys2Proof.Machine

namespace Sys2Proof

/-! ## Fields read off a list by position -/

/-- A list read at every place is itself. -/
theorem map_span_getD {α : Type} (d : α) : ∀ l : List α, (span 0 l.length).map (l.getD · d) = l := by
  intro l
  refine List.ext_getElem (by simp) fun i h1 h2 => ?_
  simp [span_eq_range', h2]

/-- Some element of a list at its place meets a test. -/
theorem any_zip_span {α : Type} (d : α) (p : Nat → α → Bool) (l : List α) :
    ((span 0 l.length).zip l).any (fun x => p x.1 x.2) = true ↔ ∃ i < l.length, p i (l.getD i d) = true := by
  simp only [List.any_eq_true, List.mem_iff_getElem, span_eq_range', Prod.exists]
  constructor
  · rintro ⟨a, b, ⟨i, hi, heq⟩, hp⟩
    simp only [List.getElem_zip, List.getElem_range', Prod.mk.injEq] at heq
    obtain ⟨rfl, rfl⟩ := heq
    have hi' : i < l.length := by simpa using hi
    exact ⟨i, hi', by simpa [hi'] using hp⟩
  · rintro ⟨i, hi, hp⟩
    exact ⟨i, l.getD i d, ⟨i, by simpa using hi, by simp [hi]⟩, hp⟩

end Sys2Proof

namespace Sys2Proof.Machine

open Sys2Proof Sys2Proof.Claims

/-! ## The reads of the splitter when every bound is given (R34) -/

theorem State.beginLaunch_eq (s : State) (k : Nat) (l : Launch) : s.beginLaunch k l = opened s k l := rfl

/-- Bounds given in the descriptor are read off it. -/
theorem State.readBounds_given {s : State} {k p : Nat} {d : Desc} : ∀ {is : List Nat},
    (∀ i ∈ is, (d.bounds.getD i (0, 0)).2 = 0 ∧ (d.bounds.getD i (0, 0)).1 < 2 ^ 64) →
    s.readBounds k p d is = (s, is.map (fun i => (d.bounds.getD i (0, 0)).1), .ok)
  | [], _ => rfl
  | i :: is, h => by
    obtain ⟨⟨hsrc, hval⟩, hrest⟩ := List.forall_mem_cons.mp h
    have hbytes : leNat (leBytes 8 (d.bounds.getD i (0, 0)).1) = (d.bounds.getD i (0, 0)).1 := by
      rw [leNat_leBytes]
      exact Nat.mod_eq_of_lt hval
    simp only [State.readBounds, hsrc, if_true, State.readBounds_given hrest, hbytes, List.map_cons]

/-- Without groups no offsets vector is read, and the launch is classified (R34, R43). -/
theorem State.readGroups_plain {s : State} {k : Nat} {l : Launch} (h : l.desc.grouped = false) (hv : l.vec = []) :
    s.readGroups k l = (s.clearRemote (.mgmt (s.shub l.part)) (splitSg k)).classifyLaunch k l l.reads [] := by
  simp only [State.readGroups, State.readVec, h, hv, Bool.false_eq_true, if_false, List.append_nil]
  rfl

/-- The launch of a dispatch that begins, its bounds read. -/
def bounded (l : Launch) (bs : List Nat) : Launch := { l with began := true, reads := bs }

section
variable {s : State} {k : Nat} {l : Launch} (h : Begins s k l)
include h

/-- Nothing holds a launch that begins. -/
theorem not_held_of_begins : ¬ (l.st ≠ .arrived ∨ s.partLive l.part = false ∨ s.firstInQueue k l = false ∨
    s.stalled (.splitter k) = true ∨ (l.desc.bwait = true ∧ l.links.any (s.linkOpen l.part) = true)) := by
  obtain ⟨-, -, hst, hlive, hfirst, hstall, hwait, -, -⟩ := h
  simpa [hst, hlive, hfirst, hstall] using hwait

/-- A descriptor's own failing field refuses the launch (R34, step 1). -/
theorem exec_launchBeginDispatch_bad (hbad : l.bad ≠ 0) :
    exec .launchBeginDispatch s = .next ((opened s k l).refuseLaunch k l.bad 0xFFFFFFFF) := by
  have hgo := not_held_of_begins h
  obtain ⟨hl, rfl, -⟩ := h
  show execLaunchBeginDispatch s = _
  simp only [execLaunchBeginDispatch, hl]
  rw [if_neg hgo, if_pos hbad, State.beginLaunch_eq]

/-- With every bound given the launch is checked against them (R34, step 2). -/
theorem exec_launchBeginDispatch_given (hbad : l.bad = 0) {bs : List Nat}
    (hgiven : ∀ i < l.desc.rank, (l.desc.bounds.getD i (0, 0)).2 = 0 ∧ (l.desc.bounds.getD i (0, 0)).1 < 2 ^ 64)
    (hbs : (span 0 l.desc.rank).map (fun i => (l.desc.bounds.getD i (0, 0)).1) = bs) : exec .launchBeginDispatch s = .next
      (if ((span 0 bs.length).zip bs).any (fun x => boundTooBig l.desc x.1 x.2) then (opened s k l).refuseRead k (bounded l bs) 3 0xFFFFFFFF
        else if l.desc.mask = 3 ∧ bs.getD l.desc.mj 0 < l.desc.mband then (opened s k l).refuseRead k (bounded l bs) 1 0xFFFFFFFF
        else (opened s k l).readGroups k (bounded l bs)) := by
  have hgo := not_held_of_begins h
  obtain ⟨hl, rfl, -, -, -, -, -, hreads, -⟩ := h
  have hread : (opened s s.inp.a l).readBounds s.inp.a l.part l.desc (span 0 l.desc.rank) = (opened s s.inp.a l, bs, .ok) := by
    rw [← hbs]
    exact State.readBounds_given fun i hi => hgiven i (by simpa using (mem_span.mp hi).2)
  show execLaunchBeginDispatch s = _
  simp only [execLaunchBeginDispatch, hl]
  rw [if_neg hgo, if_neg (not_not.mpr hbad), State.beginLaunch_eq, hreads, List.length_nil, List.drop_zero, hread]
  simp only [reduceCtorEq, if_false, List.nil_append, bounded]
  split
  · rfl
  · split <;> rfl

/-- A bound that is too big refuses the launch with cause 0x03. -/
theorem exec_launchBeginDispatch_badBound (hbad : l.bad = 0) (hb : BadBound l.desc) : exec .launchBeginDispatch s = .next
    (((opened s k l).clearRemote (.mgmt ((opened s k l).shub l.part)) (splitSg k)).refuseLaunch k 3 0xFFFFFFFF) := by
  obtain ⟨hgiven, i, hi, hbig⟩ := hb
  have hany : ((span 0 ((span 0 l.desc.rank).map (fun i => (l.desc.bounds.getD i (0, 0)).1)).length).zip
      ((span 0 l.desc.rank).map (fun i => (l.desc.bounds.getD i (0, 0)).1))).any (fun x => boundTooBig l.desc x.1 x.2) = true := by
    refine (any_zip_span 0 (boundTooBig l.desc) _).mpr ⟨i, by simpa using hi, ?_⟩
    have hval : ((span 0 l.desc.rank).map (fun i => (l.desc.bounds.getD i (0, 0)).1)).getD i 0 = (l.desc.bounds.getD i (0, 0)).1 := by
      simp [span_eq_range', hi]
    rw [hval, boundTooBig, Bool.or_eq_true, decide_eq_true_iff, decide_eq_true_iff]
    exact hbig.imp_left Nat.lt_of_succ_le
  rw [exec_launchBeginDispatch_given h hbad hgiven rfl, if_pos hany]
  rfl

/-- Bounds that are given and fit go on to the classification. -/
theorem exec_launchBeginDispatch_classifies (hbad : l.bad = 0) {bs : List Nat} (hb : GivenBounds l.desc bs) (hg : l.desc.grouped = false)
    (hm : l.desc.mask ≠ 3) : exec .launchBeginDispatch s = .next
    (((opened s k l).clearRemote (.mgmt ((opened s k l).shub l.part)) (splitSg k)).classifyLaunch k (bounded l bs) bs []) := by
  obtain ⟨-, -, hlen, hfit⟩ := hb
  have hbs : (span 0 l.desc.rank).map (fun i => (l.desc.bounds.getD i (0, 0)).1) = bs := by
    rw [← map_span_getD 0 bs, hlen]
    exact List.map_congr_left fun i hi => congrArg Prod.fst (hfit i (by simpa using (mem_span.mp hi).2)).1
  have hnone : ¬ ((span 0 bs.length).zip bs).any (fun x => boundTooBig l.desc x.1 x.2) = true := by
    rw [any_zip_span 0 (boundTooBig l.desc) bs]
    rintro ⟨i, hi, hbig⟩
    obtain ⟨-, hlt, -, hcount⟩ := hfit i (hlen ▸ hi)
    simp only [boundTooBig, tileCount, Bool.or_eq_true, decide_eq_true_iff] at hbig
    rcases hbig with hbig | hbig
    · omega
    · exact absurd hcount (Nat.not_le.mpr (of_decide_eq_true hbig))
  have hvec : l.vec = [] := h.2.2.2.2.2.2.2.2
  rw [exec_launchBeginDispatch_given h hbad (fun i hi => by rw [(hfit i hi).1]; have := (hfit i hi).2.1; exact ⟨rfl, by omega⟩) hbs,
    if_neg hnone, if_neg (fun hand => hm hand.1), State.readGroups_plain (l := bounded l bs) hg hvec]
  rfl

end

/-! ## What the classification leaves (R35 to R37) -/

theorem State.sameUnits_opened (s : State) (k : Nat) (l : Launch) : SameUnits s (opened s k l) := by
  unfold opened
  split
  · exact ⟨rfl, rfl, rfl, rfl, rfl, rfl, rfl, rfl, rfl⟩
  · exact ⟨rfl, rfl, rfl, rfl, rfl, rfl, rfl, rfl, rfl⟩

theorem State.sameUnits_trans {s t u : State} (hst : SameUnits s t) (htu : SameUnits t u) : SameUnits s u := by
  obtain ⟨hmem, hbad, hcores, htiles, hmgmts, hcairns, hway, hdmode, htime⟩ := hst
  simpa only [SameUnits, hmem, hbad, hcores, htiles, hmgmts, hcairns, hway, hdmode, htime] using htu

section
variable {s : State} {k : Nat} {l : Launch} {bs offs : List Nat}

/-- An item for an edge core without an edge body refuses the launch with cause 0x07 (R37). -/
theorem State.classifyLaunch_noEdgeBody (he : l.desc.eslen = 0) (hi : ∃ i ∈ (allTiles l.desc bs offs).filterMap id, i.onTile = false) :
    s.classifyLaunch k l bs offs = s.refuseLaunch k 7 0xFFFFFFFF := by
  obtain ⟨i, hmem, hon⟩ := hi
  have hany : (((allTiles l.desc bs offs).filterMap id).any (fun i => !i.onTile) && l.desc.eslen == 0) = true := by
    rw [Bool.and_eq_true, List.any_eq_true]
    exact ⟨⟨i, hmem, by rw [hon]; rfl⟩, beq_iff_eq.mpr he⟩
  unfold State.classifyLaunch
  exact if_pos hany

/-- What the classification makes of a launch (R35 to R37). -/
def State.classified (s : State) (l : Launch) (bs offs : List Nat) : Launch :=
  let items := (allTiles l.desc bs offs).filterMap id
  { l with
    st := if items = [] then .dispatched else .dispatching
    bounds := bs, items := items, nvoid := ((allTiles l.desc bs offs).filter Option.isNone).length
    cursor := ((s.unitOrder l.part).map (s.logUnit l.part)).headD 0
    askTiles := if l.desc.persist then askFor l.desc.pte (items.filter Item.onTile).length (s.partUnits l.part).length else 0
    askCores := if l.desc.persist then askFor l.desc.pec (items.filter (fun i => !i.onTile)).length (s.partUnits l.part).length else 0 }

/-- A launch with items dispatches. -/
theorem State.classifyLaunch_items (hne : (allTiles l.desc bs offs).filterMap id ≠ [])
    (hok : l.desc.eslen ≠ 0 ∨ ∀ i ∈ (allTiles l.desc bs offs).filterMap id, i.onTile = true) :
    s.classifyLaunch k l bs offs = s.setLaunch k (s.classified l bs offs) := by
  have hany : ¬ (((allTiles l.desc bs offs).filterMap id).any (fun i => !i.onTile) && l.desc.eslen == 0) = true := by
    rw [Bool.and_eq_true, List.any_eq_true, beq_iff_eq]
    rintro ⟨⟨i, hmem, hon⟩, he⟩
    rcases hok with hok | hok
    · exact hok he
    · rw [hok i hmem] at hon; cases hon
  unfold State.classifyLaunch
  exact (if_neg hany).trans (if_neg hne)

/-- An empty launch leaves its queue and closes, once nothing of it runs (R37). -/
theorem State.classifyLaunch_empty (hnil : (allTiles l.desc bs offs).filterMap id = []) (hc : l.cause = 0) (ht : l.tiles = []) (hcs : l.cores = []) :
    ∃ v : State, v.launch k = some (s.classified l bs offs) ∧ SameUnits s v ∧ s.classifyLaunch k l bs offs = v.closeLaunch k 1 0 := by
  have hany : ¬ (((allTiles l.desc bs offs).filterMap id).any (fun i => !i.onTile) && l.desc.eslen == 0) = true := by rw [hnil]; exact Bool.false_ne_true
  let u := s.setLaunch k (s.classified l bs offs)
  let h := u.hwq l.part l.queue
  let v := u.setHwq l.part l.queue { h with fifo := h.fifo.filter (· != k) }
  have hv : v.launch k = some (s.classified l bs offs) := (State.launch_setLaunch s k k _).trans (if_pos rfl)
  have hfin : (s.classified l bs offs).finished = true := by
    have hst : (s.classified l bs offs).st = .dispatched := if_pos hnil
    have hitems : (s.classified l bs offs).items = [] := hnil
    have htiles : (s.classified l bs offs).tiles = [] := ht
    have hcores : (s.classified l bs offs).cores = [] := hcs
    rw [Launch.finished, hst, hitems, htiles, hcores]
    rfl
  have hcause : (s.classified l bs offs).cause = 0 := hc
  refine ⟨v, hv, ⟨rfl, rfl, rfl, rfl, rfl, rfl, rfl, rfl, rfl⟩, ?_⟩
  have hclose : v.tryClose k = v.closeLaunch k 1 0 := by
    rw [State.tryClose, hv]
    simp only [hfin, if_true, hcause]
  rw [← hclose]
  unfold State.classifyLaunch
  exact (if_neg hany).trans (if_pos hnil)

/-- Every tile of a space without items is void. -/
theorem length_filter_isNone {α : Type} : ∀ {xs : List (Option α)}, xs.filterMap id = [] → (xs.filter Option.isNone).length = xs.length := by
  intro xs h
  have hall : ∀ x ∈ xs, x.isNone = true := fun x hx => Option.isNone_iff_eq_none.mpr (List.filterMap_eq_nil_iff.mp h x hx)
  rw [List.filter_eq_self.mpr hall]

end

/-! ## The milestone (R47) -/

/-- The record of R47 is the model's. -/
theorem milestone_eq_milestoneBytes (l : Launch) (o c time : Nat) : milestone l o c time = milestoneBytes l o c time := by
  have hspan : ∀ n v : Nat, (span 0 n).map (fun i => BitVec.ofNat 8 (v / 256 ^ i)) = leBytes n v := fun n v => by
    rw [map_span_bytes, Nat.pow_zero, Nat.div_one]
  simp only [milestone, milestoneBytes, List.flatMap_cons, List.flatMap_nil, hspan, List.append_nil, List.append_assoc]

section
variable {s : State} {k : Nat} {l : Launch} (hl : s.launch k = some l)
include hl

/-- A launch of no run ends once its record is written or lost. -/
theorem State.closeLaunch_alone (hrun : l.run = none) (o c : Nat) : s.closeLaunch k o c =
    ended (s.writeRecord l.part l.queue l.desc.msaddr (milestone l o c (s.timeOf l.part)) false) k l := by
  rw [milestone_eq_milestoneBytes]
  simp only [State.closeLaunch, hl, State.msAddr, hrun, ended]

/-- The counts of a refused launch are zero. -/
theorem State.refuseLaunch_eq (cause fb : Nat) : s.refuseLaunch k cause fb =
    (s.setLaunch k { l with nfull := 0, npart := 0, nmask := 0, nvoid := 0, nfall := 0, nabort := 0, firstbad := fb }).closeLaunch k 2 cause := by
  simp only [State.refuseLaunch, hl]

end

/-- A record with no place to go tells the management core. -/
theorem State.writeRecord_error {s : State} {p q va a : Nat} {bytes : List Byte} {e : MErr}
    (h : s.writeOwn 600 p va bytes = .error (e, a)) (hstray : e ≠ .stray) (hwalk : e ≠ .fault strayWalk) :
    s.writeRecord p q va bytes false = s.pushEvent (s.shub p) (eventWord 3 (p * 2 ^ 12 + q * 2 ^ 4)) := by
  have hcount : s.countErr e = s := if_neg (not_or.mpr ⟨hstray, hwalk⟩)
  simp only [State.writeRecord, h, hcount, b2n, Bool.false_eq_true, if_false, Nat.add_zero]

/-- Settles O12: each refusal and the two ends of the classification from the lemma of its branch, the record from its layout. -/
theorem launchResults : Obligations.LaunchResults := by
  unfold Obligations.LaunchResults
  intro s k l
  refine ⟨fun h => ?_, fun hl => ⟨fun u o c hrun hok => ?_, fun e a o c hrun hstray hwalk herr => ?_, State.refuseLaunch_eq hl⟩⟩
  · refine ⟨exec_launchBeginDispatch_bad h, fun hbad hb => ⟨_, rfl, exec_launchBeginDispatch_badBound h hbad hb⟩,
      fun bs hbad hb hg hm => ?_⟩
    have hexec := exec_launchBeginDispatch_classifies h hbad hb hg hm
    refine ⟨fun hne hok => ?_, fun hnil hc ht hcs => ?_, fun he hi => ⟨(opened s k l).clearRemote (.mgmt ((opened s k l).shub l.part)) (splitSg k), rfl, ?_⟩⟩
    · rw [State.classifyLaunch_items (l := bounded l bs) hne hok] at hexec
      exact ⟨_, _, hexec, (State.launch_setLaunch _ k k _).trans (if_pos rfl), if_neg hne, rfl, rfl, rfl, rfl, State.sameUnits_opened s k l⟩
    · obtain ⟨v, hv, hsame, hclose⟩ := State.classifyLaunch_empty
        (s := (opened s k l).clearRemote (.mgmt ((opened s k l).shub l.part)) (splitSg k)) (k := k) (l := bounded l bs) (bs := bs) (offs := []) hnil hc ht hcs
      rw [hclose] at hexec
      exact ⟨v, _, hv, State.sameUnits_trans (State.sameUnits_opened s k l) hsame, length_filter_isNone hnil, rfl, hexec⟩
    · rw [hexec, State.classifyLaunch_noEdgeBody (l := bounded l bs) he hi]
  · rw [State.closeLaunch_alone hl hrun, State.writeRecord, hok]
  · rw [State.closeLaunch_alone hl hrun, State.writeRecord_error herr hstray hwalk]

end Sys2Proof.Machine

namespace Sys2Proof.Machine

open Sys2Proof Sys2Proof.Claims

/-! ## A crew that comes to a core whose L1 holds a dirty line of another device

State.invalClean drops the core's load-blocks before the crew is placed. A dirty line of another device goes back as a packet that the
device notes (State.sendNoted), which takes the sequence number: the crew's key is then not the number that stood before the step. -/

/-- An edge core with one load-block, of line 0 of device 0, whose byte 0 is dirty. -/
def dirtyBlockCore : EdgeCore :=
  { blocks := [(1, { lines := [2 ^ 56] })], l1 := [(2 ^ 56, { valid := 1, dirty := 1, blk := 1 })] }

/-- Launch 7 has one item for an edge core, and engine 0 is the next. -/
def edgeItemLaunch : Launch := { st := .dispatching, desc := { egangs := 1, ecmem := 1 }, items := [{ cls := 1 }] }

/-- Work is dispatched to core 0. -/
def dispatchToDirtyCore : State :=
  { State.reset with seq := 9, inp := { a := 7 }, launches := [(7, edgeItemLaunch)], cores := [(0, dirtyBlockCore)] }

/-- A crew of launch 7 that left core 1 whole. -/
def leftCrew : Swapped := { core := 1, launch := 7, crew := { launch := 7 }, gangs := [], since := 0 }

/-- The crew returns to core 0. -/
def returnToDirtyCore : State :=
  { State.reset with seq := 9, launches := [(7, {})], cores := [(0, dirtyBlockCore)], swapped := [leftCrew] }

/-- The crew of a key that stands on a core after a step. -/
def crewAfter (o : Out) (core key : Nat) : Option Crew :=
  match o with
  | .next t => t.crewOf core key
  | _ => none

/-- Item 0 is dispatched to core 0: every hypothesis of the statement about edge items holds. -/
theorem dispatchToDirtyCore_nextItem : Units dispatchToDirtyCore ∧ NextItem dispatchToDirtyCore 7 0 edgeItemLaunch { cls := 1 } ∧
    dispatchToDirtyCore.coreFor edgeItemLaunch [] = some 0 ∧ dispatchToDirtyCore.boardRoom { cls := 1 } (unitDie 0) = true ∧
    Slotted dispatchToDirtyCore 0 := by
  decide +kernel

/-- The write of the dropped block took number 9, so the new crew has another key. -/
theorem crewAfter_dispatchToDirtyCore : crewAfter (exec .workItemDispatch dispatchToDirtyCore) 0 9 = none := by
  decide +kernel

/-- Refutes O50: an edge item's crew does not have the sequence number from before the step as its key when the drop of the core's
load-blocks sends a dirty line of another device first. -/
theorem not_dispatchAndEndResults : ¬ Obligations.DispatchAndEndResults := by
  unfold Obligations.DispatchAndEndResults
  rintro ⟨hdispatch, -⟩
  obtain ⟨hunits, hnext, hcore, hroom, hslots⟩ := dispatchToDirtyCore_nextItem
  obtain ⟨-, -, hedge, -⟩ := hdispatch dispatchToDirtyCore 7 0 0 edgeItemLaunch { cls := 1 } hunits hnext
  obtain ⟨t, hstep, -, -, cr, hcrew, -⟩ := hedge rfl rfl hcore hroom hslots (Nat.le_refl 1)
  have hnone := crewAfter_dispatchToDirtyCore
  rw [hstep] at hnone
  exact absurd (hcrew.symm.trans hnone) (Option.some_ne_none cr)

/-- The crew returns to core 0: every hypothesis of the statement about crews that return holds. -/
theorem returnToDirtyCore_returns : Units returnToDirtyCore ∧ (returnToDirtyCore.core 0).out = [] ∧
    returnToDirtyCore.nextSwapped 0 = some leftCrew ∧ (returnToDirtyCore.partUnits 0).contains 0 = true ∧
    returnToDirtyCore.partLive 0 = true ∧ returnToDirtyCore.dieBusy (unitDie 0) = false ∧
    (returnToDirtyCore.core 0).hasRoom leftCrew.gangs.length leftCrew.crew.cmemKiB = true ∧ Slotted returnToDirtyCore 0 := by
  decide +kernel

/-- The write of the dropped block took number 9, so the returned crew has another key. -/
theorem crewAfter_returnToDirtyCore : crewAfter (exec .crewSwapIn returnToDirtyCore) 0 9 = none := by
  decide +kernel

/-- Refutes O51: a crew that returns to another core than the one it left does not have the sequence number from before the step as
its key when the drop of that core's load-blocks sends a dirty line of another device first. -/
theorem not_scheduleResults : ¬ Obligations.ScheduleResults := by
  unfold Obligations.ScheduleResults
  rintro ⟨-, hretire⟩
  obtain ⟨hunits, hout, hnext, hunit, hlive, hbusy, hroom, hslots⟩ := returnToDirtyCore_returns
  obtain ⟨-, -, -, -, -, -, hreturn⟩ := hretire returnToDirtyCore 0 0 hunits rfl
  obtain ⟨t, cr, hstep, -, hcrew, -⟩ := hreturn 0 leftCrew rfl rfl hout hnext hunit hlive hbusy hroom hslots
  have hnone := crewAfter_returnToDirtyCore
  rw [hstep] at hnone
  exact absurd (hcrew.symm.trans hnone) (Option.some_ne_none cr)

end Sys2Proof.Machine

namespace Sys2Proof

/-! ## Sparse maps written at the keys of a list -/

/-- The map with a value written at the key of each element of a list, in order. -/
def SMap.setEach {α : Type} [DecidableEq α] (d : α) (m : SMap α) (key : Nat → Nat) (v : Nat → α) (ls : List Nat) : SMap α :=
  ls.foldl (fun m l => SMap.set d m (key l) (v l)) m

theorem SMap.wf_setEach {α : Type} [DecidableEq α] {d : α} {key : Nat → Nat} {v : Nat → α} (ls : List Nat) :
    ∀ {m : SMap α}, SMap.wf d m = true → SMap.wf d (SMap.setEach d m key v ls) = true := by
  induction ls with
  | nil => exact id
  | cons x ls ih => exact fun h => ih (SMap.wf_set h)

/-- A key that the list names reads the value that its elements agree on; another reads as before. -/
theorem SMap.get_setEach {α : Type} [DecidableEq α] {d y : α} {key : Nat → Nat} {v : Nat → α} {k : Nat} (ls : List Nat) :
    ∀ {m : SMap α}, SMap.wf d m = true → (∀ x ∈ ls, key x = k → v x = y) →
      SMap.get d (SMap.setEach d m key v ls) k = if ∃ x ∈ ls, key x = k then y else SMap.get d m k := by
  induction ls with
  | nil => simp [SMap.setEach]
  | cons x ls ih =>
    intro m hm hv
    have hrest := ih (SMap.wf_set (k := key x) (v := v x) hm) (fun z hz => hv z (List.mem_cons_of_mem x hz))
    rw [SMap.setEach, List.foldl_cons, ← SMap.setEach, hrest, SMap.get_set hm]
    by_cases hls : ∃ z ∈ ls, key z = k
    · simp [hls]
    · by_cases hx : key x = k
      · simp [hx, hv x List.mem_cons_self hx]
      · simp [hls, hx, Ne.symm hx]

end Sys2Proof

namespace Sys2Proof.Machine

open Sys2Proof Sys2Proof.Claims

/-! ## Registers written lane by lane (R200) -/

theorem Gang.setLanes_eq (ls : List Nat) (n : Nat) (v : Nat → W32) :
    ∀ g : Gang, g.setLanes ls n v = { g with w := SMap.setEach 0 g.w (fun l => l * 128 + n) v ls } := by
  induction ls with
  | nil => exact fun _ => rfl
  | cons x ls ih => exact fun g => ih (g.setW x n (v x))

theorem Gang.foldl_setH_eq (ls : List Nat) (j : Nat) (v : Nat → W32) :
    ∀ g : Gang, ls.foldl (fun a l => a.setH j l (v l)) g = { g with h := SMap.setEach 0 g.h (fun l => 32 * j + l) v ls } := by
  induction ls with
  | nil => exact fun _ => rfl
  | cons x ls ih => exact fun g => ih (g.setH j x (v x))

/-- Register n of lane l after a write of register d of some lanes. -/
theorem get_setEach_lane {w : SMap W32} (hw : SMap.wf 0 w = true) (ls : List Nat) (v : Nat → W32) {d n : Nat} (hd : d < 128) (hn : n < 128)
    (l : Nat) : SMap.get 0 (SMap.setEach 0 w (fun l => l * 128 + d) v ls) (l * 128 + n) =
      if l ∈ ls ∧ n = d then v l else SMap.get 0 w (l * 128 + n) := by
  have hkey : ∀ x, x * 128 + d = l * 128 + n ↔ x = l ∧ n = d := fun x => by omega
  have hagree : ∀ x ∈ ls, x * 128 + d = l * 128 + n → v x = v l := fun x _ hx => congrArg v ((hkey x).mp hx).1
  have hex : (∃ x ∈ ls, x * 128 + d = l * 128 + n) ↔ l ∈ ls ∧ n = d := by
    simp only [hkey, ← and_assoc, exists_and_right, exists_eq_right]
  rw [SMap.get_setEach ls hw hagree]
  simp only [hex]

/-- Lane l of accumulator j after a write of some lanes of accumulator i. -/
theorem get_setEach_acc {h : SMap W32} (hh : SMap.wf 0 h = true) {ls : List Nat} (hls : ∀ l ∈ ls, l < 32) (v : Nat → W32) (i j : Nat)
    {l : Nat} (hl : l < 32) : SMap.get 0 (SMap.setEach 0 h (fun l => 32 * i + l) v ls) (32 * j + l) =
      if l ∈ ls ∧ j = i then v l else SMap.get 0 h (32 * j + l) := by
  have hkey : ∀ x ∈ ls, 32 * i + x = 32 * j + l ↔ x = l ∧ j = i := fun x hx => by have := hls x hx; omega
  have hagree : ∀ x ∈ ls, 32 * i + x = 32 * j + l → v x = v l := fun x hx he => congrArg v ((hkey x hx).mp he).1
  have hex : (∃ x ∈ ls, 32 * i + x = 32 * j + l) ↔ l ∈ ls ∧ j = i := by
    constructor
    · rintro ⟨x, hx, he⟩
      obtain ⟨rfl, hj⟩ := (hkey x hx).mp he
      exact ⟨hx, hj⟩
    · rintro ⟨hx, rfl⟩
      exact ⟨l, hx, rfl⟩
  rw [SMap.get_setEach ls hh hagree]
  simp only [hex]

/-! ## Active lanes -/

theorem mem_lanes {c : Ctx} {f : LaneF} {e : LaneEntry} {l : Nat} : l ∈ lanes c f e ↔ l < 32 ∧ activeLane c f e l = true := by
  simp [lanes, mem_span]

theorem effMask_getLsbD (c : Ctx) (f : LaneF) (e : LaneEntry) {l : Nat} (hl : l < 32) :
    (effMask c.gang f e.mask).getLsbD l = activeLane c f e l := by
  unfold effMask activeLane
  by_cases hg : f.ge = 0
  · simp [hg]
  · rw [if_neg hg, beq_false_of_ne hg, Bool.false_or]
    by_cases hn : f.gn = 1
    · simp [hn, hl]
    · rw [if_neg hn, beq_false_of_ne hn, Bool.bne_false, BitVec.getLsbD_and]

theorem activeLanes_eq (c : Ctx) (f : LaneF) (e : LaneEntry) : activeLanes c f e = lanes c f e :=
  List.filter_congr fun _ hl => effMask_getLsbD c f e (by simpa using (mem_span.mp hl).2)

/-! ## The gang at a place -/

/-- The gang in the slot of a place. -/
def State.gangAt (s : State) (r : SgRef) : Option Gang := alGet (s.core r.core).gangs r.slot

@[simp] theorem State.gangAt_heat (s : State) (x : Hot) (m : Nat) (r : SgRef) : (s.heat x m).gangAt r = s.gangAt r := rfl

theorem State.gangAt_setCore (s : State) {e : EdgeCore} {r : SgRef} {g : Gang} (h : alGet e.gangs r.slot = some g) :
    (s.setCore r.core e).gangAt r = some g := by
  have hne : e ≠ {} := by
    rintro rfl
    exact absurd h (by simp [alGet])
  rw [State.gangAt, State.core, State.setCore, SMap.get_set_self _ _ hne, h]

theorem State.gangAt_updCrew {s : State} {r : SgRef} {g : Gang} (h : s.gangAt r = some g) (k : Nat) (f : Crew → Crew) :
    (s.updCrew r.core k f).gangAt r = some g := by
  unfold State.updCrew
  simp only
  split
  · exact h
  · exact State.gangAt_setCore s h

theorem State.gangAt_setSub {s : State} {r : SgRef} {g : Gang} (h : s.gangAt r = some g) (th : Thread) :
    (s.setSub r th).gangAt r = some { g with subs := alPut g.subs r.sub th } := by
  have hslot : alGet (s.core r.core).gangs r.slot = some g := h
  simp only [State.setSub, hslot]
  exact State.gangAt_setCore s (by rw [alGet_alPut, if_pos rfl])

/-- Two updates of the registers that agree on the gang in its slot. -/
theorem State.setGang_congr {s : State} {c : Ctx} {g : Gang} {f f' : Gang → Gang} (h : s.gangAt c.ref = some g) (hf : f g = f' g) :
    s.setGang c f = s.setGang c f' := by
  have hslot : alGet (s.core c.ref.core).gangs c.ref.slot = some g := h
  simp only [State.setGang, hslot, hf]

/-- What acts from a lane queue is an edge core's sub-gang, whose gang stands in its slot. -/
theorem State.laneCtx_gangAt {s : State} {c : Ctx} (h : s.laneCtx = some c) : c.isMgmt = false ∧ s.gangAt c.ref = some c.gang := by
  unfold State.laneCtx at h
  split at h
  · unfold State.subGang at h
    split at h
    · exact absurd h (by simp)
    · next g hg =>
      split at h
      · split at h
        · cases h
          exact ⟨rfl, hg⟩
        · exact absurd h (by simp)
      · exact absurd h (by simp)
  · exact absurd h (by simp)

/-! ## Retiring a lane instruction (R200, R203) -/

theorem fmtSet_word (m : W32) (b : Nat) : BitVec.ofNat 32 (fmtSet m.toNat b) = m ||| BitVec.ofNat 32 b := by
  rw [fmtSet, show Nat.lor m.toNat b = m.toNat ||| b from rfl, BitVec.ofNat_or, BitVec.ofNat_toNat, BitVec.setWidth_eq]

section
variable {s : State} {c : Ctx} {f : LaneF} {e : LaneEntry}

/-- An instruction retires with any update that agrees with its own on the gang's registers. -/
theorem State.laneDone_eq (h : s.laneCtx = some c) (e : LaneEntry) (fl : FFlags) {g g' : Gang → Gang}
    (hg : ∀ ss, g { c.gang with subs := ss } = g' { c.gang with subs := ss }) : s.laneDone c e g fl = .next (laneAfter s c e fl g') := by
  obtain ⟨hm, hslot⟩ := State.laneCtx_gangAt h
  have hfreed : ((if e.uid = 0 then s else s.qRemoveUid c.iss e.uid).heat (.fmt c.thread) fl.bits).gangAt c.ref = some c.gang := by
    rw [State.gangAt_heat]
    split
    · exact hslot
    · rw [Ctx.iss, hm]
      exact State.gangAt_updCrew hslot _ _
  have hth := fun th => State.gangAt_setSub hfreed th
  unfold State.laneDone laneAfter
  simp only [fmtSet_word, State.setTh, hm, Bool.false_eq_true, if_false]
  rw [State.setGang_congr (hth _) (hg _)]

/-- An instruction that retires with register d of its active lanes written. -/
theorem writesReg_laneDone (h : s.laneCtx = some c) (hw : GangWf c) (fl : FFlags) {d : Nat} (hd : d < 128) (v : Nat → W32) :
    WritesReg s c f e d v fl (s.laneDone c e (fun g => g.setLanes (activeLanes c f e) d v) fl) := by
  have ⟨hregs, _, _⟩ := hw
  refine ⟨SMap.setEach 0 c.gang.w (fun l => l * 128 + d) v (lanes c f e), State.laneDone_eq h e fl fun ss => ?_, fun l hl n hn => ?_⟩
  · rw [Gang.setLanes_eq, activeLanes_eq]
  · rw [get_setEach_lane hregs _ v hd hn]
    simp only [mem_lanes, hl, true_and]
    rfl

/-- A lane instruction acts at the head of its queue, and one of the matrix queue at the head of both. -/
theorem laneOp_bothHeads (h : AtBothHeads s c e) (body : Ctx → LaneEntry → State → Out) : laneOp true body s = body c e s := by
  obtain ⟨⟨hc, rest, hq⟩, hu⟩ := h
  unfold laneOp
  simp [hc, hq, hu]

/-- An instruction that computes register D lane by lane writes it in the active lanes and raises their flags. -/
theorem writesReg_laneMap (h : AtHead s c e) (hw : GangWf c) (val : Ctx → LaneEntry → Nat → W32 × FFlags) :
    WritesReg s c f e f.d.toNat (fun l => (val c e l).1) (flagsOver c f e (fun l => (val c e l).2)) (laneMap f val s) := by
  obtain ⟨hc, rest, hq⟩ := h
  have hrun : laneMap f val s = s.laneDone c e (fun g => g.setLanes (activeLanes c f e) f.d.toNat (fun l => (val c e l).1))
      (flagsOver c f e (fun l => (val c e l).2)) := by
    simp only [laneMap, laneOp_runs hc hq, List.foldl_map, flagsOver, ← activeLanes_eq, Gang.setLanes]
  rw [hrun]
  exact writesReg_laneDone hc hw _ f.d.isLt _

/-- No lane raises a flag. -/
theorem flagsOver_none (c : Ctx) (f : LaneF) (e : LaneEntry) : flagsOver c f e (fun _ => {}) = {} := by
  unfold flagsOver
  induction lanes c f e with
  | nil => rfl
  | cons _ _ ih => exact ih

theorem writesReg_laneMapI (h : AtHead s c e) (hw : GangWf c) (val : Ctx → LaneEntry → Nat → W32) :
    WritesReg s c f e f.d.toNat (val c e) {} (laneMapI f val s) := by
  have hmap := writesReg_laneMap (f := f) h hw (fun c e l => (val c e l, {}))
  rwa [flagsOver_none] at hmap

/-! ## Noise (R71, R221) -/

theorem exec_gumbel (h : AtHead s c e) (hw : GangWf c) :
    WritesReg s c f e f.d.toNat (fun l => BitVec.ofNat 32 (gumbelBits e.xop.toNat (noiseCtr c f l))) {} (exec (.gumbel f) s) :=
  writesReg_laneMapI h hw (fun c e l => BitVec.ofNat 32 (gumbelBits e.xop.toNat (noiseCtr c f l)))

/-- The lane registers with the low half of a value in register d of some lanes and the high half in the next. -/
def wordPairs (w : SMap W32) (ls : List Nat) (d : Nat) (v : Nat → Nat) : SMap W32 :=
  SMap.setEach 0 (SMap.setEach 0 w (fun l => l * 128 + d) (fun l => BitVec.ofNat 32 (v l)) ls) (fun l => l * 128 + (d + 1))
    (fun l => BitVec.ofNat 32 (v l / 2 ^ 32)) ls

theorem get_wordPairs {w : SMap W32} (hw : SMap.wf 0 w = true) (ls : List Nat) (v : Nat → Nat) {d n : Nat} (hd : d < 127) (hn : n < 128)
    (l : Nat) : SMap.get 0 (wordPairs w ls d v) (l * 128 + n) =
      if l ∈ ls ∧ n = d then BitVec.ofNat 32 (v l)
      else if l ∈ ls ∧ n = d + 1 then BitVec.ofNat 32 (v l / 2 ^ 32) else SMap.get 0 w (l * 128 + n) := by
  rw [wordPairs, get_setEach_lane (SMap.wf_setEach ls hw) ls _ (by omega) hn, get_setEach_lane hw ls _ (by omega) hn]
  by_cases hlow : n = d
  · simp [hlow]
  · simp [hlow]

/-- nhash leaves the two halves of its hash in the register pair at D. -/
theorem exec_nhash (h : AtHead s c e) : exec (.nhash f) s = .next (laneAfter s c e {} (fun g =>
    { g with w := wordPairs c.gang.w (lanes c f e) f.d.toNat (fun l => hash64 e.xop.toNat (noiseCtr c f l)) })) := by
  obtain ⟨hc, rest, hq⟩ := h
  show execNhash f s = _
  rw [execNhash, laneOp_runs hc hq]
  refine State.laneDone_eq hc e {} fun ss => ?_
  simp only [Gang.setLanes_eq, activeLanes_eq, wordPairs]

/-! ## Accumulator moves (R225) -/

theorem exec_laccRd (h : AtBothHeads s c e) (hw : GangWf c) :
    WritesReg s c f e f.d.toNat (fun l => c.gang.getH (f.f0.toNat % 2) l) {} (exec (.laccRd f) s) := by
  show WritesReg s c f e _ _ _ (execLaccRd f s)
  have ⟨⟨hc, _⟩, _⟩ := h
  rw [execLaccRd, laneOp_bothHeads h]
  exact writesReg_laneDone hc hw {} f.d.isLt _

theorem exec_laccWr (h : AtBothHeads s c e) : exec (.laccWr f) s = .next (laneAfter s c e {} (fun g =>
    { g with h := SMap.setEach 0 c.gang.h (fun l => 32 * (f.f0.toNat % 2) + l) (wA c f) (lanes c f e) })) := by
  show execLaccWr f s = _
  have ⟨⟨hc, _⟩, _⟩ := h
  rw [execLaccWr, laneOp_bothHeads h]
  refine State.laneDone_eq hc e {} fun ss => ?_
  rw [Gang.foldl_setH_eq, activeLanes_eq]
  rfl

end

/-- Settles O6: each of the four retires with the registers of its active lanes written, and every other one as it was. -/
theorem noiseAndAccumulatorResults : Obligations.NoiseAndAccumulatorResults := by
  unfold Obligations.NoiseAndAccumulatorResults
  intro s c f e h hw
  have ⟨hregs, _, hacc⟩ := hw
  refine ⟨exec_gumbel h hw, fun hd => ⟨_, exec_nhash h, fun l hl n hn => ?_⟩,
    fun hb => ⟨exec_laccRd hb hw, _, exec_laccWr hb, fun j _ l hl => ?_⟩⟩
  · rw [get_wordPairs hregs _ _ hd hn]
    simp only [mem_lanes, hl, true_and]
    rfl
  · rw [get_setEach_acc hacc (fun l hl => (mem_lanes.mp hl).1) _ _ _ hl]
    simp only [mem_lanes, hl, true_and]
    rfl

end Sys2Proof.Machine

namespace Sys2Proof

/-! ## Parts of little-endian bytes (R2) -/

theorem leNat_take (n : Nat) (bs : List Byte) : leNat (bs.take n) = leNat bs % 256 ^ n := by
  induction n generalizing bs with
  | zero => simp [leNat, Nat.mod_one]
  | succ n ih =>
    cases bs with
    | nil => simp [leNat]
    | cons b t =>
      have hb : b.toNat < 256 := b.isLt
      rw [List.take_succ_cons, leNat, leNat, ih, Nat.pow_succ, Nat.mul_comm (256 ^ n), Nat.mod_mul,
        Nat.add_mul_mod_self_left, Nat.mod_eq_of_lt hb, Nat.add_mul_div_left _ _ (by decide), Nat.div_eq_of_lt hb, Nat.zero_add]

theorem leNat_drop (n : Nat) (bs : List Byte) : leNat (bs.drop n) = leNat bs / 256 ^ n := by
  induction n generalizing bs with
  | zero => simp
  | succ n ih =>
    cases bs with
    | nil => simp [leNat]
    | cons b t =>
      have hb : b.toNat < 256 := b.isLt
      rw [List.drop_succ_cons, leNat, ih, Nat.pow_succ, Nat.mul_comm (256 ^ n), ← Nat.div_div_eq_div_mul,
        Nat.add_mul_div_left _ _ (by decide), Nat.div_eq_of_lt hb, Nat.zero_add]

/-- The number of m bytes within a part of n bytes. -/
theorem leNat_within {bs : List Byte} {o n i m : Nat} (h : i + m ≤ n) :
    leNat ((bs.drop (o + i)).take m) = leNat ((bs.drop o).take n) / 256 ^ i % 256 ^ m := by
  have hpart : (bs.drop (o + i)).take m = (((bs.drop o).take n).drop i).take m := by
    rw [List.drop_take, List.drop_drop, List.take_take, Nat.min_eq_left (by omega)]
  rw [hpart, leNat_take, leNat_drop]

/-- Group k of a list cut in groups of n. -/
theorem chunks_getElem? {α : Type} {n : Nat} (hn : 0 < n) : ∀ (fuel : Nat) (l : List α) (k : Nat), l.length ≤ fuel → n * k < l.length →
    (chunks n fuel l)[k]? = some ((l.drop (n * k)).take n)
  | 0, l, k, hf, hk => by omega
  | fuel + 1, [], k, hf, hk => by simp at hk
  | fuel + 1, x :: t, 0, hf, hk => by simp [chunks]
  | fuel + 1, x :: t, k + 1, hf, hk => by
    rw [chunks, List.getElem?_cons_succ, chunks_getElem? hn fuel ((x :: t).drop n) k (by rw [List.length_drop]; omega)
      (by rw [List.length_drop]; rw [Nat.mul_succ] at hk; omega), List.drop_drop, Nat.mul_succ, Nat.add_comm]
    all_goals simp

end Sys2Proof

namespace Sys2Proof.Machine

open Sys2Proof Sys2Proof.Claims

/-! ## Where box elements lie (R229, R232) -/

@[simp] theorem length_boxIndex (ws : List Nat) : ∀ j, (boxIndex j ws).length = ws.length := by
  induction ws with
  | nil => exact fun _ => rfl
  | cons w ws ih => exact fun j => congrArg (· + 1) (ih (j / w))

/-- The mixed-radix digits of an element's number, the lowest first. -/
theorem boxIndex_getD (ws : List Nat) : ∀ j d : Nat, d < ws.length →
    (boxIndex j ws).getD d 0 = j / ((ws.take d).foldl (· * ·) 1) % ws.getD d 0 := by
  induction ws with
  | nil => intro j d hd; simp at hd
  | cons w ws ih =>
    intro j d hd
    cases d with
    | zero => simp [boxIndex]
    | succ d =>
      rw [boxIndex, List.getD_cons_succ, ih _ _ (Nat.lt_of_succ_lt_succ hd), Nat.div_div_eq_div_mul, List.take_succ_cons,
        List.getD_cons_succ, ← List.prod_eq_foldl, ← List.prod_eq_foldl, List.prod_cons]

/-- Along each dimension an element stands at the box's coordinate and its own index times the step. -/
theorem Layout.position_getD {l : Layout} (hr : l.rank ≤ l.win.length) (c : List Int) (j : Nat) {d : Nat} (hd : d < l.rank) :
    (l.position c j).getD d 0 = c.getD d 0 +
      ((j / ((l.win.take d).foldl (· * ·) 1) % l.win.getD d 0 : Nat) : Int) * (if d < 3 then (l.samp.getD d 1 : Int) else 1) := by
  have hlen : d < (boxIndex j (l.win.take l.rank)).length := by simp; omega
  have hwin : (l.win.take l.rank).getD d 0 = l.win.getD d 0 := by simp [List.getD_eq_getElem?_getD, hd]
  have hidx := boxIndex_getD (l.win.take l.rank) j d (by simpa using hlen)
  rw [List.take_take, Nat.min_eq_left (Nat.le_of_lt hd), hwin, List.getD_eq_getElem _ _ hlen] at hidx
  rw [← hidx, Layout.position, List.getD_eq_getElem _ _ (by simpa [hd] using hlen)]
  simp [span_eq_range']

theorem ofNat_wrapN (n : Nat) (z : Int) : BitVec.ofNat n (wrapN n z) = BitVec.ofInt n z := by
  apply BitVec.eq_of_toNat_eq
  have hz : (z % 2 ^ n).toNat < 2 ^ n := by
    have hpos : (0 : Int) < 2 ^ n := by positivity
    have := Int.emod_lt_of_pos z hpos
    have := Int.emod_nonneg z (Int.ne_of_gt hpos)
    zify
    omega
  rw [BitVec.toNat_ofNat, wrapN, BitVec.toNat_ofInt, Nat.mod_eq_of_lt hz]
  push_cast
  rfl

/-- The strides of the dimensions from 1 on, summed by position. -/
theorem sum_zip_drop (p st : List Int) (h : p.length ≤ st.length) :
    (((p.zip st).drop 1).map (fun x => x.1 * x.2)).foldl (· + ·) 0 =
      ((span 1 (p.length - 1)).map (fun d => p.getD d 0 * st.getD d 0)).sum := by
  rw [← List.sum_eq_foldl]
  congr 1
  refine List.ext_getElem (by simp; omega) fun i h1 h2 => ?_
  have hi : i + 1 < p.length := by simp at h2; omega
  simp [span_eq_range', Nat.add_comm 1 i, hi, Nat.lt_of_lt_of_le hi h]

/-- The address of a position in a format of whole bytes. -/
theorem Layout.addr_bytes {l : Layout} {p : List Int} (hf : l.fmt ≠ 5) (hs : p.length ≤ l.stride.length) :
    l.addr l.fmt false p = (wrapN 64 ((l.base : Int) + p.getD 0 0 *
      (if l.stride.getD 0 0 = 0 then (elemBytes l.fmt : Int) else l.stride.getD 0 0) +
      ((span 1 (p.length - 1)).map (fun d => p.getD d 0 * l.stride.getD d 0)).sum), 0) := by
  have hhead : ∀ xs : List Int, xs.headD 0 = xs.getD 0 0 := fun xs => by cases xs <;> rfl
  simp only [Layout.addr, if_neg hf, sum_zip_drop p l.stride hs, hhead, Bool.false_eq_true, false_or]
  split <;> rw [Int.add_right_comm]

/-! ## Packed elements (R55) -/

/-- Fields of one width lie at its multiples. -/
theorem fieldsWidth_uniform {α : Type} (n : Nat) (v : α → Nat) {xs : List α} {k : Nat} (h : k ≤ xs.length) :
    fieldsWidth (xs.map (fun x => (n, v x))) k = k * n := by
  have hfst : Prod.fst ∘ (fun x => (n, v x)) = fun _ => n := rfl
  rw [fieldsWidth, ← List.map_take, List.map_map, hfst, List.map_const', List.sum_replicate, List.length_take, Nat.min_eq_left h,
    smul_eq_mul]

/-- Four elements of L6 in the number of their three bytes. -/
def l6Word (q : List Nat) : Nat := q.getD 0 0 % 64 + q.getD 1 0 % 64 * 64 + q.getD 2 0 % 64 * 4096 + q.getD 3 0 % 64 * 262144

theorem packElems_l6 (vs : List Nat) : packElems 5 vs = fieldBytes ((chunks 4 vs.length vs).map (fun q => (3, l6Word q))) := by
  rw [packElems, if_pos rfl, fieldBytes, List.flatMap_map]
  rfl

theorem packElems_bytes {fmt : Nat} (h : fmt ≠ 5) (vs : List Nat) : packElems fmt vs = fieldBytes (vs.map (fun v => (elemBytes fmt, v))) := by
  rw [packElems, if_neg h, fieldBytes, List.flatMap_map]

/-- Element r of the four in three bytes, from their number. -/
theorem packedElem_l6 (bs : List Byte) (k : Nat) {r : Nat} (hr : r < 4) :
    packedElem 5 bs (4 * k + r) = leNat ((bs.drop (k * 3)).take 3) / 64 ^ r % 64 := by
  have hbyte : 6 * (4 * k + r) / 8 = k * 3 + 6 * r / 8 := by omega
  have hbit : 6 * (4 * k + r) % 8 = 6 * r % 8 := by omega
  have hin : 6 * r / 8 + elemSpan 5 (6 * r % 8) ≤ 3 := by interval_cases r <;> decide
  simp only [packedElem, if_true, hbyte, hbit, elemGet, leNat_within hin]
  generalize leNat ((bs.drop (k * 3)).take 3) = w
  interval_cases r <;> simp [elemSpan] <;> omega

theorem l6Word_lt (q : List Nat) : l6Word q < 256 ^ 3 := by unfold l6Word; omega

theorem l6Word_elem (q : List Nat) {r : Nat} (hr : r < 4) : l6Word q / 64 ^ r % 64 = q.getD r 0 % 64 := by
  unfold l6Word
  interval_cases r <;> omega

theorem packedElem_packElems_l6 {vs : List Nat} (hv : ∀ v ∈ vs, v < 64) {j : Nat} (hj : j < vs.length) :
    packedElem 5 (packElems 5 vs) j = vs.getD j 0 := by
  obtain ⟨k, r, hr, rfl⟩ : ∃ k r, r < 4 ∧ j = 4 * k + r := ⟨j / 4, j % 4, Nat.mod_lt _ (by decide), (Nat.div_add_mod j 4).symm⟩
  have hchunk := chunks_getElem? (by decide : 0 < 4) vs.length vs k (Nat.le_refl _) (by omega)
  have hk : k < (chunks 4 vs.length vs).length := (List.getElem?_eq_some_iff.mp hchunk).1
  have hword := leNat_field (fs := (chunks 4 vs.length vs).map (fun q => (3, l6Word q))) (k := k)
    (by rw [List.getElem?_map, hchunk]; rfl) (fieldsWidth_uniform 3 l6Word (Nat.le_of_lt hk))
  have helem : ((vs.drop (4 * k)).take 4).getD r 0 = vs.getD (4 * k + r) 0 := by simp [List.getD_eq_getElem?_getD, hr]
  have hlt : vs.getD (4 * k + r) 0 < 64 := by
    rw [List.getD_eq_getElem _ _ hj]
    exact hv _ (List.getElem_mem hj)
  rw [packedElem_l6 _ k hr, packElems_l6, hword, Nat.mod_eq_of_lt (l6Word_lt _), l6Word_elem _ hr, helem, Nat.mod_eq_of_lt hlt]

theorem packedElem_packElems_bytes {fmt : Nat} (hf : fmt ≠ 5) {vs : List Nat} (hv : ∀ v ∈ vs, v < 256 ^ elemBytes fmt) {j : Nat}
    (hj : j < vs.length) : packedElem fmt (packElems fmt vs) j = vs.getD j 0 := by
  have hfield := leNat_field (fs := vs.map (fun v => (elemBytes fmt, v))) (k := j)
    (by rw [List.getElem?_map, List.getElem?_eq_getElem hj]; rfl) (fieldsWidth_uniform (elemBytes fmt) id (Nat.le_of_lt hj))
  rw [packedElem, if_neg hf, packElems_bytes hf, hfield, Nat.mod_eq_of_lt (hv _ (List.getElem_mem hj)), List.getD_eq_getElem _ _ hj]

/-- What is packed in order is read back by its number. -/
theorem packedElem_packElems {fmt : Nat} {vs : List Nat} (hv : ∀ v ∈ vs, v < 2 ^ elemWidth fmt) {j : Nat} (hj : j < vs.length) :
    packedElem fmt (packElems fmt vs) j = vs.getD j 0 := by
  by_cases hf : fmt = 5
  · subst hf
    exact packedElem_packElems_l6 hv hj
  · rw [elemWidth, if_neg hf, Nat.pow_mul] at hv
    exact packedElem_packElems_bytes hf hv hj

/-! ## The swizzle (R232) -/

section
variable {z : Nat} (hz : z ≤ 3)
include hz

/-- The swizzle moves a byte within its 128 bytes. -/
theorem swzOff_div (o : Nat) : swzOff z o / 128 = o / 128 := by
  have hpow : 2 ^ z ≤ 2 ^ 3 := Nat.pow_le_pow_right (by decide) hz
  have hm : o / 128 % 2 ^ z * 16 / 2 ^ 7 = 0 := by
    have := Nat.mod_lt (o / 128) (Nat.two_pow_pos z)
    omega
  unfold swzOff
  split
  · rfl
  · show (o ^^^ (o / 128 % 2 ^ z * 16)) / 2 ^ 7 = _
    rw [Nat.xor_div_two_pow, hm, Nat.xor_zero]

theorem swzOff_swzOff (o : Nat) : swzOff z (swzOff z o) = o := by
  by_cases h0 : z = 0
  · simp [swzOff, h0]
  · have hoff : ∀ x, swzOff z x = x ^^^ (x / 128 % 2 ^ z * 16) := fun x => if_neg h0
    rw [hoff (swzOff z o), swzOff_div hz, hoff, Nat.xor_assoc, Nat.xor_self, Nat.xor_zero]

theorem swzOff_lt {o n : Nat} (hn : n % 128 = 0) (ho : o < n) : swzOff z o < n := by
  have := swzOff_div hz o
  omega

omit hz in
theorem swizzle_eq (h0 : z ≠ 0) (bs : List Byte) : swizzle z bs = (span 0 bs.length).map (fun o => bs.getD (swzOff z o) 0) := if_neg h0

omit hz in
theorem swizzle_getD (h0 : z ≠ 0) {bs : List Byte} {o : Nat} (ho : o < bs.length) : (swizzle z bs).getD o 0 = bs.getD (swzOff z o) 0 := by
  rw [swizzle_eq h0, List.getD_eq_getElem _ _ (by simpa using ho)]
  simp [span_eq_range']

/-- The swizzle is its own inverse on whole runs of 128 bytes. -/
theorem swizzle_swizzle {bs : List Byte} (hb : bs.length % 128 = 0) : swizzle z (swizzle z bs) = bs := by
  by_cases h0 : z = 0
  · simp [swizzle, h0]
  · have hlen : (swizzle z bs).length = bs.length := by simp [swizzle_eq h0]
    have hback : ∀ o ∈ span 0 bs.length, (swizzle z bs).getD (swzOff z o) 0 = bs.getD o 0 := fun o ho => by
      have hin : swzOff z o < bs.length := swzOff_lt hz hb (by simpa using (mem_span.mp ho).2)
      rw [swizzle_getD h0 hin, swzOff_swzOff hz]
    rw [swizzle_eq h0, hlen, List.map_congr_left hback, map_span_getD]

end

/-! ## Positions against the extents (R233) -/

/-- A position lies inside the extents in every dimension. -/
abbrev Within (ext : List Nat) (p : List Int) : Prop := ∀ d < p.length, 0 ≤ p.getD d 0 ∧ p.getD d 0 < ext.getD d 0

section
variable {l : Layout} {ext : List Nat} {p : List Int} (hlen : p.length = ext.length)
include hlen

theorem within_iff : (p.zip ext).all (fun x => 0 ≤ x.1 && x.1 < (x.2 : Int)) = true ↔ Within ext p := by
  simp only [List.all_eq_true, List.forall_mem_iff_forall_getElem, List.length_zip, ← hlen, Nat.min_self, List.getElem_zip,
    Bool.and_eq_true, decide_eq_true_eq]
  refine forall_congr' fun d => forall_congr' fun hd => ?_
  rw [List.getD_eq_getElem _ _ hd, List.getD_eq_getElem _ _ (hlen ▸ hd)]

theorem Layout.bound_within (h : Within ext p) : l.bound ext p = some p := by
  simp only [Layout.bound, (within_iff hlen).mpr h, if_true]

omit hlen in
theorem all_one_le_iff : ext.all (fun e => 1 ≤ e) = true ↔ 0 ∉ ext := by
  simp only [List.all_eq_true, decide_eq_true_eq]
  exact ⟨fun h h0 => absurd (h 0 h0) (by decide), fun h e he => Nat.pos_of_ne_zero fun h0 => h (h0 ▸ he)⟩

theorem Layout.bound_outside (h : ¬ Within ext p) (hr : l.oob ≠ 3 ∨ 0 ∈ ext) : l.bound ext p = none := by
  have hno : ¬ (l.oob = 3 ∧ ext.all (fun e => 1 ≤ e) = true) := by
    rw [all_one_le_iff]
    tauto
  simp only [Layout.bound, mt (within_iff hlen).mp h, if_neg hno]
  rfl

theorem Layout.bound_clamped (h : ¬ Within ext p) (hr : l.oob = 3) (hz : 0 ∉ ext) : ∃ p' : List Int, l.bound ext p = some p' ∧
    p'.length = p.length ∧ ∀ d < p.length, p'.getD d 0 = min (max (p.getD d 0) 0) ((ext.getD d 0 : Int) - 1) := by
  refine ⟨(p.zip ext).map (fun x => if x.1 < 0 then 0 else if (x.2 : Int) ≤ x.1 then (x.2 : Int) - 1 else x.1), ?_, by simp [hlen],
    fun d hd => ?_⟩
  · simp only [Layout.bound, mt (within_iff hlen).mp h, hr, all_one_le_iff.mpr hz, and_self, if_true]
    rfl
  · have hd' : d < ext.length := hlen ▸ hd
    have hpos : 1 ≤ ext[d] := Nat.pos_of_ne_zero fun h0 => hz (h0 ▸ List.getElem_mem hd')
    rw [List.getD_eq_getElem _ _ (by simp [hd, hd']), List.getD_eq_getElem _ _ hd, List.getD_eq_getElem _ _ hd']
    simp only [List.getElem_map, List.getElem_zip]
    omega

end

/-! ## Elements read and stored (R232, R233, R237) -/

/-- The fill of a format's rule. -/
theorem oobFill_eq (l : Layout) : oobFill l = if l.oob = 2 then
    (if l.fmt = 0 then 0xFF800000 else if l.fmt = 1 then 0xFF80 else if l.fmt = 2 then 0xFC00 else if l.fmt = 4 then 0xFC else 0) else 0 := by
  unfold oobFill
  split
  · split <;> simp_all
  · rfl

section
variable {s : State} {who : Issuer} {p : Nat} {pl : Plan} {j : Nat}

theorem State.boxRead_outside (h : pl.l.bound pl.ext (pl.l.position pl.co j) = none) :
    s.boxRead who p pl [j] = (s, .ok [oobFill pl.l]) := by
  simp only [State.boxRead, h]

theorem State.boxRead_within {y : List Int} {bs : List Byte} (h : pl.l.bound pl.ext (pl.l.position pl.co j) = some y)
    (hlen : bs.length = elemSpan pl.l.fmt (pl.l.addr pl.l.fmt false y).2)
    (hbs : Holds s who p (pl.l.addr pl.l.fmt false y).1 bs s.opTag) :
    s.boxRead who p pl [j] = (s, .ok [elemGet pl.l.fmt (pl.l.addr pl.l.fmt false y).2 bs]) := by
  have hread : s.readE who p (pl.l.addr pl.l.fmt false y).1 (elemSpan pl.l.fmt (pl.l.addr pl.l.fmt false y).2) = (s, .ok bs) := by
    rw [State.readE, ← hlen, hbs]
  simp only [State.boxRead, h, hread]

/-- A store leaves out an element outside the extents, whatever the rule. -/
theorem State.storeAll_outside (hlen : (pl.l.position pl.co j).length = pl.ext.length) (h : ¬ Within pl.ext (pl.l.position pl.co j))
    (src : List Byte) (bad : Nat → Bool) : s.storeAll who p pl src bad [j] = (s, .ok ()) := by
  have hplace : pl.place j = none := by
    unfold Plan.place
    split
    · rw [Layout.bound_outside hlen h (.inl (by simp))]
      rfl
    · next hr =>
      rw [Layout.bound_outside hlen h (.inl hr)]
      rfl
  simp only [State.storeAll, hplace]

end

theorem Layout.moved_iff (l : Layout) (n j : Nat) : l.moved n j = true ↔ ∃ o ∈ l.elemOffs j, o < n := by
  simp [Layout.moved]

/-- Of a box delivered in part the elements delivered stay, and the others take the values read now, in turn. -/
theorem keepElems_getD : ∀ (ms : List Bool) (old now : List Nat) (j : Nat), j < ms.length → (keepElems ms old now).getD j 0 =
    if ms.getD j false = true then old.getD j 0 else now.getD ((ms.take j).count false) 0
  | [], _, _, j, hj => absurd hj (Nat.not_lt_zero j)
  | true :: ms, old, now, 0, _ => by cases old <;> rfl
  | false :: ms, old, now, 0, _ => by cases now <;> rfl
  | true :: ms, old, now, j + 1, hj => by
    rw [keepElems, List.getD_cons_succ, keepElems_getD ms _ _ j (Nat.lt_of_succ_lt_succ hj)]
    cases old <;> simp
  | false :: ms, old, now, j + 1, hj => by
    rw [keepElems, List.getD_cons_succ, keepElems_getD ms _ _ j (Nat.lt_of_succ_lt_succ hj)]
    cases old <;> cases now <;> simp

/-- Settles O15, from one law for each of position, address, packing, swizzle, bound, reading, storing and delivery in part. -/
theorem boxLaws : Obligations.BoxLaws := by
  unfold Obligations.BoxLaws
  refine ⟨fun l c j d hr hd => Layout.position_getD hr c j hd, fun l p hf _ hs hp => ?_, fun fmt j vs hj hv _ => packedElem_packElems hv hj,
    fun z bs hz hb => swizzle_swizzle hz hb,
    fun l ext p hlen => ⟨Layout.bound_within hlen, Layout.bound_outside hlen, Layout.bound_clamped hlen⟩,
    fun s who p pl j => ⟨fun h => ?_, fun y bs h hlen hbs => State.boxRead_within h hlen hbs, fun src bad hlen hout => ?_⟩,
    Layout.moved_iff, keepElems_getD⟩
  · rw [Layout.addr_bytes hf (hs ▸ hp)]
    exact ⟨rfl, ofNat_wrapN 64 _⟩
  · rw [State.boxRead_outside h, oobFill_eq]
  · refine State.storeAll_outside hlen (fun hin => ?_) src bad
    obtain ⟨d, hd, hno⟩ := hout
    exact hno (hin d hd)

end Sys2Proof.Machine

namespace Sys2Proof

/-! ## Fields read back from a word (R113 to R124) -/

/-- A field holds the value that stands in its bits. -/
theorem ofNat_eq_of_mod {n x : Nat} {v : BitVec n} (h : x % 2 ^ n = v.toNat) : BitVec.ofNat n x = v :=
  BitVec.eq_of_toNat_eq h

theorem bitAt_iff {w i : Nat} : bitAt w i = true ↔ w / 2 ^ i % 2 = 1 := beq_iff_eq

section
variable {op w : Nat}

/-- A word of the scalar stream: its opcode above 25 bits of fields (R121). -/
theorem opcode_read {rest : Nat} (h : some (op * 2 ^ 25 + rest) = some w) (hop : op < 128) (hrest : rest < 2 ^ 25) :
    w < 2 ^ 32 ∧ w / 2 ^ 25 % 128 = op ∧ w % 2 ^ 25 = rest := by
  obtain rfl := Option.some.inj h
  exact ⟨by omega, by omega, by omega⟩

/-! Each format: its word fits, names its opcode, and gives its fields back. -/

theorem encER_read {f : ER} {fn : Nat} (h : some (encER op f fn) = some w) (hop : op < 128) (hfn : fn < 2 ^ 10) :
    w < 2 ^ 32 ∧ w / 2 ^ 25 % 128 = op ∧ decER w = f := by
  obtain rfl := Option.some.inj h
  simp only [encER, decER]
  refine ⟨by omega, by omega, ?_⟩
  congr <;> exact ofNat_eq_of_mod (by omega)

theorem encEI_read {f : EI} (h : some (encEI op f) = some w) (hop : op < 128) :
    w < 2 ^ 32 ∧ w / 2 ^ 25 % 128 = op ∧ decEI w = f := by
  obtain rfl := Option.some.inj h
  simp only [encEI, decEI]
  refine ⟨by omega, by omega, ?_⟩
  congr <;> exact ofNat_eq_of_mod (by omega)

theorem encEM_read {f : EM} (h : some (encEM op f) = some w) (hop : op < 128) :
    w < 2 ^ 32 ∧ w / 2 ^ 25 % 128 = op ∧ decEM w = f := by
  obtain rfl := Option.some.inj h
  simp only [encEM, decEM]
  refine ⟨by omega, by omega, ?_⟩
  congr <;> exact ofNat_eq_of_mod (by omega)

theorem encEB_read {f : EB} (h : some (encEB op f) = some w) (hop : op < 128) :
    w < 2 ^ 32 ∧ w / 2 ^ 25 % 128 = op ∧ decEB w = f := by
  obtain rfl := Option.some.inj h
  simp only [encEB, decEB]
  refine ⟨by omega, by omega, ?_⟩
  congr <;> exact ofNat_eq_of_mod (by omega)

theorem encEC_read {f : EC} (h : some (encEC op f) = some w) (hop : op < 128) :
    w < 2 ^ 32 ∧ w / 2 ^ 25 % 128 = op ∧ decEC w = f := by
  obtain rfl := Option.some.inj h
  simp only [encEC, decEC]
  refine ⟨by omega, by omega, ?_⟩
  congr <;> exact ofNat_eq_of_mod (by omega)

/-- Bit 5 of an engine command's word is bit 5 of its M field (R120). -/
theorem encEC_bit5 {f : EC} (h : some (encEC op f) = some w) : bitAt w 5 = true ↔ 32 ≤ f.m.toNat := by
  obtain rfl := Option.some.inj h
  rw [bitAt_iff, encEC]
  omega

theorem encAmo_read {f : AmoF} (h : some (encAmo f) = some w) : w < 2 ^ 32 ∧ w / 2 ^ 25 % 128 = 0x50 ∧ decAmo w = f := by
  obtain rfl := Option.some.inj h
  simp only [encAmo, decAmo]
  refine ⟨by omega, by omega, ?_⟩
  congr <;> exact ofNat_eq_of_mod (by omega)

/-- A slot word: its opcode, its guard, and 22 bits of fields (R113). -/
theorem encSlot_read {g : B4} {rest : Nat} (h : some (encSlot op g rest) = some w) (hop : op < 64) (hrest : rest < 2 ^ 22) :
    w < 2 ^ 32 ∧ w / 2 ^ 26 % 64 = op ∧ BitVec.ofNat 4 (w / 2 ^ 22) = g ∧ w % 2 ^ 22 = rest := by
  obtain rfl := Option.some.inj h
  simp only [encSlot]
  exact ⟨by omega, by omega, ofNat_eq_of_mod (by omega), by omega⟩

theorem encSA_read {f : SA} (h : some (encSA op f) = some w) (hop : op < 64) :
    w < 2 ^ 32 ∧ w / 2 ^ 26 % 64 = op ∧ decSA w = f := by
  obtain rfl := Option.some.inj h
  simp only [encSA, encSlot, decSA]
  refine ⟨by omega, by omega, ?_⟩
  congr <;> exact ofNat_eq_of_mod (by omega)

theorem encSP_read {f : SP} (h : some (encSP op f) = some w) (hop : op < 64) :
    w < 2 ^ 32 ∧ w / 2 ^ 26 % 64 = op ∧ decSP w = f := by
  obtain rfl := Option.some.inj h
  simp only [encSP, encSlot, decSP]
  refine ⟨by omega, by omega, ?_⟩
  congr <;> exact ofNat_eq_of_mod (by omega)

theorem encLF_read {f : LF} (h : some (encLF op f) = some w) (hop : op < 64) :
    w < 2 ^ 32 ∧ w / 2 ^ 26 % 64 = op ∧ decLF w = f := by
  obtain rfl := Option.some.inj h
  simp only [encLF, encSlot, decLF]
  refine ⟨by omega, by omega, ?_⟩
  congr <;> exact ofNat_eq_of_mod (by omega)

theorem encVF_read {f : VF} (h : some (encVF op f) = some w) (hop : op < 64) :
    w < 2 ^ 32 ∧ w / 2 ^ 26 % 64 = op ∧ decVF w = f := by
  obtain rfl := Option.some.inj h
  simp only [encVF, encSlot, decVF]
  refine ⟨by omega, by omega, ?_⟩
  congr <;> exact ofNat_eq_of_mod (by omega)

theorem encLane_read {f : LaneF} (h : some (encLane op f) = some w) (hop : op < 1024) :
    w < 2 ^ 96 ∧ w / 2 ^ 54 % 1024 = op ∧ decLane w = f := by
  obtain rfl := Option.some.inj h
  simp only [encLane, decLane]
  refine ⟨by omega, by omega, ?_⟩
  congr <;> exact ofNat_eq_of_mod (by omega)

end

/-! ## Opcodes read back (R115 to R122) -/

section
variable {i : Instr} {w : Nat}

/-- The word of an engine command fits 32 bits, and its fields give the command back; the two forms of ring.arm are told by M
(R120). -/
theorem commandWord_read (h : commandWord i = some w) : w < 2 ^ 32 ∧ (i.wf = true → commandFields w = some i) := by
  cases i with
  | cpLd f | cpSt f | cpG2g f | cpMc f | ringAwait f | ringRel f | jn f | rlkBind f | rlkAcq f | rlkRel f | cairnOpen f | cairnApp f
  | cairnQry f | cairnSave f | cairnRst f | cairnClose f | kvCmt f | wpUpd f | wpPre f | launch f =>
    obtain ⟨hlt, hop, hdec⟩ := encEC_read h (by decide)
    exact ⟨hlt, fun _ => by rw [commandFields, hop, ← hdec]; rfl⟩
  | ringArm f =>
    obtain ⟨hlt, hop, hdec⟩ := encEC_read h (by decide)
    refine ⟨hlt, fun hwf => ?_⟩
    simp only [Instr.wf, Bool.and_eq_true, decide_eq_true_eq] at hwf
    have hbit : ¬ bitAt w 5 = true := by rw [encEC_bit5 h]; omega
    simp only [commandFields, hop, hdec, if_neg hbit]
  | ringArmInit f =>
    obtain ⟨hlt, hop, hdec⟩ := encEC_read h (by decide)
    refine ⟨hlt, fun hwf => ?_⟩
    simp only [Instr.wf, Bool.and_eq_true, decide_eq_true_eq] at hwf
    obtain ⟨⟨-, hinit⟩, -⟩ := hwf
    simp only [commandFields, hop, hdec, if_pos ((encEC_bit5 h).mpr hinit)]
  | _ => cases h

/-- The word of the scalar stream, the same. -/
theorem scalarWord_read (h : scalarWord i = some w) : w < 2 ^ 32 ∧ (i.wf = true → scalarFields w = some i) := by
  have hcmd : scalarWord i = commandWord i → w < 2 ^ 32 ∧ (i.wf = true → commandFields w = some i) :=
    fun hc => commandWord_read (hc.symm.trans h)
  cases i with
  | add f | sub f | and f | or f | xor f | andn f | shl f | shr f | sra f | mul f | mulh f | slt f | sltu f | min f | max f | gstRd f
  | gstWr f =>
    obtain ⟨hlt, hop, hdec⟩ := encER_read h (by decide) (by decide)
    exact ⟨hlt, fun _ => by rw [scalarFields, hop, ← hdec]; rfl⟩
  | addi f | andi f | ori f | xori f | shli f | shri f | srai f | slti f =>
    obtain ⟨hlt, hop, hdec⟩ := encEI_read h (by decide)
    exact ⟨hlt, fun _ => by rw [scalarFields, hop, ← hdec]; rfl⟩
  | ldB f | ldH f | ldW f | ldD f | stB f | stH f | stW f | stD f =>
    obtain ⟨hlt, hop, hdec⟩ := encEM_read h (by decide)
    exact ⟨hlt, fun _ => by rw [scalarFields, hop, ← hdec]; rfl⟩
  | beq f | bne f | blt f | bge f | bltu f | bgeu f =>
    obtain ⟨hlt, hop, hdec⟩ := encEB_read h (by decide)
    exact ⟨hlt, fun _ => by rw [scalarFields, hop, ← hdec]; rfl⟩
  | amo f =>
    obtain ⟨hlt, hop, hdec⟩ := encAmo_read h
    exact ⟨hlt, fun _ => by rw [scalarFields, hop, ← hdec]; rfl⟩
  | ret | minv | mpop | regang | eret | exit | wfe =>
    obtain ⟨hlt, hop, -⟩ := opcode_read h (by decide) (by decide)
    exact ⟨hlt, fun _ => by rw [scalarFields, hop]; rfl⟩
  | lui d im =>
    have hw : some (0x18 * 2 ^ 25 + (d.toNat * 2 ^ 20 + im.toNat)) = some w := by rw [← Nat.add_assoc]; exact h
    obtain ⟨hlt, hop, hrest⟩ := opcode_read hw (by decide) (by omega)
    refine ⟨hlt, fun _ => ?_⟩
    rw [scalarFields, hop]
    refine congrArg some ?_
    congr <;> exact ofNat_eq_of_mod (by omega)
  | jal d c im | laneIss n | mpush p | bzM im | part p im | bar a n | csrRd d c | csrWr a c | trap c | fence s k | tlbinv a z | gstRes a =>
    obtain ⟨hlt, hop, hrest⟩ := opcode_read h (by decide) (by omega)
    refine ⟨hlt, fun _ => ?_⟩
    rw [scalarFields, hop]
    refine congrArg some ?_
    congr <;> exact ofNat_eq_of_mod (by omega)
  | jr d a c =>
    obtain ⟨hlt, hop, hrest⟩ := opcode_read h (by decide) (by omega)
    refine ⟨hlt, fun _ => ?_⟩
    have hbit : ¬ bitAt w 8 = true := by rw [bitAt_iff]; omega
    rw [scalarFields, hop]
    refine (congrArg some (if_neg hbit)).trans (congrArg some ?_)
    congr <;> exact ofNat_eq_of_mod (by omega)
  | laneJmp im | fmt a =>
    obtain ⟨hlt, hop, hrest⟩ := opcode_read h (by decide) (by omega)
    refine ⟨hlt, fun _ => ?_⟩
    have hbit : ¬ bitAt w 24 = true := by rw [bitAt_iff]; omega
    rw [scalarFields, hop]
    refine (congrArg some (if_neg hbit)).trans (congrArg some ?_)
    congr; exact ofNat_eq_of_mod (by omega)
  | jrW d c n =>
    obtain ⟨hlt, hop, hrest⟩ := opcode_read h (by decide) (by omega)
    refine ⟨hlt, fun _ => ?_⟩
    have hbit : bitAt w 8 = true := by rw [bitAt_iff]; omega
    rw [scalarFields, hop]
    refine (congrArg some (if_pos hbit)).trans (congrArg some ?_)
    congr <;> exact ofNat_eq_of_mod (by omega)
  | laneJmpInd a | fmtImm im =>
    obtain ⟨hlt, hop, hrest⟩ := opcode_read h (by decide) (by omega)
    refine ⟨hlt, fun _ => ?_⟩
    have hbit : bitAt w 24 = true := by rw [bitAt_iff]; omega
    rw [scalarFields, hop]
    refine (congrArg some (if_pos hbit)).trans (congrArg some ?_)
    congr; exact ofNat_eq_of_mod (by omega)
  | cpLd f | cpSt f | cpG2g f | cpMc f | ringArm f | ringArmInit f | ringAwait f | ringRel f | jn f | rlkBind f | rlkAcq f | rlkRel f
  | cairnOpen f | cairnApp f | cairnQry f | cairnSave f | cairnRst f | cairnClose f | kvCmt f | wpUpd f | wpPre f | launch f =>
    obtain ⟨-, hop, -⟩ := encEC_read h (by decide)
    obtain ⟨hlt, hfields⟩ := hcmd rfl
    exact ⟨hlt, fun hwf => by rw [scalarFields, hop]; exact hfields hwf⟩
  | _ => cases h

/-- The words of the S slot, the same (R114 to R116). -/
theorem sWord_read (h : sWord i = some w) : w < 2 ^ 32 ∧ sFields w = some i := by
  cases i with
  | teAdd f | teSub f | teAnd f | teOr f | teXor f | teAndn f | teShl f | teShr f | teSra f | teMul f | teMulh f | teMin f | teMax f
  | teMov f =>
    obtain ⟨hlt, hop, hdec⟩ := encSA_read h (by decide)
    exact ⟨hlt, by rw [sFields, hop, ← hdec]; rfl⟩
  | tePand f | tePor f | tePxor f | tePnot f =>
    obtain ⟨hlt, hop, hdec⟩ := encSP_read h (by decide)
    exact ⟨hlt, by rw [sFields, hop, ← hdec]; rfl⟩
  | teSel | teLi | teLih | teCmp | teLdS | teStS | teLdp | teBr | teBri | teLoop | teLoopx | teTmark | teHalt | teRds | teWrs =>
    obtain ⟨hlt, hop, hg, hrest⟩ := encSlot_read h (by decide) (by omega)
    refine ⟨hlt, ?_⟩
    rw [sFields, hop, ← hg]
    refine congrArg some ?_
    congr <;> exact ofNat_eq_of_mod (by omega)
  | _ => cases h

/-- The words of the L slot (R117). -/
theorem lWord_read (h : lWord i = some w) : w < 2 ^ 32 ∧ lFields w = some i := by
  cases i with
  | vld f | vldB f | vldS f | vst f | vstS f | vldSc f | vstSc f =>
    obtain ⟨hlt, hop, hdec⟩ := encLF_read h (by decide)
    exact ⟨hlt, by rw [lFields, hop, ← hdec]; rfl⟩
  | _ => cases h

/-- The words of the V slots (R118). -/
theorem vWord_read (h : vWord i = some w) : w < 2 ^ 32 ∧ vFields w = some i := by
  cases i with
  | vadd f | vsub f | vmul f | vfma f | vfms f | vmax f | vmin f | vabs f | vneg f | vrcp f | vrsq f | vexp2 f | vlog2 f | vcmp f
  | vsel f | vcvt f | vquant f | vmaxabs f | vred f | vperm f | vbcast f | vext f | vmov f | vIadd f | vIsub f | vIshl f | vIshr f
  | vIsra f | vIand f | vIor f | vIxor f | vImul f =>
    obtain ⟨hlt, hop, hdec⟩ := encVF_read h (by decide)
    exact ⟨hlt, by rw [vFields, hop, ← hdec]; rfl⟩
  | _ => cases h

/-- The words of the M slot (R119). -/
theorem mWord_read (h : mWord i = some w) : w < 2 ^ 32 ∧ mFields w = some i := by
  cases i with
  | mma | mz | mrd | mwr | mld | mst | mtree | mkld | rndPoly | rndNs | rndIsr | mtopkRd =>
    obtain ⟨hlt, hop, hg, hrest⟩ := encSlot_read h (by decide) (by omega)
    refine ⟨hlt, ?_⟩
    rw [mFields, hop, ← hg]
    refine congrArg some ?_
    congr <;> exact ofNat_eq_of_mod (by omega)
  | _ => cases h

/-- The words of every slot class. -/
theorem slotWord_read {k : SlotClass} (h : slotWord k i = some w) : w < 2 ^ 32 ∧ (i.wf = true → slotFields k w = some i) := by
  cases k with
  | s => exact (sWord_read h).imp_right fun hf _ => hf
  | l => exact (lWord_read h).imp_right fun hf _ => hf
  | v => exact (vWord_read h).imp_right fun hf _ => hf
  | m => exact (mWord_read h).imp_right fun hf _ => hf
  | c => exact commandWord_read h

/-- A lane instruction's opcode names it, fits ten bits, and is no scalar instruction's (R124). -/
theorem laneParts_read {op : Nat} {f : LaneF} (h : laneParts i = some (op, f)) :
    op < 1024 ∧ laneOf op f = some i ∧ scalarWord i = none := by
  cases i with
  | fadd f | fsub f | fmul f | ffma f | ffms f | fmin f | fmax f | fabs f | fneg f | frcp f | frsq f | fexp2 f | flog2 f | fcmp f | fsel f
  | cvt f | iadd f | isub f | imul f | imulh f | imin f | imax f | iand f | ior f | ixor f | ishl f | ishr f | isra f | icmp f | popc f
  | clz f | bperm f | bfx f | bfi f | shfl f | bcast f | vote f | lld f | lst f | lldc f | lstc f | lldp f | lblk f | aadd f | amin f
  | amax f | aand f | aor f | axor f | axchg f | acas f | amaxvi f | gumbel f | nhash f | lmma f | laccRd f | laccWr f | hdot2 f | lerp f
  | isad f =>
    cases h
    exact ⟨by decide, rfl, rfl⟩
  | _ => cases h

theorem laneWord_read (h : laneWord i = some w) :
    w < 2 ^ 96 ∧ laneOf (w / 2 ^ 54 % 1024) (decLane w) = some i ∧ scalarWord i = none := by
  obtain ⟨⟨op, f⟩, hp, hw⟩ := Option.map_eq_some_iff.mp h
  obtain ⟨hlt, hof, hs⟩ := laneParts_read hp
  obtain ⟨hw, hop, hdec⟩ := encLane_read (congrArg some hw) hlt
  exact ⟨hw, by rw [hop, hdec, hof], hs⟩

/-! ## What each decoder answers (R113 to R126) -/

theorem decodeScalar_eq_some_iff :
    decodeScalar w = some i ↔ scalarWord i = some w ∧ i.wf = true ∧ commandGuard w = true := by
  unfold decodeScalar
  constructor
  · intro h
    split at h
    · cases h
    · obtain ⟨hword, hi⟩ := Option.ite_none_right_eq_some.mp h
      cases hi
      exact hword
  · rintro ⟨hw, hwf, hg⟩
    rw [(scalarWord_read hw).2 hwf]
    exact if_pos ⟨hw, hwf, hg⟩

theorem decodeLane_eq_some_iff : decodeLane w = some i ↔ laneWord i = some w ∧ i.wf = true := by
  unfold decodeLane
  constructor
  · intro h
    split at h
    · cases h
    · obtain ⟨hword, hi⟩ := Option.ite_none_right_eq_some.mp h
      cases hi
      exact hword
  · rintro ⟨hw, hwf⟩
    rw [(laneWord_read hw).2.1]
    exact if_pos ⟨hw, hwf⟩

theorem decodeSlot_eq_ok_iff {k : SlotClass} :
    decodeSlot k w = .ok i ↔ slotWord k i = some w ∧ i.wf = true ∧ tileArm i = true := by
  unfold decodeSlot
  constructor
  · intro h
    split at h
    · cases h
    · split at h
      · next hword => cases h; exact hword
      · split at h <;> cases h
  · rintro ⟨hw, hwf, ha⟩
    rw [(slotWord_read hw).2 hwf]
    exact if_pos ⟨hw, hwf, ha⟩

theorem encode_of_scalarWord (h : scalarWord i = some w) : encode i = [BitVec.ofNat 32 w] := by rw [encode, h]

theorem encode_of_laneWord (h : laneWord i = some w) :
    encode i = [BitVec.ofNat 32 w, BitVec.ofNat 32 (w / 2 ^ 32), BitVec.ofNat 32 (w / 2 ^ 64)] := by
  rw [encode, (laneWord_read h).2.2, h]

end

/-- Settles O28: each decoder answers with the well-formed instructions whose word it is given (the three `_iff` lemmas). -/
theorem decodeAndEncodeAgree : Obligations.DecodeAndEncodeAgree := by
  unfold Obligations.DecodeAndEncodeAgree
  refine ⟨fun i w hwf hw hg => ⟨(scalarWord_read hw).1, decodeScalar_eq_some_iff.mpr ⟨hw, hwf, hg⟩⟩,
    fun i w hwf hw => ⟨(laneWord_read hw).1, decodeLane_eq_some_iff.mpr ⟨hw, hwf⟩⟩,
    fun k i w hwf ha hw => ⟨(slotWord_read hw).1, decodeSlot_eq_ok_iff.mpr ⟨hw, hwf, ha⟩⟩, fun i w h => ?_, fun i w h => ?_,
    fun k i w h => ?_⟩
  · obtain ⟨hw, hwf, -⟩ := decodeScalar_eq_some_iff.mp h
    refine ⟨hwf, encode_of_scalarWord hw, ?_⟩
    rw [decodeTableWord, if_neg (by decide), Nat.mod_eq_of_lt (scalarWord_read hw).1, h]
  · obtain ⟨hw, hwf⟩ := decodeLane_eq_some_iff.mp h
    refine ⟨hwf, encode_of_laneWord hw, ?_⟩
    rw [decodeTableWord, if_pos rfl, Nat.mod_eq_of_lt (laneWord_read hw).1, h]
  · obtain ⟨hw, hwf, ha⟩ := decodeSlot_eq_ok_iff.mp h
    exact ⟨hwf, ha, hw, (slotWord_read hw).1⟩

/-! ## Words written out (R113 to R125) -/

/-- Each written word is the word of its instruction, which is well formed and has no guard. -/
theorem writtenWords_encode : ∀ p ∈ Claims.writtenWords, scalarWord p.2 = some p.1 ∧ p.2.wf = true ∧ commandGuard p.1 = true := by
  decide

/-- Settles O27: a word decodes to the instruction whose word it is; of the three that do not decode, two have an opcode that no
table assigns and one a bit that must be zero. -/
theorem writtenWordsDecode : Obligations.WrittenWordsDecode := by
  unfold Obligations.WrittenWordsDecode
  refine ⟨fun p hp => decodeScalar_eq_some_iff.mpr (writtenWords_encode p hp), ?unassigned, ?nonzero, ?s, ?l, ?v, ?m, ?c, ?slot, ?lane⟩
  case unassigned => rfl
  case nonzero => decide
  case s | l | v | m | c => exact decodeSlot_eq_ok_iff.mpr (by decide)
  case slot => rfl
  case lane => exact decodeLane_eq_some_iff.mpr (by decide)

end Sys2Proof

namespace Sys2Proof.Machine

open Sys2Proof Sys2Proof.Claims

/-! ## Where scalar instructions trap (R126, R168, R174 to R181, R185, R186, R192) -/

/-- The same as `relTarget_bad` for a displacement of any width up to 57 bits: a target out of the section stays out of it in the 64 bits
that the hardware computes. -/
theorem targetOk_relTarget_false {s : State} {c : Ctx} {n : Nat} {im : BitVec (n + 1)} (hn : n ≤ 56) (hlen : s.codeLen c ≤ 2 ^ 32)
    (ht : ∀ t : Nat, (t : Int) = jumpPc c im.toInt → ¬ GoodTarget s c t) : s.targetOk c (relTarget c.th.pc (n + 1) im.toNat) = false := by
  rw [← Bool.not_eq_true, s.targetOk_iff]
  rintro ⟨h4, hlt⟩
  have hpow : (2 : Int) ^ n ≤ 2 ^ 56 := by exact_mod_cast Nat.pow_le_pow_right (by decide) hn
  have hlo := BitVec.le_toInt im
  have hhi := BitVec.toInt_lt (x := im)
  rw [Nat.add_sub_cancel] at hlo hhi
  have hrel : relTarget c.th.pc (n + 1) im.toNat = (jumpPc c im.toInt % 2 ^ 64).toNat := by
    rw [relTarget, sx_eq_toInt]; rfl
  have hpc : jumpPc c im.toInt = c.th.pc.toNat + 4 * im.toInt := rfl
  by_cases hneg : jumpPc c im.toInt < 0
  · omega
  · refine ht (jumpPc c im.toInt).toNat (by omega) ⟨?_, ?_⟩ <;> omega

/-- A target that a thread may not go to. -/
theorem State.targetOk_false {s : State} {c : Ctx} {t : Nat} (h : ¬ GoodTarget s c t) : s.targetOk c t = false := by
  rwa [← Bool.not_eq_true, s.targetOk_iff]

theorem span_add (a m n : Nat) : span a (m + n) = span a m ++ span (a + m) n := by
  simp only [span_eq_range', List.range'_append_1]

/-- The lowest lane of a mask is the first of its lanes. -/
theorem lanesOf_eq_cons {m : W32} {l : Nat} (hl : l < 32) (hon : m.getLsbD l = true) (hlow : ∀ k < l, m.getLsbD k = false) :
    ∃ rest, lanesOf m = l :: rest := by
  have hspan : span 0 32 = span 0 l ++ l :: span (l + 1) (31 - l) := by
    have happ := span_add 0 l (31 - l + 1)
    rwa [Nat.zero_add, show l + (31 - l + 1) = 32 by omega] at happ
  have hnone : (span 0 l).filter (fun k => m.getLsbD k) = [] :=
    List.filter_eq_nil_iff.mpr fun k hk => by simp [hlow k (by have := mem_span.mp hk; omega)]
  rw [lanesOf, hspan, List.filter_append, hnone, List.filter_cons_of_pos hon]
  exact ⟨_, rfl⟩

section
variable {s : State} {c : Ctx} (h : Drained s c)
include h

/-- An allowed instruction of a drained thread whose own effect is a fault takes its trap at its PC. -/
theorem scalarOp_traps {i : Instr} {k : RoleClass} {pl : Place} {drain : Bool} {body : Ctx → State → Out} {cause : Nat} {a : W64} {m : W32}
    (hr : roleAllows c.gang.role k = true) (hpl : placeOk c pl = true) (hb : body c s = s.scalarTrap c i cause a m) :
    scalarOp i k pl drain body s = .next (s.takeTrap c (faultAt c i cause a m)) := by
  obtain ⟨hready, hq⟩ := h
  rw [scalarOp_of_ready hready hr hpl (fun _ => hq), hb, State.scalarTrap_empty hq]
  rfl

theorem exec_trap (code : BitVec 16) :
    exec (.trap code) s = .next (s.takeTrap c (faultAt c (.trap code) 0x15 (code.zeroExtend 64) 0)) :=
  (scalarOp_traps h rfl rfl rfl : execTrap code s = _)

theorem exec_illegalInstruction (w : W32) :
    exec (.illegalInstruction w) s = .next (s.takeTrap c (faultAt c (.illegalInstruction w) 0x01 0 0)) :=
  (scalarOp_traps h rfl rfl rfl : execIllegalInstruction w s = _)

theorem exec_scalarFetchOutOfRange :
    exec .scalarFetchOutOfRange s = .next (s.takeTrap c (faultAt c .scalarFetchOutOfRange 0x13 0 0)) :=
  (scalarOp_traps h rfl rfl rfl : execScalarFetchOutOfRange s = _)

/-! ### Jumps and returns (R168, R179, R180, R185) -/

theorem exec_ret_empty (hs : c.th.rstack = []) : exec .ret s = .next (s.takeTrap c (faultAt c .ret 0x0B 0 0)) :=
  (scalarOp_traps h rfl rfl (by simp only [hs]) : execRet s = _)

theorem exec_eret_outside (ht : c.th.tmode = false) : exec .eret s = .next (s.takeTrap c (faultAt c .eret 0x01 0 0)) :=
  (scalarOp_traps h rfl rfl (by rw [ht]; rfl) : execEret s = _)

end

section
variable {s : State} {c : Ctx} {i : Instr} {d t : Nat} {call : Bool}

theorem State.jumpTo_outside (ht : s.targetOk c t = false) : s.jumpTo c i d call t = s.scalarTrap c i 0x13 := by
  rw [State.jumpTo, ht]
  rfl

theorem State.jumpTo_full (ht : s.targetOk c t = true) (hc : call = true) (hs : 16 ≤ c.th.rstack.length) :
    s.jumpTo c i d call t = s.scalarTrap c i 0x0A := by
  rw [State.jumpTo, ht, if_neg (by simp), if_pos ⟨hc, hs⟩]

end

section
variable {s : State} {c : Ctx} (h : Drained s c)
include h

/-- jal to a target that its section does not have. -/
theorem exec_jal_outside (d : B5) (call : B1) {im : BitVec 19} (hlen : s.codeLen c ≤ 2 ^ 32)
    (ht : ∀ t : Nat, (t : Int) = jumpPc c im.toInt → ¬ GoodTarget s c t) :
    exec (.jal d call im) s = .next (s.takeTrap c (faultAt c (.jal d call im) 0x13 0 0)) :=
  (scalarOp_traps h rfl rfl (State.jumpTo_outside (targetOk_relTarget_false (by decide) hlen ht)) : execJal d call im s = _)

theorem exec_jr_outside (d a : B5) (call : B1) (ht : ¬ GoodTarget s c (c.x a).toNat) :
    exec (.jr d a call) s = .next (s.takeTrap c (faultAt c (.jr d a call) 0x13 0 0)) :=
  (scalarOp_traps h rfl rfl (State.jumpTo_outside (State.targetOk_false ht)) : execJr d a call s = _)

/-- jal that calls with a full return stack. -/
theorem exec_jal_full (d : B5) {call : B1} {im : BitVec 19} {t : Nat} (hlen : s.codeLen c ≤ 2 ^ 32) (hc : call = 1)
    (hs : 16 ≤ c.th.rstack.length) (ht : (t : Int) = jumpPc c im.toInt) (hg : GoodTarget s c t) :
    exec (.jal d call im) s = .next (s.takeTrap c (faultAt c (.jal d call im) 0x0A 0 0)) := by
  have hrel : relTarget c.th.pc 19 im.toNat = t := relTarget_eq ht (by have := hg.2; omega)
  have hok : s.targetOk c (relTarget c.th.pc 19 im.toNat) = true := by rw [hrel]; exact (s.targetOk_iff c t).mpr hg
  exact (scalarOp_traps h rfl rfl (State.jumpTo_full hok (beq_iff_eq.mpr hc) hs) : execJal d call im s = _)

theorem exec_jr_full (d : B5) {a : B5} {call : B1} (hc : call = 1) (hs : 16 ≤ c.th.rstack.length) (hg : GoodTarget s c (c.x a).toNat) :
    exec (.jr d a call) s = .next (s.takeTrap c (faultAt c (.jr d a call) 0x0A 0 0)) :=
  (scalarOp_traps h rfl rfl (State.jumpTo_full ((s.targetOk_iff c _).mpr hg) (beq_iff_eq.mpr hc) hs) : execJr d a call s = _)

/-- bz.m with no lane active, to a target that its section does not have. -/
theorem exec_bzM_outside (he : c.isMgmt = false) {im : BitVec 19} (hlen : s.codeLen c ≤ 2 ^ 32) (hm : c.th.m = 0)
    (ht : ∀ t : Nat, (t : Int) = jumpPc c im.toInt → ¬ GoodTarget s c t) :
    exec (.bzM im) s = .next (s.takeTrap c (faultAt c (.bzM im) 0x13 0 0)) := by
  have hbad : s.targetOk c (relTarget c.th.pc 19 im.toNat) = false := targetOk_relTarget_false (by decide) hlen ht
  exact (scalarOp_traps h rfl (placeOk_edge he) ((if_pos hm).trans (if_neg (Bool.not_eq_true _ ▸ hbad))) : execBzM im s = _)

/-- jr.w with no lane active: a full return stack ranks before it. -/
theorem exec_jrW_none (he : c.isMgmt = false) (d : B5) (call : B1) (n : B7) (hm : c.th.m = 0) :
    exec (.jrW d call n) s = .next (s.takeTrap c (faultAt c (.jrW d call n) (if CallRoom c call then 0x09 else 0x0A) 0 0)) := by
  have hl : lanesOf c.th.m = [] := by rw [hm]; decide
  have hfull : (call = 1 ∧ 16 ≤ c.th.rstack.length) ↔ ¬ CallRoom c call := by simp only [CallRoom, Classical.not_imp, Nat.not_lt]
  refine (scalarOp_traps h rfl (placeOk_edge he) ?_ : execJrW d call n s = _)
  simp only [hl, hfull, ite_not]

/-! ### Masks, parts and barriers (R174 to R178, R181) -/

section
variable (he : c.isMgmt = false)
include he

theorem exec_part_deep (p : B3) (im : BitVec 19) (hd : 8 ≤ c.th.path.length) :
    exec (.part p im) s = .next (s.takeTrap c (faultAt c (.part p im) 0x16 0 0)) :=
  (scalarOp_traps h rfl (placeOk_edge he) (if_pos hd) : execPart p im s = _)

theorem exec_part_outside (p : B3) {im : BitVec 19} (hlen : s.codeLen c ≤ 2 ^ 32) (hd : c.th.path.length < 8)
    (ht : ∀ t : Nat, (t : Int) = jumpPc c im.toInt → ¬ GoodTarget s c t) :
    exec (.part p im) s = .next (s.takeTrap c (faultAt c (.part p im) 0x13 0 0)) := by
  have hbad : s.targetOk c (relTarget c.th.pc 19 im.toNat) = false := targetOk_relTarget_false (by decide) hlen ht
  exact (scalarOp_traps h rfl (placeOk_edge he) (by rw [if_neg (Nat.not_le.mpr hd), hbad]; rfl) : execPart p im s = _)

theorem exec_mpush_full (p : B3) (hs : 16 ≤ c.th.mstack.length) :
    exec (.mpush p) s = .next (s.takeTrap c (faultAt c (.mpush p) 0x0C 0 0)) :=
  (scalarOp_traps h rfl (placeOk_edge he) (if_pos hs) : execMpush p s = _)

theorem exec_minv_empty (hs : c.th.mstack = []) : exec .minv s = .next (s.takeTrap c (faultAt c .minv 0x0D 0 0)) :=
  (scalarOp_traps h rfl (placeOk_edge he) (by simp only [hs]) : execMinv s = _)

theorem exec_mpop_empty (hs : c.th.mstack = []) : exec .mpop s = .next (s.takeTrap c (faultAt c .mpop 0x0D 0 0)) :=
  (scalarOp_traps h rfl (placeOk_edge he) (by simp only [hs]) : execMpop s = _)

/-- bar below depth 0 of parts, or with a count that the crew does not have. -/
theorem exec_bar_bad (a : B5) (n : B4) (hb : let cnt := if a = 0 then c.crew.egangs else (c.x a).toNat
    cnt = 0 ∨ c.crew.egangs < cnt ∨ c.th.path ≠ []) : exec (.bar a n) s = .next (s.takeTrap c (faultAt c (.bar a n) 0x0F 0 0)) := by
  have hwait : c.th.wait ≠ .bar n.toNat := by
    obtain ⟨⟨-, -, -, hw, -⟩, -⟩ := h
    rw [hw]
    exact nofun
  refine (scalarOp_traps h rfl (placeOk_edge he) ?_ : execBar a n s = _)
  rw [if_neg hwait]
  split
  · rfl
  · next hp =>
    refine if_pos ?_
    obtain hz | hover | hdeep := hb
    · exact .inl hz
    · exact .inr hover
    · exact absurd hdeep hp

theorem exec_laneJmpInd_outside (hr : c.gang.role ≠ 1) (a : B5) (ht : (c.x a).toNat % 12 ≠ 0 ∨ c.desc.ellen < (c.x a).toNat) :
    exec (.laneJmpInd a) s = .next (s.takeTrap c (faultAt c (.laneJmpInd a) 0x13 0 0)) :=
  (scalarOp_traps h (bne_iff_ne.mpr hr) (placeOk_edge he) (if_pos ht) : execLaneJmpInd a s = _)

/-- lane.jmp by a displacement: a target below 0 lies above every section in the 64 bits that the hardware computes. -/
theorem exec_laneJmp_outside (hr : c.gang.role ≠ 1) (hlen : c.desc.ellen < 2 ^ 32) (im : BitVec 19)
    (ht : ∀ t : Nat, (t : Int) = c.th.lpc.toNat + 12 * im.toInt → t % 12 ≠ 0 ∨ c.desc.ellen < t) :
    exec (.laneJmp im) s = .next (s.takeTrap c (faultAt c (.laneJmp im) 0x13 0 0)) := by
  refine (scalarOp_traps h (bne_iff_ne.mpr hr) (placeOk_edge he) (if_pos ?_) : execLaneJmp im s = _)
  have hlo := BitVec.le_toInt im
  have hhi := BitVec.toInt_lt (x := im)
  rw [sx_eq_toInt, wrapN]
  by_cases hneg : (c.th.lpc.toNat : Int) + 12 * im.toInt < 0
  · exact .inr (by omega)
  · have hbad := ht (c.th.lpc.toNat + 12 * im.toInt).toNat (by omega)
    have hwrap : (((c.th.lpc.toNat : Int) + 12 * im.toInt) % (2 ^ 64 : Int)).toNat = ((c.th.lpc.toNat : Int) + 12 * im.toInt).toNat := by
      omega
    rwa [hwrap]

/-- A regang of two sub-gangs at unlike places traps the acting one, then the other where it still stands. -/
theorem exec_regang_unlike {k : Nat} {o : Thread} {more : List (Nat × Thread)} (hp : c.th.path ≠ [])
    (hs : siblings c.gang c.th.path = (k, o) :: more) (hw : o.wait = .regang) (hd : o.path.length = c.th.path.length)
    (hu : o.pc ≠ c.th.pc ∨ o.lpc ≠ c.th.lpc ∨ o.mstack.length ≠ c.th.mstack.length) :
    let v := s.takeTrap c (faultAt c .regang 0x0E 0 0)
    exec .regang s = .next (((v.subGang { c.ref with sub := k }).map (fun oc => v.takeTrap oc (faultAt oc .regang 0x0E 0 0))).getD v) := by
  intro v
  obtain ⟨b, rest, hpath⟩ := List.exists_cons_of_ne_nil hp
  have hunlike : ¬ (o.pc = c.th.pc ∧ o.lpc = c.th.lpc ∧ o.mstack.length = c.th.mstack.length) := by tauto
  show execRegang s = _
  rw [execRegang, scalarOp_of_ready h.1 rfl (placeOk_edge he) (fun _ => h.2)]
  rw [hpath] at hs hd ⊢
  simp only [hs, hw, hd, hunlike, and_self, if_true, if_false]
  change (match v.subGang { c.ref with sub := k } with
    | none => Host.Outcome.next v
    | some oc => .next (v.takeTrap oc (faultAt oc .regang 0x0E 0 0))) = _
  cases v.subGang { c.ref with sub := k } <;> rfl

/-- jr.w over lanes that disagree with the lowest active one, l. -/
theorem exec_jrW_unlike (d : B5) {call : B1} {n : B7} (hc : CallRoom c call) {l : Nat} (hl : l < 32) (hon : c.th.m.getLsbD l = true)
    (hlow : ∀ k < l, c.th.m.getLsbD k = false) :
    let bad := (span 0 32).filter (fun k => c.th.m.getLsbD k && c.gang.getW k n.toNat != c.gang.getW l n.toNat)
    bad ≠ [] → exec (.jrW d call n) s = .next (s.takeTrap c (faultAt c (.jrW d call n) 0x09 0 (maskOf bad))) := by
  intro bad hbad
  obtain ⟨rest, hlanes⟩ := lanesOf_eq_cons hl hon hlow
  have hrest : rest.filter (fun k => c.gang.getW k n.toNat != c.gang.getW l n.toNat) = bad := by
    have hall := List.filter_filter (p := fun k => c.gang.getW k n.toNat != c.gang.getW l n.toNat) (q := fun k => c.th.m.getLsbD k)
      (l := span 0 32)
    rw [show (span 0 32).filter (fun k => c.th.m.getLsbD k) = l :: rest from hlanes, List.filter_cons_of_neg (by simp)] at hall
    exact hall.trans (List.filter_congr fun k _ => Bool.and_comm ..)
  have hroom : ¬ (call = 1 ∧ 16 ≤ c.th.rstack.length) := fun hfull => Nat.not_le.mpr (hc hfull.1) hfull.2
  refine (scalarOp_traps h rfl (placeOk_edge he) ?_ : execJrW d call n s = _)
  simp only [hlanes, hrest, hroom, if_false, if_true, hbad, ne_eq, not_false_eq_true]

end

end

/-! ### Control and status registers (R186) -/

theorem State.csrValue_above {s : State} {c : Ctx} {n : Nat} (hn : 0x042 < n) : s.csrValue c n = none := by
  unfold State.csrValue
  split
  case h_27 => rfl
  all_goals omega

/-- The registers from 0x040 on are a management core's. -/
theorem State.csrValue_edge {s : State} {c : Ctx} {n : Nat} (he : c.isMgmt = false) (hn : 0x040 ≤ n) : s.csrValue c n = none := by
  unfold State.csrValue
  split
  case h_24 | h_25 | h_26 => rw [he]; rfl
  case h_27 => rfl
  all_goals omega

section
variable {s : State} {c : Ctx} (h : Drained s c)
include h

/-- csr.rd of a number that no register has, or that a management core alone has. -/
theorem exec_csrRd_unlisted (d : B5) {n : BitVec 12} (hn : 0x042 < n.toNat ∨ (c.isMgmt = false ∧ 0x040 ≤ n.toNat)) :
    exec (.csrRd d n) s = .next (s.takeTrap c (faultAt c (.csrRd d n) 0x01 0 0)) := by
  have hnone : s.csrValue c n.toNat = none := by
    obtain hgt | ⟨he, hge⟩ := hn
    · exact State.csrValue_above hgt
    · exact State.csrValue_edge he hge
  exact (scalarOp_traps h rfl rfl (by rw [hnone]) : execCsrRd d n s = _)

end

/-- The registers that no value can be written to (R186). -/
theorem csrWrite_readOnly : ∀ n ∈ [0x004, 0x005, 0x006, 0x007, 0x008, 0x011, 0x015, 0x016, 0x017, 0x018, 0x01A, 0x01B, 0x01C, 0x042],
    n ≠ 0x041 ∧ ∀ (th : Thread) (v : W64), th.csrWrite n v = none := by
  simp [Thread.csrWrite]

theorem trapInstructionResults : TrapInstructionResults := fun _ _ h =>
  ⟨exec_trap h, exec_illegalInstruction h, exec_scalarFetchOutOfRange h⟩

theorem controlFaultResults : ControlFaultResults := by
  intro s c h traps
  have ⟨hready, hq⟩ := h
  refine ⟨exec_ret_empty h, exec_eret_outside h,
    fun d a call im hlen => ⟨fun ht => ⟨exec_jal_outside h d call hlen ht, fun he hm => exec_bzM_outside h he hlen hm ht,
      fun p he hd => exec_part_outside h he p hlen hd ht⟩, exec_jr_outside h d a call,
      fun hc hs => ⟨fun t ht hg => exec_jal_full h d hlen hc hs ht hg, exec_jr_full h d hc hs⟩⟩,
    fun d n => exec_csrRd_unlisted h d,
    fun x => ⟨fun hv => exec_csrWr_illegal hready hq (by decide) (if_neg hv),
      fun hv => exec_csrWr_illegal hready hq (by decide) (if_neg (Nat.not_le.mpr hv))⟩,
    fun x n hn => exec_csrWr_illegal hready hq (csrWrite_readOnly _ hn).1 ((csrWrite_readOnly _ hn).2 _ _), fun he => ?_⟩
  refine ⟨fun d call n => ⟨fun hc hm => ?_, fun hc hm => ?_, fun hc l hl hon hlow => exec_jrW_unlike h he d hc hl hon hlow⟩,
    fun p im => ⟨exec_mpush_full h he p, exec_part_deep h he p im⟩, fun hs => ⟨exec_minv_empty h he hs, exec_mpop_empty h he hs⟩,
    exec_bar_bad h he,
    fun hr hlen => ⟨exec_laneJmp_outside h he hr hlen, exec_laneJmpInd_outside h he hr⟩,
    fun k o more hp hs hw hd hu => ?_⟩
  · simpa only [if_pos hc] using exec_jrW_none h he d call n hm
  · simpa only [if_neg hc] using exec_jrW_none h he d call n hm
  · have hboth := exec_regang_unlike h he hp hs hw hd hu
    intro v
    exact ⟨fun hn => by rw [hboth, hn]; rfl, fun oc ho => by rw [hboth, ho]; rfl⟩

/-- Settles O36: the trapping instructions, then each control instruction where it faults. -/
theorem scalarTrapResults : Obligations.ScalarTrapResults := ⟨trapInstructionResults, controlFaultResults⟩

end Sys2Proof.Machine

namespace Sys2Proof.Machine

open Sys2Proof Sys2Proof.Claims

/-! ## Operations that launch results (R139, R141) -/

/-- An effect of results alone leaves them in flight and changes nothing else. -/
theorem Tile.effect_lands (t : Tile) (order : Nat) (xs : List (Nat × Land)) : t.effect order { lands := xs } = inFlight t order xs := by
  simp only [Tile.effect, List.foldl_nil, BitVec.add_zero]
  rfl

section
variable {s : State} {e : Nat} {g : B4} {slot : Nat} {sem : TCtx → TRes}

/-- An operation with a true guard that comes to results alone launches them. -/
theorem tileOp_launches {xs : List (Nat × Land)} (h : Runs s e) (hg : (atStep s e).preg g.toNat = true)
    (hs : sem ((s.setTile e (atStep s e)).tctx e (atStep s e)) = .ok { lands := xs }) : tileOp g slot sem s = .next (launches s e xs) := by
  obtain ⟨hc, hr⟩ := h
  rw [tileOp_effect hc hr hg hs rfl rfl, Tile.effect_lands]
  rfl

end

/-! ## The two-operand operations of the S slot (R155) -/

theorem TCtx.sa_eq (c : TCtx) (f : SA) : c.sa f = saLeft c.t f := rfl

theorem TCtx.sb_eq (c : TCtx) (f : SA) : c.sb f = saRight c.t f := by
  simp only [TCtx.sb, saRight, bitAt_iff]
  rfl

/-- A word shifted left by a count of six bits. -/
theorem shiftLeft_shiftOf (a b : W64) : a <<< shiftOf b = BitVec.ofNat 64 (a.toNat * 2 ^ (b.toNat % 64)) := by
  apply BitVec.eq_of_toNat_eq
  rw [BitVec.toNat_shiftLeft, Nat.shiftLeft_eq, BitVec.toNat_ofNat, shiftOf]

theorem ushiftRight_shiftOf (a b : W64) : a >>> shiftOf b = BitVec.ofNat 64 (a.toNat / 2 ^ (b.toNat % 64)) := by
  rw [← Nat.shiftRight_eq_div_pow, ← BitVec.toNat_ushiftRight, BitVec.ofNat_toNat, BitVec.setWidth_eq]
  rfl

theorem sshiftRight_shiftOf (a b : W64) : a.sshiftRight (shiftOf b) = BitVec.ofInt 64 (a.toInt / 2 ^ (b.toNat % 64)) := by
  rw [BitVec.sshiftRight, Int.shiftRight_eq_div_pow, shiftOf]
  norm_cast

/-- Each operation of the table is the two-operand operation on its own function, with its latency. -/
theorem saTable_exec : ∀ p ∈ saTable, ∃ op : W64 → W64 → W64, (∀ a b, op a b = p.2.2 a b) ∧
    ∀ (f : SA) (s : State), exec (p.1 f) s = tileOp f.g 0 (saOp p.2.1 op f) s := by
  simp only [saTable, List.forall_mem_cons, List.not_mem_nil, false_implies, implies_true, and_true]
  refine ⟨⟨fun a b => a + b, fun a b => ?add, fun f s => rfl⟩, ⟨fun a b => a - b, fun a b => ?sub, fun f s => rfl⟩,
    ⟨fun a b => a &&& b, fun a b => rfl, fun f s => rfl⟩, ⟨fun a b => a ||| b, fun a b => rfl, fun f s => rfl⟩,
    ⟨fun a b => a ^^^ b, fun a b => rfl, fun f s => rfl⟩, ⟨fun a b => a &&& ~~~b, fun a b => rfl, fun f s => rfl⟩,
    ⟨fun a b => a <<< shiftOf b, shiftLeft_shiftOf, fun f s => rfl⟩, ⟨fun a b => a >>> shiftOf b, ushiftRight_shiftOf, fun f s => rfl⟩,
    ⟨fun a b => a.sshiftRight (shiftOf b), sshiftRight_shiftOf, fun f s => rfl⟩, ⟨fun a b => a * b, fun a b => ?mul, fun f s => rfl⟩,
    ⟨mulHigh, fun a b => rfl, fun f s => rfl⟩, ⟨fun a b => if b.slt a then b else a, fun a b => ?min, fun f s => rfl⟩,
    ⟨fun a b => if a.slt b then b else a, fun a b => ?max, fun f s => rfl⟩, ⟨fun a _ => a, fun a b => rfl, fun f s => rfl⟩⟩
  case add => rw [BitVec.ofNat_add, BitVec.ofNat_toNat, BitVec.ofNat_toNat, BitVec.setWidth_eq, BitVec.setWidth_eq]
  case sub => exact BitVec.eq_of_toInt_eq (by rw [BitVec.toInt_sub, BitVec.toInt_ofInt])
  case mul => rw [BitVec.ofNat_mul, BitVec.ofNat_toNat, BitVec.ofNat_toNat, BitVec.setWidth_eq, BitVec.setWidth_eq]
  case min => simp only [BitVec.slt_iff_toInt_lt]
  case max => simp only [BitVec.slt_iff_toInt_lt]

theorem tileArithmetic : TileArithmetic := by
  intro p hp f s e h hg
  obtain ⟨op, hop, hexec⟩ := saTable_exec p hp
  rw [hexec, tileOp_launches h hg rfl, TCtx.sa_eq, TCtx.sb_eq, hop]
  rfl

/-! ## The other scalar operations of the S slot (R156, R159) -/

theorem lih_value (x : W64) (i : BitVec 16) :
    x * 65536#64 + i.zeroExtend 64 = BitVec.ofNat 64 (x.toNat * 65536 + i.toNat) := by
  rw [BitVec.ofNat_add, BitVec.ofNat_mul, BitVec.ofNat_toNat, BitVec.ofNat_toNat, BitVec.setWidth_eq]

/-- COND tells its condition. -/
theorem condS_iff : ∀ k ∈ condTable, ∀ a b : W64, condS k.1.toNat a b = true ↔ k.2 a b := by
  simp only [condTable, List.forall_mem_cons, List.not_mem_nil, false_implies, implies_true, and_true]
  exact ⟨fun a b => beq_iff_eq, fun a b => bne_iff_ne, fun a b => BitVec.slt_iff_toInt_lt, fun a b => BitVec.sle_iff_toInt_le,
    fun a b => BitVec.ult_iff_toNat_lt, fun a b => BitVec.ule_iff_toNat_le⟩

/-- What rds reads of each register of the table. -/
theorem sprTable_value : ∀ k ∈ sprTable, ∀ c : TCtx, c.spr k.1.toNat = BitVec.ofNat 64 (k.2 c.t) := by
  simp only [sprTable, List.forall_mem_cons, List.not_mem_nil, false_implies, implies_true, and_true]
  exact ⟨fun _ => rfl, fun _ => rfl, fun _ => rfl, fun _ => rfl, fun _ => rfl, fun _ => rfl, fun _ => rfl, fun _ => rfl, fun _ => rfl,
    fun _ => rfl, fun _ => rfl, fun _ => rfl⟩

/-- What rds reads of register k of the roundabout. -/
theorem spr_kreg (c : TCtx) {n : Nat} (hn : n < 16) : c.spr (BitVec.ofNat 8 (0x10 + n)).toNat = BitVec.ofNat 64 (c.t.kreg n).toNat := by
  have hnum : (BitVec.ofNat 8 (0x10 + n)).toNat = 0x10 + n := Nat.mod_eq_of_lt (by omega)
  have hne : ∀ m < 0x10, 0x10 + n ≠ m := by omega
  have hlt : 0x10 + n < 0x20 := by omega
  simp (disch := decide) only [TCtx.spr, hnum, hne, hlt, if_false, if_true, Nat.add_sub_cancel_left]

/-- Each predicate operation is the shared one on its own function. -/
theorem spTable_exec : ∀ k ∈ spTable, ∀ (f : SP) (s : State), exec (k.1 f) s = tileOp f.g 0 (spOp k.2 f) s := by
  simp only [spTable, List.forall_mem_cons, List.not_mem_nil, false_implies, implies_true, and_true]
  exact ⟨fun _ _ => rfl, fun _ _ => rfl, fun _ _ => rfl, fun _ _ => rfl⟩

section
variable {s : State} {e : Nat} (h : Runs s e)
include h

/-- rds launches what it reads of its register. -/
theorem exec_teRds {g : B4} (hg : (atStep s e).preg g.toNat = true) (d : B5) {n : BitVec 8} {v : W64}
    (hv : ∀ c : TCtx, c.t = atStep s e → c.spr n.toNat = v) : exec (.teRds g d n) s = .next (launches s e [(1, .s d.toNat v)]) :=
  (tileOp_launches h hg (congrArg (fun v => TRes.land 1 (.s d.toNat v)) (hv _ rfl)) : execTeRds g d n s = _)

/-- cmp launches its test and the test's negation. -/
theorem exec_teCmp {g : B4} (hg : (atStep s e).preg g.toNat = true) (pt pf : B4) (a b : B5) (cc : B3) :
    let r := condS cc.toNat ((atStep s e).sreg a.toNat) ((atStep s e).sreg b.toNat)
    exec (.teCmp g pt pf a b cc) s = .next (launches s e [(1, .p pt.toNat r), (1, .p pf.toNat (!r))]) :=
  (tileOp_launches h hg rfl : execTeCmp g pt pf a b cc s = _)

end

theorem tileScalarResults : TileScalarResults := by
  intro s e h t
  refine ⟨fun g d a b p hg => (tileOp_launches h hg rfl : execTeSel g d a b p s = _),
    fun g d i hg => ⟨(tileOp_launches h hg rfl : execTeLi g d i s = _), ?lih⟩, fun k hk g pt pf a b r hg hr => ?cmp,
    fun k hk f hg => ?sp, fun k hk g d hg => ?rds, fun g d n hg hn => ?kreg,
    fun g a n hg => (tileOp_launches h hg rfl : execTeWrs g a n s = _)⟩
  case lih =>
    rw [← lih_value]
    exact (tileOp_launches h hg rfl : execTeLih g d i s = _)
  case cmp =>
    have hr : r = condS k.1.toNat (t.sreg a.toNat) (t.sreg b.toNat) := Bool.eq_iff_iff.mpr (hr.trans (condS_iff k hk _ _).symm)
    rw [hr]
    exact exec_teCmp h hg pt pf a b k.1
  case sp =>
    rw [spTable_exec k hk]
    exact tileOp_launches h hg rfl
  case rds => exact exec_teRds h hg d fun c hc => by rw [sprTable_value k hk, hc]
  case kreg => exact exec_teRds h hg d fun c hc => by rw [spr_kreg c hn, hc]

/-- Settles O39: the two-operand operations by their table, then the others one by one. -/
theorem tileScalarSlot : Obligations.TileScalarSlot := ⟨tileArithmetic, tileScalarResults⟩

end Sys2Proof.Machine

namespace Sys2Proof.Machine

open Sys2Proof Sys2Proof.Claims

/-! ## Floating lane instructions (R204, R206) -/

/-- FLUSH of an entry's copy of fmt. -/
theorem laneFlush_eq (e : LaneEntry) : laneFlush e = flushAt e := bitAt_toNat e.fmt 16

/-- SATF of an entry's copy of fmt. -/
theorem fmtSatf_eq (e : LaneEntry) : fmtSatf e.fmt.toNat = e.fmt.getLsbD 15 := bitAt_toNat e.fmt 15

/-- The elements of a lane by T. -/
theorem elemsT_eq (f : LaneF) : elemsT f = (lanePartsT f, tyFmt f.t.toNat) := by
  unfold lanePartsT tyFmt elemsT
  generalize f.t = t
  revert t
  decide

/-- What a floating operation on elements leaves in a lane, as the model computes it. -/
def laneElems (f : LaneF) (op : NumFmt → Rnd → Bool → Nat → Nat → Nat → Nat × FFlags) (c : Ctx) (e : LaneEntry) (l : Nat) :
    W32 × FFlags :=
  perPart3 (lanePartsT f) (op (tyFmt f.t.toNat) (laneRnd c e l) (laneFlush e)) (wA c f l) (opB c.gang f l) (wC c f l)

theorem laneElems_eq (f : LaneF) (op : NumFmt → Rnd → Bool → Nat → Nat → Nat → Nat × FFlags) (c : Ctx) (e : LaneEntry) (l : Nat) :
    laneElems f op c e l =
      perPart3 (elemsT f).1 (op (elemsT f).2 (modeAt c e l) (flushAt e)) (wA c f l) (bOf c f l) (wC c f l) := by
  rw [elemsT_eq, ← laneFlush_eq]
  rfl

/-- Each operation of the table computes its function on the elements of each lane. -/
theorem lfTable_exec : ∀ p ∈ lfTable, ∀ (f : LaneF) (s : State), exec (p.1 f) s = laneMap f (laneElems f p.2) s := by
  simp only [lfTable, List.forall_mem_cons, List.not_mem_nil, false_implies, implies_true, and_true]
  exact ⟨fun _ _ => rfl, fun _ _ => rfl, fun _ _ => rfl, fun _ _ => rfl, fun _ _ => rfl, fun _ _ => rfl, fun _ _ => rfl,
    fun _ _ => rfl, fun _ _ => rfl⟩

/-- Each transcendental is the shared operation on its function of R72. -/
theorem ltTable_exec : ∀ p ∈ ltTable, ∀ (f : LaneF) (s : State), exec (p.1 f) s = laneTrans f p.2 s := by
  simp only [ltTable, List.forall_mem_cons, List.not_mem_nil, false_implies, implies_true, and_true]
  exact ⟨fun _ _ => rfl, fun _ _ => rfl, fun _ _ => rfl, fun _ _ => rfl⟩

section
variable {s : State} {c : Ctx} {f : LaneF} {e : LaneEntry} (h : AtHead s c e) (hw : GangWf c)
include h hw

/-- An instruction that computes register D lane by lane, by the value that each lane takes. -/
theorem writesReg_of_laneMap {o : Out} {val : Ctx → LaneEntry → Nat → W32 × FFlags} {v : Nat → W32 × FFlags}
    (ho : o = laneMap f val s) (hv : ∀ l, val c e l = v l) :
    WritesReg s c f e f.d.toNat (fun l => (v l).1) (flagsOver c f e (fun l => (v l).2)) o := by
  rw [ho, ← funext hv]
  exact writesReg_laneMap h hw val

theorem exec_cvt {src dst : NumFmt} (hsrc : NumFmt.ofCode (f.f8.toNat % 16) = some src) (hdst : NumFmt.ofCode f.f0.toNat = some dst) :
    let val := fun l => cvtLane src dst (perLane (f.f8.toNat % 16)) (perLane f.f0.toNat) (f.f8.toNat / 16) (modeAt c e)
      (e.fmt.getLsbD 15) (flushAt e) (wA c f) (wD c f l) l (if c.desc.legacy then 16 else 32)
    WritesReg s c f e f.d.toNat (fun l => (val l).1) (flagsOver c f e (fun l => (val l).2)) (exec (.cvt f) s) := by
  refine writesReg_of_laneMap h hw (rfl : exec (.cvt f) s = execCvt f s) fun l => ?_
  rw [hsrc, hdst, fmtSatf_eq, laneFlush_eq]
  rfl

theorem writesReg_retiredOp (op : Bool → Nat → Nat → Nat → Nat → FVal × FFlags) :
    let x := fun l => op (flushAt e) (wD c f l).toNat (wA c f l).toNat (wB c f l).toNat (wC c f l).toNat
    let r := fun l => deliver .fp32 .rne (flushAt e) (x l).1
    WritesReg s c f e f.d.toNat (fun l => BitVec.ofNat 32 (r l).1) (flagsOver c f e (fun l => (x l).2.or (r l).2)) (retiredOp f op s) := by
  rw [← laneFlush_eq]
  exact writesReg_of_laneMap h hw (v := fun l => (_, _)) rfl fun l => rfl

end

theorem laneFloatResults : LaneFloatResults := by
  intro s c f e h hw
  refine ⟨fun p hp => writesReg_of_laneMap h hw (lfTable_exec p hp f s) (laneElems_eq f p.2 c e), fun p hp => ?_,
    fun src dst hsrc hdst => exec_cvt h hw hsrc hdst⟩
  rw [ltTable_exec p hp, ← laneFlush_eq]
  exact writesReg_of_laneMap h hw (v := fun l => (_, _)) rfl fun l => rfl

theorem retiredLaneResults : RetiredLaneResults := by
  intro s c f e h hw
  refine ⟨?_, writesReg_laneMapI h hw _⟩
  rintro i op (⟨rfl, rfl⟩ | ⟨rfl, rfl⟩)
  · exact writesReg_retiredOp h hw hdot2Val
  · exact writesReg_retiredOp h hw lerpVal

/-- Settles O43: each instruction computes register D lane by lane, with the value of its row. -/
theorem laneFloatingResults : Obligations.LaneFloatingResults := ⟨laneFloatResults, retiredLaneResults⟩

end Sys2Proof.Machine

namespace Sys2Proof.Machine

open Sys2Proof Sys2Proof.Claims

/-! ## Operations with an effect on the tile state, and operations in error (R139, R140, R142) -/

/-- An effect of results and counter values leaves them in flight and moves SRCTR on. -/
theorem Tile.effect_lands_adv (t : Tile) (order : Nat) (xs : List (Nat × Land)) (n : Nat) :
    t.effect order { lands := xs, adv := n } = inFlight { t with srctr := t.srctr + BitVec.ofNat 64 n } order xs := rfl

section
variable {s : State} {e : Nat} {g : B4} {slot : Nat} {sem : TCtx → TRes}

/-- An operation with a true guard that comes to results and counter values launches them. -/
theorem tileOp_lands_adv {xs : List (Nat × Land)} {n : Nat} (h : Runs s e) (hg : (atStep s e).preg g.toNat = true)
    (hs : sem ((s.setTile e (atStep s e)).tctx e (atStep s e)) = .ok { lands := xs, adv := n }) : tileOp g slot sem s =
      .next (tileAfter s e (inFlight { atStep s e with srctr := (atStep s e).srctr + BitVec.ofNat 64 n } s.seq xs)) := by
  obtain ⟨hc, hr⟩ := h
  rw [tileOp_effect hc hr hg hs rfl rfl, Tile.effect_lands_adv]
  rfl

/-- An operation with a true guard that fails stops the engine. -/
theorem tileOp_fails {cause detail : Nat} (h : Runs s e) (hg : (atStep s e).preg g.toNat = true)
    (hs : sem ((s.setTile e (atStep s e)).tctx e (atStep s e)) = .err cause detail) :
    tileOp g slot sem s = .next (errorAt s e slot cause detail) :=
  tileOp_error h.1 h.2 hg hs

end

/-! ## Operations of the V slots by lanes (R161) -/

/-- The sticky bits that results raise, as the statements list them. -/
theorem flagLand_foldl (lat : Nat) (rs : List (W32 × FFlags)) :
    flagLand lat (rs.foldl (fun a r => a.or r.2) {}) = stickyOf lat (rs.map Prod.snd) := by
  rw [stickyOf, List.foldl_map, flagLand]

theorem TCtx.fl_eq (c : TCtx) : c.fl = flushOf c.t := bitAt_toNat c.t.fmt 16

/-- SRCTR after an operation that reads RND (R63). -/
theorem drew_eq (t : Tile) : drew t = { t with srctr := t.srctr + BitVec.ofNat 64 (if fmtRnd t.fmt.toNat = 4 then 32 else 0) } := by
  unfold drew
  split
  · rfl
  · rw [BitVec.add_zero]

/-- The elements of a lane by TY. -/
theorem elemsOf_eq (f : VF) : elemsOf f = (vParts f, vFmt f) := by
  have hm : f.m.toNat % 4 = 0 ∨ f.m.toNat % 4 = 1 ∨ f.m.toNat % 4 = 2 ∨ f.m.toNat % 4 = 3 := by omega
  rcases hm with hm | hm | hm | hm <;> simp [elemsOf, vParts, vFmt, tyFmt, hm]

section
variable {s : State} {e : Nat} {f : VF} (h : Runs s e) (hg : (atStep s e).preg f.g.toNat = true)
include h hg

/-- An operation by lanes that does not round. -/
theorem tileOp_vecMap {lat slot : Nat} {val : TCtx → Nat → W32 × FFlags} {v : Nat → W32 × FFlags}
    (hv : ∀ c : TCtx, c.t = atStep s e → ∀ l, val c l = v l) :
    tileOp f.g slot (fun c => vecMap f lat (val c) c) s = .next (vecAfter s e f lat false v) := by
  rw [tileOp_launches h hg (by rw [funext (hv _ rfl), vecMap, vecOut]), flagLand_foldl]
  rfl

/-- One that reads RND: it launches its results and draws on SRCTR. -/
theorem tileOp_eq_vecRnd (hr : fmtRnd (atStep s e).fmt.toNat < 5) {lat slot : Nat} {sem : TCtx → TRes} {v : Nat → W32 × FFlags}
    (hs : ∀ c : TCtx, c.t = atStep s e → sem c = vecRnd f lat v c) :
    tileOp f.g slot sem s = .next (vecAfter s e f lat true v) := by
  have hgood : ∀ c : TCtx, c.t = atStep s e → rndBad c.t.fmt.toNat = false := fun c hc => by simp [rndBad, hc, hr]
  rw [tileOp_lands_adv h hg (by rw [hs _ rfl, vecRnd, hgood _ rfl, if_neg Bool.false_ne_true, vecOut]), flagLand_foldl,
    vecAfter, if_pos rfl, drew_eq]
  rfl

theorem tileOp_vecRnd (hr : fmtRnd (atStep s e).fmt.toNat < 5) {lat slot : Nat} {val : TCtx → Nat → W32 × FFlags}
    {v : Nat → W32 × FFlags} (hv : ∀ c : TCtx, c.t = atStep s e → ∀ l, val c l = v l) :
    tileOp f.g slot (fun c => vecRnd f lat (val c) c) s = .next (vecAfter s e f lat true v) :=
  tileOp_eq_vecRnd h hg hr fun c hc => by rw [funext (hv c hc)]

/-- Under a reserved RND it is a format error (R60). -/
theorem tileOp_vecRnd_reserved (hr : 5 ≤ fmtRnd (atStep s e).fmt.toNat) (lat slot : Nat) (val : TCtx → Nat → W32 × FFlags) :
    tileOp f.g slot (fun c => vecRnd f lat (val c) c) s = .next (errorAt s e slot 0x26 0) :=
  tileOp_fails h hg (if_pos (decide_eq_true hr))

end

/-- What a rounding operation leaves in a lane, as the model computes it. -/
def vecElems (f : VF) (op : NumFmt → Rnd → Bool → Nat → Nat → Nat → Nat × FFlags) (c : TCtx) (l : Nat) : W32 × FFlags :=
  perPart3 (vParts f) (op (vFmt f) (c.rnd l) c.fl) (c.va f l) (c.vb f l) (c.vd f l)

/-- What a selecting one leaves there. -/
def vecPicks (f : VF) (op : NumFmt → Bool → Nat → Nat → Nat) (c : TCtx) (l : Nat) : W32 × FFlags :=
  perPart (vParts f) (fun a b => (op (vFmt f) c.fl a b, {})) (c.va f l) (c.vb f l)

/-- What a transcendental leaves there. -/
def vecTranscends (f : VF) (op : Rnd → Bool → FVal → Nat × FFlags) (c : TCtx) (l : Nat) : W32 × FFlags :=
  let r := op (c.rnd l).noSr c.fl (NumFmt.fp32.read c.fl (c.va f l).toNat)
  (BitVec.ofNat 32 r.1, r.2)

/-- Each operation of the tables is the shared one on its own function. -/
theorem vfTable_exec : ∀ p ∈ vfTable, ∀ (f : VF) (s : State),
    exec (p.1 f) s = tileOp f.g 4 (fun c => vecRnd f 4 (vecElems f p.2 c) c) s := by
  simp only [vfTable, List.forall_mem_cons, List.not_mem_nil, false_implies, implies_true, and_true]
  exact ⟨fun _ _ => rfl, fun _ _ => rfl, fun _ _ => rfl, fun _ _ => rfl, fun _ _ => rfl⟩

theorem vmTable_exec : ∀ p ∈ vmTable, ∀ (f : VF) (s : State),
    exec (p.1 f) s = tileOp f.g 4 (fun c => vecMap f 2 (vecPicks f p.2 c) c) s := by
  simp only [vmTable, List.forall_mem_cons, List.not_mem_nil, false_implies, implies_true, and_true]
  exact ⟨fun _ _ => rfl, fun _ _ => rfl, fun _ _ => rfl, fun _ _ => rfl⟩

theorem vtTable_exec : ∀ p ∈ vtTable, ∀ (f : VF) (s : State),
    exec (p.1 f) s = tileOp f.g 4 (fun c => vecRnd f 8 (vecTranscends f p.2 c) c) s := by
  simp only [vtTable, List.forall_mem_cons, List.not_mem_nil, false_implies, implies_true, and_true]
  exact ⟨fun _ _ => rfl, fun _ _ => rfl, fun _ _ => rfl, fun _ _ => rfl⟩

/-- Settles O4: each operation by its table, and the value of each lane. -/
theorem vectorFloatResults : Obligations.VectorFloatResults := by
  intro s e f h hg t
  refine ⟨fun hr => ⟨fun p hp => ?rounding, fun p hp => ?transcendental⟩, fun p hp => ?selecting, fun hr i hi => ?reserved⟩
  case rounding =>
    rw [vfTable_exec p hp, elemsOf_eq]
    refine tileOp_vecRnd h hg hr fun c hc l => ?_
    rw [vecElems, TCtx.fl_eq, hc]
    simp only [TCtx.rnd, TCtx.va, TCtx.vb, TCtx.vd, hc]
    rfl
  case transcendental =>
    rw [vtTable_exec p hp]
    refine tileOp_vecRnd h hg hr fun c hc l => ?_
    simp only [vecTranscends, TCtx.fl_eq, TCtx.rnd, TCtx.va, hc]
    rfl
  case selecting =>
    rw [vmTable_exec p hp, elemsOf_eq]
    refine tileOp_vecMap h hg fun c hc l => ?_
    simp only [vecPicks, TCtx.fl_eq, TCtx.va, TCtx.vb, hc]
    rfl
  case reserved =>
    simp only [List.mem_append, List.mem_map] at hi
    rcases hi with ⟨p, hp, rfl⟩ | ⟨p, hp, rfl⟩
    · rw [vfTable_exec p hp]
      exact tileOp_vecRnd_reserved h hg hr _ _ _
    · rw [vtTable_exec p hp]
      exact tileOp_vecRnd_reserved h hg hr _ _ _

end Sys2Proof.Machine

namespace Sys2Proof.Machine

open Sys2Proof Sys2Proof.Claims

/-! ## Scratchpad accesses (R157, R160) -/

/-- An effect of scratchpad writes alone. -/
theorem Tile.effect_pad (t : Tile) (order : Nat) (ws : List (Nat × List Byte)) :
    t.effect order { pad := ws } = ws.foldl (fun t w => t.padWrite w.1 w.2) t := by
  simp only [Tile.effect, List.map_nil, List.append_nil, BitVec.add_zero]

/-- The lanes' numbers as integers. -/
theorem span_bind_cast (a n : Nat) : (do let i ← span a n; pure (i : Int)) = (span a n).map Nat.cast := bind_pure_comp _ _

/-- The place that the model's address arithmetic finds. -/
theorem toNat_add_eq_padPlace {v w : W64} {off : Int} (h : w = BitVec.ofInt 64 off) : (v + w).toNat = padPlace v off := by
  rw [padPlace, BitVec.ofInt_add, BitVec.ofInt_toInt, h]

/-- No access is outside the scratchpad. -/
theorem padInside {n : Nat} {as : List Nat} (h : ∀ x ∈ as, x + n ≤ 2 ^ 20) : as.find? (fun a => padSize < a + n) = none :=
  List.find?_eq_none.mpr fun a ha hd => Nat.not_lt.mpr (h a ha) (of_decide_eq_true hd)

/-- Accesses that pass their checks raise no error. -/
theorem padErr_of_ok {n : Nat} {as : List Nat} (h : PadOk n as) : padErr n n as = none := by
  have hin : as.find? (fun a => padSize < a + n) = none := padInside fun a ha => (h a ha).1
  have hal : as.find? (fun a => a % n != 0) = none := List.find?_eq_none.mpr fun a ha => by simp [(h a ha).2]
  rw [padErr, hin, hal]

/-- The lowest access outside the scratchpad decides. -/
theorem padErr_of_outside {n al a : Nat} {as : List Nat} (h : as.find? (fun x => decide (2 ^ 20 < x + n)) = some a) :
    padErr n al as = some (0x20, a) := by
  rw [padErr, show as.find? (fun x => padSize < x + n) = some a from h]

/-- When none is outside, the lowest misaligned one does. -/
theorem padErr_of_misaligned {n al a : Nat} {as : List Nat} (hin : ∀ x ∈ as, x + n ≤ 2 ^ 20)
    (h : as.find? (fun x => x % al != 0) = some a) : padErr n al as = some (0x21, a) := by
  rw [padErr, padInside hin, h]

section
variable {s : State} {e : Nat} {g : B4} {slot n al : Nat} (h : Runs s e) (hg : (atStep s e).preg g.toNat = true)
include h hg

/-- A load that passes its checks launches what it reads. -/
theorem tileOp_padLoad {as : List Nat} (hp : PadOk n as) (xs : List (Nat × Land)) {sem : TCtx → TRes}
    (hs : ∀ c : TCtx, c.t = atStep s e → sem c = padOp n n as { lands := xs }) : tileOp g slot sem s = .next (launches s e xs) :=
  tileOp_launches h hg (by rw [hs _ rfl, padOp, padErr_of_ok hp])

/-- A store that passes its checks writes its bytes. -/
theorem tileOp_padStore {as : List Nat} (hp : PadOk n as) (ws : List (Nat × List Byte)) {sem : TCtx → TRes}
    (hs : ∀ c : TCtx, c.t = atStep s e → sem c = padOp n n as { pad := ws }) : tileOp g slot sem s = .next (padStored s e ws) := by
  obtain ⟨hc, hr⟩ := h
  rw [tileOp_effect hc hr hg (by rw [hs _ rfl, padOp, padErr_of_ok hp]) rfl rfl, Tile.effect_pad]
  rfl

/-- An access that fails a check stops the engine on it. -/
theorem tileOp_padErr {as : List Nat} {cause a : Nat} (hp : padErr n al as = some (cause, a)) {f : TCtx → TEff} {sem : TCtx → TRes}
    (hs : ∀ c : TCtx, c.t = atStep s e → sem c = padOp n al as (f c)) : tileOp g slot sem s = .next (errorAt s e slot cause a) :=
  tileOp_fails h hg (by rw [hs _ rfl, padOp, hp])

end

/-! ## ld.s, st.s and ldp (R157) -/

theorem semTeLdS_eq (d a : B5) (i : BitVec 12) (c : TCtx) : semTeLdS d a i c =
    padOp 8 8 [padPlace (c.t.sreg a.toNat) i.toInt]
      { lands := [(4, .s d.toNat (BitVec.ofNat 64 (leNat (c.t.padRead (padPlace (c.t.sreg a.toNat) i.toInt) 8))))] } := by
  have hx := toNat_add_eq_padPlace (v := c.t.sreg a.toNat) (rfl : i.signExtend 64 = BitVec.ofInt 64 i.toInt)
  rw [semTeLdS, hx]

theorem semTeStS_eq (d a : B5) (i : BitVec 12) (c : TCtx) : semTeStS d a i c =
    padOp 8 8 [padPlace (c.t.sreg a.toNat) i.toInt]
      { pad := [(padPlace (c.t.sreg a.toNat) i.toInt, lowBytes 8 (c.t.sreg d.toNat))] } := by
  have hx := toNat_add_eq_padPlace (v := c.t.sreg a.toNat) (rfl : i.signExtend 64 = BitVec.ofInt 64 i.toInt)
  rw [semTeStS, hx, lowBytes_eq]

theorem semTeLdp_eq (d a : B5) (w : B3) (i : BitVec 9) (c : TCtx) : semTeLdp d a w i c =
    .win d.toNat w.toNat (BitVec.ofNat 64 ((c.t.sreg a.toNat).toNat + 8 * i.toNat)).toNat := by
  rw [semTeLdp, BitVec.ofNat_add, BitVec.ofNat_mul, BitVec.ofNat_toNat, BitVec.ofNat_toNat, BitVec.setWidth_eq]

section
variable {s : State} {e : Nat} {g : B4} {slot d w a : Nat} {sem : TCtx → TRes} (h : Runs s e) (hg : (atStep s e).preg g.toNat = true)
  (hs : ∀ c : TCtx, c.t = atStep s e → sem c = .win d w a)
include h hg hs

/-- A window read that has its bytes launches them. -/
theorem tileOp_window {u : State} {v : W64} {beyond : Bool}
    (hw : (s.setTile e (atStep s e)).tileWindow e slot w a = (u, .bytes v beyond)) :
    tileOp g slot sem s = .next (u.applyEff e (winEff d w v beyond)) := by
  obtain ⟨hc, hr⟩ := h
  have hsem := hs ((s.setTile e (atStep s e)).tctx e (atStep s e)) rfl
  unfold atStep at hg hw hsem
  simp only [tileOp, hc, hr, hg, hsem, hw, ne_eq, not_true_eq_false, if_false, Bool.not_true, Bool.false_eq_true]

/-- A misaligned one stops the engine. -/
theorem tileOp_window_misaligned (ha : a % 8 ≠ 0) : tileOp g slot sem s = .next (errorAt s e slot 0x22 0) := by
  obtain ⟨hc, hr⟩ := h
  have hsem := hs ((s.setTile e (atStep s e)).tctx e (atStep s e)) rfl
  have hw : (s.setTile e (atStep s e)).tileWindow e slot w a = (s.setTile e (atStep s e), .fail 0x22 0) := if_pos ha
  unfold atStep at hg hw hsem
  simp only [tileOp, hc, hr, hg, hsem, hw, ne_eq, not_true_eq_false, if_false, Bool.not_true, Bool.false_eq_true]
  rfl

end

theorem tileScratchpadAccess : TileScratchpadAccess := by
  intro s e h t
  refine ⟨?scratchpad, ?window⟩
  case scratchpad =>
    intro g d a i hg x
    have hld : ∀ c : TCtx, c.t = t → semTeLdS d a i c =
        padOp 8 8 [x] { lands := [(4, .s d.toNat (BitVec.ofNat 64 (leNat (t.padRead x 8))))] } := by
      intro c hc; rw [semTeLdS_eq, hc]
    have hst : ∀ c : TCtx, c.t = t → semTeStS d a i c = padOp 8 8 [x] { pad := [(x, lowBytes 8 (t.sreg d.toNat))] } := by
      intro c hc; rw [semTeStS_eq, hc]
    refine ⟨fun hp => ⟨tileOp_padLoad h hg hp _ hld, tileOp_padStore h hg hp _ hst⟩, fun hx => ?outside, fun hx ha => ?misaligned⟩
    case outside =>
      have herr : padErr 8 8 [x] = some (0x20, x) := padErr_of_outside (List.find?_cons_of_pos (decide_eq_true hx))
      exact ⟨tileOp_padErr h hg herr hld, tileOp_padErr h hg herr hst⟩
    case misaligned =>
      have herr : padErr 8 8 [x] = some (0x21, x) := padErr_of_misaligned (by simpa using hx) (by simp [ha])
      exact ⟨tileOp_padErr h hg herr hld, tileOp_padErr h hg herr hst⟩
  case window =>
    intro g d a w i hg x
    have hwin : ∀ c : TCtx, c.t = t → semTeLdp d a w i c = .win d.toNat w.toNat x := by
      intro c hc; rw [semTeLdp_eq, hc]
    exact ⟨fun u v beyond hw => tileOp_window h hg hwin hw, fun ha => tileOp_window_misaligned h hg hwin ha⟩

/-! ## The vector loads and stores of the L slot (R160) -/

theorem lfRow_eq (f : LF) (c : TCtx) : lfRow f c = rowPlaces c.t f := by
  rw [lfRow, rowPlaces, span_bind_cast, List.map_map]
  refine List.map_congr_left fun i _ => ?_
  rw [lfBase, BitVec.add_assoc]
  refine toNat_add_eq_padPlace ?_
  have hext : f.lo.signExtend 64 = BitVec.ofInt 64 f.lo.toInt := rfl
  rw [BitVec.ofInt_add, BitVec.ofInt_mul, hext]
  rfl

theorem lfBase_eq (f : LF) (c : TCtx) : List.replicate 32 (lfBase f c 4).toNat = bcastPlaces c.t f := by
  have hext : f.lo.signExtend 64 = BitVec.ofInt 64 f.lo.toInt := rfl
  rw [bcastPlaces, List.map_const', length_span, lfBase, toNat_add_eq_padPlace (off := 4 * f.lo.toInt)]
  rw [BitVec.ofInt_mul, hext]
  rfl

theorem lfStride_eq (f : LF) (c : TCtx) : lfStride f c = stridePlaces c.t f := by
  rw [lfStride, stridePlaces, span_bind_cast, List.map_map]
  refine List.map_congr_left fun i _ => toNat_add_eq_padPlace ?_
  rw [BitVec.ofInt_mul, BitVec.ofInt_toInt, BitVec.ofInt_natCast]

theorem lfIndex_eq (f : LF) (c : TCtx) : lfIndex f c = indexPlaces c.t f := by
  rw [lfIndex, indexPlaces]
  refine List.map_congr_left fun i _ => toNat_add_eq_padPlace ?_
  rw [BitVec.ofInt_natCast, BitVec.ofNat_toNat]

/-- Each load and each store of the tables is the shared one at its own offsets. -/
theorem vloads_exec : ∀ p ∈ vloads, ∀ (f : LF) (s : State),
    exec (p.1 f) s = tileOp f.g 2 (fun c => vloadOp f c (p.2 c.t f)) s := by
  simp only [vloads, List.forall_mem_cons, List.not_mem_nil, false_implies, implies_true, and_true, ← lfRow_eq, ← lfBase_eq,
    ← lfStride_eq, ← lfIndex_eq]
  exact ⟨fun _ _ => rfl, fun _ _ => rfl, fun _ _ => rfl, fun _ _ => rfl⟩

theorem vstores_exec : ∀ p ∈ vstores, ∀ (f : LF) (s : State),
    exec (p.1 f) s = tileOp f.g 2 (fun c => vstoreOp f c (p.2 c.t f)) s := by
  simp only [vstores, List.forall_mem_cons, List.not_mem_nil, false_implies, implies_true, and_true, ← lfRow_eq, ← lfStride_eq,
    ← lfIndex_eq]
  exact ⟨fun _ _ => rfl, fun _ _ => rfl, fun _ _ => rfl⟩

/-- The bytes of a lane, as the statements write them. -/
theorem lowBytes_lane (v : W32) : lowBytes 4 (v.zeroExtend 64) = leBytes 4 v.toNat := by
  rw [lowBytes_eq, BitVec.toNat_setWidth, Nat.mod_eq_of_lt (Nat.lt_trans v.isLt (by decide))]

/-- Loads and stores alike access the offsets of their lanes. -/
theorem vaccess_exec (f : LF) : ∀ p ∈ vloads ++ vstores, ∃ eff : TCtx → TEff, ∀ s : State,
    exec (p.1 f) s = tileOp f.g 2 (fun c => padOp 4 4 (p.2 c.t f) (eff c)) s := by
  intro p hp
  rcases List.mem_append.mp hp with hp | hp
  · exact ⟨_, fun s => vloads_exec p hp f s⟩
  · exact ⟨_, fun s => vstores_exec p hp f s⟩

theorem vectorLoadStoreResults : VectorLoadStoreResults := by
  intro s e f h hg t
  refine ⟨fun p hp hok => ?load, fun p hp hok => ?store, fun p hp a => ?errors⟩
  case load =>
    rw [vloads_exec p hp]
    exact tileOp_padLoad h hg hok _ fun c hc => by rw [vloadOp, hc]; rfl
  case store =>
    rw [vstores_exec p hp]
    simp only [lowBytes_lane]
    exact tileOp_padStore h hg hok _ fun c hc => by rw [vstoreOp, hc]
  case errors =>
    obtain ⟨eff, hexec⟩ := vaccess_exec f p hp
    rw [hexec]
    have hat : ∀ {cause : Nat}, padErr 4 4 (p.2 t f) = some (cause, a) →
        tileOp f.g 2 (fun c => padOp 4 4 (p.2 c.t f) (eff c)) s = .next (errorAt s e 2 cause a) := fun herr =>
      tileOp_padErr h hg herr fun c hc => by rw [hc]
    exact ⟨fun ho => hat (padErr_of_outside ho), fun hin hm => hat (padErr_of_misaligned hin hm)⟩

/-- Settles O40: the scalar accesses with the window read, then the vector ones by their tables. -/
theorem tileLoadStoreSlots : Obligations.TileLoadStoreSlots := ⟨tileScratchpadAccess, vectorLoadStoreResults⟩

end Sys2Proof.Machine

namespace Sys2Proof.Machine

open Sys2Proof Sys2Proof.Claims

/-! ## What a traced engine keeps (R311): the engines, the stopped tile states and the launches; numbers are only drawn -/

theorem State.flushRun_besideTrace (s : State) (n p : Nat) (edge : Bool) : (s.flushRun n p edge).besideTrace = s.besideTrace := by
  unfold State.flushRun
  simp only
  split
  · rfl
  · exact State.traceRaw_besideTrace ..

theorem State.trace_besideTrace (s : State) (n p gs sub kind payload : Nat) (more : List Nat) (pos lpc : Nat) (edge : Bool) :
    (s.trace n p gs sub kind payload more pos lpc edge).besideTrace = s.besideTrace := by
  unfold State.trace
  split
  · rfl
  · rw [State.traceRaw_besideTrace, State.flushRun_besideTrace]

theorem State.traceUnit_besideTrace (s : State) (n p kind who pos lpc : Nat) (edge : Bool) :
    (s.traceUnit n p kind who pos lpc edge).besideTrace = s.besideTrace := by
  unfold State.traceUnit
  simp only
  split
  · rfl
  · split
    · rfl
    · exact State.flushRun_besideTrace ..

section
variable {s u : State} (h : u.besideTrace = s.besideTrace)
include h

theorem State.tiles_of_besideTrace : u.tiles = s.tiles :=
  (congrArg State.tiles h : u.besideTrace.tiles = s.besideTrace.tiles)
theorem State.stopped_of_besideTrace : u.stopped = s.stopped :=
  (congrArg State.stopped h : u.besideTrace.stopped = s.besideTrace.stopped)
theorem State.launches_of_besideTrace : u.launches = s.launches :=
  (congrArg State.launches h : u.besideTrace.launches = s.besideTrace.launches)

/-- The engines read as before. -/
theorem State.tile_of_besideTrace (e : Nat) : u.tile e = s.tile e := by
  rw [State.tile, State.tiles_of_besideTrace h, State.tile]

end

/-! ### Numbers drawn by a packet's writes -/

theorem State.putBytes_seq : ∀ (bs : List Byte) (s : State) (k : Nat), (s.putBytes k bs).seq = s.seq
  | [], _, _ => rfl
  | _ :: t, _, k => State.putBytes_seq t _ (k + 1)

theorem State.deferTable_seq (s : State) (p k : Nat) (bs : List Byte) : (s.deferTable p k bs).seq = s.seq := by
  unfold State.deferTable
  refine foldl_keeps (fun u x => ?_) _ s
  rfl

theorem State.remotePost_seq_le (s : State) (who : Issuer) (sg dev pa : Nat) (bs : List Byte) (va : Nat) (marked : Bool) :
    s.seq ≤ (s.remotePost who sg dev pa bs va marked).seq := by
  simp only [State.remotePost, State.sendNoted, State.sendPacket]
  split <;> exact Nat.le_succ _

theorem State.writeLoc_seq {l : Loc} (hl : ∀ d pa, l ≠ .remote d pa) (s : State) (who : Issuer) (bs : List Byte) :
    (s.writeLoc who l bs).seq = s.seq := by
  cases l with
  | hbm k =>
    simp only [State.writeLoc]
    split
    · exact State.deferTable_seq ..
    · exact State.putBytes_seq bs s k
  | remote d pa => exact absurd rfl (hl d pa)
  | reg o => rfl

/-- A fold over states with a second component draws numbers where each of its steps does. -/
theorem foldl_fst_seq_le {α β : Type} {f : State × β → α → State × β} (hf : ∀ a x, a.1.seq ≤ (f a x).1.seq) :
    ∀ (l : List α) (a : State × β), a.1.seq ≤ (l.foldl f a).1.seq
  | [], _ => Nat.le_refl _
  | x :: l, a => (hf a x).trans (foldl_fst_seq_le hf l _)

theorem State.writeOwn_seq_le {s t : State} {n p va : Nat} {bs : List Byte} (h : s.writeOwn n p va bs = .ok t) : s.seq ≤ t.seq := by
  unfold State.writeOwn at h
  split at h
  · cases h
  · cases h
    refine foldl_fst_seq_le (fun a x => ?_) _ (s, bs)
    simp only
    split
    · exact State.remotePost_seq_le ..
    · rename_i hl
      exact Nat.le_of_eq (State.writeLoc_seq hl ..).symm

theorem State.seq_drcnt (s : State) (x : W64) : ({ s with drcnt := x } : State).seq = s.seq := rfl

theorem State.countErr_seq (s : State) (e : MErr) : (s.countErr e).seq = s.seq := by
  unfold State.countErr
  split
  · exact State.seq_drcnt s _
  · rfl

theorem State.putPacket_seq_le (s : State) (n p : Nat) (ws : List Nat) : s.seq ≤ (s.putPacket n p ws).1.seq := by
  unfold State.putPacket
  simp only
  split
  · exact Nat.le_refl _
  · split
    · exact Nat.le_of_eq (State.countErr_seq ..).symm
    · rename_i h1
      split
      · exact Nat.le_of_eq (State.countErr_seq ..).symm
      · rename_i h2
        rw [State.setTrc_seq]
        exact (State.writeOwn_seq_le h1).trans (State.writeOwn_seq_le h2)

theorem State.putPackets_seq_le (n p : Nat) : ∀ (ws : List (List Nat)) (s : State), s.seq ≤ (s.putPackets n p ws).1.seq
  | [], _ => Nat.le_refl _
  | w :: ws, s => by
    have hp := State.putPacket_seq_le s n p w
    unfold State.putPackets
    split
    · rename_i heq; rw [heq] at hp; exact hp.trans (State.putPackets_seq_le n p ws _)
    · exact hp

theorem State.traceRaw_seq_le (s : State) (n p gs sub kind payload : Nat) (more : List Nat) (pos lpc : Nat) (edge f : Bool) :
    s.seq ≤ (s.traceRaw n p gs sub kind payload more pos lpc edge f).seq := by
  unfold State.traceRaw
  extract_lets t edge' now dt d lost due sync
  split
  · exact Nat.le_refl _
  · have hl := State.putPackets_seq_le n p lost s
    split <;> rename_i heq <;> rw [heq] at hl
    · exact hl
    · rename_i u
      have hs := hl.trans (State.putPackets_seq_le n p sync u)
      split <;> rename_i heq <;> rw [heq] at hs
      · exact hs
      · rename_i w
        have hd : s.seq ≤ (if due then w.setTrc n { w.trc n with lost := 0, needSync := false, sinceSync := 0 } else w).seq := by
          split <;> exact hs
        simp only
        split
        · exact hd
        · exact hd.trans (State.putPacket_seq_le ..)

theorem State.flushRun_seq_le (s : State) (n p : Nat) (edge : Bool) : s.seq ≤ (s.flushRun n p edge).seq := by
  unfold State.flushRun
  simp only
  split
  · exact Nat.le_refl _
  · exact State.traceRaw_seq_le (s.setTrc n { s.trc n with run := 0 }) ..

theorem State.traceUnit_seq_le (s : State) (n p kind who pos lpc : Nat) (edge : Bool) :
    s.seq ≤ (s.traceUnit n p kind who pos lpc edge).seq := by
  unfold State.traceUnit
  simp only
  split
  · exact Nat.le_refl _
  · split
    · exact Nat.le_refl _
    · exact State.flushRun_seq_le ..

end Sys2Proof.Machine

namespace Sys2Proof.Machine

open Sys2Proof Sys2Proof.Claims

/-! ## False guards (R142) -/

section
variable {s : State} {e : Nat} (h : Runs s e)
include h

theorem tileOp_falseGuard {g : B4} (hg : (atStep s e).preg g.toNat = false) (slot : Nat) (sem : TCtx → TRes) :
    tileOp g slot sem s = .next (s.setTile e (atStep s e)) := tileOp_off h.1 h.2 hg

/-- A matrix operation with a false guard waits for nothing. -/
theorem matIssue_falseGuard {g : B4} (hg : (atStep s e).preg g.toNat = false) (sync : Bool) (sem : TCtx → TRes) :
    matIssue sync g sem s = .next (s.setTile e (atStep s e)) := by
  have hoff := tileOp_falseGuard h hg 3 sem
  unfold atStep at hg
  simp only [matIssue, h.1, hg, Bool.and_false, Bool.false_and, Bool.false_eq_true, if_false]
  exact hoff

/-- Every operation with a guard of its own is the shared operation under that guard; any other has p0, which is true. -/
theorem exec_falseGuard {i : Instr} (hc : commandOf i = none) (hg : (atStep s e).preg (guardOf i) = false) :
    exec i s = .next (s.setTile e (atStep s e)) := by
  cases i with
  | teAdd f | teSub f | teAnd f | teOr f | teXor f | teAndn f | teShl f | teShr f | teSra f | teMul f | teMulh f | teMin f | teMax f
  | teMov f | tePand f | tePor f | tePxor f | tePnot f
  | vld f | vldB f | vldS f | vst f | vstS f | vldSc f | vstSc f
  | vadd f | vsub f | vmul f | vfma f | vfms f | vmax f | vmin f | vabs f | vneg f | vrcp f | vrsq f | vexp2 f | vlog2 f | vcmp f
  | vsel f | vcvt f | vquant f | vmaxabs f | vred f | vperm f | vbcast f | vext f | vmov f
  | vIadd f | vIsub f | vIshl f | vIshr f | vIsra f | vIand f | vIor f | vIxor f | vImul f => unfold exec; exact tileOp_falseGuard h hg _ _
  | teHalt g => unfold exec; exact tileOp_falseGuard h hg _ _
  | teBr g _ | teBri g _ | teTmark g _ => unfold exec; exact tileOp_falseGuard h hg _ _
  | teLi g _ _ | teLih g _ _ | teRds g _ _ | teWrs g _ _ => unfold exec; exact tileOp_falseGuard h hg _ _
  | teLdS g _ _ _ | teStS g _ _ _ | teLoop g _ _ _ | teLoopx g _ _ _ => unfold exec; exact tileOp_falseGuard h hg _ _
  | teSel g _ _ _ _ | teLdp g _ _ _ _ => unfold exec; exact tileOp_falseGuard h hg _ _
  | teCmp g _ _ _ _ _ => unfold exec; exact tileOp_falseGuard h hg _ _
  | mz g _ | mtree g _ | mkld g _ => exact matIssue_falseGuard h hg _ _
  | mld g _ _ | mtopkRd g _ _ => exact matIssue_falseGuard h hg _ _
  | mrd g _ _ _ | mwr g _ _ _ | mst g _ _ _ | rndNs g _ _ _ => exact matIssue_falseGuard h hg _ _
  | rndIsr g _ _ _ _ => exact matIssue_falseGuard h hg _ _
  | rndPoly g _ _ _ _ _ => exact matIssue_falseGuard h hg _ _
  | mma g _ _ _ _ _ _ => exact matIssue_falseGuard h hg _ _
  | cpLd f | cpSt f | cpG2g f | cpMc f | ringArm f | ringArmInit f | ringAwait f | ringRel f | jn f | rlkBind f | rlkAcq f | rlkRel f
  | cairnOpen f | cairnApp f | cairnQry f | cairnSave f | cairnRst f | cairnClose f | kvCmt f | wpUpd f | wpPre f | launch f => cases hc
  | _ => cases hg

end

theorem falseGuardHasNoEffect : FalseGuardHasNoEffect := fun _ _ _ h hc hg => exec_falseGuard h hc hg

/-! ## Control operations (R143, R144, R146, R158) -/

/-- A control puts nothing in flight and writes nothing. -/
theorem Tile.effect_control (t : Tile) (order : Nat) (c : Ctl) : t.effect order { ctl := c } = t := by
  simp only [Tile.effect, List.foldl_nil, List.map_nil, List.append_nil, BitVec.add_zero]

theorem Tile.effect_mark (t : Tile) (order m : Nat) : t.effect order { mark := some m } = t := Tile.effect_control t order .none

/-- An engine that holds a tile state, put back as it reads. -/
theorem State.setTile_same {s : State} {e : Nat} {t : Tile} {m : SMap Tile} (ht : t ≠ {}) (h : s.tiles = SMap.set {} m e t) :
    s.setTile e (s.tile e) = s := by
  have hset : SMap.set {} s.tiles e (s.tile e) = s.tiles := by rw [State.tile, h, SMap.get_set_self m e ht, SMap.set_set m e t ht]
  rw [State.setTile, hset]

section
variable {s : State} {e : Nat} {g : B4} {slot : Nat} {sem : TCtx → TRes} (h : Runs s e) (hg : (atStep s e).preg g.toNat = true)
include h hg

/-- An operation with a true guard that comes to a control alone. -/
theorem tileOp_control {c : Ctl} (hs : sem ((s.setTile e (atStep s e)).tctx e (atStep s e)) = .ok { ctl := c }) :
    tileOp g slot sem s = .next (tileAfter s e ((atStep s e).control c)) := by
  obtain ⟨hc, hr⟩ := h
  rw [tileOp_effect hc hr hg hs rfl rfl, Tile.effect_control]
  rfl

/-- One that comes to a mark alone: the packet is traced, and the tile state is as it was. -/
theorem tileOp_mark {m : Nat} (hs : sem ((s.setTile e (atStep s e)).tctx e (atStep s e)) = .ok { mark := some m }) :
    tileOp g slot sem s = .next ((tileAfter s e (atStep s e)).trace (teStation e) (s.unitPart e) 0 0 0x0F
      (m + (atStep s e).b * 2 ^ 16) [] (atStep s e).b 0 false) := by
  obtain ⟨hc, hr⟩ := h
  have hrun : (atStep s e).run = .running := by rw [atStep, Tile.land_run, hr]
  have heff : (s.setTile e (atStep s e)).applyEff e { mark := some m } =
      (tileAfter s e (atStep s e)).trace (teStation e) (s.unitPart e) 0 0 0x0F (m + (atStep s e).b * 2 ^ 16) [] (atStep s e).b 0 false := by
    simp only [State.applyEff, State.tile_setTile_running s e hrun, State.setTile_setTile_running _ _ _ hrun]
    rw [Tile.effect_mark]
    rfl
  have hput : ((s.setTile e (atStep s e)).applyEff e { mark := some m }).setTile e
      (((s.setTile e (atStep s e)).applyEff e { mark := some m }).tile e) = (s.setTile e (atStep s e)).applyEff e { mark := some m } := by
    refine State.setTile_same (m := s.tiles) (Tile.ne_default hrun) ?_
    rw [heff, State.tiles_of_besideTrace (State.trace_besideTrace ..)]
    rfl
  unfold atStep at hg hs heff hput
  simp only [tileOp, hc, hr, hg, hs, ne_eq, not_true_eq_false, if_false, Bool.not_true, Bool.false_eq_true, Tile.control, hput]
  exact congrArg _ heff

end

/-- R128 forbids bri a bundle past the body's end, and one of a loop in which it does not stand. -/
theorem briBad_iff (body : List Bundle) (b x : Nat) : briBad body b x = true ↔
    body.length ≤ x ∨ ∃ l ∈ loopBodies body, (l.1 ≤ x ∧ x < l.1 + l.2) ∧ ¬ (l.1 ≤ b ∧ b < l.1 + l.2) := by
  simp only [briBad, inBody, Bool.or_eq_true, decide_eq_true_eq, List.any_eq_true, Bool.and_eq_true, Bool.not_eq_true',
    Bool.and_eq_false_iff, decide_eq_false_iff_not, not_and_or]

/-- The stage predicates of a loop that begins (R146). -/
theorem get_stageStart {p : SMap Bool} (hp : SMap.wf false p = true) {k : Nat} (hk : k < 16) :
    SMap.get false ((span 8 8).foldl (fun p i => SMap.set false p i (i == 8)) p) k =
      if 8 ≤ k then k == 8 else SMap.get false p k := by
  have hset := SMap.get_setEach (key := id) (v := fun i => i == 8) (k := k) (y := k == 8) (span 8 8) hp fun x _ hx => by rw [← hx]; rfl
  refine hset.trans (if_congr ?_ rfl rfl)
  constructor
  · rintro ⟨x, hx, rfl⟩
    exact (mem_span.mp hx).1
  · exact fun h8 => ⟨k, mem_span.mpr ⟨h8, by omega⟩, rfl⟩

section
variable {s : State} {e : Nat} (h : Runs s e)
include h

theorem exec_teBr {g : B4} (hg : (atStep s e).preg g.toNat = true) (i : BitVec 22) {x : Nat} (hx : (x : Int) = (atStep s e).b + i.toInt) :
    exec (.teBr g i) s = .next (tileAfter s e ((atStep s e).control (.go x))) := by
  have hgo : semTeBr i ((s.setTile e (atStep s e)).tctx e (atStep s e)) = .ok { ctl := .go x } :=
    congrArg (fun y => TRes.ok { ctl := .go y }) (congrArg Int.toNat hx.symm)
  exact (tileOp_control h hg hgo : execTeBr g i s = _)

theorem exec_teBri {g : B4} (hg : (atStep s e).preg g.toNat = true) {a : B5}
    (hx : briBad (atStep s e).body (atStep s e).b ((atStep s e).sreg a.toNat).toNat = false) :
    exec (.teBri g a) s = .next (tileAfter s e ((atStep s e).control (.go ((atStep s e).sreg a.toNat).toNat))) :=
  (tileOp_control h hg (if_neg (Bool.eq_false_iff.mp hx)) : execTeBri g a s = _)

theorem exec_teBri_bad {g : B4} (hg : (atStep s e).preg g.toNat = true) {a : B5}
    (hx : briBad (atStep s e).body (atStep s e).b ((atStep s e).sreg a.toNat).toNat = true) :
    exec (.teBri g a) s = .next (errorAt s e 0 0x23 0) :=
  (tileOp_fails h hg (if_pos hx) : execTeBri g a s = _)

/-- A loop of n passes, its count in the operation or in a register. -/
theorem exec_loop {g : B4} (hg : (atStep s e).preg g.toNat = true) {i : Instr} {n : Nat} {stg : B3} {len : BitVec 9} (hn : n < 2 ^ 32)
    (hi : (∃ c : BitVec 10, i = .teLoop g c stg len ∧ c.toNat = n) ∨
      (∃ a : B5, i = .teLoopx g a stg len ∧ ((atStep s e).sreg a.toNat).toNat = n)) :
    exec i s = .next (tileAfter s e ((atStep s e).control (.start n stg.toNat len.toNat))) := by
  rcases hi with ⟨c, rfl, rfl⟩ | ⟨a, rfl, rfl⟩
  · exact (tileOp_control h hg rfl : execTeLoop g c stg len s = _)
  · exact (tileOp_control h hg (if_neg (Nat.not_le.mpr hn)) : execTeLoopx g a stg len s = _)

theorem exec_teTmark {g : B4} (hg : (atStep s e).preg g.toNat = true) (i : BitVec 16) :
    exec (.teTmark g i) s = .next ((tileAfter s e (atStep s e)).trace (teStation e) (s.unitPart e) 0 0 0x0F
      ((atStep s e).b * 65536 + i.toNat) [] (atStep s e).b 0 false) := by
  rw [Nat.add_comm]
  exact (tileOp_mark h hg rfl : execTeTmark g i s = _)

end

theorem tileControl : TileControl := by
  intro s e h t
  refine ⟨fun g i x hg hx => exec_teBr h hg i hx, fun g a hg => ⟨fun hlen hin => ?good, fun hlen => ?past, fun l hl h1 h2 hb => ?loop⟩,
    fun n i g stg len hg hn hi => ⟨fun h0 => ?none, fun h0 => ?starts⟩,
    fun g a stg len hg hn => (tileOp_fails h hg (if_pos hn) : execTeLoopx g a stg len s = _), fun g i hg => ⟨fun hoff => ?untraced, ?mark⟩,
    fun g hg => (tileOp_control h hg rfl : execTeHalt g s = _)⟩
  case good =>
    refine exec_teBri h hg (Bool.eq_false_iff.mpr fun hbad => ?_)
    rcases (briBad_iff ..).mp hbad with hx | ⟨l, hl, ⟨h1, h2⟩, hb⟩
    · exact absurd hx (Nat.not_le.mpr hlen)
    · exact hb (hin l hl h1 h2)
  case past => exact exec_teBri_bad h hg ((briBad_iff ..).mpr (.inl hlen))
  case loop => exact exec_teBri_bad h hg ((briBad_iff ..).mpr (.inr ⟨l, hl, ⟨h1, h2⟩, hb⟩))
  case none => rw [exec_loop h hg hn hi, h0]; rfl
  case starts =>
    refine ⟨_, ?_, fun hp k hk => get_stageStart hp hk⟩
    rw [exec_loop h hg hn hi, Tile.control, if_neg (Nat.ne_of_gt h0)]
    rfl
  case untraced => rw [exec_teTmark h hg, State.trace_off (s := tileAfter s e (atStep s e)) hoff]
  case mark => exact exec_teTmark h hg i

/-- Settles O41: the control operations one by one, then the false guards of every slot operation. -/
theorem tileControlAndGuards : Obligations.TileControlAndGuards := ⟨tileControl, falseGuardHasNoEffect⟩

end Sys2Proof.Machine

namespace Sys2Proof.Machine

open Sys2Proof Sys2Proof.Claims

/-! ## What results and effects leave alone in a tile state (R139, R140) -/

/-- A tile state without what landing results and effects write: registers, the scratchpad, accumulators and what is in flight. -/
def Tile.besideResults (t : Tile) : Tile :=
  { t with
    s := [], p := [], v := [], k := [], fmt := 0, msts := 0, srkey := 0, srctr := 0, lc := 0, ric := 0, rcap := 0, rthr := 0, rdiv := 0
    pad := [], padBad := [], acc := [], flights := [] }

theorem Tile.besideResults_put (t : Tile) (s : SMap W64) (p : SMap Bool) (v k : SMap W32) (fmt msts : W32) (srkey srctr : W64)
    (lc ric rcap rthr rdiv : W32) : ({ t with
      s := s, p := p, v := v, k := k, fmt := fmt, msts := msts, srkey := srkey, srctr := srctr, lc := lc, ric := ric, rcap := rcap
      rthr := rthr, rdiv := rdiv } : Tile).besideResults = t.besideResults := rfl

theorem Tile.landOne_besideResults (t : Tile) (f : Flight) : (t.landOne f).besideResults = t.besideResults := by
  unfold Tile.landOne
  split
  case h_2 =>
    split
    · rfl
    · exact Tile.besideResults_put ..
  case h_4 => split <;> exact Tile.besideResults_put ..
  all_goals exact Tile.besideResults_put ..

theorem Tile.foldl_landOne_besideResults : ∀ (fs : List Flight) (t : Tile),
    (fs.foldl Tile.landOne t).besideResults = t.besideResults
  | [], _ => rfl
  | f :: fs, t => by rw [List.foldl_cons, Tile.foldl_landOne_besideResults fs, Tile.landOne_besideResults]

theorem Tile.land_besideResults (t : Tile) (n : Nat) : (t.land n).besideResults = t.besideResults :=
  Tile.foldl_landOne_besideResults _ _

theorem Tile.landAll_besideResults (t : Tile) : t.landAll.besideResults = t.besideResults :=
  Tile.foldl_landOne_besideResults _ _

theorem Tile.padBytes_besideResults : ∀ (bs : List Byte) (t : Tile) (a : Nat), (t.padBytes a bs).besideResults = t.besideResults
  | [], _, _ => rfl
  | _ :: r, _, a => Tile.padBytes_besideResults r _ (a + 1)

theorem Tile.padWrites_besideResults : ∀ (ws : List (Nat × List Byte)) (t : Tile),
    (ws.foldl (fun t w => t.padWrite w.1 w.2) t).besideResults = t.besideResults
  | [], _ => rfl
  | w :: ws, t => (Tile.padWrites_besideResults ws _).trans (Tile.padBytes_besideResults w.2 t w.1)

theorem Tile.effect_besideResults (t : Tile) (n : Nat) (f : TEff) : (t.effect n f).besideResults = t.besideResults :=
  Tile.padWrites_besideResults f.pad t

/-- Landing keeps every field that no result writes. -/
theorem Tile.field_of_besideResults {α : Type} {t u : Tile} (h : u.besideResults = t.besideResults) (g : Tile → α)
    (hg : ∀ t : Tile, g t.besideResults = g t) : g u = g t := by
  rw [← hg u, h, hg]

/-! ## The end of a step (R145, R149) -/

section
variable {s : State} {e nb : Nat}

/-- No redirect is due: the step ends with the bundle named. -/
theorem State.endStep_straight (hd : ∀ x : Nat, ((s.tile e).t + 1, x) ∉ (s.tile e).rd) (hb : nb < (s.tile e).body.length) :
    s.endStep e nb = s.setTile e { s.tile e with b := nb, t := (s.tile e).t + 1, passDue := false, hotFmt := 0, hotMsts := 0 } := by
  have hnone : (s.tile e).rd.find? (fun r => r.1 == (s.tile e).t + 1) = none :=
    List.find?_eq_none.mpr fun r hr hx => hd r.2 (by rw [← beq_iff_eq.mp hx]; exact hr)
  simp only [State.endStep, hnone, if_neg (Nat.not_le.mpr hb)]

/-- No redirect is due and the bundle named is past the body: an engine error of the sequencer. -/
theorem State.endStep_past (hd : ∀ x : Nat, ((s.tile e).t + 1, x) ∉ (s.tile e).rd) (hb : (s.tile e).body.length ≤ nb) :
    s.endStep e nb = (s.setTile e (s.tile e)).engineError e (s.tile e).b 7 (issueStatus 0x25 7 0) := by
  have hnone : (s.tile e).rd.find? (fun r => r.1 == (s.tile e).t + 1) = none :=
    List.find?_eq_none.mpr fun r hr hx => hd r.2 (by rw [← beq_iff_eq.mp hx]; exact hr)
  simp only [State.endStep, hnone, if_pos hb]

/-- The redirect that is due names the bundle, outside any loop. -/
theorem State.endStep_redirect {x : Nat} (hr : (s.tile e).rd = [((s.tile e).t + 1, x)]) (ha : (s.tile e).act = false)
    (hx : x < (s.tile e).body.length) : s.endStep e nb =
      (s.trace (teStation e) (s.unitPart e) 0 0 3 x [] (s.tile e).b 0 false).setTile e
        { s.tile e with rd := [], b := x, t := (s.tile e).t + 1, passDue := false, hotFmt := 0, hotMsts := 0 } := by
  have hdue : (s.tile e).rd.find? (fun r => r.1 == (s.tile e).t + 1) = some ((s.tile e).t + 1, x) := by
    rw [hr]; exact List.find?_cons_of_pos (beq_self_eq_true _)
  have hrest : (s.tile e).rd.filter (fun r => r.1 != (s.tile e).t + 1) = [] := by rw [hr]; simp
  have hleave : (s.tile e).leave x = s.tile e := by rw [Tile.leave, ha]; rfl
  simp only [State.endStep, hdue, hrest, hleave, if_neg (Nat.not_le.mpr hx)]

end

/-! ## Bundles whose operations come to no control (R144) -/

theorem chooseCtl_none {cs : List (Nat × Bool × Ctl)} (h : ∀ o ∈ cs, o.2.2 = .none) : chooseCtl cs = .none := by
  have hno : ∀ p : Nat × Bool × Ctl → Bool, (∀ o, o.2.2 = .none → p o = false) → cs.find? p = none := fun p hp =>
    List.find?_eq_none.mpr fun o ho => by rw [hp o (h o ho)]; exact Bool.false_ne_true
  have hhalt := hno (fun o => o.2.1 && o.2.2 == .halt) fun o ho => by rw [ho]; exact Bool.and_false _
  have hat : ∀ k : Nat, cs.find? (fun o => o.1 == k && o.2.2 != .none) = none := fun k => hno _ fun o ho => by rw [ho]; exact Bool.and_false _
  simp only [chooseCtl, hhalt, hat]

theorem collision_none {cs : List (Nat × Bool × Ctl)} (h : ∀ o ∈ cs, o.2.2 = .none) : collision cs = none := by
  unfold collision
  split
  · rename_i heq _
    cases h _ (List.mem_of_find?_eq_some heq)
  · rfl

/-- The controls of operations that come to none. -/
theorem Tile.controls_none {t : Tile} {b : Bundle} {rs : List (Nat × Instr × TRes)} (hr : ∀ r ∈ rs, ∀ f, r.2.2 = .ok f → f.ctl = .none)
    (hb : ∀ o ∈ b.ops, t.preg (guardOf o.2) = false → falseCtl o.2 = .none) : ∀ o ∈ t.controls b rs, o.2.2 = .none := by
  intro o ho
  rcases List.mem_append.mp ho with ho | ho
  · obtain ⟨r, hmem, rfl⟩ := List.mem_map.mp ho
    simp only
    split
    · rename_i f heq
      exact hr r hmem f heq
    · rfl
  · obtain ⟨o', hmem, rfl⟩ := List.mem_map.mp ho
    obtain ⟨hin, hoff⟩ := List.mem_filter.mp hmem
    exact hb o' hin (by simpa using hoff)

end Sys2Proof.Machine

namespace Sys2Proof.Machine

open Sys2Proof Sys2Proof.Claims

/-! ## The bundle that is due (R145, R150) -/

section
variable {s : State} {e : Nat} {b : Bundle}

/-- The operations that issue at the step. -/
theorem Tile.live_nil {t : Tile} (h : ∀ o ∈ b.ops, t.preg (guardOf o.2) = false) : t.live b = [] :=
  List.filter_eq_nil_iff.mpr fun o ho => by rw [h o ho]; exact Bool.false_ne_true

theorem Tile.live_one {t : Tile} {k : Nat} {i : Instr} (h : b.ops = [(k, i)]) (hg : t.preg (guardOf i) = true) : t.live b = [(k, i)] := by
  rw [Tile.live, h]
  exact List.filter_cons_of_pos hg

/-- The tile state at its step runs as before it. -/
theorem atStep_run (h : (s.tile e).run = .running) : (atStep s e).run = .running := by rw [atStep, Tile.land_run, h]

theorem tile_setTile_atStep (h : (s.tile e).run = .running) : (s.setTile e (atStep s e)).tile e = atStep s e :=
  State.tile_setTile_running s e (atStep_run h)

/-- At its step a tile state holds what no result writes as it did before. -/
theorem atStep_field {α : Type} (s : State) (e : Nat) (g : Tile → α) (hg : ∀ t : Tile, g t.besideResults = g t) : g (atStep s e) = g (s.tile e) :=
  Tile.field_of_besideResults (Tile.land_besideResults ..) g hg

variable (hd : BundleDue s e b)
include hd

/-- A due bundle none of whose operations issues is left to be skipped. -/
theorem teBundle_skippable (hl : (atStep s e).live b = []) : s.teBundle e = s.setTile e (atStep s e) := by
  obtain ⟨_, hrun, hpass, hquiet, herr, _, hdone, _, hb, _, hpred, hlatch, hwait, hpop, hsign⟩ := hd
  have hskip : (atStep s e).skippable = true := by simp [Tile.skippable, hb, hpop, hsign, hl]
  unfold atStep at hpred hlatch hskip ⊢
  simp [State.teBundle, hrun, hpass, hquiet, herr, hdone, Tile.errDue, hpred, hlatch, hskip]

/-- One that has an operation to issue comes to issue. -/
theorem teBundle_issues (hl : (atStep s e).live b ≠ []) : s.teBundle e = (s.setTile e (atStep s e)).tryIssue e := by
  obtain ⟨_, hrun, hpass, hquiet, herr, _, hdone, _, hb, _, hpred, hlatch, hwait, hpop, hsign⟩ := hd
  have hskip : (atStep s e).skippable = false := by simp [Tile.skippable, hb, hl]
  have hstop : (atStep s e).mayStop = false := by simp [Tile.mayStop, hb, hsign]
  unfold atStep at hpred hlatch hskip hwait hstop ⊢
  simp [State.teBundle, hrun, hpass, hquiet, herr, hdone, Tile.errDue, hpred, hlatch, hskip, hwait, hstop]

section
variable {k : Nat} {i : Instr} (hops : b.ops = [(k, i)]) (hg : (atStep s e).preg (guardOf i) = true) (hc : commandOf i = none)
include hops hg hc

/-- The one operation of the bundle, evaluated. -/
theorem evalBundle_one {r : TRes} (hr : tileSem i (s.tctx e (atStep s e)) = r) (hwin : ∀ d w a, r ≠ .win d w a) :
    (s.setTile e (atStep s e)).evalBundle e = (s.setTile e (atStep s e), some [(k, i, r)]) := by
  obtain ⟨_, hrun, _, _, _, _, _, _, hb, _⟩ := hd
  have hcmd : [(k, i)].filter (fun o => (commandOf o.2).isNone) = [(k, i)] := by simp [hc]
  have hr' : tileSem i ((s.setTile e (atStep s e)).tctx e (atStep s e)) = r := hr
  simp only [State.evalBundle, tile_setTile_atStep hrun, hb, Tile.live_one hops hg, hcmd, evalOps, hr']
  cases r with
  | ok f => rfl
  | err c d => rfl
  | win d w a => exact absurd rfl (hwin d w a)

/-- It fails: the engine stops on it. -/
theorem tryIssue_err {c d : Nat} (hr : tileSem i (s.tctx e (atStep s e)) = .err c d) : (s.setTile e (atStep s e)).tryIssue e =
    (s.setTile e (atStep s e)).engineError e (atStep s e).b k (issueStatus c k d) := by
  rw [State.tryIssue, evalBundle_one hd hops hg hc hr (by simp)]
  simp only [firstErr, List.findSome?_cons, tile_setTile_atStep hd.2.1]

/-- It has an effect: the bundle issues. -/
theorem tryIssue_ok {f : TEff} (hr : tileSem i (s.tctx e (atStep s e)) = .ok f) : (s.setTile e (atStep s e)).tryIssue e =
    (s.setTile e (atStep s e)).issueBundle e [(k, i, .ok f)] := by
  obtain ⟨_, hrun, _, _, _, _, _, _, hb, _, _, _, _, _, hsign⟩ := id hd
  have hcommand : (atStep s e).command = none := by rw [Tile.command, hb, Tile.live_one hops hg]; simp [hc]
  rw [State.tryIssue, evalBundle_one hd hops hg hc hr (by simp)]
  simp [firstErr, tile_setTile_atStep hrun, hcommand, hb, hsign]

end

end

/-! ## Issue of a bundle of one operation (R145) -/

/-- An effect on the tile state alone. -/
theorem State.applyEff_plain (s : State) (e : Nat) {f : TEff} (hm : f.mat = none) (hk : f.mark = none) :
    s.applyEff e f = tileAfter s e ((s.tile e).effect s.seq f) := by simp only [State.applyEff, hm, hk, tileAfter]

/-- Another engine keeps its tile state. -/
theorem State.tile_setTile_ne {s : State} (h : SMap.wf {} s.tiles = true) {e e' : Nat} (he : e' ≠ e) (t : Tile) :
    (s.setTile e t).tile e' = s.tile e' := by rw [State.tile_setTile h, if_neg he]

theorem State.tile_tileAfter_ne {s : State} (h : SMap.wf {} s.tiles = true) {e e' : Nat} (he : e' ≠ e) (t : Tile) :
    (tileAfter s e t).tile e' = s.tile e' := State.tile_setTile_ne h he t

theorem State.tile_tileAfter (s : State) (e : Nat) {t : Tile} (h : t.run = .running) : (tileAfter s e t).tile e = t :=
  State.tile_setTile_running s e h

/-- No latch is popped. -/
theorem Bundle.pops_none {b : Bundle} (h : b.pop = 0) : (span 0 4).filter b.pops = [] :=
  List.filter_eq_nil_iff.mpr fun n _ => by rw [Bundle.pops, h, bitAt_of_lt (Nat.two_pow_pos n)]; exact Bool.false_ne_true

/-- A straight step from a tile state at its step stays straight with an effect that comes to no control. -/
theorem Straight.effect {t : Tile} (h : Straight t) (n : Nat) (f : TEff) : Straight (t.effect n f) := by
  have hf : ∀ {α : Type} (g : Tile → α), (∀ t : Tile, g t.besideResults = g t) → g (t.effect n f) = g t := fun g hg =>
    Tile.field_of_besideResults (Tile.effect_besideResults t n f) g hg
  obtain ⟨hrd, hend, hlen⟩ := h
  refine ⟨?_, ?_, ?_⟩
  · rw [hf Tile.t fun _ => rfl, hf Tile.rd fun _ => rfl]; exact hrd
  · rw [hf Tile.atPassEnd fun _ => rfl]; exact hend
  · rw [hf Tile.b fun _ => rfl, hf Tile.body fun _ => rfl]; exact hlen

theorem State.afterBundle_ends {s : State} {e : Nat} (hp : (s.tile e).passDue = false) (c : Ctl) :
    s.afterBundle e c = s.endStep e (nextOf (s.tile e).b c) := if_neg (Bool.eq_false_iff.mp hp)

/-- A step that goes straight on. -/
theorem State.afterBundle_straight {s : State} {e : Nat} (h : Straight (s.tile e)) (hp : (s.tile e).passDue = false) :
    s.afterBundle e .none = s.setTile e (stepped (s.tile e)) := by
  obtain ⟨hrd, _, hlen⟩ := h
  exact (State.afterBundle_ends hp .none).trans (State.endStep_straight hrd hlen)

/-- Nothing of a command is kept over an issue. -/
theorem Tile.noCommand {x : Tile} (hw : x.cmdWait = false) (hd : x.cmdDone = false) (hv : x.awaitVal = none) :
    ({ x with cmdWait := false, cmdDone := false, awaitVal := none } : Tile) = x := by
  cases x; cases hw; cases hd; cases hv; rfl

theorem Tile.noPassDue {x : Tile} (h : x.passDue = false) : ({ x with passDue := false } : Tile) = x := by cases x; cases h; rfl

section
variable {s : State} {e : Nat}

/-- A bundle with neither pops nor a control that takes effect issues, and the step goes straight on. -/
theorem issueBundle_straight {rs : List (Nat × Instr × TRes)} {u : State} {x : Tile} (hpop : (s.tile e).bundle.pop = 0)
    (hcs : ∀ o ∈ (s.tile e).controls (s.tile e).bundle rs, o.2.2 = .none) (hend : (s.tile e).atPassEnd = false)
    (hu : (s.traceUnit (teStation e) (s.unitPart e) 2 0 (s.tile e).b 0 false).applyOps e rs = tileAfter u e x)
    (hrun : x.run = .running) (hw : x.cmdWait = false) (hd : x.cmdDone = false) (hv : x.awaitVal = none) (hp : x.passDue = false)
    (hst : Straight x) : s.issueBundle e rs = (tileAfter u e x).setTile e (stepped x) := by
  have hput : ∀ v : State, v.tile e = x → ∀ y : Tile, (v.setTile e x).tile e = x ∧ (v.setTile e x).setTile e y = v.setTile e y :=
    fun v _ y => ⟨State.tile_setTile_running v e hrun, State.setTile_setTile_running v e y hrun⟩
  have hx := State.tile_tileAfter u e hrun
  obtain ⟨hx1, _⟩ := hput _ hx x
  have hafter := State.afterBundle_straight (s := ((tileAfter u e x).setTile e x).setTile e x) (e := e)
    (by rw [(hput _ hx1 x).1]; exact hst) (by rw [(hput _ hx1 x).1]; exact hp)
  simp only [State.issueBundle, hu, Bundle.pops_none hpop, List.foldl_nil, chooseCtl_none hcs, collision_none hcs, hx, hx1,
    Tile.noCommand hw hd hv, Tile.control, hend, Tile.noPassDue hp, hafter]
  simp only [(hput _ hx x).2, (hput _ hx (stepped x)).2, hx1, reduceCtorEq, if_false]

variable {b : Bundle} {k : Nat} {i : Instr} {f : TEff}

/-- The bundle issues its one operation, which comes to no control: its effect, and the step goes straight on. -/
theorem issueBundle_one (hd : BundleDue s e b) (hops : b.ops = [(k, i)]) (hg : (atStep s e).preg (guardOf i) = true)
    (hst : Straight (atStep s e)) (hctl : f.ctl = .none) (hm : f.mat = none) (hk : f.mark = none) :
    ∃ u : State, u.besideTrace = (s.setTile e (atStep s e)).besideTrace ∧ s.seq ≤ u.seq ∧
    (s.setTile e (atStep s e)).issueBundle e [(k, i, .ok f)] =
      (tileAfter u e ((atStep s e).effect u.seq f)).setTile e (stepped ((atStep s e).effect u.seq f)) := by
  obtain ⟨_, hrun, hpass, _, _, hcw, hcd, hav, hb, _, _, _, _, hpop, _⟩ := hd
  have htile := tile_setTile_atStep hrun
  obtain ⟨u, hu⟩ : ∃ u : State, (s.setTile e (atStep s e)).traceUnit (teStation e) ((s.setTile e (atStep s e)).unitPart e) 2 0
      ((s.setTile e (atStep s e)).tile e).b 0 false = u := ⟨_, rfl⟩
  have hbeside : u.besideTrace = (s.setTile e (atStep s e)).besideTrace := hu ▸ State.traceUnit_besideTrace ..
  have hseq : (s.setTile e (atStep s e)).seq ≤ u.seq := hu ▸ State.traceUnit_seq_le ..
  refine ⟨u, hbeside, hseq, ?_⟩
  have hcs : ∀ o ∈ (atStep s e).controls b [(k, i, .ok f)], o.2.2 = .none := by
    refine Tile.controls_none (fun r hr g hrg => ?_) fun o ho hoff => ?_
    · obtain rfl := List.mem_singleton.mp hr
      cases hrg
      exact hctl
    · rw [hops] at ho
      obtain rfl := List.mem_singleton.mp ho
      rw [hg] at hoff
      cases hoff
  have hf : ∀ {α : Type} (n : Nat) (g : Tile → α), (∀ t : Tile, g t.besideResults = g t) → g ((atStep s e).effect n f) = g (s.tile e) :=
    fun n g hg => (Tile.field_of_besideResults (Tile.effect_besideResults ..) g hg).trans (atStep_field s e g hg)
  refine issueBundle_straight (by rw [htile, hb, hpop]) (by rw [htile, hb]; exact hcs) (by rw [htile]; exact hst.2.1) ?_
    (by rw [Tile.effect_run, atStep_run hrun]) ((hf _ Tile.cmdWait fun _ => rfl).trans hcw) ((hf _ Tile.cmdDone fun _ => rfl).trans hcd)
    ((hf _ Tile.awaitVal fun _ => rfl).trans hav) ((hf _ Tile.passDue fun _ => rfl).trans hpass) (Straight.effect hst _ f)
  have hutile : u.tile e = atStep s e := (State.tile_of_besideTrace hbeside e).trans htile
  rw [hu, ← hutile]
  exact State.applyEff_plain u e hm hk

end

end Sys2Proof.Machine

namespace Sys2Proof.Machine

open Sys2Proof Sys2Proof.Claims

/-! ## Skipped bundles (R150) -/

section
variable {s : State} {e : Nat} {b : Bundle} (hd : BundleDue s e b)
  (hoff : ∀ o ∈ b.ops, (atStep s e).preg (guardOf o.2) = false ∧ falseCtl o.2 = .none)
include hd hoff

/-- A due bundle with false guards and no loop is skipped, from a state whose engine alone has changed. -/
theorem exec_bundleSkip : ∃ u : State, u.tiles = s.tiles ∧ u.launches = s.launches ∧
    exec .bundleSkip s = .next ((u.setTile e { atStep s e with passDue := (atStep s e).atPassEnd }).afterBundle e .none) := by
  obtain ⟨hinp, hrun, hpass, hquiet, herr, _, _, _, hb, hlen, hpred, _, _, hpop, hsign⟩ := hd
  have hu := State.traceUnit_besideTrace s (teStation e) (s.unitPart e) 4 0 (atStep s e).b 0 false
  refine ⟨_, State.tiles_of_besideTrace hu, State.launches_of_besideTrace hu, ?_⟩
  have hskip : (atStep s e).skippable = true := by
    simp [Tile.skippable, hb, hpop, hsign, Tile.live_nil fun o ho => (hoff o ho).1]
  have hctl : chooseCtl ((atStep s e).controls (atStep s e).bundle []) = .none :=
    chooseCtl_none (Tile.controls_none (by simp) (by rw [hb]; exact fun o ho _ => (hoff o ho).2))
  show execBundleSkip s = _
  unfold atStep at hpred hskip hlen hctl ⊢
  simp only [execBundleSkip, hinp, hrun, hpass, hquiet, herr, hpred, hskip, hctl, Nat.not_le.mpr hlen, ne_eq, not_true_eq_false,
    Bool.false_eq_true, Option.isSome_none, or_self, Bool.not_true, Bool.or_false, decide_false, if_false]

variable (hw : SMap.wf {} s.tiles = true)
include hw

theorem exec_bundleSkip_straight (hst : Straight (atStep s e)) :
    ∃ u : State, exec .bundleSkip s = .next u ∧ u.tile e = stepped (atStep s e) ∧ ∀ e' ≠ e, u.tile e' = s.tile e' := by
  obtain ⟨u, hu, _, hexec⟩ := exec_bundleSkip hd hoff
  have hrun := atStep_run hd.2.1
  have hpass : (atStep s e).passDue = false := (atStep_field s e Tile.passDue fun _ => rfl).trans hd.2.2.1
  rw [hst.2.1, Tile.noPassDue hpass, State.afterBundle_straight (by rw [State.tile_setTile_running u e hrun]; exact hst)
    (by rw [State.tile_setTile_running u e hrun]; exact hpass), State.tile_setTile_running u e hrun,
    State.setTile_setTile_running u e _ hrun] at hexec
  refine ⟨_, hexec, State.tile_setTile_running u e hrun, fun e' he => ?_⟩
  rw [State.tile_setTile_ne (by rw [hu]; exact hw) he, State.tile, hu, State.tile]

theorem exec_bundleSkip_passEnd (hend : (atStep s e).atPassEnd = true) : ∃ u : State, exec .bundleSkip s = .next u ∧
    u.tile e = { atStep s e with passDue := true } ∧ ∀ e' ≠ e, u.tile e' = s.tile e' := by
  obtain ⟨u, hu, _, hexec⟩ := exec_bundleSkip hd hoff
  have hrun : ({ atStep s e with passDue := true } : Tile).run = .running := atStep_run hd.2.1
  have htile := State.tile_setTile_running u e hrun
  have hstay : (u.setTile e { atStep s e with passDue := true }).afterBundle e .none = u.setTile e { atStep s e with passDue := true } := by
    simp only [State.afterBundle, htile, if_true]
  rw [hend, hstay] at hexec
  refine ⟨_, hexec, htile, fun e' he => ?_⟩
  rw [State.tile_setTile_ne (by rw [hu]; exact hw) he, State.tile, hu, State.tile]

omit hw in
theorem exec_bundleSkip_redirect {x : Nat} (hr : (atStep s e).rd = [((atStep s e).t + 1, x)]) (ha : (atStep s e).act = false)
    (hx : x < (atStep s e).body.length) (hend : (atStep s e).atPassEnd = false) : ∃ u : State, exec .bundleSkip s = .next u ∧
    (u.tile e).b = x ∧ (u.tile e).t = (atStep s e).t + 1 ∧ (u.tile e).rd = [] ∧ (u.tile e).s = (atStep s e).s := by
  obtain ⟨u, hu, _, hexec⟩ := exec_bundleSkip hd hoff
  have hrun := atStep_run hd.2.1
  have hpass : (atStep s e).passDue = false := (atStep_field s e Tile.passDue fun _ => rfl).trans hd.2.2.1
  have htile := State.tile_setTile_running u e hrun
  rw [hend, Tile.noPassDue hpass, State.afterBundle_ends (by rw [htile]; exact hpass),
    State.endStep_redirect (by rw [htile]; exact hr) (by rw [htile]; exact ha) (by rw [htile]; exact hx), htile] at hexec
  refine ⟨_, hexec, ?_⟩
  rw [State.tile_setTile_running _ e (by exact hrun)]
  exact ⟨rfl, rfl, rfl, rfl⟩

omit hw in
theorem exec_bundleSkip_past (hrd : ∀ x : Nat, ((atStep s e).t + 1, x) ∉ (atStep s e).rd) (hend : (atStep s e).atPassEnd = false)
    (hlen : (atStep s e).b + 1 = (atStep s e).body.length) : ∃ u : State, u.tile e = { atStep s e with passDue := false } ∧
    u.launches = s.launches ∧ exec .bundleSkip s = .next (u.engineError e (atStep s e).b 7 (issueStatus 0x25 7 0)) := by
  obtain ⟨u, _, hl, hexec⟩ := exec_bundleSkip hd hoff
  have hrun := atStep_run hd.2.1
  have hpass : (atStep s e).passDue = false := (atStep_field s e Tile.passDue fun _ => rfl).trans hd.2.2.1
  have htile := State.tile_setTile_running u e hrun
  rw [hend, Tile.noPassDue hpass, State.afterBundle_ends (by rw [htile]; exact hpass), State.endStep_past (by rw [htile]; exact hrd)
    (by rw [htile]; exact Nat.le_of_eq hlen.symm), htile, State.setTile_setTile_running u e _ hrun] at hexec
  exact ⟨_, htile.trans (Tile.noPassDue hpass).symm, hl, hexec⟩

end

theorem bundleResults : BundleResults := by
  intro s e b hw hd t
  have hexec : exec .teBundle s = .next (s.teBundle e) := by rw [← hd.1]; rfl
  refine ⟨fun k i f hops hg hc hst hr hctl hm _ hk => ?issues, fun k c d i hops hg hc hr => ?fails, fun hoff => ?off,
    fun hoff => ⟨exec_bundleSkip_straight hd hoff hw, exec_bundleSkip_passEnd hd hoff hw,
      fun x hr ha hx hend => exec_bundleSkip_redirect hd hoff hr ha hx hend,
      fun hrd hend hlen => exec_bundleSkip_past hd hoff hrd hend hlen⟩⟩
  case issues =>
    obtain ⟨u, hu, hseq, hissue⟩ := issueBundle_one hd hops hg hst hctl hm hk
    rw [hexec, teBundle_issues hd (by rw [Tile.live_one hops hg]; simp), tryIssue_ok hd hops hg hc hr, hissue]
    have hutiles : u.tiles = (s.setTile e t).tiles := State.tiles_of_besideTrace hu
    have huw : SMap.wf {} u.tiles = true := by rw [hutiles]; exact SMap.wf_set hw
    have hrun : (t.effect u.seq f).run = .running := by rw [Tile.effect_run, atStep_run hd.2.1]
    refine ⟨_, u.seq, hseq, rfl, State.tile_setTile_running _ e (by exact hrun), rfl, fun e' he => ?_⟩
    rw [State.tile_setTile_ne (SMap.wf_set huw) he, State.tile_tileAfter_ne huw he, State.tile_of_besideTrace hu,
      State.tile_setTile_ne hw he]
  case fails =>
    rw [hexec, teBundle_issues hd (by rw [Tile.live_one hops hg]; simp), tryIssue_err hd hops hg hc hr]
  case off => rw [hexec, teBundle_skippable hd (Tile.live_nil hoff)]

end Sys2Proof.Machine

namespace Sys2Proof.Machine

open Sys2Proof Sys2Proof.Claims

/-! ## Results that land (R139) -/

theorem exec_resultLand {s : State} {e : Nat} (hi : s.inp.a = e) (hr : (s.tile e).run = .running) :
    exec .resultLand s = .next (s.setTile e (atStep s e)) := by
  show execResultLand s = _
  rw [execResultLand, hi]
  exact if_pos hr

/-- A result not yet due stays in flight. -/
theorem Tile.land_later {t : Tile} {n : Nat} {f : Flight} (hf : t.flights = [f]) (h : n < f.step) : t.land n = t := by
  have hdue : t.flights.filter (fun f => decide (f.step ≤ n)) = [] := by rw [hf]; simp [h]
  have hrest : t.flights.filter (fun f => decide (n < f.step)) = t.flights := by rw [hf]; simp [h]
  rw [Tile.land, hdue, hrest]
  rfl

/-- One that is due lands. -/
theorem Tile.land_due {t : Tile} {n : Nat} {f : Flight} (hf : t.flights = [f]) (h : f.step ≤ n) :
    t.land n = ({ t with flights := [] } : Tile).landOne f := by
  have hdue : t.flights.filter (fun f => decide (f.step ≤ n)) = [f] := by rw [hf]; simp [h]
  have hrest : t.flights.filter (fun f => decide (n < f.step)) = [] := by rw [hf]; simp [h]
  rw [Tile.land, hdue, hrest]
  rfl

/-- Of two that are due the one with the lower key lands first. -/
theorem Tile.land_two {t : Tile} {n : Nat} {f g : Flight} (hf : t.flights = [f, g]) (h1 : f.step ≤ n) (h2 : g.step ≤ n)
    (hk : flightKey g < flightKey f) : t.land n = (({ t with flights := [] } : Tile).landOne g).landOne f := by
  have hdue : t.flights.filter (fun f => decide (f.step ≤ n)) = [f, g] := by rw [hf]; simp [h1, h2]
  have hrest : t.flights.filter (fun f => decide (n < f.step)) = [] := by rw [hf]; simp [h1, h2]
  have hsort : sortBy flightKey [f, g] = [g, f] := by simp [sortBy, insBy, hk]
  rw [Tile.land, hdue, hrest, hsort]
  rfl

/-- A scalar register that a landing result writes. -/
theorem sreg_landOne {t : Tile} (hw : SMap.wf 0 t.s = true) (n o d : Nat) (v : W64) :
    (t.landOne { step := n, order := o, what := .s d v }).sreg d = v := by
  rw [Tile.sreg, Tile.landOne, SMap.get_set hw, if_pos rfl]

/-- Results land in order of their step and issue, each in its register. -/
theorem land_results {t : Tile} {n d a b : Nat} {v w : W64} (hab : a < b) (hw : SMap.wf 0 t.s = true) :
    (t.flights = [{ step := n, order := a, what := .s d v }] →
      t.land n = { landed t (.s d v) with flights := [] } ∧ (t.land n).sreg d = v) ∧
    (t.flights = [{ step := n + 1, order := a, what := .s d v }] → t.land n = t) ∧
    (t.flights = [{ step := n, order := b, what := .s d v }, { step := n, order := a, what := .s d w }] → (t.land n).sreg d = v) := by
  refine ⟨fun hf => ?one, fun hf => Tile.land_later hf (Nat.lt_succ_self n), fun hf => ?two⟩
  case one =>
    rw [Tile.land_due hf (Nat.le_refl n)]
    exact ⟨rfl, sreg_landOne hw n a d v⟩
  case two =>
    rw [Tile.land_two hf (Nat.le_refl n) (Nat.le_refl n) (by simp only [flightKey]; omega)]
    exact sreg_landOne (SMap.wf_set hw) n b d v

/-! ## The pass end (R147) -/

/-- Whether the pass that ends counts an iteration off. -/
def Tile.countsOff (t : Tile) : Bool := decide (t.tail = 0) && decide (t.lc ≠ 0) && !t.drain

/-- TAIL after the pass: a loop that counts no iteration off drains. -/
def Tile.nextTail (t : Tile) : Nat := if t.countsOff then t.tail else t.tail + 1

/-- The counters of a loop after a pass, its stage predicates apart. -/
def Tile.passed (t : Tile) : Tile :=
  { t with
    lc := if t.countsOff then t.lc - 1 else t.lc, tail := t.nextTail, fill := min (t.fill + 1) 7, turn := (t.turn + 1) % 32
    passes := t.passes + 1 }

/-- The stage predicates written by a pass end. -/
def Tile.stages (t : Tile) (f : Nat → Bool) : SMap Bool := (span 0 8).foldl (fun p j => SMap.set false p (8 + j) (f j)) t.p

/-- The stage predicates that a pass end has written, and the others as they were. -/
theorem preg_stages {t : Tile} {u : Tile} {f : Nat → Bool} (hw : SMap.wf false t.p = true)
    (hp : u.p = t.stages f) {j : Nat} (hj : j < 8) :
    u.preg j = t.preg j ∧ u.preg (8 + j) = f j := by
  have hset : ∀ (k : Nat) (y : Bool), (∀ x ∈ span 0 8, 8 + x = k → f x = y) →
      SMap.get false u.p k = if ∃ x ∈ span 0 8, 8 + x = k then y else SMap.get false t.p k := fun k y hy => by
    rw [hp]; exact SMap.get_setEach (key := fun j => 8 + j) (v := f) (span 0 8) hw hy
  constructor
  · have hno : ¬ ∃ x ∈ span 0 8, 8 + x = j := by rintro ⟨x, _, hx⟩; omega
    rw [Tile.preg, Tile.preg, hset j false (fun x _ hx => by omega), if_neg hno]
  · have hyes : ∃ x ∈ span 0 8, 8 + x = 8 + j := ⟨j, mem_span.mpr ⟨Nat.zero_le j, by omega⟩, rfl⟩
    rw [Tile.preg, hset (8 + j) (f j) (fun x _ hx => by rw [Nat.add_left_cancel hx]), if_pos hyes,
      beq_eq_false_iff_ne.mpr (by omega), Bool.false_or]

/-- Stage j of the pass that begins is on between TAIL and FILL, up to LE. -/
def Tile.stageOn (t : Tile) (j : Nat) : Bool := decide (t.nextTail ≤ j ∧ j ≤ min (t.fill + 1) 7 ∧ j ≤ t.le)

theorem Tile.passEnd_eq (t : Tile) : t.passEnd =
    if t.le < t.nextTail then ({ t.passed with act := false, p := t.stages (fun _ => false) }, t.bodyStart + t.bodyLen)
    else ({ t.passed with p := t.stages t.stageOn }, t.bodyStart) := by
  have hgo : (t.tail == 0 && t.lc != 0 && !t.drain) = t.countsOff := by
    rw [Tile.countsOff, decide_not]; rfl
  have hon : t.stageOn = fun j => decide (t.nextTail ≤ j) && decide (j ≤ min (t.fill + 1) 7) && decide (j ≤ t.le) := by
    funext j
    rw [Tile.stageOn, Bool.decide_and, Bool.decide_and, Bool.and_assoc]
  rw [hon]
  unfold Tile.passEnd
  by_cases hc : t.countsOff = true
  · simp only [hgo, Tile.passed, Tile.nextTail, hc, if_true]; rfl
  · simp only [hgo, Tile.passed, Tile.nextTail, hc]; rfl

section
variable {s : State} {e : Nat} (hw : SMap.wf {} s.tiles = true) (hi : s.inp.a = e) (hr : (s.tile e).run = .running)
  (hp : (s.tile e).passDue = true) (hrd : ∀ x : Nat, ((s.tile e).t + 1, x) ∉ (s.tile e).rd)
  (hlen : (s.tile e).bodyStart + (s.tile e).bodyLen < (s.tile e).body.length)
include hi hr hp hrd hlen

/-- The pass ends, and the step with it, at the bundle that the pass end names. -/
theorem exec_loopPassEnd : ∃ u : State, exec .loopPassEnd s = .next u ∧ u.tile e = { (s.tile e).passEnd.1 with
    b := (s.tile e).passEnd.2, t := (s.tile e).t + 1, passDue := false, hotFmt := 0, hotMsts := 0 } := by
  obtain ⟨x, hx⟩ : ∃ x : Tile × Nat, (s.tile e).passEnd = x := ⟨_, rfl⟩
  have hkept : x.1.run = .running ∧ x.1.rd = (s.tile e).rd ∧ x.1.t = (s.tile e).t ∧ x.1.body = (s.tile e).body ∧
      x.2 < (s.tile e).body.length := by
    rw [← hx, Tile.passEnd_eq]
    split
    · exact ⟨hr, rfl, rfl, rfl, hlen⟩
    · exact ⟨hr, rfl, rfl, rfl, by omega⟩
  obtain ⟨hrun, hrd', ht', hbody', hb⟩ := hkept
  obtain ⟨v, hv⟩ : ∃ v : State, (if x.1.act then s.setTile e x.1 else (s.setTile e x.1).trace (teStation e)
      ((s.setTile e x.1).unitPart e) 0 0 0x0D x.1.passes [] (s.tile e).b 0 false) = v := ⟨_, rfl⟩
  have hvtile : v.tile e = x.1 := by
    have hbeside : v.besideTrace = (s.setTile e x.1).besideTrace := by
      rw [← hv]
      split
      · rfl
      · exact State.trace_besideTrace ..
    rw [State.tile_of_besideTrace hbeside, State.tile_setTile_running s e hrun]
  have hexec : exec .loopPassEnd s = .next (v.endStep e x.2) := by
    show execLoopPassEnd s = _
    simp only [execLoopPassEnd, hi, hr, hp, hx, hv, ne_eq, not_true_eq_false, Bool.true_eq_false, or_self, if_false]
  rw [State.endStep_straight (by rw [hvtile, hrd', ht']; exact hrd) (by rw [hvtile, hbody']; exact hb), hvtile] at hexec
  refine ⟨_, hexec, ?_⟩
  rw [State.tile_setTile_running v e (by exact hrun), hx, ht']

end

end Sys2Proof.Machine

namespace Sys2Proof.Machine

open Sys2Proof Sys2Proof.Claims

/-! ## Stops at a signpost and at a quiet point (R152, R153) -/

theorem Tile.landOne_flights (t : Tile) (f : Flight) : (t.landOne f).flights = t.flights := by
  unfold Tile.landOne
  split
  case h_2 => split <;> rfl
  case h_4 => split <;> rfl
  all_goals rfl

theorem Tile.foldl_landOne_flights : ∀ (fs : List Flight) (t : Tile), (fs.foldl Tile.landOne t).flights = t.flights
  | [], _ => rfl
  | f :: fs, t => by rw [List.foldl_cons, Tile.foldl_landOne_flights fs, Tile.landOne_flights]

/-- Nothing is in flight once every result has landed. -/
theorem Tile.landAll_flights (t : Tile) : t.landAll.flights = [] := Tile.foldl_landOne_flights _ _

theorem Tile.landAll_field {α : Type} (t : Tile) (g : Tile → α) (hg : ∀ t : Tile, g t.besideResults = g t) : g t.landAll = g t :=
  Tile.field_of_besideResults (Tile.landAll_besideResults t) g hg

theorem State.stopTrace_besideTrace (s : State) (e : Nat) (bytes : List Byte) : (s.stopTrace e bytes).besideTrace = s.besideTrace :=
  State.trace_besideTrace ..

theorem State.measureRun_tiles (s : State) (e : Nat) : (s.measureRun e).tiles = s.tiles := by
  unfold State.measureRun
  simp only
  split
  · rfl
  · split <;> rfl

theorem State.measureRun_stopped (s : State) (e : Nat) : (s.measureRun e).stopped = s.stopped := by
  unfold State.measureRun
  simp only
  split
  · rfl
  · split <;> rfl

/-- The tile state that a stop saves, with every result landed. -/
def Tile.savedAt (t : Tile) (kind : Nat) : Tile :=
  { t.landAll with
    hotFmt := 0, hotMsts := 0, run := .stopped kind, stopReq := false, resumeKind := kind, drain := false
    savedLc := if kind = 2 then t.landAll.lc else t.landAll.savedLc }

/-- A stop saves the tile state behind the others and frees the engine. -/
theorem State.stopAt_saves {s : State} (hw : SMap.wf {} s.tiles = true) (e kind : Nat) :
    (s.stopAt e kind).stopped = s.stopped ++ [(e, (s.tile e).savedAt kind)] ∧ ((s.stopAt e kind).tile e).run = .idle := by
  have hbeside := State.stopTrace_besideTrace s e (s.stopBytes e (s.tile e).b 0 kind 0 (s.tile e).q0 0)
  constructor
  · rw [← State.stopped_of_besideTrace hbeside]
    rfl
  · have hrest : (s.stopAt e kind).tile e = (s.tile e).landAll.rest := by
      refine (SMap.get_set (d := ({} : Tile)) (k := e) (j := e) ?_).trans (if_pos rfl)
      rw [State.tiles_of_besideTrace hbeside]
      exact hw
    rw [hrest]
    rfl

section
variable {s : State} {e : Nat} (hi : s.inp.a = e) (hr : (s.tile e).run = .running) (hp : (s.tile e).passDue = false)
  (he : (s.tile e).pendErr = none) (hq : (s.tile e).q.idleButMatrix = true)
include hi hr hp he hq

/-- SIGNPOST_STOP of a tile state that nothing holds. -/
theorem exec_signpostStop (hs : (atStep s e).stopHere = true) (hb : ((s.setTile e (atStep s e)).bundleReady e).2 = true) :
    exec .signpostStop s = .next (((s.setTile e (atStep s e)).measureRun e).stopAt e 1) := by
  obtain ⟨u, hu⟩ : ∃ u : State, (s.setTile e (atStep s e)).bundleReady e = (u, true) := ⟨_, Prod.ext rfl hb⟩
  have hq' : (atStep s e).q.idleButMatrix = true := (atStep_field s e (fun t => t.q.idleButMatrix) fun _ => rfl).trans hq
  have herr : (s.tile e).errDue = none := by rw [Tile.errDue, he, ite_self]
  show execSignpostStop s = _
  unfold atStep at hs hu hq' ⊢
  simp only [execSignpostStop, hi, hr, hp, herr, hs, hu, hq', ne_eq, not_true_eq_false, Bool.false_eq_true, or_self, if_false, if_true,
    Bool.not_true]

/-- QUIET_POINT_STOP of a tile state that nothing holds. -/
theorem exec_quietPointStop (hd : (s.tile e).quiet = true) : exec .quietPointStop s = .next (s.stopAt e 2) := by
  show execQuietPointStop s = _
  simp only [execQuietPointStop, hi, hr, hp, he, hq, hd, ne_eq, not_true_eq_false, Bool.true_eq_false, Bool.false_eq_true, or_self,
    if_false, if_true]

end

theorem loopAndStopResults : LoopAndStopResults := by
  refine ⟨fun s e hi hr => exec_resultLand hi hr, fun t n d a b v w _ hab hw => land_results hab hw, ?passes, ?stops⟩
  case passes =>
    intro s e t hw hi hr hp hrd hlen hwp go tail fill
    obtain ⟨u, hexec, hu⟩ := exec_loopPassEnd hi hr hp hrd hlen
    refine ⟨u, hexec, ?_⟩
    by_cases hl : t.le < t.nextTail
    · rw [Tile.passEnd_eq, if_pos hl] at hu
      rw [hu]
      exact ⟨rfl, rfl, rfl, rfl, rfl, rfl, rfl, rfl, fun j hj => (preg_stages (f := fun _ => false) hwp rfl hj).1,
        fun _ => ⟨rfl, rfl, fun j hj => (preg_stages (f := fun _ => false) hwp rfl hj).2⟩, fun h => absurd hl (Nat.not_lt.mpr h)⟩
    · rw [Tile.passEnd_eq, if_neg hl] at hu
      rw [hu]
      exact ⟨rfl, rfl, rfl, rfl, rfl, rfl, rfl, rfl, fun j hj => (preg_stages (f := t.stageOn) hwp rfl hj).1,
        fun h => absurd h hl,
        fun _ => ⟨rfl, rfl, fun j hj => (preg_stages (f := t.stageOn) hwp rfl hj).2⟩⟩
  case stops =>
    intro s e t hw hi hr hp he hq
    refine ⟨?signpost, fun hd ha => ?quiet⟩
    case signpost =>
      intro y hreq hsign hrd hact hdrain hpred hwait hlatch hready
      have herr : y.pendErr = none := (atStep_field s e Tile.pendErr fun _ => rfl).trans he
      have hstop : y.stopHere = true := by
        simp [Tile.stopHere, Tile.mayStop, Tile.stopPoint, Tile.quiet, hreq, hsign, hrd, hact, hdrain, hpred, hwait, hlatch, herr]
      have htile : ((s.setTile e y).measureRun e).tile e = y := by
        rw [State.tile, State.measureRun_tiles]
        exact tile_setTile_atStep hr
      obtain ⟨hsaved, hidle⟩ := State.stopAt_saves (s := (s.setTile e y).measureRun e)
        (by rw [State.measureRun_tiles]; exact SMap.wf_set hw) e 1
      rw [State.measureRun_stopped, htile] at hsaved
      have hf : ∀ {α : Type} (g : Tile → α), (∀ t : Tile, g t.besideResults = g t) → g y.landAll = g y := Tile.landAll_field y
      refine ⟨_, _, exec_signpostStop hi hr hp he hq hstop hready, hsaved, hidle, rfl, Tile.landAll_flights y, rfl, ?_⟩
      exact congrArg₂ (fun b r => (b, y.landAll.lc, r)) (hf Tile.b fun _ => rfl) (hf (fun t => (t.q, t.qmore, t.rings)) fun _ => rfl)
    case quiet =>
      have hquiet : t.quiet = true := by rw [Tile.quiet, hd, ha]; rfl
      obtain ⟨hsaved, hidle⟩ := State.stopAt_saves hw e 2
      have hf : ∀ {α : Type} (g : Tile → α), (∀ t : Tile, g t.besideResults = g t) → g t.landAll = g t := Tile.landAll_field t
      refine ⟨_, _, exec_quietPointStop hi hr hp he hq hquiet, hsaved, hidle, rfl, Tile.landAll_flights t, rfl, rfl, ?_⟩
      exact congrArg₂ (fun b r => (b, t.landAll.lc, r)) (hf Tile.b fun _ => rfl) (hf (fun t => (t.q, t.qmore, t.rings)) fun _ => rfl)

/-- Settles O52: the bundles, then landings, pass ends and stops. -/
theorem bundleSequence : Obligations.BundleSequence := ⟨bundleResults, loopAndStopResults⟩

end Sys2Proof.Machine

namespace Sys2Proof.Machine

open Sys2Proof Sys2Proof.Claims

/-! ## Parts of a lane (R135) -/

section
variable {n : Nat} (hn : 0 < 32 / n)
include hn

/-- The ends of part j of n. -/
theorem partEnds (j : Nat) : elemBits n * j ≤ elemBits n * (j + 1) - 1 ∧ elemBits n * (j + 1) - 1 + 1 - elemBits n * j = 32 / n := by
  rw [elemBits, Nat.mul_succ]
  omega

/-- The parts of a lane stand apart and within it. -/
theorem partsApart {j k : Nat} (h : j < k) : elemBits n * (j + 1) - 1 < elemBits n * k := by
  have hle : 32 / n * (j + 1) ≤ 32 / n * k := Nat.mul_le_mul_left _ h
  rw [elemBits]
  rw [Nat.mul_succ] at hle ⊢
  omega

theorem partWithin {k : Nat} (hk : k < n) : elemBits n * (k + 1) - 1 < 32 := by
  have hlast := partsApart hn hk
  have hall : 32 / n * n ≤ 32 := Nat.div_mul_le_self 32 n
  rw [elemBits] at hlast ⊢
  omega

theorem fld_part (w : W32) (j : Nat) : fld w.toNat (elemBits n * (j + 1) - 1) (elemBits n * j) = partOf n j w := by
  rw [fld, (partEnds hn j).2]
  rfl

/-- A part of a lane in which part j has been replaced. -/
theorem partOf_setPart {j k : Nat} (hk : k < n) (w : W32) (v : Nat) :
    partOf n k (setPart n w j v) = if k = j then v % 2 ^ (32 / n) else partOf n k w := by
  obtain ⟨hlo, hwidth⟩ := partEnds hn j
  have hbits : partOf n k (setPart n w j v) =
      fld (setFld w.toNat (elemBits n * (j + 1) - 1) (elemBits n * j) v) (elemBits n * (k + 1) - 1) (elemBits n * k) := by
    rw [← fld_part hn]
    exact bits_ofNat (partWithin hn hk) ..
  rw [hbits]
  split
  · rename_i hkj
    rw [hkj, fld_setFld_same hlo, hwidth]
  · rename_i hkj
    rw [fld_setFld_of_disjoint hlo ((Nat.lt_or_gt_of_ne hkj).imp (partsApart hn) (partsApart hn)), fld_part hn]

/-- Each part of the result of a binary operation on parts. -/
theorem partOf_perPart {k : Nat} (hk : k < n) (op : Nat → Nat → Nat × FFlags) (a b : W32) :
    partOf n k (perPart n op a b).1 = (op (partOf n k a) (partOf n k b)).1 % 2 ^ (32 / n) := by
  have hfold : ∀ (ls : List Nat) (acc : W32 × FFlags), partOf n k (ls.foldl (fun acc j =>
      let r := op (fld a.toNat (elemBits n * (j + 1) - 1) (elemBits n * j)) (fld b.toNat (elemBits n * (j + 1) - 1) (elemBits n * j))
      (setPart n acc.1 j r.1, acc.2.or r.2)) acc).1 =
      if k ∈ ls then (op (partOf n k a) (partOf n k b)).1 % 2 ^ (32 / n) else partOf n k acc.1 := by
    intro ls
    induction ls with
    | nil => exact fun acc => rfl
    | cons j ls ih =>
      intro acc
      rw [List.foldl_cons, ih]
      simp only [partOf_setPart hn hk, fld_part hn, List.mem_cons]
      by_cases hkj : k = j <;> simp [hkj]
  exact (hfold (span 0 n) (0, {})).trans (if_pos (mem_span.mpr ⟨Nat.zero_le k, by omega⟩))

end

/-- An operation on parts that raises no flag raises none on the lane. -/
theorem perPart_flags {op : Nat → Nat → Nat × FFlags} (h : ∀ x y, (op x y).2 = {}) (n : Nat) (a b : W32) : (perPart n op a b).2 = {} := by
  have hfold : ∀ (ls : List Nat) (acc : W32 × FFlags), acc.2 = {} → (ls.foldl (fun acc j =>
      let r := op (fld a.toNat (elemBits n * (j + 1) - 1) (elemBits n * j)) (fld b.toNat (elemBits n * (j + 1) - 1) (elemBits n * j))
      (setPart n acc.1 j r.1, acc.2.or r.2)) acc).2 = {} := by
    intro ls
    induction ls with
    | nil => exact fun _ h => h
    | cons j ls ih => exact fun acc hacc => ih _ (by simp only [h, hacc]; rfl)
  exact hfold (span 0 n) (0, {}) rfl

/-! ## Compare, select, movements and integer operations (R162, R165, R166) -/

/-- What an integer operation leaves in a lane, as the model computes it. -/
def vecInts (f : VF) (op : Nat → Nat → Nat → Nat) (c : TCtx) (l : Nat) : W32 × FFlags :=
  perPart (intParts f) (fun a b => (op (elemBits (intParts f)) a b % 2 ^ elemBits (intParts f), {})) (c.va f l) (c.vb f l)

/-- Each integer operation of the table is the shared one on its own function. -/
theorem viTable_exec : ∀ p ∈ viTable, ∃ op : Nat → Nat → Nat → Nat, (∀ w a b, op w a b % 2 ^ w = p.2 w a b) ∧
    ∀ (f : VF) (s : State), exec (p.1 f) s = tileOp f.g 4 (fun c => vecMap f 2 (vecInts f op c) c) s := by
  simp only [viTable, List.forall_mem_cons, List.not_mem_nil, false_implies, implies_true, and_true]
  exact ⟨⟨fun _ a b => a + b, fun _ _ _ => rfl, fun _ _ => rfl⟩, ⟨fun w a b => a + 2 ^ w - b, fun _ _ _ => rfl, fun _ _ => rfl⟩,
    ⟨fun w a b => a * 2 ^ (b % w), fun _ _ _ => rfl, fun _ _ => rfl⟩, ⟨fun w a b => a / 2 ^ (b % w), fun _ _ _ => rfl, fun _ _ => rfl⟩,
    ⟨fun w a b => wrapN w (sx w a / 2 ^ (b % w)), fun _ _ _ => rfl, fun _ _ => rfl⟩, ⟨fun _ a b => Nat.land a b, fun _ _ _ => rfl, fun _ _ => rfl⟩,
    ⟨fun _ a b => Nat.lor a b, fun _ _ _ => rfl, fun _ _ => rfl⟩, ⟨fun _ a b => Nat.xor a b, fun _ _ _ => rfl, fun _ _ => rfl⟩,
    ⟨fun _ a b => a * b, fun _ _ _ => rfl, fun _ _ => rfl⟩⟩

section
variable {s : State} {e : Nat} {f : VF} (h : Runs s e) (hg : (atStep s e).preg f.g.toNat = true)
include h hg

/-- An operation by lanes that neither rounds nor raises flags. -/
theorem tileOp_plainLanes {lat slot : Nat} {val : TCtx → Nat → W32} {v : Nat → W32} (hv : ∀ c : TCtx, c.t = atStep s e → ∀ l, val c l = v l) :
    tileOp f.g slot (fun c => vecMap f lat (fun l => (val c l, {})) c) s = .next (plainLanes s e f lat v) :=
  tileOp_vecMap h hg fun c hc l => by rw [hv c hc]

/-- An integer operation on the parts of each lane. -/
theorem exec_viTable {p : (VF → Instr) × (Nat → Nat → Nat → Nat)} (hp : p ∈ viTable) (hm : f.m.toNat < 3) :
    ∃ r : Nat → W32, exec (p.1 f) s = .next (plainLanes s e f 2 r) ∧
      ∀ l j, j < 2 ^ f.m.toNat → partOf (2 ^ f.m.toNat) j (r l) = p.2 (32 / 2 ^ f.m.toNat)
        (partOf (2 ^ f.m.toNat) j (laneA (atStep s e) f l)) (partOf (2 ^ f.m.toNat) j (laneB (atStep s e) f l)) := by
  obtain ⟨op, hop, hexec⟩ := viTable_exec p hp
  have hparts : intParts f = 2 ^ f.m.toNat := by rw [intParts, Nat.mod_eq_of_lt (by omega)]
  have hpos : 0 < 32 / 2 ^ f.m.toNat := Nat.div_pos (Nat.pow_le_pow_right (n := 2) (by decide) (by omega : f.m.toNat ≤ 5)) (Nat.two_pow_pos _)
  refine ⟨fun l => (perPart (2 ^ f.m.toNat) (fun a b => (p.2 (32 / 2 ^ f.m.toNat) a b, {})) (laneA (atStep s e) f l)
    (laneB (atStep s e) f l)).1, ?_, fun l j hj => ?_⟩
  · rw [hexec]
    refine tileOp_vecMap h hg fun c hc l => ?_
    rw [vecInts, hparts]
    refine Prod.ext ?_ (perPart_flags (fun _ _ => rfl) ..)
    simp only [elemBits, hop, TCtx.va, TCtx.vb, hc]
    rfl
  · rw [partOf_perPart hpos hj]
    simp only [← hop, Nat.mod_mod]

end

theorem vectorIntegerAndMoveResults : VectorIntegerAndMoveResults := by
  intro s e f h hg t
  refine ⟨?cmp, ?sel, ?perm, ?bcast, ?ext, ?mov, fun p hp hm => ?int⟩
  case cmp =>
    refine (tileOp_plainLanes h hg fun c hc l => ?_ : execVcmp f s = _)
    rw [TCtx.fl_eq]
    simp only [TCtx.va, TCtx.vb, hc]
    rfl
  case sel => exact (tileOp_plainLanes h hg fun c hc l => by simp only [TCtx.va, TCtx.vb, TCtx.vd, hc]; rfl : execVsel f s = _)
  case perm => exact (tileOp_plainLanes h hg fun c hc l => by simp only [TCtx.va, TCtx.vb, hc]; rfl : execVperm f s = _)
  case bcast => exact (tileOp_plainLanes h hg fun c hc l => by simp only [hc, BitVec.ofNat_toNat]; rfl : execVbcast f s = _)
  case ext => exact (tileOp_plainLanes h hg fun c hc l => by simp only [TCtx.va, TCtx.vd, hc]; rfl : execVext f s = _)
  case mov => exact (tileOp_plainLanes h hg fun c hc l => by simp only [TCtx.va, hc]; rfl : execVmov f s = _)
  case int =>
    obtain ⟨r, hexec, hr⟩ := exec_viTable h hg hp hm
    exact ⟨r, hexec, fun l _ j hj => hr l j hj⟩

end Sys2Proof.Machine

namespace Sys2Proof

/-! ## Values in order (R54, R161) -/

/-- The value of a decoded element that is no NaN, the infinities below and above every number. -/
def FVal.value : FVal → WithBot (WithTop ℚ)
  | .nan => ((0 : ℚ) : WithTop ℚ)
  | .inf neg => if neg then ⊥ else ((⊤ : WithTop ℚ) : WithBot (WithTop ℚ))
  | .fin neg m e => (((if neg then -1 else 1) * m * 2 ^ e : ℚ) : WithTop ℚ)

theorem FVal.eq_nan {x : FVal} (h : x.isNan = true) : x = .nan := by
  cases x with
  | nan => rfl
  | inf _ => cases h
  | fin _ _ _ => cases h

/-- The integer of a finite value at a lower exponent. -/
theorem dyAt_cast (neg : Bool) (m : Nat) {e q : Int} (h : q ≤ e) :
    (dyAt neg m e q : ℚ) = (if neg then -1 else 1) * m * 2 ^ e * 2 ^ (-q) := by
  have hpow : (2 : ℚ) ^ (e - q).toNat = 2 ^ e * 2 ^ (-q) := by
    rw [← zpow_natCast, Int.toNat_of_nonneg (by omega), ← zpow_add₀ (by norm_num)]
    rfl
  cases neg <;> simp [dyAt, hpow, mul_assoc]

/-- The model's comparison is the order of the values. -/
theorem fLt_iff {a b : FVal} (ha : a.isNan = false) (hb : b.isNan = false) : fLt a b = true ↔ a.value < b.value := by
  cases a with
  | nan => cases ha
  | inf s =>
    cases b with
    | nan => cases hb
    | inf t => cases s <;> cases t <;> simp [fLt, FVal.value]
    | fin t m e => cases s <;> simp [fLt, FVal.value]
  | fin s m e =>
    cases b with
    | nan => cases hb
    | inf t =>
      cases t with
      | true => simp [fLt, FVal.value]
      | false => exact iff_of_true rfl (WithBot.coe_lt_coe.mpr (WithTop.coe_lt_top _))
    | fin t n d =>
      obtain ⟨q, hq⟩ : ∃ q : Int, (if e < d then e else d) = q := ⟨_, rfl⟩
      have hqe : q ≤ e := by split at hq <;> omega
      have hqd : q ≤ d := by split at hq <;> omega
      have hpos : (0 : ℚ) < 2 ^ (-q) := by positivity
      simp only [fLt, FVal.value, hq, decide_eq_true_eq, WithBot.coe_lt_coe, WithTop.coe_lt_coe]
      rw [← Int.cast_lt (R := ℚ), dyAt_cast s m hqe, dyAt_cast t n hqd, mul_lt_mul_iff_left₀ hpos]

end Sys2Proof

namespace Sys2Proof.Machine

open Sys2Proof Sys2Proof.Claims

/-- The rank of a value under vmax and vmin: its value, and +0 above −0. -/
def rank (x : FVal) : WithBot (WithTop ℚ) ×ₗ Bool := toLex (x.value, !x.isNeg)

theorem above_iff {a b : FVal} (ha : a.isNan = false) (hb : b.isNan = false) : above a b = true ↔ rank b < rank a := by
  have heq : fEq b a = true ↔ b.value = a.value := by
    have : fEq b a = (!fLt b a && !fLt a b) := by
      cases a <;> cases b <;> simp_all [fEq, FVal.isNan]
    rw [this, Bool.and_eq_true, Bool.not_eq_true', Bool.not_eq_true', ← Bool.not_eq_true, ← Bool.not_eq_true, fLt_iff hb ha, fLt_iff ha hb,
      not_lt, not_lt, and_comm, ← le_antisymm_iff]
  rw [above, Bool.or_eq_true, fLt_iff hb ha, Bool.and_eq_true, Bool.and_eq_true, heq, rank, rank, Prod.Lex.toLex_lt_toLex]
  cases a.isNeg <;> cases b.isNeg <;> simp

/-! ## FP32 elements kept (R54, R65) -/

theorem lastPlace_fp32 (m : Nat) (e : Int) : lastPlace .fp32 m e =
    if (Nat.log2 m : Int) + e - 23 < -149 then -149 else (Nat.log2 m : Int) + e - 23 := rfl

/-- Packing in FP32 of a magnitude that rounding has not carried up. -/
theorem packMag_fp32 {k : Nat} (hk : k ≠ 2 ^ 24) (q : Int) : packMag .fp32 k q =
    if k = 0 then some 0 else if k < 2 ^ 23 then some k
    else if q + 23 + 127 < 2 ^ 8 ∧ (q + 23 + 127).toNat * 2 ^ 23 + (k - 2 ^ 23) ≤ 0x7F7FFFFF then
      some ((q + 23 + 127).toNat * 2 ^ 23 + (k - 2 ^ 23))
    else none := by
  have hpair : (if k = 2 ^ 24 then (2 ^ 23, q + 1) else (k, q)) = (k, q) := if_neg hk
  show (if k = 0 then some 0 else match (if k = 2 ^ 24 then (2 ^ 23, q + 1) else (k, q)) with
    | (k, q) => if k < 2 ^ 23 then some k
      else if q + 23 + 127 < 2 ^ 8 ∧ (q + 23 + 127).toNat * 2 ^ 23 + (k - 2 ^ 23) ≤ 0x7F7FFFFF then
        some ((q + 23 + 127).toNat * 2 ^ 23 + (k - 2 ^ 23))
      else none) = _
  rw [hpair]

/-- A magnitude of FP32 that is representable rounds to its own bits. -/
theorem roundBin_subnormal (neg : Bool) {m : Nat} (h0 : m ≠ 0) (h : m < 2 ^ 23) :
    roundBin .fp32 .rne false false neg m (-149) false = ((if neg then 2 ^ 31 else 0) + m, {}) := by
  have hlog : Nat.log2 m < 23 := (Nat.log2_lt h0).mpr h
  have hplace : lastPlace .fp32 m (-149) = -149 := by
    rw [lastPlace_fp32, if_pos (by omega)]
  have hround : roundAt .rne neg m (-149) (-149) false = (m, false) := by simp [roundAt]
  have hpack : packMag .fp32 m (-149) = some m := by
    rw [packMag_fp32 (by omega), if_neg h0, if_pos h]
  simp only [roundBin, hplace, hround, hpack, if_neg h0]
  rfl

theorem roundBin_normal (neg : Bool) {fr ex : Nat} (hf : fr < 2 ^ 23) (h0 : ex ≠ 0) (h : ex < 255) :
    roundBin .fp32 .rne false false neg (2 ^ 23 + fr) ((ex : Int) - 127 - 23) false =
      ((if neg then 2 ^ 31 else 0) + (ex * 2 ^ 23 + fr), {}) := by
  have hlog : Nat.log2 (2 ^ 23 + fr) = 23 := by
    rw [Nat.log2_eq_iff (by omega)]
    omega
  have hplace : lastPlace .fp32 (2 ^ 23 + fr) ((ex : Int) - 127 - 23) = (ex : Int) - 127 - 23 := by
    rw [lastPlace_fp32, hlog, if_neg (by omega)]
    omega
  have hround : roundAt .rne neg (2 ^ 23 + fr) ((ex : Int) - 127 - 23) ((ex : Int) - 127 - 23) false = (2 ^ 23 + fr, false) := by
    simp [roundAt]
  have hpack : packMag .fp32 (2 ^ 23 + fr) ((ex : Int) - 127 - 23) = some (ex * 2 ^ 23 + fr) := by
    have hex : ((ex : Int) - 127 - 23 + 23 + 127).toNat = ex := by omega
    rw [packMag_fp32 (by omega), hex, if_neg (by omega), if_neg (by omega), if_pos ⟨by omega, by omega⟩, Nat.add_sub_cancel_left]
  have hne : ex * 2 ^ 23 + fr ≠ 0 := by omega
  simp only [roundBin, hplace, hround, hpack, if_neg hne]
  rfl

/-- A nonzero value is kept as it rounds. -/
theorem eKeep_fin (neg : Bool) {m : Nat} (h : m ≠ 0) (e : Int) :
    eKeep .fp32 (.fin neg m e) = (roundBin .fp32 .rne false false neg m e false).1 := by
  simp only [eKeep, deliver, h, false_and, if_false, if_true, Rnd.noSr]

/-- The bits of an element of FP32 are its sign, exponent and fraction. -/
theorem fp32_fields {b : Nat} (h : b < 2 ^ 32) :
    b = (if bitAt b 31 then 2 ^ 31 else 0) + (b / 2 ^ 23 % 2 ^ 8 * 2 ^ 23 + b % 2 ^ 23) := by
  by_cases hs : bitAt b 31 = true
  · rw [if_pos hs]
    have := bitAt_iff.mp hs
    omega
  · rw [if_neg hs]
    have := mt bitAt_iff.mpr hs
    omega

/-- An element of FP32 that is no NaN keeps its bits. -/
theorem eKeep_decode {b : Nat} (h : b < 2 ^ 32) (hn : (NumFmt.fp32.decode b).isNan = false) : eKeep .fp32 (NumFmt.fp32.decode b) = b := by
  have hb := fp32_fields h
  have hf : b % 2 ^ 23 < 2 ^ 23 := Nat.mod_lt _ (by decide)
  have he : b / 2 ^ 23 % 2 ^ 8 < 2 ^ 8 := Nat.mod_lt _ (by decide)
  obtain ⟨neg, hneg⟩ : ∃ neg, bitAt b 31 = neg := ⟨_, rfl⟩
  obtain ⟨ex, hex⟩ : ∃ ex, b / 2 ^ 23 % 2 ^ 8 = ex := ⟨_, rfl⟩
  obtain ⟨fr, hfr⟩ : ∃ fr, b % 2 ^ 23 = fr := ⟨_, rfl⟩
  have hdec : NumFmt.fp32.decode b = if ex = 255 then (if fr = 0 then .inf neg else .nan)
      else if ex = 0 then .fin neg fr (-149) else .fin neg (2 ^ 23 + fr) ((ex : Int) - 127 - 23) := by
    simp only [NumFmt.decode, NumFmt.efb, hneg, hex, hfr]
    simp
  rw [hneg, hex, hfr] at hb
  rw [hex] at he
  rw [hfr] at hf
  rw [hdec] at hn ⊢
  split at hn
  · rename_i h255
    split at hn
    · rename_i h0
      rw [if_pos h255, if_pos h0, hb, h255, h0]
      cases neg <;> rfl
    · cases hn
  · rename_i h255
    rw [if_neg h255]
    by_cases h0 : ex = 0
    · rw [if_pos h0]
      by_cases hz : fr = 0
      · rw [hb, h0, hz]
        cases neg <;> rfl
      · rw [eKeep_fin neg hz, roundBin_subnormal neg hz hf, hb, h0, Nat.zero_mul, Nat.zero_add]
    · rw [if_neg h0]
      rw [eKeep_fin neg (by omega), roundBin_normal neg hf h0 (by omega), ← hb]

/-- An operand is its decoded value, or with FLUSH a zero of its sign. -/
theorem read_fp32 (fl : Bool) (b : Nat) : NumFmt.fp32.read fl b = NumFmt.fp32.decode b ∨
    ∃ neg, NumFmt.fp32.read fl b = .fin neg 0 0 := by
  unfold NumFmt.read
  split
  · rename_i s m e heq
    split
    · exact .inr ⟨s, rfl⟩
    · exact .inl heq.symm
  · exact .inl rfl

/-- A value that FP32 elements hold reads back as itself once kept: the same rank, the same bits. -/
theorem read_eKeep {fl : Bool} {b : Nat} {x : FVal} (hb : b < 2 ^ 32) (hx : NumFmt.fp32.read fl b = x) (hn : x.isNan = false) :
    let y := NumFmt.fp32.read fl (eKeep .fp32 x)
    y.isNan = false ∧ rank y = rank x ∧ eKeep .fp32 y = eKeep .fp32 x := by
  rcases read_fp32 fl b with hread | ⟨neg, hread⟩
  · have hsame : NumFmt.fp32.read fl (eKeep .fp32 x) = x := by
      rw [← hx, hread, eKeep_decode hb (by rw [← hread, hx]; exact hn), ← hread]
    intro y
    have hy : y = x := hsame
    exact ⟨by rw [hy]; exact hn, by rw [hy], by rw [hy]⟩
  · have hzero : NumFmt.fp32.read fl (eKeep .fp32 x) = .fin neg 0 (-149) := by
      rw [← hx, hread]
      cases neg <;> cases fl <;> rfl
    intro y
    have hy : y = .fin neg 0 (-149) := hzero
    have hx0 : x = .fin neg 0 0 := hx.symm.trans hread
    rw [hy, hx0]
    exact ⟨rfl, by simp [rank, FVal.value, FVal.isNeg], rfl⟩

/-! ## The largest and the smallest of a list (R161, R165) -/

/-- Bits whose operand is a NaN. -/
theorem read_nanBits (fl : Bool) : NumFmt.fp32.read fl NumFmt.fp32.nanBits = .nan := by cases fl <;> rfl

/-- Neither is further in the direction: the order of the ranks. -/
theorem not_further_iff {up : Bool} {x y : FVal} (hx : x.isNan = false) (hy : y.isNan = false) :
    (if up then above y x else above x y) = false ↔ if up then rank y ≤ rank x else rank x ≤ rank y := by
  cases up
  · simp only [Bool.false_eq_true, if_false]
    rw [← Bool.not_eq_true, above_iff hx hy, not_lt]
  · simp only [if_true]
    rw [← Bool.not_eq_true, above_iff hy hx, not_lt]

section
variable {fl : Bool} (up : Bool) {a b : Nat}

/-- Of two NaN the canonical NaN is taken, of one NaN and a number the number. -/
theorem eMinMax_nans (ha : (NumFmt.fp32.read fl a).isNan = true) (hb : (NumFmt.fp32.read fl b).isNan = true) :
    eMinMax .fp32 fl up a b = NumFmt.fp32.nanBits := by
  simp only [eMinMax, ha, hb, Bool.and_self, if_true]

theorem eMinMax_nan_left (ha : (NumFmt.fp32.read fl a).isNan = true) (hb : (NumFmt.fp32.read fl b).isNan = false) :
    eMinMax .fp32 fl up a b = eKeep .fp32 (NumFmt.fp32.read fl b) := by
  simp only [eMinMax, ha, hb, Bool.and_false, Bool.false_eq_true, if_true, if_false]

theorem eMinMax_nan_right (ha : (NumFmt.fp32.read fl a).isNan = false) (hb : (NumFmt.fp32.read fl b).isNan = true) :
    eMinMax .fp32 fl up a b = eKeep .fp32 (NumFmt.fp32.read fl a) := by
  simp only [eMinMax, ha, hb, Bool.and_true, Bool.false_eq_true, if_true, if_false]

/-- Of two numbers the one further in the direction. -/
theorem eMinMax_numbers (ha : (NumFmt.fp32.read fl a).isNan = false) (hb : (NumFmt.fp32.read fl b).isNan = false) :
    eMinMax .fp32 fl up a b = eKeep .fp32 (if above (NumFmt.fp32.read fl b) (NumFmt.fp32.read fl a) = up then NumFmt.fp32.read fl b
      else NumFmt.fp32.read fl a) := by
  simp only [eMinMax, ha, hb, above, Bool.and_self, Bool.false_eq_true, if_false]
  rfl

end

/-- The ranks of an extreme value: none of the list's numbers is further. -/
def Furthest (up : Bool) (xs : List FVal) (x : FVal) : Prop :=
  x.isNan = false ∧ ∀ y ∈ xs, y.isNan = false → if up then rank y ≤ rank x else rank x ≤ rank y

theorem Furthest.trans {up : Bool} {xs : List FVal} {x z : FVal} (h : Furthest up xs x) (hz : z.isNan = false)
    (hxz : if up then rank x ≤ rank z else rank z ≤ rank x) : Furthest up xs z := by
  refine ⟨hz, fun y hy hn => ?_⟩
  have hyx := h.2 y hy hn
  cases up
  · exact le_trans hxz hyx
  · exact le_trans hyx hxz

theorem Furthest.append {up : Bool} {xs : List FVal} {x y : FVal} (h : Furthest up xs x)
    (hy : y.isNan = false → if up then rank y ≤ rank x else rank x ≤ rank y) : Furthest up (xs ++ [y]) x := by
  refine ⟨h.1, fun z hz hn => ?_⟩
  rcases List.mem_append.mp hz with hz | hz
  · exact h.2 z hz hn
  · exact List.mem_singleton.mp hz ▸ hy (List.mem_singleton.mp hz ▸ hn)

/-- The bits that vmax or vmin holds after a list of operands: the value furthest in the direction, or of a list of NaN alone the
canonical NaN. -/
def Extreme (up : Bool) (xs : List FVal) (r : Nat) : Prop :=
  ((∀ x ∈ xs, x.isNan = true) ∧ r = NumFmt.fp32.nanBits) ∨ ∃ x ∈ xs, Furthest up xs x ∧ r = eKeep .fp32 x

/-- With one more operand. -/
theorem Extreme.snoc {fl up : Bool} {pre : List Nat} {r b : Nat} (hpre : ∀ x ∈ pre, x < 2 ^ 32)
    (h : Extreme up (pre.map (NumFmt.fp32.read fl)) r) :
    Extreme up ((pre ++ [b]).map (NumFmt.fp32.read fl)) (eMinMax .fp32 fl up r b) := by
  rw [List.map_append, List.map_singleton]
  have hlast : NumFmt.fp32.read fl b ∈ pre.map (NumFmt.fp32.read fl) ++ [NumFmt.fp32.read fl b] := by simp
  rcases h with ⟨hall, rfl⟩ | ⟨x, hx, hbest, rfl⟩
  · have hnan : (NumFmt.fp32.read fl NumFmt.fp32.nanBits).isNan = true := by rw [read_nanBits]; rfl
    cases hb : (NumFmt.fp32.read fl b).isNan with
    | true =>
      exact .inl ⟨fun y hy => (List.mem_append.mp hy).elim (hall y) fun hy => List.mem_singleton.mp hy ▸ hb, eMinMax_nans up hnan hb⟩
    | false =>
      have hnone : Furthest up (pre.map (NumFmt.fp32.read fl)) (NumFmt.fp32.read fl b) :=
        ⟨hb, fun y hy hn => absurd (hall y hy) (by rw [hn]; decide)⟩
      exact .inr ⟨_, hlast, hnone.append fun _ => by simp, eMinMax_nan_left up hnan hb⟩
  · obtain ⟨k, hk, hkx⟩ := List.mem_map.mp hx
    obtain ⟨ha, hrank, hkeep⟩ := read_eKeep (hpre k hk) hkx hbest.1
    have hx' := List.mem_append_left [NumFmt.fp32.read fl b] hx
    cases hb : (NumFmt.fp32.read fl b).isNan with
    | true =>
      exact .inr ⟨x, hx', hbest.append fun hn => absurd hb (by rw [hn]; decide), by rw [eMinMax_nan_right up ha hb, hkeep]⟩
    | false =>
      have hpick := eMinMax_numbers up ha hb
      have horder := above_iff hb ha
      rw [hrank] at horder
      split at hpick
      · rename_i hup
        refine .inr ⟨_, hlast, (hbest.trans hb ?_).append fun _ => by simp, hpick⟩
        cases up
        · exact not_lt.mp (mt horder.mpr (by rw [hup]; decide))
        · exact (horder.mp hup).le
      · rename_i hup
        refine .inr ⟨x, hx', hbest.append fun _ => ?_, by rw [hpick, hkeep]⟩
        cases up
        · exact (horder.mp (by simpa using hup)).le
        · exact not_lt.mp (mt horder.mpr hup)

/-- The running result over a whole list. -/
theorem Extreme.foldl {fl up : Bool} (bs : List Nat) : ∀ {pre : List Nat} {r : Nat}, (∀ x ∈ pre ++ bs, x < 2 ^ 32) →
    Extreme up (pre.map (NumFmt.fp32.read fl)) r →
    Extreme up ((pre ++ bs).map (NumFmt.fp32.read fl)) (bs.foldl (eMinMax .fp32 fl up) r) := by
  induction bs with
  | nil => exact fun _ h => by rwa [List.append_nil]
  | cons b bs ih =>
    intro pre r hlt h
    have hnext := h.snoc (b := b) fun x hx => hlt x (List.mem_append_left _ hx)
    rw [List.append_cons] at hlt ⊢
    exact ih hlt hnext

/-- vred by vmax or vmin of the operands of a list (R165). -/
theorem extreme_of_cons (fl up : Bool) (b : Nat) (bs : List Nat) (hlt : ∀ x ∈ b :: bs, x < 2 ^ 32) :
    Extreme up ((b :: bs).map (NumFmt.fp32.read fl)) (bs.foldl (eMinMax .fp32 fl up) (eKeep .fp32 (NumFmt.fp32.read fl b))) := by
  refine Extreme.foldl (pre := [b]) bs hlt ?_
  cases hb : (NumFmt.fp32.read fl b).isNan with
  | true =>
    refine .inl ⟨fun x hx => List.mem_singleton.mp hx ▸ hb, ?_⟩
    rw [FVal.eq_nan hb]
    rfl
  | false => exact .inr ⟨_, by simp, ⟨hb, fun y hy _ => by rw [List.mem_singleton.mp hy]; simp⟩, rfl⟩

end Sys2Proof.Machine

namespace Sys2Proof

theorem FFlags.or_self (g : FFlags) : g.or g = g := by
  cases g
  simp [FFlags.or]

theorem FFlags.empty_or (g : FFlags) : ({} : FFlags).or g = g := by
  cases g
  simp [FFlags.or]

end Sys2Proof

namespace Sys2Proof.Machine

open Sys2Proof Sys2Proof.Claims

/-! ## vred (R165) -/

/-- The operands of vred. -/
def vredBits (f : VF) (t : Tile) : List Nat := (span 0 32).map (fun l => (laneA t f l).toNat)

theorem vredBits_lt (f : VF) (t : Tile) : ∀ x ∈ vredBits f t, x < 2 ^ 32 := by
  simp only [vredBits, List.forall_mem_map]
  exact fun l _ => (laneA t f l).isLt

theorem vredBits_cons (f : VF) (t : Tile) : vredBits f t = (vredBits f t).headD 0 :: (vredBits f t).drop 1 := rfl

/-- The largest or the smallest of the operands, as bits. -/
def vredPick (f : VF) (t : Tile) (up : Bool) : Nat :=
  ((vredBits f t).drop 1).foldl (eMinMax .fp32 (flushOf t) up) (eKeep .fp32 (NumFmt.fp32.read (flushOf t) ((vredBits f t).headD 0)))

theorem vredPick_extreme (f : VF) (t : Tile) (up : Bool) :
    Extreme up ((vredBits f t).map (NumFmt.fp32.read (flushOf t))) (vredPick f t up) := by
  rw [vredPick, vredBits_cons]
  exact extreme_of_cons _ _ _ _ (vredBits_cons f t ▸ vredBits_lt f t)

/-- One value in every lane. -/
theorem map_const_span {α : Type} (a : α) : (span 0 32).map (fun _ => a) = List.replicate 32 a := rfl

/-- The flags of one lane are those of all. -/
theorem foldl_or_const (v : W32) (g : FFlags) : (List.replicate 32 (v, g)).foldl (fun a r => a.or r.2) {} = g := by
  have hfold : ∀ n, (List.replicate (n + 1) (v, g)).foldl (fun a r => a.or r.2) g = g := fun n => by
    induction n with
    | zero => exact g.or_self
    | succ n ih => rw [List.replicate_succ, List.foldl_cons, g.or_self, ih]
  rw [List.replicate_succ, List.foldl_cons, g.empty_or]
  exact hfold 30

section
variable {s : State} {e : Nat} {f : VF} (h : Runs s e) (hg : (atStep s e).preg f.g.toNat = true)
include h hg

theorem exec_vred_pick {up : Bool} (hm : f.m.toNat % 4 = if up then 1 else 2) : exec (.vred f) s =
    .next (launches s e [(6, .v (physical (atStep s e) f.d) (List.replicate 32 (BitVec.ofNat 32 (vredPick f (atStep s e) up))))]) := by
  have hop : (f.m.toNat % 4 == 1) = up := by rw [hm]; cases up <;> rfl
  have h0 : f.m.toNat % 4 ≠ 0 := by rw [hm]; cases up <;> decide
  unfold exec
  refine tileOp_launches h hg ?_
  rw [semVred]
  simp only [if_neg h0, hop, TCtx.fl_eq]
  rfl

theorem exec_vred_sum (hm : f.m.toNat % 4 = 0) (hr : fmtRnd (atStep s e).fmt.toNat < 5) :
    let t := atStep s e
    let x := sumVals (modeOf t 0).noSr ((vredBits f t).map (NumFmt.fp32.read (flushOf t)))
    let r := deliver .fp32 (modeOf t 0).noSr (flushOf t) x.1
    exec (.vred f) s = .next (vecAfter s e f 6 true (fun _ => (BitVec.ofNat 32 r.1, x.2.or r.2))) := by
  intro t x r
  have hvec : ∀ c : TCtx, c.t = t → semVred f c = vecRnd f 6 (fun _ => (BitVec.ofNat 32 r.1, x.2.or r.2)) c := fun c hc => by
    rw [semVred, vecRnd]
    simp only [hm, if_true, map_const_span, foldl_or_const, List.map_replicate, TCtx.fl_eq, TCtx.rnd, TCtx.va, hc]
    rfl
  unfold exec
  exact tileOp_eq_vecRnd h hg hr hvec

end

theorem vectorReduceResults : VectorReduceResults := by
  intro s e f h hg t lanesA
  have hlanes : (vredBits f t).map (NumFmt.fp32.read (flushOf t)) = lanesA := List.map_map
  refine ⟨fun up hm => ⟨_, exec_vred_pick h hg hm, fun hall => ?nans, fun hsome => ?number⟩, fun hm hr => ?sum⟩
  case nans =>
    rcases hlanes ▸ vredPick_extreme f t up with ⟨_, hr⟩ | ⟨x, hx, hbest, _⟩
    · rw [hr]
      rfl
    · exact absurd (hall x hx) (by rw [hbest.1]; decide)
  case number =>
    rcases hlanes ▸ vredPick_extreme f t up with ⟨hall, _⟩ | ⟨x, hx, ⟨hxn, hbest⟩, hr⟩
    · obtain ⟨x, hx, hn⟩ := hsome
      exact absurd (hall x hx) (by rw [hn]; decide)
    · refine ⟨x, hx, hxn, by rw [hr]; rfl, fun y hy => ?_⟩
      cases hyn : y.isNan with
      | true => exact .inl rfl
      | false => exact .inr ((not_further_iff hxn hyn).mpr (hbest y hy hyn))
  case sum => exact hlanes ▸ exec_vred_sum h hg hm hr

/-- Settles O42: the operations by lanes, and the reductions. -/
theorem vectorCompareMoveReduceIntegerResults : Obligations.VectorCompareMoveReduceIntegerResults :=
  ⟨vectorIntegerAndMoveResults, vectorReduceResults⟩

end Sys2Proof.Machine

namespace Sys2Proof.Machine

open Sys2Proof Sys2Proof.Claims

/-! ## The block of 48 elements (R164) -/

/-- The block as the statements read it. -/
def blockAt (t : Tile) (f : VF) : List FVal :=
  (span 0 48).map (fun k => NumFmt.fp32.read (flushOf t) (t.vlane (f.a.toNat + k / 32) (k % 32)).toNat)

theorem length_blockAt (t : Tile) (f : VF) : (blockAt t f).length = 48 := by rw [blockAt, List.length_map, length_span]

theorem blockOf_eq (f : VF) (c : TCtx) : blockOf f c = blockAt c.t f := by
  rw [blockOf, TCtx.fl_eq]
  rfl

theorem keptBits_eq (v : FVal) : BitVec.ofNat 32 (eKeep .fp32 v) = keptBits v := rfl

/-- The running maximum of numbers: one of them above the start, or the start. -/
theorem foldl_max {xs : List FVal} : ∀ {a : FVal}, a.isNan = false → (∀ x ∈ xs, x.isNan = false) →
    let r := xs.foldl (fun a x => if fLt a x then x else a) a
    r.isNan = false ∧ a.value ≤ r.value ∧ (∀ x ∈ xs, x.value ≤ r.value) ∧ (r = a ∨ r ∈ xs ∧ a.value < r.value) := by
  induction xs with
  | nil => exact fun ha _ => ⟨ha, le_refl _, by simp, .inl rfl⟩
  | cons x xs ih =>
    intro a ha hxs
    have hx := hxs x (by simp)
    have hrest := fun y hy => hxs y (List.mem_cons_of_mem x hy)
    rw [List.foldl_cons]
    by_cases hlt : fLt a x = true
    · rw [if_pos hlt]
      obtain ⟨hn, hstart, hall, hmem⟩ := ih hx hrest
      have hax := (fLt_iff ha hx).mp hlt
      refine ⟨hn, hax.le.trans hstart, List.forall_mem_cons.mpr ⟨hstart, hall⟩, .inr ⟨?_, hax.trans_le hstart⟩⟩
      rcases hmem with hr | ⟨hr, _⟩
      · rw [hr]
        exact List.mem_cons_self
      · exact List.mem_cons_of_mem x hr
    · rw [if_neg hlt]
      obtain ⟨hn, hstart, hall, hmem⟩ := ih ha hrest
      refine ⟨hn, hstart, List.forall_mem_cons.mpr ⟨(not_lt.mp (mt (fLt_iff ha hx).mpr hlt)).trans hstart, hall⟩,
        hmem.imp_right fun ⟨hr, hlt⟩ => ⟨List.mem_cons_of_mem x hr, hlt⟩⟩

theorem zero_isNan : (FVal.fin false 0 0).isNan = false := rfl

theorem not_fLt_iff {a b : FVal} (ha : a.isNan = false) (hb : b.isNan = false) : fLt a b = false ↔ b.value ≤ a.value := by
  rw [← Bool.not_eq_true, fLt_iff ha hb, not_lt]

/-- The greatest value above zero of a block, or zero. -/
theorem maxVal_spec {xs : List FVal} (h : ∀ x ∈ xs, x.isNan = false) : (∀ y ∈ xs, fLt (maxVal xs) y = false) ∧
    (maxVal xs = .fin false 0 0 ∨ maxVal xs ∈ xs ∧ fLt (.fin false 0 0) (maxVal xs) = true) := by
  obtain ⟨hn, _, hall, hmem⟩ := foldl_max zero_isNan h
  exact ⟨fun y hy => (not_fLt_iff hn (h y hy)).mpr (hall y hy), hmem.imp_right fun ⟨hr, hlt⟩ => ⟨hr, (fLt_iff zero_isNan hn).mpr hlt⟩⟩

theorem FVal.abs_isNan (x : FVal) : x.abs.isNan = x.isNan := by cases x <;> rfl

theorem zero_le_abs (x : FVal) : (FVal.fin false 0 0).value ≤ x.abs.value := by
  cases x with
  | nan => simp [FVal.abs, FVal.value]
  | inf s => simp [FVal.abs, FVal.value]
  | fin s m e =>
    have hpos : (0 : ℚ) ≤ m * 2 ^ e := by positivity
    simpa only [FVal.abs, FVal.value, Bool.false_eq_true, if_false, one_mul, Nat.cast_zero, zero_mul, WithBot.coe_le_coe,
      WithTop.coe_le_coe] using hpos

/-- A magnitude that is not above zero is a zero. -/
theorem keptBits_abs_zero {x : FVal} (hn : x.isNan = false) (h : fLt (.fin false 0 0) x.abs = false) : keptBits x.abs = 0#32 := by
  cases x with
  | nan => cases hn
  | inf s => cases h
  | fin s m e =>
    have hle := (not_fLt_iff zero_isNan rfl).mp h
    have hm : m = 0 := by
      simp only [FVal.abs, FVal.value, WithBot.coe_le_coe, WithTop.coe_le_coe] at hle
      have hpos : (0 : ℚ) < 2 ^ e := by positivity
      simpa using le_of_mul_le_mul_right (by simpa using hle : (m : ℚ) * 2 ^ e ≤ 0 * 2 ^ e) hpos
    rw [hm]
    rfl

/-- The greatest magnitude of a block. -/
theorem maxVal_abs {xs : List FVal} (hne : xs ≠ []) (h : ∀ x ∈ xs, x.isNan = false) :
    ∃ x ∈ xs, keptBits (maxVal (xs.map FVal.abs)) = keptBits x.abs ∧ ∀ y ∈ xs, fLt x.abs y.abs = false := by
  have habs : ∀ x ∈ xs.map FVal.abs, x.isNan = false := List.forall_mem_map.mpr fun x hx => (FVal.abs_isNan x).trans (h x hx)
  obtain ⟨hall, hzero | ⟨hmem, _⟩⟩ := maxVal_spec habs
  · obtain ⟨x, hx⟩ := List.exists_mem_of_ne_nil xs hne
    rw [hzero] at hall ⊢
    refine ⟨x, hx, (keptBits_abs_zero (h x hx) (hall _ (List.mem_map_of_mem hx))).symm, fun y hy => ?_⟩
    have hyn := habs _ (List.mem_map_of_mem hy)
    have hy0 := (not_fLt_iff zero_isNan hyn).mp (hall _ (List.mem_map_of_mem hy))
    exact (not_fLt_iff (habs _ (List.mem_map_of_mem hx)) hyn).mpr (hy0.trans (zero_le_abs x))
  · obtain ⟨x, hx, hmax⟩ := List.mem_map.mp hmem
    rw [← hmax] at hall ⊢
    exact ⟨x, hx, rfl, List.forall_mem_map.mp hall⟩

/-- A result of vmaxabs: of a block with a NaN the canonical NaN. -/
def blockKept (xs : List FVal) (v : FVal) : W32 := if xs.any FVal.isNan then keptBits .nan else keptBits v

theorem blockKept_of_nan {xs : List FVal} (h : ∃ x ∈ xs, x.isNan = true) (v : FVal) : blockKept xs v = 0x7FC00000#32 :=
  if_pos (List.any_eq_true.mpr h)

theorem blockKept_of_numbers {xs : List FVal} (h : ∀ x ∈ xs, x.isNan = false) (v : FVal) : blockKept xs v = keptBits v :=
  if_neg fun hany => by
    obtain ⟨x, hx, hn⟩ := List.any_eq_true.mp hany
    exact absurd (h x hx) (by rw [hn]; decide)

section
variable {s : State} {e : Nat} {f : VF} (h : Runs s e) (hg : (atStep s e).preg f.g.toNat = true)
include h hg

/-- vcvt element by element (R163). -/
theorem exec_vcvt {src dst : NumFmt} (hsrc : NumFmt.ofCode (f.b.toNat / 4) = some src) (hdst : NumFmt.ofCode f.m.toNat = some dst)
    (hr : fmtRnd (atStep s e).fmt.toNat < 5) : let t := atStep s e
    exec (.vcvt f) s = .next (vecAfter s e f 3 true (fun l => cvtLane src dst (perLane (f.b.toNat / 4)) (perLane f.m.toNat)
      (f.b.toNat % 4) (modeOf t) (t.fmt.getLsbD 15) (flushOf t) (laneA t f) (laneD t f l) l)) := by
  intro t
  unfold exec
  refine tileOp_eq_vecRnd h hg hr fun c hc => ?_
  have hsat : fmtSatf t.fmt.toNat = t.fmt.getLsbD 15 := bitAt_toNat t.fmt 15
  have hmode : c.rnd = modeOf t := funext fun l => by rw [TCtx.rnd, hc]; rfl
  have ha : c.va f = laneA t f := funext fun l => by rw [TCtx.va, hc]; rfl
  have hd : c.vd f = laneD t f := funext fun l => by rw [TCtx.vd, hc]; rfl
  rw [← hsat, ← hmode, ← ha, ← hd, semVcvt, TCtx.fl_eq, hc]
  simp only [hsrc, hdst]
  rfl

/-- vmaxabs of the block (R164). -/
theorem exec_vmaxabs : let xs := blockAt (atStep s e) f
    exec (.vmaxabs f) s = .next (launches s e [(2, .v (physical (atStep s e) f.d)
      (blockKept xs (maxVal (xs.map FVal.abs)) :: blockKept xs (maxVal xs) :: List.replicate 30 0))]) := by
  intro xs
  unfold exec
  refine tileOp_launches h hg ?_
  rw [semVmaxabs]
  simp only [blockOf_eq, keptBits_eq]
  rfl

end

/-- The two results of vmaxabs. -/
theorem vmaxabsResults {s : State} {e : Nat} {f : VF} (h : Runs s e) (hg : (atStep s e).preg f.g.toNat = true) :
    let blk := blockAt (atStep s e) f
    ∃ m0 m1 : W32, exec (.vmaxabs f) s = .next (launches s e
        [(2, .v (physical (atStep s e) f.d) (m0 :: m1 :: List.replicate 30 0))]) ∧
      ((∃ x ∈ blk, x.isNan = true) → m0 = 0x7FC00000#32 ∧ m1 = 0x7FC00000#32) ∧
      ((∀ x ∈ blk, x.isNan = false) →
        (∃ x ∈ blk, m0 = keptBits x.abs ∧ ∀ y ∈ blk, fLt x.abs y.abs = false) ∧
        ((∃ x ∈ blk, fLt (.fin false 0 0) x = true ∧ m1 = keptBits x ∧ ∀ y ∈ blk, fLt x y = false) ∨
          ((∀ y ∈ blk, fLt (.fin false 0 0) y = false) ∧ m1 = 0#32))) := by
  intro blk
  refine ⟨_, _, exec_vmaxabs h hg, fun hnan => ?_, fun hnum => ?_⟩
  · exact ⟨blockKept_of_nan hnan _, blockKept_of_nan hnan _⟩
  · rw [blockKept_of_numbers hnum, blockKept_of_numbers hnum]
    have hne : blk ≠ [] := List.ne_nil_of_length_pos (by rw [length_blockAt]; decide)
    obtain ⟨x, hx, hmax⟩ := maxVal_abs hne hnum
    refine ⟨⟨x, hx, hmax⟩, ?_⟩
    obtain ⟨hall, hzero | ⟨hmem, hpos⟩⟩ := maxVal_spec hnum
    · exact .inr ⟨hzero ▸ hall, by rw [hzero]; rfl⟩
    · exact .inl ⟨_, hmem, hpos, rfl, hall⟩

end Sys2Proof.Machine

namespace Sys2Proof

/-! ## The exponent of a block (R70) -/

/-- The model's scaled comparison is the comparison of rationals. -/
theorem leScaled_iff (m : Nat) (e : Int) (mx : Nat) (mxe ex : Int) :
    leScaled m e mx mxe ex = true ↔ (m : ℚ) * 2 ^ e ≤ mx * 2 ^ (mxe + ex) := by
  obtain ⟨q, hq⟩ : ∃ q : Int, (if e < mxe + ex then e else mxe + ex) = q := ⟨_, rfl⟩
  have hqe : q ≤ e := by split at hq <;> omega
  have hqx : q ≤ mxe + ex := by split at hq <;> omega
  have hpow : ∀ {k : Int}, q ≤ k → (2 : ℚ) ^ (k - q).toNat = 2 ^ k * 2 ^ (-q) := fun {k} hk => by
    rw [← zpow_natCast, Int.toNat_of_nonneg (by omega), ← zpow_add₀ (by norm_num)]
    rfl
  have hpos : (0 : ℚ) < 2 ^ (-q) := by positivity
  simp only [leScaled, hq, decide_eq_true_eq]
  rw [← Nat.cast_le (α := ℚ), Nat.cast_mul, Nat.cast_mul, Nat.cast_pow, Nat.cast_pow, Nat.cast_ofNat, hpow hqe, hpow hqx,
    ← mul_assoc, ← mul_assoc, mul_le_mul_iff_left₀ hpos]

/-- In terms of the scaled magnitude. -/
theorem leScaled_iff_scaled (m : Nat) (e : Int) (mx : Nat) (mxe ex : Int) :
    leScaled m e mx mxe ex = true ↔ (m : ℚ) * 2 ^ (e - ex) ≤ mx * 2 ^ mxe := by
  have hpos : (0 : ℚ) < 2 ^ ex := by positivity
  have hm : (m : ℚ) * 2 ^ e = m * 2 ^ (e - ex) * 2 ^ ex := by
    rw [mul_assoc, ← zpow_add₀ (by norm_num), sub_add_cancel]
  rw [leScaled_iff, zpow_add₀ (by norm_num), ← mul_assoc, hm, mul_le_mul_iff_left₀ hpos]

/-- The descent stops at the last exponent that holds, when it starts at one that holds and could reach one that does not. -/
theorem leastExp_spec {m mx : Nat} {e mxe : Int} (fuel : Nat) : ∀ {ex : Int}, leScaled m e mx mxe ex = true →
    leScaled m e mx mxe (ex - fuel) = false →
    leScaled m e mx mxe (leastExp m e mx mxe fuel ex) = true ∧ leScaled m e mx mxe (leastExp m e mx mxe fuel ex - 1) = false := by
  induction fuel with
  | zero =>
    intro ex h h0
    rw [Int.natCast_zero, sub_zero, h] at h0
    cases h0
  | succ fuel ih =>
    intro ex h h0
    rw [leastExp]
    split
    · rename_i hnext
      exact ih hnext (by rwa [Int.natCast_add, Int.natCast_one, add_comm, ← sub_sub] at h0)
    · rename_i hnext
      exact ⟨h, by simpa using hnext⟩

/-- A nonzero natural number between powers of two, as rationals. -/
theorem log2_bounds {m : Nat} (h : m ≠ 0) : (2 : ℚ) ^ (Nat.log2 m : Int) ≤ m ∧ (m : ℚ) < 2 ^ ((Nat.log2 m : Int) + 1) := by
  obtain ⟨hlo, hhi⟩ := (Nat.log2_eq_iff h).mp rfl
  refine ⟨?_, ?_⟩
  · rw [zpow_natCast]
    exact_mod_cast hlo
  · rw [← Nat.cast_succ, zpow_natCast]
    exact_mod_cast hhi

/-- The exponent found for a magnitude is the least that brings it within the target's maximum. -/
theorem quantExp_spec {k : NumFmt} {mx : Nat} {mxe : Int} (hk : k.quantMax = some (mx, mxe)) (hmx : mx ≠ 0) {m : Nat} (hm : m ≠ 0) (e : Int) :
    leScaled m e mx mxe (quantExp k m e) = true ∧ leScaled m e mx mxe (quantExp k m e - 1) = false := by
  obtain ⟨hmlo, hmhi⟩ := log2_bounds hm
  obtain ⟨hxlo, hxhi⟩ := log2_bounds hmx
  have hpow : ∀ i j : Int, (2 : ℚ) ^ i * 2 ^ j = 2 ^ (i + j) := fun i j => (zpow_add₀ (by norm_num) i j).symm
  rw [quantExp, hk]
  refine leastExp_spec 3 ?_ ?_
  · rw [leScaled_iff]
    calc (m : ℚ) * 2 ^ e ≤ 2 ^ ((Nat.log2 m : Int) + 1) * 2 ^ e := by gcongr
      _ = 2 ^ (Nat.log2 mx : Int) * 2 ^ (mxe + ((Nat.log2 m : Int) + e - ((Nat.log2 mx : Int) + mxe) + 1)) := by
        rw [hpow, hpow]
        congr 1
        omega
      _ ≤ _ := by gcongr
  · rw [← Bool.not_eq_true, leScaled_iff, not_le]
    calc (mx : ℚ) * 2 ^ (mxe + ((Nat.log2 m : Int) + e - ((Nat.log2 mx : Int) + mxe) + 1 - 3))
      _ < 2 ^ ((Nat.log2 mx : Int) + 1) * 2 ^ (mxe + ((Nat.log2 m : Int) + e - ((Nat.log2 mx : Int) + mxe) + 1 - 3)) := by gcongr
      _ ≤ 2 ^ (Nat.log2 m : Int) * 2 ^ e := by
        rw [hpow, hpow]
        exact zpow_le_zpow_right₀ (by norm_num) (by omega)
      _ ≤ m * 2 ^ e := by gcongr

/-! ## Codes of a byte (R56, R70) -/

theorem wrapN_lt (n : Nat) (z : Int) : wrapN n z < 2 ^ n := by
  have hpos : (0 : Int) < 2 ^ n := by positivity
  have hlt : z % 2 ^ n < ((2 ^ n : Nat) : Int) := by
    rw [Nat.cast_pow]
    exact Int.emod_lt_of_pos z hpos
  exact (Int.toNat_lt (Int.emod_nonneg z hpos.ne')).mpr hlt

/-- The packed bits of a magnitude, within the format's largest. -/
theorem packMag_lt {f : NumFmt} {k w : Nat} {q : Int} (h : packMag f k q = some w) : w < 2 ^ f.efb.2.1 ∨ w ≤ f.maxBits := by
  unfold packMag at h
  simp only at h
  split at h
  · cases h
    exact .inl (Nat.two_pow_pos _)
  · generalize (if k = 2 ^ (f.efb.2.1 + 1) then (2 ^ f.efb.2.1, q + 1) else (k, q)) = p at h
    split at h
    · rename_i hk
      cases h
      exact .inl hk
    · split at h
      · rename_i hmax
        cases h
        exact .inr hmax.2
      · cases h

/-- Rounding with SATF to a format of eight bits whose largest magnitude has seven. -/
theorem roundBin_lt {f : NumFmt} (hw : f.signBit = 128) (hmax : f.maxBits < 128) (hfr : 2 ^ f.efb.2.1 ≤ 128) (hl6 : f ≠ .l6) (md : Rnd)
    (flush neg : Bool) (m : Nat) (e : Int) (sticky : Bool) : (roundBin f md true flush neg m e sticky).1 < 256 := by
  have hs : (if neg then f.signBit else 0) ≤ 128 := by split <;> omega
  unfold roundBin
  simp only
  split
  · simp only [NumFmt.overflow, if_neg hl6, Bool.true_or, if_true]
    omega
  · rename_i w hpack
    have hlt : w < 128 := by
      have := packMag_lt hpack
      omega
    split
    · show (if neg then f.signBit else 0) < 256
      omega
    · split
      · show (if neg then f.signBit else 0) < 256
        omega
      · show (if neg then f.signBit else 0) + w < 256
        omega

/-- The last step of rounding to L6: a code within its range, or the largest. -/
theorem l6Code_lt {s r : Nat} (hs : s ≤ 32) (hr : r ≤ 32) {g1 g2 g3 : FFlags} :
    (if r = 32 then (s + 31, g1) else if r = 0 then (0, g2) else (s + r, g3)).1 < 64 := by
  split
  · show s + 31 < 64
    omega
  · split
    · show 0 < 64
      decide
    · show s + r < 64
      omega

/-- A code of L6 has six bits. -/
theorem roundL6_lt (md : Rnd) (neg : Bool) (m : Nat) (e : Int) (sticky : Bool) : (roundL6 md neg m e sticky).1 < 64 := by
  have hs : (if neg then 32 else 0) ≤ 32 := by split <;> omega
  unfold roundL6
  simp only
  generalize l6Below m e sticky = p
  split
  · show (if neg then 32 else 0) + 31 < 64
    omega
  · rename_i hl
    split
    · split
      · show 0 < 64
        decide
      · show (if neg then 32 else 0) + p.1 < 64
        omega
    · exact l6Code_lt hs ((ite_le_sup (p.1 + 1) p.1 _).trans (sup_le (by omega) (by omega)))

end Sys2Proof

namespace Sys2Proof.Machine

open Sys2Proof Sys2Proof.Claims


end Sys2Proof.Machine

namespace Sys2Proof.Machine

open Sys2Proof Sys2Proof.Claims

/-! ## Block quantisation by target (R70, R164) -/

/-- The targets of quantisation. -/
def quantTargets : List NumFmt := [.l6, .e4m3, .e5m2, .int8, .uint8]

/-- The largest magnitude of a target, as the model holds it and as a rational. -/
theorem quantMax_maxF : ∀ k ∈ quantTargets, ∃ mx mxe, k.quantMax = some (mx, mxe) ∧ mx ≠ 0 ∧ (mx : ℚ) * 2 ^ mxe = maxF k := by
  simp only [quantTargets, List.forall_mem_cons, List.not_mem_nil, false_implies, implies_true, and_true]
  refine ⟨⟨_, _, rfl, by decide, ?_⟩, ⟨_, _, rfl, by decide, ?_⟩, ⟨_, _, rfl, by decide, ?_⟩, ⟨_, _, rfl, by decide, ?_⟩,
    ⟨_, _, rfl, by decide, ?_⟩⟩
  · have hmag : l6Mag 31 = 0xD745 * 2 ^ 7 := rfl
    norm_num [maxF, hmag]
  all_goals simp [maxF]

theorem quantTop_eq : ∀ k ∈ quantTargets, ∀ neg, quantTop k neg = largestCode k neg := by decide

theorem largestCode_lt : ∀ k ∈ quantTargets, ∀ neg, largestCode k neg < 256 := by decide

theorem quantM_eq (k : NumFmt) (fl : Bool) (b0 b1 : W32) : quantM k fl b0 b1 = givenMax k fl b0 b1 := by
  rw [quantM, givenMax]
  generalize NumFmt.fp32.read fl b0.toNat = x
  cases x <;> rfl

section
variable {k : NumFmt} (hk : k ∈ quantTargets)
include hk

/-- The scale of a block is the one that its maximum asks for. -/
theorem quantScale_blockScale (mx : FVal) :
    let q := quantScale k mx
    BlockScale k mx q.1 q.2.1 q.2.2.2 q.2.2.1 := by
  cases mx with
  | nan => exact ⟨rfl, rfl, rfl⟩
  | inf s => exact ⟨rfl, rfl, rfl⟩
  | fin s m e =>
    obtain ⟨x, xe, hmax, hx0, hmaxF⟩ := quantMax_maxF k hk
    obtain ⟨least, hleast⟩ : ∃ least : Int, (if m = 0 then -127 else quantExp k m e) = least := ⟨_, rfl⟩
    refine ⟨least, fun h0 => by rw [← hleast, if_pos h0], fun h0 => ?_, ?_⟩
    · obtain ⟨hle, hgt⟩ := quantExp_spec hmax hx0 h0 e
      rw [← hleast, if_neg h0, ← hmaxF]
      refine ⟨(leScaled_iff_scaled ..).mp hle, ?_⟩
      rw [← Bool.not_eq_true, leScaled_iff_scaled, not_le] at hgt
      rwa [sub_add]
    · simp only [quantScale, hleast]
      split
      · exact ⟨rfl, rfl, rfl⟩
      · split
        · rename_i hlo
          exact ⟨(max_eq_right hlo.le).symm, rfl, rfl, rfl⟩
        · rename_i hlo
          exact ⟨(max_eq_left (not_lt.mp hlo)).symm, Int.toNat_of_nonneg (by omega), rfl, rfl⟩

/-- One element's code. -/
theorem quantElem_eq (fl : Bool) (x : FVal) (ex : Int) : quantElem k fl x ex = blockCode k fl x ex := by
  cases x with
  | nan => rfl
  | inf s => rw [quantElem, blockCode, quantTop_eq k hk]
  | fin s m e =>
    obtain ⟨mx, mxe, hmax, _, hmaxF⟩ := quantMax_maxF k hk
    have hzero : m = 0 → (m : ℚ) * 2 ^ (e - ex) ≤ maxF k := fun h => by
      rw [h, ← hmaxF, Nat.cast_zero, zero_mul]
      positivity
    have hcond : (s && k == .uint8 || m == 0 || leScaled m e mx mxe ex) = true ↔
        ¬ ((s && k == .uint8) = false ∧ maxF k < (m : ℚ) * 2 ^ (e - ex)) := by
      rw [Bool.or_eq_true, Bool.or_eq_true, beq_iff_eq, leScaled_iff_scaled, hmaxF, not_and, not_lt, ← Bool.not_eq_true,
        or_assoc, or_iff_right_of_imp hzero, or_iff_not_imp_left]
    rw [quantElem, blockCode, quantTop_eq k hk, hmax]
    simp only [if_congr hcond rfl rfl, ite_not]

/-- A code of a target has eight bits. -/
theorem qround_lt (fl : Bool) (x : FVal) (ex : Int) : (qround k fl x ex).1 < 256 := by
  have hbin : ∀ k ∈ quantTargets, k.isInt = false → k ≠ .l6 →
      k.signBit = 128 ∧ k.maxBits < 128 ∧ 2 ^ k.efb.2.1 ≤ 128 := by decide
  cases x with
  | nan => exact (by decide : 0 < 256)
  | inf s => exact (by decide : 0 < 256)
  | fin s m e =>
    rw [qround]
    split
    · exact (by decide : 0 < 256)
    · split
      · split
        · exact (by decide : 0 < 256)
        · exact wrapN_lt 8 _
      · rename_i hint
        split
        · exact (roundL6_lt ..).trans (by decide)
        · rename_i hl6
          obtain ⟨hs, hmax, hfr⟩ := hbin k hk (by simpa using hint) hl6
          have hlt := roundBin_lt hs hmax hfr hl6 .rne fl s m (e - ex) false
          show (if (roundBin k .rne true fl s m (e - ex) false).1 = k.signBit then 0 else _) < 256
          split
          · decide
          · exact hlt

theorem quantElem_lt (fl : Bool) (x : FVal) (ex : Int) : (quantElem k fl x ex).1 < 256 := by
  rw [quantElem_eq hk]
  cases x with
  | nan => exact (by decide : 0 < 256)
  | inf s =>
    rw [blockCode]
    split
    · exact (by decide : 0 < 256)
    · exact largestCode_lt k hk _
  | fin s m e =>
    rw [blockCode]
    split
    · exact largestCode_lt k hk _
    · exact qround_lt hk ..

end

end Sys2Proof.Machine

namespace Sys2Proof.Machine

open Sys2Proof Sys2Proof.Claims

/-! ## The 48 codes of vquant (R164) -/

/-- Word l of the codes, four to a lane. -/
def codeWord (codes : List Nat) (l : Nat) : W32 := BitVec.ofNat 32 (codes.getD (4 * l) 0 + codes.getD (4 * l + 1) 0 * 2 ^ 8 +
  codes.getD (4 * l + 2) 0 * 2 ^ 16 + codes.getD (4 * l + 3) 0 * 2 ^ 24)

/-- The bytes of a word put together from four. -/
theorem byteOf32_ofBytes {c0 c1 c2 c3 : Nat} (h0 : c0 < 256) (h1 : c1 < 256) (h2 : c2 < 256) (h3 : c3 < 256) :
    let w := BitVec.ofNat 32 (c0 + c1 * 2 ^ 8 + c2 * 2 ^ 16 + c3 * 2 ^ 24)
    byteOf32 w 0 = c0 ∧ byteOf32 w 1 = c1 ∧ byteOf32 w 2 = c2 ∧ byteOf32 w 3 = c3 := by
  simp only [byteOf32, BitVec.toNat_ofNat]
  omega

theorem byteOf32_codeWord {codes : List Nat} (h : ∀ i, codes.getD i 0 < 256) (l : Nat) {i : Nat} (hi : i < 4) :
    byteOf32 (codeWord codes l) i = codes.getD (4 * l + i) 0 := by
  obtain ⟨hb0, hb1, hb2, hb3⟩ := byteOf32_ofBytes (h (4 * l)) (h (4 * l + 1)) (h (4 * l + 2)) (h (4 * l + 3))
  match i, hi with
  | 0, _ => exact hb0
  | 1, _ => exact hb1
  | 2, _ => exact hb2
  | 3, _ => exact hb3

/-- The lanes that vquant writes: the codes, the scale and zeros. -/
def quantLanes (codes : List Nat) (sc : Nat) : List W32 :=
  (span 0 12).map (codeWord codes) ++ [BitVec.ofNat 32 sc] ++ List.replicate 19 0

theorem length_quantLanes (codes : List Nat) (sc : Nat) : (quantLanes codes sc).length = 32 := rfl

theorem quantLanes_scale (codes : List Nat) (sc : Nat) : (quantLanes codes sc).getD 12 0 = BitVec.ofNat 32 sc := rfl

theorem quantLanes_rest (codes : List Nat) (sc : Nat) : (quantLanes codes sc).drop 13 = List.replicate 19 0 := rfl

theorem quantLanes_code (codes : List Nat) (sc : Nat) {l : Nat} (hl : l < 12) : (quantLanes codes sc).getD l 0 = codeWord codes l := by
  rw [quantLanes, List.append_assoc, List.getD_append _ _ _ _ (by rwa [List.length_map, length_span]), List.getD_eq_getElem?_getD,
    List.getElem?_map, span_eq_range', List.getElem?_range' hl]
  simp

/-- The codes of a block under a scale, with the flags each raises (R70, R164). -/
noncomputable def blockCodes (k : NumFmt) (fl on : Bool) (ex : Int) (xs : List FVal) : List (Nat × FFlags) :=
  xs.map (fun x => if on then blockCode k fl x ex else (0, {}))

theorem blockCodes_lt {k : NumFmt} (hk : k ∈ quantTargets) (fl on : Bool) (ex : Int) (xs : List FVal) (i : Nat) :
    ((blockCodes k fl on ex xs).map Prod.fst).getD i 0 < 256 := by
  rw [List.getD_eq_getElem?_getD, List.getElem?_map, blockCodes, List.getElem?_map]
  cases xs[i]? with
  | none => exact (by decide : 0 < 256)
  | some x =>
    show (if on then blockCode k fl x ex else (0, {})).1 < 256
    split
    · exact quantElem_eq hk fl x ex ▸ quantElem_lt hk fl x ex
    · exact (by decide : 0 < 256)

/-- vquant launches its codes and scale, and the flags (R164). -/
theorem exec_vquant {s : State} {e : Nat} {f : VF} (h : Runs s e) (hg : (atStep s e).preg f.g.toNat = true) {k : NumFmt}
    (hk : k ∈ quantTargets) (hcode : NumFmt.ofCode f.m.toNat = some k) :
    let t := atStep s e
    let q := quantScale k (givenMax k (flushOf t) (laneB t f 0) (laneB t f 1))
    let rs := blockCodes k (flushOf t) q.2.2.2 q.2.1 (blockAt t f)
    exec (.vquant f) s = .next (launches s e ((3, .v (physical t f.d) (quantLanes (rs.map Prod.fst) q.1)) ::
      stickyOf 3 (q.2.2.1 :: rs.map Prod.snd))) := by
  intro t q rs
  unfold exec
  refine tileOp_launches h hg ?_
  rw [semVquant, hcode]
  simp only [blockOf_eq, TCtx.fl_eq, quantM_eq, quantElem_eq hk, stickyOf, List.foldl_cons, FFlags.empty_or, List.foldl_map]
  rfl

/-- The codes, the scale and the flags of vquant. -/
theorem vquantResults {s : State} {e : Nat} {f : VF} (h : Runs s e) (hg : (atStep s e).preg f.g.toNat = true) {k : NumFmt}
    (hk : k ∈ quantTargets) (hcode : NumFmt.ofCode f.m.toNat = some k) :
    let t := atStep s e
    let blk := blockAt t f
    ∃ (ls : List W32) (gs : List FFlags) (sc : Nat) (ex : Int) (on : Bool) (fl : FFlags), ls.length = 32 ∧
      exec (.vquant f) s = .next (tileAfter s e (inFlight t s.seq ((3, .v (physical t f.d) ls) :: stickyOf 3 gs))) ∧
      BlockScale k (givenMax k (flushOf t) (laneB t f 0) (laneB t f 1)) sc ex on fl ∧
      ls.drop 13 = List.replicate 19 0 ∧ ls.getD 12 0 = BitVec.ofNat 32 sc ∧
      gs = fl :: (blk.map (fun x => if on then blockCode k (flushOf t) x ex else (0, {}))).map Prod.snd ∧
      ∀ j < 48, byteOf32 (ls.getD (j / 4) 0) (j % 4) =
        ((blk.map (fun x => if on then blockCode k (flushOf t) x ex else (0, {}))).getD j (0, {})).1 := by
  intro t blk
  refine ⟨_, _, _, _, _, _, length_quantLanes .., exec_vquant h hg hk hcode, quantScale_blockScale hk _, quantLanes_rest ..,
    quantLanes_scale .., rfl, fun j hj => ?_⟩
  rw [quantLanes_code _ _ (by omega), byteOf32_codeWord (blockCodes_lt hk _ _ _ _) _ (Nat.mod_lt j (by decide)), Nat.div_add_mod]
  exact List.getD_map _ ((0, {}) : Nat × FFlags) Prod.fst

theorem vectorConvertBlockResults : VectorConvertBlockResults := by
  intro s e f h hg t blk
  exact ⟨fun src dst hsrc hdst hr => exec_vcvt h hg hsrc hdst hr, vmaxabsResults h hg, fun k hk hcode => vquantResults h hg hk hcode⟩

/-- Settles O60: conversions, block maxima and block quantisation. -/
theorem vectorConvertAndBlockResults : Obligations.VectorConvertAndBlockResults := vectorConvertBlockResults

end Sys2Proof.Machine

namespace Sys2Proof.Machine

open Sys2Proof Sys2Proof.Claims

/-! ## Arithmetic of the scalar stream (R188) -/

/-- An arithmetic instruction of a ready thread writes its value and goes on. -/
theorem aluOp_wrote {s : State} {c : Ctx} (h : Ready s c) (i : Instr) (d : B5) (value : Ctx → W64) :
    aluOp i d value s = .next (wrote s c d (value c)) := by
  obtain ⟨hc, hpark, hstop, hwait, hposted⟩ := h
  exact aluOp_runs hc hpark hstop hwait hposted

/-- A difference of words, in the numbers that they hold. -/
theorem sub_eq_ofInt (a b : W64) : a - b = BitVec.ofInt 64 (a.toInt - b.toInt) :=
  BitVec.eq_of_toInt_eq (by rw [BitVec.toInt_sub, BitVec.toInt_ofInt])

/-- Each register operation is the shared one on a function that gives the value of its row. -/
theorem erTable_exec : ∀ p ∈ erTable, ∃ op : W64 → W64 → W64, (∀ a b, op a b = p.2 a b) ∧
    ∀ (f : ER) (s : State), exec (p.1 f) s = aluOp (p.1 f) f.d (fun c => op (c.x f.a) (c.x f.b)) s := by
  simp only [erTable, List.forall_mem_cons, List.not_mem_nil, false_implies, implies_true, and_true]
  refine ⟨⟨fun a b => a + b, fun a b => ?add, fun f s => rfl⟩, ⟨fun a b => a - b, sub_eq_ofInt, fun f s => rfl⟩,
    ⟨fun a b => a &&& b, fun a b => rfl, fun f s => rfl⟩, ⟨fun a b => a ||| b, fun a b => rfl, fun f s => rfl⟩,
    ⟨fun a b => a ^^^ b, fun a b => rfl, fun f s => rfl⟩, ⟨fun a b => a &&& ~~~b, fun a b => rfl, fun f s => rfl⟩,
    ⟨fun a b => a <<< shiftOf b, shiftLeft_shiftOf, fun f s => rfl⟩, ⟨fun a b => a >>> shiftOf b, ushiftRight_shiftOf, fun f s => rfl⟩,
    ⟨fun a b => a.sshiftRight (shiftOf b), sshiftRight_shiftOf, fun f s => rfl⟩, ⟨fun a b => a * b, fun a b => ?mul, fun f s => rfl⟩,
    ⟨mulHigh, fun a b => rfl, fun f s => rfl⟩, ⟨fun a b => if a.slt b then 1 else 0, fun a b => ?slt, fun f s => rfl⟩,
    ⟨fun a b => if a.ult b then 1 else 0, fun a b => ?sltu, fun f s => rfl⟩,
    ⟨fun a b => if a.slt b then a else b, fun a b => ?min, fun f s => rfl⟩,
    ⟨fun a b => if a.slt b then b else a, fun a b => ?max, fun f s => rfl⟩⟩
  case add => rw [BitVec.ofNat_add, BitVec.ofNat_toNat, BitVec.ofNat_toNat, BitVec.setWidth_eq, BitVec.setWidth_eq]
  case mul => rw [BitVec.ofNat_mul, BitVec.ofNat_toNat, BitVec.ofNat_toNat, BitVec.setWidth_eq, BitVec.setWidth_eq]
  case sltu => simp only [BitVec.ult_iff_toNat_lt]
  all_goals simp only [BitVec.slt_iff_toInt_lt]

/-- Each immediate operation is the shared one on a function of the register and the sign-extended immediate. -/
theorem eiTable_exec : ∀ p ∈ eiTable, ∃ op : W64 → W64 → W64, (∀ a b, op a b = p.2 a b) ∧
    ∀ (f : EI) (s : State), exec (p.1 f) s = aluOp (p.1 f) f.d (fun c => op (c.x f.a) (f.i.signExtend 64)) s := by
  simp only [eiTable, List.forall_mem_cons, List.not_mem_nil, false_implies, implies_true, and_true]
  refine ⟨⟨fun a b => a + b, fun a b => ?add, fun f s => rfl⟩,
    ⟨fun a b => a &&& b, fun a b => rfl, fun f s => rfl⟩, ⟨fun a b => a ||| b, fun a b => rfl, fun f s => rfl⟩,
    ⟨fun a b => a ^^^ b, fun a b => rfl, fun f s => rfl⟩,
    ⟨fun a b => a <<< shiftOf b, shiftLeft_shiftOf, fun f s => rfl⟩, ⟨fun a b => a >>> shiftOf b, ushiftRight_shiftOf, fun f s => rfl⟩,
    ⟨fun a b => a.sshiftRight (shiftOf b), sshiftRight_shiftOf, fun f s => rfl⟩,
    ⟨fun a b => if a.slt b then 1 else 0, fun a b => ?slt, fun f s => rfl⟩⟩
  case add => rw [BitVec.ofInt_add, BitVec.ofInt_toInt, BitVec.ofInt_toInt]
  case slt => simp only [BitVec.slt_iff_toInt_lt]

theorem scalarRegisterResults : ScalarRegisterResults := by
  intro p hp f s c h
  obtain ⟨op, hop, hexec⟩ := erTable_exec p hp
  rw [hexec, aluOp_wrote h, hop]

/-- lui writes its immediate, sign-extended, times 4,096. -/
theorem exec_lui {s : State} {c : Ctx} (h : Ready s c) (d : B5) (im : BitVec 20) :
    exec (.lui d im) s = .next (wrote s c d (BitVec.ofInt 64 (im.toInt * 4096))) := by
  have hval : im.signExtend 64 * 4096 = BitVec.ofInt 64 (im.toInt * 4096) := by
    rw [BitVec.ofInt_mul]
    rfl
  show execLui d im s = _
  rw [execLui, aluOp_wrote h, hval]

/-- A word whose fields read as an ill-formed instruction decodes to none. -/
theorem decodeScalar_of_ill_formed {i : Instr} {w : Nat} (hf : scalarFields w = some i) (hi : i.wf = false) : decodeScalar w = none := by
  simp only [decodeScalar, hf, hi, Bool.false_eq_true, false_and, and_false, if_false]

/-- A shift by an immediate names its fields whatever the count. -/
theorem scalarFields_shift {f : EI} {w : Nat} {shift : EI → Instr} (hs : shift = .shli ∨ shift = .shri ∨ shift = .srai)
    (hw : scalarWord (shift f) = some w) : scalarFields w = some (shift f) := by
  obtain rfl | rfl | rfl := hs <;>
  · obtain ⟨-, hop, hdec⟩ := encEI_read hw (by decide)
    rw [scalarFields, hop, ← hdec]
    rfl

theorem scalarImmediateResults : ScalarImmediateResults := by
  refine ⟨fun p hp f s c h => ?_, fun d im s c h => exec_lui h d im, fun f w hi hw => ?_⟩
  · obtain ⟨op, hop, hexec⟩ := eiTable_exec p hp
    rw [hexec, aluOp_wrote h, hop]
  · have hill : shiWf f = false := decide_eq_false (Nat.not_lt.mpr hi)
    obtain hw | hw | hw := hw
    · exact decodeScalar_of_ill_formed (scalarFields_shift (.inl rfl) hw) hill
    · exact decodeScalar_of_ill_formed (scalarFields_shift (.inr (.inl rfl)) hw) hill
    · exact decodeScalar_of_ill_formed (scalarFields_shift (.inr (.inr rfl)) hw) hill

/-- Settles O31: the register operations by their table, then the immediate operations, lui and the illegal shift counts. -/
theorem scalarResults : Obligations.ScalarResults := ⟨scalarRegisterResults, scalarImmediateResults⟩

end Sys2Proof.Machine

namespace Sys2Proof.Machine

open Sys2Proof Sys2Proof.Claims

/-! ## Lane instructions moved into the queue (R173) -/

/-- The uid of an enqueued instruction is the number that its place in the matrix queue took. -/
theorem State.pushLane_uid (s : State) (c : Ctx) (i : Instr) :
    (if isMatrixLane i then (s.pushLane c i s.seq).seq - 1 else 0) = if isMatrixLane i then s.seq else 0 := by
  split
  · next hi =>
    rw [State.pushLane, if_pos hi]
    exact Nat.add_sub_cancel ..
  · rfl

/-- A batch that enters the queue, or retires, one instruction after another ends past lane.iss. -/
theorem State.issue_enqueues {n : Nat} {s t : State} {c c' : Ctx} (h : Enqueues n s c t c') :
    s.issue n c = .next (t.setTh c' { c'.th with pc := c'.th.pc + 4, issRem := 0 }) := by
  induction h with
  | done s c => rfl
  | take n s u t c c' i w hq _ ih => simp only [State.issue, hq, State.pushLane_uid, ih]
  | skip n s u t c c' hq _ ih => simp only [State.issue, hq, ih]

theorem exec_laneIss {n : B4} {s t : State} {c c' : Ctx} (h : May s c .lane .edge) (hu : Untraced s c) (hr : c.th.issRem = 0)
    (hq : Enqueues (n.toNat + 1) s { c with th := c.th.clearSpin } t c') :
    exec (.laneIss n) s = .next (t.setTh c' { c'.th with pc := c'.th.pc + 4, issRem := 0 }) := by
  obtain ⟨hready, hrole, hpl⟩ := h
  show execLaneIss n s = _
  rw [execLaneIss, scalarOp_of_ready hready hrole hpl (by simp)]
  simp only [hr, if_true, State.trace_off hu, State.issue_enqueues hq]

/-- What an enqueued instruction takes along: its word, and the copies of M, fmt[16:0], x[C] and SRCTR. -/
theorem Thread.enqueue_copies (th : Thread) (i : Instr) (w uid ord : Nat) (pc : W32) : ∃ e : LaneEntry,
    (th.enqueue i w uid ord pc).lq = th.lq ++ [e] ∧ (th.enqueue i w uid ord pc).lpc = th.lpc + 12 ∧
    e.word = BitVec.ofNat 96 w ∧ e.mask = th.m ∧ e.fmt = th.fmt.truncate 17 ∧ e.pc = pc ∧ e.uid = uid ∧ e.srctr = th.srctr ∧
    (namesX i = true → e.xop = th.getX (w / 2 ^ 26 % 32)) :=
  ⟨_, rfl, rfl, rfl, rfl, BitVec.ofNat_toNat .., rfl, rfl, rfl, fun hx => if_pos hx⟩

/-! ## Jumps of the lane stream (R174) -/

/-- A lane jump to a multiple of 12 within the section. -/
theorem State.laneJump_within {s : State} {c : Ctx} {i : Instr} {t : Nat} (h12 : t % 12 = 0) (hlen : t ≤ c.desc.ellen) :
    s.laneJump c i t = .next (wentOn s c { c.th with lpc := BitVec.ofNat 32 t, spin := {} }) := by
  rw [State.laneJump, if_neg (by omega)]
  exact State.finish_wentOn s rfl

/-- A displacement from LPC that lands on a number of 64 bits lands there in the 64 bits that the hardware computes. -/
theorem wrapN_laneTarget {lpc : W32} {im : BitVec 19} {t : Nat} (ht : (t : Int) = lpc.toNat + 12 * im.toInt) :
    wrapN 64 ((lpc.toNat : Int) + 12 * sx 19 im.toNat) = t := by
  have hhi := BitVec.toInt_lt (x := im)
  rw [sx_eq_toInt, ← ht, wrapN]
  omega

section
variable {s : State} {c : Ctx} (h : May s c .lane .edge)
include h

theorem exec_laneJmp {im : BitVec 19} {t : Nat} (ht : (t : Int) = c.th.lpc.toNat + 12 * im.toInt) (h12 : t % 12 = 0)
    (hlen : t ≤ c.desc.ellen) :
    exec (.laneJmp im) s = .next (wentOn s c { c.th with lpc := BitVec.ofNat 32 t, spin := {} }) := by
  obtain ⟨hready, hrole, hpl⟩ := h
  show execLaneJmp im s = _
  rw [execLaneJmp, scalarOp_of_ready hready hrole hpl (by simp), wrapN_laneTarget ht, State.laneJump_within h12 hlen]

theorem exec_laneJmpInd {a : B5} (h12 : (c.x a).toNat % 12 = 0) (hlen : (c.x a).toNat ≤ c.desc.ellen) :
    exec (.laneJmpInd a) s = .next (wentOn s c { c.th with lpc := BitVec.ofNat 32 (c.x a).toNat, spin := {} }) := by
  obtain ⟨hready, hrole, hpl⟩ := h
  show execLaneJmpInd a s = _
  rw [execLaneJmpInd, scalarOp_of_ready hready hrole hpl (by simp), State.laneJump_within h12 hlen]

end

/-- Settles O2: lane.iss by induction on its batch, then what an enqueue copies, then the two forms of lane.jmp. -/
theorem laneStreamResults : Obligations.LaneStreamResults := by
  unfold Obligations.LaneStreamResults
  exact ⟨fun n s t c c' h hu hr hq => exec_laneIss h hu hr hq, Thread.enqueue_copies,
    fun s c im t h ht h12 hlen => exec_laneJmp h ht h12 hlen, fun s c a h h12 hlen => exec_laneJmpInd h h12 hlen⟩

end Sys2Proof.Machine

namespace Sys2Proof.Machine

open Sys2Proof Sys2Proof.Claims

/-! ## The gang of the acting thread -/

/-- A sub-gang that acts stands in the gang of its slot. -/
theorem State.ctx_gangAt {s : State} {c : Ctx} (h : s.ctx = some c) (he : c.isMgmt = false) : s.gangAt c.ref = some c.gang := by
  have hsub : ∀ r, s.subGang r = some c → s.gangAt c.ref = some c.gang := by
    intro r hr
    unfold State.subGang at hr
    split at hr
    · cases hr
    · next g hg =>
      split at hr
      · split at hr
        · cases hr
          exact hg
        · cases hr
      · cases hr
  unfold State.ctx at h
  split at h
  · exact hsub _ h
  · exact hsub _ h
  · unfold State.mgmtCtx at h
    split at h
    · cases h
    · cases h
      exact absurd he (by simp)
  · cases h

theorem State.gangAt_setGang {s : State} {c : Ctx} {g : Gang} (h : s.gangAt c.ref = some g) (f : Gang → Gang) :
    (s.setGang c f).gangAt c.ref = some (f g) := by
  have hslot : alGet (s.core c.ref.core).gangs c.ref.slot = some g := h
  simp only [State.setGang, hslot]
  exact State.gangAt_setCore s (by rw [alGet_alPut, if_pos rfl])

theorem State.setGang_trc (s : State) (c : Ctx) (f : Gang → Gang) (n : Nat) : (s.setGang c f).trc n = s.trc n := by
  unfold State.setGang
  simp only
  split <;> rfl

/-! ## part (R176) -/

/-- A set of slices that is not empty has its lowest one. -/
theorem getLsbD_lowSlice {sl : BitVec 8} (h : sl ≠ 0) : sl.getLsbD (lowSlice sl) = true := by
  unfold lowSlice
  cases hfind : (span 0 8).find? (fun i => sl.getLsbD i) with
  | some i => exact List.find?_some hfind
  | none =>
    refine absurd (BitVec.eq_of_getLsbD_eq fun i hi => ?_) h
    have hoff := List.find?_eq_none.mp hfind i (mem_span.mpr ⟨Nat.zero_le i, by omega⟩)
    simpa using hoff

/-- Two sets of slices without a common one are numbered apart. -/
theorem lowSlice_ne {a b : BitVec 8} (ha : a ≠ 0) (hb : b &&& ~~~a ≠ 0) : lowSlice a ≠ lowSlice (b &&& ~~~a) := by
  intro heq
  have hon := getLsbD_lowSlice hb
  rw [← heq, BitVec.getLsbD_and, BitVec.getLsbD_not, getLsbD_lowSlice ha] at hon
  simp at hon

/-- The sub-gangs of a gang in which one has parted: the side that goes to t and the side that goes on. -/
def partedSubs (c : Ctx) (tk : BitVec 8) (t : Nat) (subs : List (Nat × Thread)) : List (Nat × Thread) :=
  let fl := c.th.slices &&& ~~~tk
  let subs := alDel subs c.ref.sub
  let subs := if tk = 0 then subs else alPut subs (lowSlice tk) (c.th.side tk true (BitVec.ofNat 32 t))
  if fl = 0 then subs else alPut subs (lowSlice fl) (c.th.side fl false (c.th.pc + 4))

theorem partedSubs_taken {c : Ctx} {tk : BitVec 8} (h : tk ≠ 0) (t : Nat) (subs : List (Nat × Thread)) :
    alGet (partedSubs c tk t subs) (lowSlice tk) = some (c.th.side tk true (BitVec.ofNat 32 t)) := by
  simp only [partedSubs, if_neg h]
  split
  · rw [alGet_alPut, if_pos rfl]
  · next hfl => rw [alGet_alPut, if_neg (lowSlice_ne h hfl), alGet_alPut, if_pos rfl]

theorem partedSubs_fallen {c : Ctx} {tk : BitVec 8} (h : c.th.slices &&& ~~~tk ≠ 0) (t : Nat) (subs : List (Nat × Thread)) :
    alGet (partedSubs c tk t subs) (lowSlice (c.th.slices &&& ~~~tk)) =
      some (c.th.side (c.th.slices &&& ~~~tk) false (c.th.pc + 4)) := by
  simp only [partedSubs, if_neg h]
  rw [alGet_alPut, if_pos rfl]

theorem Thread.side_sideOf (th : Thread) (sl : BitVec 8) (taken : Bool) (pc : W32) : SideOf (th.side sl taken pc) th sl taken pc :=
  ⟨rfl, rfl, rfl, rfl, rfl, rfl, rfl, rfl, rfl, rfl⟩

section
variable {s : State} {c : Ctx} (h : Drained s c) (he : c.isMgmt = false) (hu : Untraced s c)
include h he hu

/-- A part to a good target leaves its two sides in the gang, with the trace of its unit off. -/
theorem exec_part (p : B3) {im : BitVec 19} {t : Nat} (hd : c.th.path.length < 8) (ht : (t : Int) = jumpPc c im.toInt)
    (hg : GoodTarget s c t) : exec (.part p im) s =
      .next (s.setGang c (fun g => { g with subs := partedSubs c (takenOf c.th (c.gang.getLp p.toNat)) t g.subs })) := by
  have hhi := BitVec.toInt_lt (x := im)
  have hrel : relTarget c.th.pc 19 im.toNat = t := by
    refine relTarget_eq ht ?_
    have hpc : jumpPc c im.toInt = c.th.pc.toNat + 4 * im.toInt := rfl
    omega
  have htrc : ∀ f : Gang → Gang, Untraced (s.setGang c f) c := fun f => by
    rw [Untraced, State.setGang_trc]
    exact hu
  obtain ⟨hready, hq⟩ := h
  show execPart p im s = _
  rw [execPart, scalarOp_of_ready hready rfl (placeOk_edge he) (fun _ => hq)]
  simp only [hrel, (s.targetOk_iff c t).mpr hg, if_neg (Nat.not_le.mpr hd), Bool.not_true, Bool.false_eq_true, if_false]
  exact congrArg Host.Outcome.next (State.trace_off (htrc _) ..)

end

theorem partSplitsTheSubGang : PartSplitsTheSubGang := by
  intro p im s c t h he hu hd ht hg tk fl
  have hslot := State.ctx_gangAt h.1.1 he
  exact ⟨_, _, exec_part h he hu p hd ht hg, State.gangAt_setGang hslot _, rfl, rfl, rfl,
    fun hne => ⟨_, partedSubs_taken hne t _, Thread.side_sideOf ..⟩, fun hne => ⟨_, partedSubs_fallen hne t _, Thread.side_sideOf ..⟩⟩

/-! ## regang (R177) -/

/-- Two sub-gangs at one place, as they merge: the lower-numbered one gives the registers. -/
theorem mergeThreads_fields {x y : Thread} (hpc : y.pc = x.pc) (hpath : y.path.drop 1 = x.path.drop 1) :
    let m := mergeThreads x y
    m.slices = x.slices ||| y.slices ∧ m.m = x.m ||| y.m ∧ m.path = x.path.drop 1 ∧ m.pc = x.pc + 4 ∧
      m.x = if lowSlice x.slices < lowSlice y.slices then x.x else y.x := by
  by_cases hlow : lowSlice x.slices < lowSlice y.slices
  · simp only [mergeThreads, if_pos hlow, and_self]
  · simp only [mergeThreads, if_neg hlow, hpc, hpath, BitVec.or_comm, and_self]

/-- A sub-gang of the other side, at the same depth, has the path of this one but for the side. -/
theorem path_of_sibling {g : Gang} {b : Bool} {rest : List Bool} {k : Nat} {o : Thread} (h : (k, o) ∈ siblings g (b :: rest))
    (hlen : o.path.length = (b :: rest).length) : o.path = (!b) :: rest := by
  have hpath := (List.mem_filter.mp h).2
  rw [List.length_cons] at hlen
  simpa [hlen] using hpath

section
variable {s : State} {c : Ctx} (h : Drained s c) (he : c.isMgmt = false)
include h he

theorem exec_regang_undivided (hp : c.th.path = []) : exec .regang s = .next (wentOn s c c.th) := by
  obtain ⟨hready, hq⟩ := h
  show execRegang s = _
  rw [execRegang, scalarOp_of_ready hready rfl (placeOk_edge he) (fun _ => hq)]
  simp only [hp]
  exact State.finish_wentOn s rfl

section
variable {b : Bool} {rest : List Bool} (hp : c.th.path = b :: rest)
include hp

/-- regang of a sub-gang whose sibling has exited. -/
theorem exec_regang_alone (hu : Untraced s c) (hs : siblings c.gang c.th.path = []) :
    exec .regang s = .next (s.setTh c { c.th with pc := c.th.pc + 4, path := rest }) := by
  obtain ⟨hready, hq⟩ := h
  have ⟨_, _, _, hwait, _⟩ := hready
  show execRegang s = _
  rw [execRegang, scalarOp_of_ready hready rfl (placeOk_edge he) (fun _ => hq)]
  rw [hp] at hs ⊢
  simp only [hs]
  rw [State.trace_off (by rw [State.setTh_trc]; exact hu), ← hwait]
  rfl

variable {k : Nat} {o : Thread} {more : List (Nat × Thread)} (hs : siblings c.gang c.th.path = (k, o) :: more)
include hs

/-- regang of a sub-gang whose sibling still runs. -/
theorem exec_regang_waits (hw : o.wait ≠ .regang) : exec .regang s = .next (s.setTh c { c.th with wait := .regang }) := by
  obtain ⟨hready, hq⟩ := h
  show execRegang s = _
  rw [execRegang, scalarOp_of_ready hready rfl (placeOk_edge he) (fun _ => hq)]
  rw [hp] at hs ⊢
  simp only [hs, hw, false_and, if_false]

/-- regang of a sub-gang whose sibling waits at the same place. -/
theorem exec_regang_merges (hu : Untraced s c) (hw : o.wait = .regang) (hd : o.path.length = c.th.path.length) (hpc : o.pc = c.th.pc)
    (hlpc : o.lpc = c.th.lpc) (hm : o.mstack.length = c.th.mstack.length) :
    let m := mergeThreads c.th o
    exec .regang s = .next (s.setGang c (fun g =>
      { g with subs := alPut (alDel (alDel g.subs k) c.ref.sub) (lowSlice m.slices) m })) := by
  obtain ⟨hready, hq⟩ := h
  show execRegang s = _
  rw [execRegang, scalarOp_of_ready hready rfl (placeOk_edge he) (fun _ => hq)]
  rw [hp] at hs hd ⊢
  simp only [hs, hw, hd, hpc, hlpc, hm, and_self, if_true]
  rw [State.trace_off (by rw [State.setGang_trc]; exact hu)]

end

/-! ## bar (R181) -/

/-- bar arrives at its barrier: the last gang that the barrier counts releases it, one before it waits. -/
theorem exec_bar_arrives {a : B5} {n : B4} {cnt : Nat} (hp : c.th.path = []) (hcnt : cnt = if a = 0 then c.crew.egangs else (c.x a).toNat)
    (hpos : 0 < cnt) (hmax : cnt ≤ c.crew.egangs) {bar : Barrier} (hbar : bar = SMap.get {} c.crew.bars n.toNat)
    (hgen : bar.arrived = [] ∨ bar.count = cnt) :
    let arr := insKey c.gang.num bar.arrived
    exec (.bar a n) s = if cnt ≤ arr.length then
        .next (((setBar s c n {}).barRelease c.ref.core c.gang.crew n.toNat).setTh c { c.th with pc := c.th.pc + 4, spin := {} })
      else .next (((setBar s c n { count := cnt, arrived := arr }).setTh c
        { c.th with wait := .bar n.toNat, waitWord := (tiwOf (.bar a n)).headD 0 }).barCheck c.ref.core c.gang.crew n.toNat) := by
  intro arr
  obtain ⟨hready, hq⟩ := h
  have ⟨_, _, _, hwait, _⟩ := hready
  have hbad : ¬ (cnt = 0 ∨ c.crew.egangs < cnt) := by omega
  have hunlike : ¬ (bar.arrived ≠ [] ∧ bar.count ≠ cnt) := by tauto
  show execBar a n s = _
  rw [execBar, scalarOp_of_ready hready rfl (placeOk_edge he) (fun _ => hq), if_neg (by rw [hwait]; exact nofun), if_neg (not_not.mpr hp)]
  simp only [← hcnt, ← hbar, if_neg hbad, if_neg hunlike]
  rfl

end

theorem regangAndBarrierResults : RegangAndBarrierResults := by
  intro s c h he hu
  refine ⟨exec_regang_undivided h he, fun b rest hp => ⟨exec_regang_alone h he hp hu, fun k o more hs =>
    ⟨exec_regang_waits h he hp hs, fun hw hd hpc hlpc hm => ?_⟩⟩, fun a n cnt hp hcnt hpos hmax => ?_⟩
  · have hpath : o.path = (!b) :: rest := path_of_sibling (g := c.gang) (k := k) (by rw [← hp, hs]; exact List.mem_cons_self) (hp ▸ hd)
    have hmerged := mergeThreads_fields (x := c.th) (y := o) hpc (by rw [hpath, hp]; rfl)
    rw [hp] at hmerged
    exact ⟨_, exec_regang_merges h he hp hs hu hw hd hpc hlpc hm, hmerged⟩
  · intro bar hgen
    have harrives := exec_bar_arrives h he hp hcnt hpos hmax rfl hgen
    exact ⟨fun hlast => harrives.trans (if_pos hlast), fun hmore => harrives.trans (if_neg (Nat.not_le.mpr hmore))⟩

/-- Settles O34: a part by the two sides that it leaves in the gang, then regang and bar case by case. -/
theorem subGangResults : Obligations.SubGangResults := ⟨partSplitsTheSubGang, regangAndBarrierResults⟩

end Sys2Proof.Machine

namespace Sys2Proof.Machine

open Sys2Proof Sys2Proof.Claims

/-! ## Taking a trap (R182 to R185, R193) -/

section
variable {s : State} {c : Ctx} {t : TrapInfo}

/-- A thread that waits for nothing leaves no barrier and no lock by a trap. -/
theorem State.leave_nothing (hw : c.th.wait = .none) : (s.leaveBar c).dropAcq c = s := by
  have hbar : s.leaveBar c = s := by rw [State.leaveBar, hw]
  rw [hbar, State.dropAcq, if_pos (by rw [hw]; exact nofun)]

/-- Before it goes anywhere, the thread that traps drops what it has outstanding on other devices, with the trace of its unit off. -/
theorem State.trap_prologue (hw : c.th.wait = .none) (hu : Untraced s c) (cause : Nat) :
    (((s.leaveBar c).dropAcq c).dropRemotes c).traceTrap c t cause = s.dropRemotes c := by
  rw [State.leave_nothing hw]
  exact State.trace_off (s := s.dropRemotes c) hu ..

section
variable (hw : c.th.wait = .none) (hu : Untraced s c) {cause : Nat} (hk : trapCause c.th t.cause = cause)
include hw hu hk

/-- A sub-gang with a handler enters it, where the cause is not the management core's. -/
theorem State.takeTrap_enters (he : c.isMgmt = false) (hv : c.th.tvec ≠ 0) (hc : toMgmt cause = false) :
    s.takeTrap c t = (s.dropRemotes c).setTh c
      { trapped c.th t cause with tmode := true, pc := c.th.tvec } := by
  subst hk
  rw [State.takeTrap, State.trap_prologue hw hu]
  simp only [he, hc, beq_false_of_ne hv, Bool.or_self, Bool.false_eq_true, if_false]
  rfl

/-- A sub-gang with no handler, or whose cause is the management core's, parks and raises its event. -/
theorem State.takeTrap_parks (he : c.isMgmt = false) (hp : c.th.tvec = 0 ∨ toMgmt cause = true) :
    s.takeTrap c t = (let u := (s.dropRemotes c).setTh c { trapped c.th t cause with parked := true }
      let u := u.setTrc c.unit { u.trc c.unit with needSync := true }
      u.pushEvent (u.shub c.part) (2 ^ 56 + (c.ref.core * 256 + c.ref.slot * 16 + c.ref.sub))) := by
  subst hk
  have hpark : (toMgmt (trapCause c.th t.cause) || c.th.tvec == 0) = true := by
    rw [Bool.or_eq_true, beq_iff_eq]
    exact hp.symm
  rw [State.takeTrap, State.trap_prologue hw hu]
  simp only [he, hpark, Bool.false_eq_true, if_false, if_true]
  rfl

/-- A management core outside its handler enters it. -/
theorem State.takeTrap_mgmt_enters (hm : c.isMgmt = true) (hv : c.th.tvec ≠ 0) (ht : c.th.tmode = false) :
    s.takeTrap c t = (s.dropRemotes c).setTh c
      { trapped c.th t cause with tmode := true, pc := c.th.tvec } := by
  subst hk
  rw [State.takeTrap, State.trap_prologue hw hu]
  simp only [hm, hv, ht, Bool.false_eq_true, or_self, if_false, if_true]
  rfl

/-- A management core with no handler, or in it, halts. -/
theorem State.takeTrap_mgmt_halts (hm : c.isMgmt = true) (hh : c.th.tvec = 0 ∨ c.th.tmode = true) :
    let r := s.dropRemotes c
    s.takeTrap c t = (r.setMgmt c.hub
      { r.mgmt c.hub with th := trapped c.th t cause, halted := true }).raiseHf c.hub := by
  subst hk
  rw [State.takeTrap, State.trap_prologue hw hu]
  simp only [hm, hh, if_true]
  rfl

end

end

theorem toMgmt_iff {cause : Nat} : toMgmt cause = true ↔ cause = 4 ∨ cause = 0x14 ∨ cause = 0x17 := by
  simp [toMgmt, or_assoc]

theorem takingATrap : TakingATrap := by
  intro s c t hw hu ht r
  have hk : trapCause c.th t.cause = t.cause := by rw [trapCause, ht]; rfl
  refine ⟨fun he hv h4 h14 h17 => State.takeTrap_enters hw hu hk he hv ?_,
    fun he hp => State.takeTrap_parks hw hu hk he (hp.imp_right toMgmt_iff.mpr),
    fun hm hv => State.takeTrap_mgmt_enters hw hu hk hm hv ht, fun hm hv => State.takeTrap_mgmt_halts hw hu hk hm (.inl hv)⟩
  rw [← Bool.not_eq_true, toMgmt_iff]
  simp only [h4, h14, h17, or_self, not_false_eq_true]

theorem trapInAHandler : TrapInAHandler := by
  intro s c t hw hu ht r
  have hk : trapCause c.th t.cause = 0x17 := by rw [trapCause, ht]; rfl
  exact ⟨fun he => State.takeTrap_parks hw hu hk he (.inr rfl), fun hm => State.takeTrap_mgmt_halts hw hu hk hm (.inr ht)⟩

/-- Settles O37: the four ends of a trap, at the cause as given and at cause 0x17. -/
theorem trapEntry : Obligations.TrapEntry := ⟨takingATrap, trapInAHandler⟩

end Sys2Proof.Machine

namespace Sys2Proof

/-! ## Sorting by a number key -/

section
variable {α : Type} {key : α → Nat}

theorem insBy_perm (x : α) (l : List α) : (insBy key x l).Perm (x :: l) := by
  induction l with
  | nil => rfl
  | cons h t ih =>
    rw [insBy]
    split
    · rfl
    · exact (ih.cons h).trans (.swap ..)

theorem insBy_pairwise (x : α) {l : List α} (hl : l.Pairwise (fun a b => key a ≤ key b)) :
    (insBy key x l).Pairwise (fun a b => key a ≤ key b) := by
  induction hl with
  | nil => exact List.pairwise_singleton ..
  | @cons h t hle ht ih =>
    rw [insBy]
    split
    · next hlt =>
      refine List.pairwise_cons.mpr ⟨List.forall_mem_cons.mpr ⟨Nat.le_of_lt hlt, fun a ha => ?_⟩, List.pairwise_cons.mpr ⟨hle, ht⟩⟩
      exact Nat.le_trans (Nat.le_of_lt hlt) (hle a ha)
    · next hge =>
      refine List.pairwise_cons.mpr ⟨fun a ha => ?_, ih⟩
      obtain rfl | ha := mem_insBy.mp ha
      · exact Nat.not_lt.mp hge
      · exact hle a ha

/-- Sorting rearranges, and leaves the keys rising. -/
theorem sortBy_spec (l : List α) : (sortBy key l).Perm l ∧ (sortBy key l).Pairwise (fun a b => key a ≤ key b) := by
  have hfold : ∀ (l acc : List α), acc.Pairwise (fun a b => key a ≤ key b) →
      (l.foldl (fun acc x => insBy key x acc) acc).Perm (l ++ acc) ∧
        (l.foldl (fun acc x => insBy key x acc) acc).Pairwise (fun a b => key a ≤ key b) := by
    intro l
    induction l with
    | nil => exact fun acc hacc => ⟨.refl _, hacc⟩
    | cons x t ih =>
      intro acc hacc
      obtain ⟨hperm, hsort⟩ := ih (insBy key x acc) (insBy_pairwise x hacc)
      exact ⟨hperm.trans (((insBy_perm x acc).append_left t).trans List.perm_middle), hsort⟩
  simpa [sortBy] using hfold l [] .nil

/-- What a sorted list holds of some kind, when that has its keys strictly rising in the list given. -/
theorem filter_sortBy {p : α → Bool} {l l' : List α} (h : l.filter p = l') (hl : l'.Pairwise (fun a b => key a < key b)) :
    (sortBy key l).filter p = l' := by
  obtain ⟨hperm, hsort⟩ := sortBy_spec (key := key) l
  have hmem : ((sortBy key l).filter p).Perm l' := h ▸ hperm.filter p
  refine hmem.eq_of_pairwise (fun a b ha hb hab hba => ?_) (hsort.filter p) (hl.imp Nat.le_of_lt)
  have hnodup : (l'.map key).Nodup := (List.pairwise_map.mpr hl).imp Nat.ne_of_lt
  exact List.inj_on_of_nodup_map hnodup (hmem.mem_iff.mp ha) hb (Nat.le_antisymm hab hba)

end

end Sys2Proof

namespace Sys2Proof.Machine

open Sys2Proof Sys2Proof.Claims

/-! ## Misaligned scalar accesses (R189, R191) -/

theorem ofNat_emPlaceOf (c : Ctx) (f : EM) (z : Nat) : BitVec.ofNat 64 (emPlaceOf c f z) = emAddr c f z := by
  rw [← emAddr_eq, BitVec.ofNat_toNat, BitVec.setWidth_eq]

section
variable {s : State} {c : Ctx} {f : EM} {z : Nat} (i : Instr) (hq : c.th.lq = []) (hal : emPlaceOf c f z % z ≠ 0)
include hq hal

theorem scalarLoad_misaligned (h : May s c .common (emPlace f)) :
    scalarLoad i f z s = .next (s.takeTrap c (faultAt c i 0x06 (BitVec.ofNat 64 (emPlaceOf c f z)) 0)) := by
  obtain ⟨hready, hrole, hpl⟩ := h
  rw [← emAddr_eq] at hal
  rw [ofNat_emPlaceOf]
  exact scalarOp_traps ⟨hready, hq⟩ hrole hpl (if_pos hal)

theorem scalarStore_misaligned (h : May s c .commit (emPlace f)) :
    scalarStore i f z s = .next (s.takeTrap c (faultAt c i 0x06 (BitVec.ofNat 64 (emPlaceOf c f z)) 0)) := by
  obtain ⟨hready, hrole, hpl⟩ := h
  rw [← emAddr_eq] at hal
  rw [ofNat_emPlaceOf]
  exact scalarOp_traps ⟨hready, hq⟩ hrole hpl (if_pos hal)

end

theorem exec_amo_misaligned {s : State} {c : Ctx} {f : AmoF} (h : May s c .commit .both) (hq : c.th.lq = [])
    (hal : (c.x f.a).toNat % (if f.z = 1 then 8 else 4) ≠ 0) :
    exec (.amo f) s = .next (s.takeTrap c (faultAt c (.amo f) 0x06 (c.x f.a) 0)) := by
  obtain ⟨hready, hrole, hpl⟩ := h
  exact (scalarOp_traps ⟨hready, hq⟩ hrole hpl (if_pos hal) : execAmo f s = _)

theorem misalignedScalarAccess : MisalignedScalarAccess := by
  refine ⟨fun p hp f s c h hq hal => ?_, fun p hp f s c h hq hal => ?_, fun f s c h hq hal => exec_amo_misaligned h hq hal⟩
  · rw [loads_exec p hp]
    exact scalarLoad_misaligned _ hq hal h
  · rw [stores_exec p hp]
    exact scalarStore_misaligned _ hq hal h

/-! ## The lane fault that ranks first (R202) -/

theorem LErr.rank_pos (x : LErr) : 1 ≤ x.rank := by
  unfold LErr.rank
  split <;> decide

theorem LErr.rank_mem (e : MErr) : (LErr.mem e).rank ≠ 1 := by
  cases e <;> simp [LErr.rank]

/-- The misaligned ones among the failures of lanes. -/
def misalignedIn (errs : List (Nat × W64 × LErr)) : List (Nat × W64 × LErr) := errs.filter (fun x => x.2.2.rank == 1)

/-- The failure that a fault picks ranks no later than any other. -/
theorem rank_foldl_le (t : List (Nat × W64 × LErr)) (h : Nat × W64 × LErr) :
    ∀ x ∈ h :: t, (t.foldl (fun b x => if x.2.2.rank < b.2.2.rank then x else b) h).2.2.rank ≤ x.2.2.rank := by
  induction t generalizing h with
  | nil => simp
  | cons y t ih =>
    have hfirst : (if y.2.2.rank < h.2.2.rank then y else h).2.2.rank ≤ min h.2.2.rank y.2.2.rank := by
      split <;> omega
    have hle := ih (if y.2.2.rank < h.2.2.rank then y else h)
    rw [List.forall_mem_cons] at hle
    obtain ⟨hpick, hrest⟩ := hle
    rw [List.foldl_cons, List.forall_mem_cons, List.forall_mem_cons]
    exact ⟨by omega, by omega, hrest⟩

/-- With a misaligned lane among the failures the fault reports the misaligned lanes, the lowest of them and its address. -/
theorem State.laneFault_misaligned {s : State} {c : Ctx} {e : LaneEntry} {errs : List (Nat × W64 × LErr)} {addr : Nat → W64} {l : Nat}
    {rest : List Nat} (h : misalignedIn errs = (l :: rest).map (fun k => (k, addr k, .misaligned))) :
    s.laneFault c e errs = s.laneTrap c e 0x06 l (maskOf (l :: rest)) (addr l) := by
  have hmem : (l, addr l, LErr.misaligned) ∈ errs :=
    List.mem_of_mem_filter (h ▸ List.mem_cons_self : (l, addr l, LErr.misaligned) ∈ misalignedIn errs)
  obtain _ | ⟨x, t⟩ := errs
  · exact absurd hmem List.not_mem_nil
  have hrank : (t.foldl (fun b x => if x.2.2.rank < b.2.2.rank then x else b) x).2.2.rank = 1 :=
    Nat.le_antisymm (rank_foldl_le t x _ hmem) (LErr.rank_pos _)
  have hcount : ∀ ks : List Nat, (ks.map (fun k => (k, addr k, LErr.misaligned))).foldl (fun s x => s.countErr x.2.2.err) s = s := by
    intro ks
    induction ks with
    | nil => rfl
    | cons k ks ih => exact ih
  have hmask : ((l :: rest).map (fun k => (k, addr k, LErr.misaligned))).map Prod.fst = l :: rest := by
    simp [List.map_map, Function.comp_def]
  rw [misalignedIn] at h
  simp only [State.laneFault, hrank, h, hcount, hmask, ite_self]
  rfl

/-! ## The misaligned lanes among the failures of an access (R202, R213) -/

theorem laneAddr_eq (c : Ctx) (f : LaneF) (e : LaneEntry) (l : Nat) : laneAddr c.gang f e.xop l = placeOf c f e l := by
  rw [placeOf, BitVec.ofInt_add, BitVec.ofInt_add, BitVec.ofInt_toInt]
  rfl

theorem misalignedIn_append (xs ys : List (Nat × W64 × LErr)) : misalignedIn (xs ++ ys) = misalignedIn xs ++ misalignedIn ys :=
  List.filter_append ..

/-- Waits are no misalignments. -/
theorem misalignedIn_laneFails {α : Type} (rs : List (Nat × W64 × Except LErr α)) :
    misalignedIn (laneFails rs) = misalignedIn (laneErrs rs) := by
  rw [misalignedIn, laneFails, List.filter_filter]
  refine List.filter_congr fun x _ => ?_
  by_cases hx : x.2.2 = .mem .wait
  · simp [hx, LErr.rank]
  · simp [hx]

/-- Lanes that are checked for alignment first: the misaligned failures are those of the misaligned lanes. -/
theorem misalignedIn_laneErrs {α : Type} {addr : Nat → W64} {z : Nat} {check : Nat → Except LErr α}
    (hcheck : ∀ l x, check l = .error x → x.rank ≠ 1) (ls : List Nat) :
    misalignedIn (laneErrs (ls.map (fun l => (l, addr l, if (addr l).toNat % z ≠ 0 then .error .misaligned else check l)))) =
      (ls.filter (fun l => (addr l).toNat % z != 0)).map (fun l => (l, addr l, .misaligned)) := by
  induction ls with
  | nil => rfl
  | cons l ls ih =>
    simp only [misalignedIn, laneErrs, List.map_cons, List.filterMap_cons] at ih ⊢
    by_cases hal : (addr l).toNat % z = 0
    · rw [List.filter_cons_of_neg (by simp [hal])]
      cases hx : check l with
      | ok v => simpa [hal, hx] using ih
      | error x => simpa [hal, hx, hcheck l x hx] using ih
    · rw [List.filter_cons_of_pos (by simp [hal])]
      simpa [hal, LErr.rank] using ih

/-- Results of which no failure is a misalignment. -/
def NoneMisaligned {α : Type} (rs : List (Nat × W64 × Except LErr α)) : Prop := ∀ r ∈ rs, ∀ x, r.2.2 = .error x → x.rank ≠ 1

/-- Failures of memory hold no misalignment. -/
theorem misalignedIn_laneFails_nil {α : Type} {rs : List (Nat × W64 × Except LErr α)} (h : NoneMisaligned rs) :
    misalignedIn (laneFails rs) = [] := by
  rw [misalignedIn_laneFails, misalignedIn, List.filter_eq_nil_iff]
  intro x hx
  obtain ⟨r, hr, hsome⟩ := List.mem_filterMap.mp hx
  split at hsome
  · next e he =>
    cases hsome
    simpa using h r hr e he
  · cases hsome

theorem State.laneReads_noneMisaligned (c : Ctx) (f : LaneF) (z : Nat) (ps : List (Nat × W64 × Loc)) (s : State) :
    NoneMisaligned (s.laneReads c f z ps).2 := by
  induction ps generalizing s with
  | nil => exact nofun
  | cons p t ih =>
    refine List.forall_mem_cons.mpr ⟨fun x hx => ?_, ih _⟩
    dsimp only at hx
    split at hx <;> cases hx
    exact LErr.rank_mem _

theorem State.atomProbe_noneMisaligned (c : Ctx) (z : Nat) (ps : List (Nat × W64 × Loc)) (s : State) :
    NoneMisaligned (s.atomProbe c z ps).2 := by
  induction ps generalizing s with
  | nil => exact nofun
  | cons p t ih =>
    obtain ⟨l, a, loc⟩ := p
    cases loc with
    | hbm k => exact ih s
    | reg k => exact ih s
    | remote dev pa =>
      refine List.forall_mem_cons.mpr ⟨fun x hx => ?_, ih _⟩
      dsimp only at hx
      split at hx <;> cases hx
      exact LErr.rank_mem _

theorem State.atomCheck_noneMisaligned (s : State) (c : Ctx) (f : LaneF) (z : Nat) (ps : List (Nat × W64 × Loc)) :
    NoneMisaligned (s.atomCheck c f z ps) := by
  intro r hr x hx
  obtain ⟨p, -, hsome⟩ := List.mem_filterMap.mp hr
  split at hsome
  · cases hsome
    dsimp only at hx
    split at hx <;> cases hx
    exact LErr.rank_mem _
  · cases hsome

/-- The active lanes whose address is no multiple of the access's size. -/
def misalignedLanes (c : Ctx) (f : LaneF) (e : LaneEntry) : List Nat :=
  (lanes c f e).filter (fun l => (placeOf c f e l).toNat % accBytes f != 0)

/-- What a fault reports of each of them. -/
def misalignments (c : Ctx) (f : LaneF) (e : LaneEntry) : List (Nat × W64 × LErr) :=
  (misalignedLanes c f e).map (fun l => (l, placeOf c f e l, .misaligned))

section
variable (c : Ctx) (f : LaneF) (e : LaneEntry)

theorem misalignments_rising : (misalignments c f e).Pairwise (fun a b => a.1 < b.1) := by
  have hspan : (span 0 32).Pairwise (· < ·) := by rw [span_eq_range']; exact List.pairwise_lt_range'
  exact List.pairwise_map.mpr ((hspan.filter _).filter _)

theorem misalignedIn_laneLocs (s : State) (wr wide : Bool) :
    misalignedIn (laneFails (s.laneLocs c f e (szBytes (memSz f)) wr wide)) = misalignments c f e := by
  rw [misalignedIn_laneFails, misalignments, misalignedLanes, ← activeLanes_eq]
  simp only [State.laneLocs, laneAddr_eq]
  refine misalignedIn_laneErrs (fun l x hx => ?_) _
  split at hx
  · cases hx; exact LErr.rank_mem _
  · cases hx
  · cases hx; exact LErr.rank_mem _

theorem misalignedIn_cmemLanes : misalignedIn (laneErrs (cmemLanes c f e (szBytes (memSz f)))) = misalignments c f e := by
  rw [misalignments, misalignedLanes, ← activeLanes_eq]
  simp only [cmemLanes, laneAddr_eq]
  refine misalignedIn_laneErrs (fun l x hx => ?_) _
  split at hx
  · cases hx
  · cases hx; exact LErr.rank_mem _

end

/-- Failures that are no misalignments, sorted by their lanes among the others, change nothing of the misaligned ones. -/
theorem misalignedIn_sorted {c : Ctx} {f : LaneF} {e : LaneEntry} {locs errs : List (Nat × W64 × LErr)}
    (h : misalignedIn locs = misalignments c f e) (herrs : misalignedIn errs = []) :
    misalignedIn (sortBy Prod.fst (locs ++ errs)) = misalignments c f e := by
  refine filter_sortBy (Eq.trans ?_ h) (misalignments_rising c f e)
  exact (misalignedIn_append locs errs).trans (by rw [herrs, List.append_nil])

section
variable {c : Ctx} {f : LaneF} {e : LaneEntry} {locs : List (Nat × W64 × Except LErr Loc)}
  (h : misalignedIn (laneFails locs) = misalignments c f e)
include h

theorem misalignedIn_loadErrs {rs : List (Nat × W64 × Except LErr (List Byte))} (hrs : NoneMisaligned rs) :
    misalignedIn (loadErrs locs rs) = misalignments c f e := misalignedIn_sorted h (misalignedIn_laneFails_nil hrs)

theorem misalignedIn_atomErrs {s : State} {z : Nat} : misalignedIn (s.atomErrs c f z locs) = misalignments c f e := by
  have hcheck := misalignedIn_laneFails_nil (State.atomCheck_noneMisaligned s c f z (lanePlaces locs))
  have hprobe := misalignedIn_laneFails_nil (State.atomProbe_noneMisaligned c z (lanePlaces locs) s)
  rw [State.atomErrs, List.append_assoc]
  exact misalignedIn_sorted h ((misalignedIn_append ..).trans (by rw [hcheck, hprobe, List.append_nil]))

end

/-! ## The lane instructions that access memory (R202, R213) -/

section
variable {s : State} {c : Ctx} {f : LaneF} {e : LaneEntry} {l : Nat} {rest : List Nat} (hbad : misalignedLanes c f e = l :: rest)
include hbad

/-- Failures whose misaligned ones are those of the active lanes make the fault of the misaligned lanes. -/
theorem laneFault_misalignments {errs : List (Nat × W64 × LErr)} (h : misalignedIn errs = misalignments c f e) :
    s.laneFault c e errs = s.laneTrap c e 0x06 l (maskOf (l :: rest)) (placeOf c f e l) :=
  State.laneFault_misaligned (addr := placeOf c f e) (by rw [h, misalignments, hbad])

theorem errs_ne_nil {errs : List (Nat × W64 × LErr)} (h : misalignedIn errs = misalignments c f e) : errs ≠ [] := by
  rintro rfl
  rw [misalignments, hbad] at h
  cases h

variable (hat : AtHead s c e)
include hat

/-- An access that faults on any failure of its first check, whatever failures it then adds to them, traps for its misaligned lanes. -/
theorem laneOp_misaligned {body : Ctx → LaneEntry → State → Out} {first all : List (Nat × W64 × LErr)}
    (hfirst : misalignedIn first = misalignments c f e) (hall : misalignedIn all = misalignments c f e)
    (hbody : first ≠ [] → body c e s = s.laneFault c e all) :
    laneOp false body s = s.laneTrap c e 0x06 l (maskOf (l :: rest)) (placeOf c f e l) := by
  obtain ⟨hc, q, hq⟩ := hat
  rw [laneOp_runs hc hq, hbody (errs_ne_nil hbad hfirst), laneFault_misalignments hbad hall]

theorem exec_lld_misaligned : exec (.lld f) s = s.laneTrap c e 0x06 l (maskOf (l :: rest)) (placeOf c f e l) :=
  have hlocs := misalignedIn_laneLocs c f e s false (laneWide f)
  have hall := misalignedIn_loadErrs hlocs (State.laneReads_noneMisaligned c f (szBytes (memSz f)) _ s)
  (laneOp_misaligned hbad hat hlocs hall (fun hne => if_pos hne) : execLld f s = _)

theorem exec_lst_misaligned : exec (.lst f) s = s.laneTrap c e 0x06 l (maskOf (l :: rest)) (placeOf c f e l) :=
  have hlocs := misalignedIn_laneLocs c f e s true (laneWide f)
  (laneOp_misaligned hbad hat hlocs hlocs (fun hne => if_pos hne) : execLst f s = _)

theorem exec_lldc_misaligned : exec (.lldc f) s = s.laneTrap c e 0x06 l (maskOf (l :: rest)) (placeOf c f e l) :=
  have hlanes := misalignedIn_cmemLanes c f e
  (laneOp_misaligned hbad hat hlanes hlanes (fun hne => if_pos hne) : execLldc f s = _)

theorem exec_lstc_misaligned : exec (.lstc f) s = s.laneTrap c e 0x06 l (maskOf (l :: rest)) (placeOf c f e l) :=
  have hlanes := misalignedIn_cmemLanes c f e
  (laneOp_misaligned hbad hat hlanes hlanes (fun hne => if_pos hne) : execLstc f s = _)

/-- A lane atomic in core memory or in device memory. -/
theorem laneAtomic_misaligned (op : AtomOp) : laneAtomic op f s = s.laneTrap c e 0x06 l (maskOf (l :: rest)) (placeOf c f e l) := by
  by_cases hm : atomCm f = true
  · have hlanes := misalignedIn_cmemLanes c f e
    exact laneOp_misaligned hbad hat hlanes hlanes fun hne => (if_pos hm).trans (if_pos hne)
  · have hlocs := misalignedIn_laneLocs c f e s true (3 ≤ memSc f)
    exact laneOp_misaligned hbad hat hlocs (misalignedIn_atomErrs hlocs) fun hne => (if_neg hm).trans (if_pos hne)

end

/-- Each lane atomic is the shared one on its own operation. -/
theorem atomTable_exec : ∀ i ∈ atomTable.map Prod.fst, ∃ op : AtomOp,
    ∀ (f : LaneF) (s : State), exec (i f) s = laneAtomic op f s := by
  simp only [atomTable, List.map_cons, List.map_nil, List.forall_mem_cons, List.not_mem_nil, false_implies, implies_true, and_true]
  exact ⟨⟨.add, fun _ _ => rfl⟩, ⟨.min, fun _ _ => rfl⟩, ⟨.max, fun _ _ => rfl⟩, ⟨.and, fun _ _ => rfl⟩, ⟨.or, fun _ _ => rfl⟩,
    ⟨.xor, fun _ _ => rfl⟩, ⟨.xchg, fun _ _ => rfl⟩, ⟨.cas, fun _ _ => rfl⟩, ⟨.maxvi, fun _ _ => rfl⟩⟩

theorem misalignedLaneAccess : MisalignedLaneAccess := by
  intro i hi s c f e hat _ bad l rest hbad
  have hlanes : misalignedLanes c f e = l :: rest := hbad
  rw [hbad]
  simp only [List.mem_append, List.mem_cons, List.not_mem_nil, or_false] at hi
  obtain (rfl | rfl | rfl | rfl) | hatom := hi
  · exact exec_lld_misaligned hlanes hat
  · exact exec_lst_misaligned hlanes hat
  · exact exec_lldc_misaligned hlanes hat
  · exact exec_lstc_misaligned hlanes hat
  · obtain ⟨op, hop⟩ := atomTable_exec i hatom
    rw [hop]
    exact laneAtomic_misaligned hlanes hat op

/-- Settles O38: the scalar accesses by the alignment that each checks first, the lane accesses by the fault that ranks first. -/
theorem misalignedAccess : Obligations.MisalignedAccess := ⟨misalignedScalarAccess, misalignedLaneAccess⟩

end Sys2Proof.Machine

namespace Sys2Proof.Machine

open Sys2Proof Sys2Proof.Claims

/-! ## What a tile fetch leaves alone (R224): the sub-gang that acts -/

theorem State.remoteRead_laneCtx (s : State) (who : Issuer) (sg dev pa n : Nat) (acq : Bool) :
    (s.remoteRead who sg dev pa n acq).1.laneCtx = s.laneCtx := by
  unfold State.remoteRead State.remoteAccess State.sendNoted State.sendPacket
  split
  · split <;> rfl
  · simp only [Bool.false_eq_true, if_false]
    split <;> rfl

theorem State.readLoc_laneCtx (s : State) (who : Issuer) (sg : Nat) (l : Loc) (n : Nat) :
    (s.readLoc who sg l n).1.laneCtx = s.laneCtx := by
  cases l with
  | hbm k => rfl
  | reg o => rfl
  | remote dev pa => exact State.remoteRead_laneCtx s who sg dev pa n false

theorem State.fetchLine_laneCtx (s : State) (c : Ctx) (va n : Nat) : (s.fetchLine c va n).1.laneCtx = s.laneCtx := by
  unfold State.fetchLine
  split
  · rfl
  · next dev pa _ =>
    have hread := State.remoteRead_laneCtx s c.iss (lmmaSg c) dev (pa / 128 * 128) 128 false
    split <;> next heq => rwa [heq] at hread
  · next l _ _ =>
    have hread := State.readLoc_laneCtx s c.iss (lmmaSg c) l n
    split <;> next heq => rwa [heq] at hread

theorem State.fetchLines_laneCtx (c : Ctx) (ps : List (Nat × Nat)) : ∀ s : State, (s.fetchLines c ps).1.laneCtx = s.laneCtx := by
  induction ps with
  | nil => exact fun _ => rfl
  | cons p t ih =>
    intro s
    have hrest := (ih (s.fetchLine c p.1 p.2).1).trans (State.fetchLine_laneCtx s c p.1 p.2)
    unfold State.fetchLines
    dsimp only
    split <;> exact hrest

theorem State.tileFetch_laneCtx (s : State) (c : Ctx) (va n : Nat) : (s.tileFetch c va n).1.laneCtx = s.laneCtx := by
  have hlines := State.fetchLines_laneCtx c (piecesOf va n) s
  unfold State.tileFetch
  split <;> next heq => rwa [heq] at hlines

theorem State.lmmaRecord_laneCtx (s : State) (c : Ctx) (slot : Nat) (i2 : Int) : (s.lmmaRecord c slot i2).1.laneCtx = s.laneCtx := by
  have hrec := State.tileFetch_laneCtx s c (c.desc.lref.getD slot 0) 128
  unfold State.lmmaRecord
  dsimp only
  split
  · rfl
  · split
    · next heq => rwa [heq] at hrec
    · next u bs heq =>
      rw [heq] at hrec
      have hkv := (State.tileFetch_laneCtx u c (layoutOf bs).kvaddr 64).trans hrec
      split
      · exact hrec
      · split
        · exact hrec
        · split <;> next hfetch => rwa [hfetch] at hkv

theorem State.lmmaRow_laneCtx (s : State) (c : Ctx) (l : Layout) (ext : List Nat) (code nk : Nat) (kb p1 p2 : Int) :
    (s.lmmaRow c l ext code nk kb p1 p2).1.laneCtx = s.laneCtx := by
  unfold State.lmmaRow
  split
  · rfl
  · next va _ size _ _ _ =>
    have hrow := State.tileFetch_laneCtx s c va size
    split <;> next heq => rwa [heq] at hrow

theorem State.lmmaRows_laneCtx (c : Ctx) (l : Layout) (ext : List Nat) (code nk : Nat) (kb p2 : Int) (ps : List Int) :
    ∀ s : State, (s.lmmaRows c l ext code nk kb p2 ps).1.laneCtx = s.laneCtx := by
  induction ps with
  | nil => exact fun _ => rfl
  | cons p t ih => exact fun s => (ih _).trans (State.lmmaRow_laneCtx s c l ext code nk kb p p2)

theorem State.l2Touch_laneCtx (s : State) (hint lk : Nat) : (s.l2Touch hint lk).laneCtx = s.laneCtx := by
  unfold State.l2Touch State.l2Fill State.l2Room
  split
  · split
    · rfl
    · dsimp only
      split
      · rfl
      · split <;> rfl
  · rfl

theorem State.l2Reads_laneCtx (s : State) (p hint : Nat) (rs : List (Nat × Nat)) : (s.l2Reads p hint rs).laneCtx = s.laneCtx := by
  unfold State.l2Reads
  generalize s.linesOf p rs = ls
  induction ls generalizing s with
  | nil => rfl
  | cons k ls ih => exact (ih _).trans (State.l2Touch_laneCtx s hint k)

/-! ## The accumulators of a product (R225) -/

/-- The accumulators with h0 and h1 of each lane of a list set. -/
def setAccs (h : SMap W32) (ls : List Nat) (v : Nat → Nat → W32) : SMap W32 :=
  ls.foldl (fun h l => SMap.set 0 (SMap.set 0 h (32 * 0 + l) (v l 0)) (32 * 1 + l) (v l 1)) h

theorem Gang.foldl_setH_pair (ls : List Nat) (v : Nat → Nat → W32) :
    ∀ g : Gang, ls.foldl (fun g l => (g.setH 0 l (v l 0)).setH 1 l (v l 1)) g = { g with h := setAccs g.h ls v } := by
  induction ls with
  | nil => exact fun _ => rfl
  | cons x ls ih => exact fun g => ih ((g.setH 0 x (v x 0)).setH 1 x (v x 1))

/-- Lane l of accumulator j after both accumulators of some lanes are set. -/
theorem get_setAccs {ls : List Nat} (hls : ∀ x ∈ ls, x < 32) (v : Nat → Nat → W32) {j l : Nat} (hj : j < 2) (hl : l < 32) :
    ∀ {h : SMap W32}, SMap.wf 0 h = true →
      SMap.get 0 (setAccs h ls v) (32 * j + l) = if l ∈ ls then v l j else SMap.get 0 h (32 * j + l) := by
  induction ls with
  | nil => exact fun _ => rfl
  | cons x ls ih =>
    intro h hh
    obtain ⟨hx, hrest⟩ := List.forall_mem_cons.mp hls
    have hfirst := SMap.wf_set (k := 32 * 0 + x) (v := v x 0) hh
    rw [setAccs, List.foldl_cons, ← setAccs, ih hrest (SMap.wf_set hfirst), SMap.get_set hfirst, SMap.get_set hh]
    by_cases hmem : l ∈ ls
    · simp [hmem]
    · by_cases hlx : l = x
      · obtain rfl | rfl : j = 0 ∨ j = 1 := by omega
        · simp [hlx]
        · simp [hlx]
      · rw [if_neg hmem, if_neg (by omega), if_neg (by omega), if_neg (by simp [hmem, hlx])]

/-! ## lmma (R222 to R224) -/

theorem errsOf_ok {α : Type} (x : α) : errsOf (.ok x) = [] := rfl

theorem valOf_ok {α : Type} (d x : α) : valOf d (.ok x) = x := rfl

theorem forAll_nil (ls : List Nat) : forAll ls [] = [] := by simp [forAll]

section
variable {s : State} {c : Ctx} {f : LaneF} {e : LaneEntry} (h : AtBothHeads s c e)
include h

theorem exec_lmma_idle (hls : lanes c f e = []) : exec (.lmma f) s = .next (laneAfter s c e {} id) := by
  show execLmma f s = _
  obtain ⟨⟨hc, -⟩, -⟩ := id h
  rw [execLmma, laneOp_bothHeads h, activeLanes_eq]
  simp only [hls, if_true]
  exact State.laneDone_eq hc e {} fun _ => rfl

end

/-- The lanes beside what each of them has. -/
theorem zip_lanes {α : Type} (g : Nat → α) (ls : List Nat) : ls.zip (ls.map g) = ls.map (fun l => (l, g l)) := by
  simpa using List.zip_map' (f := id) (g := g) (l := ls)

/-- Rows of lanes that all came fail for no lane. -/
theorem rowErrs_ok {α : Type} (row : Nat → α) (ls : List Nat) :
    (ls.map (fun l => (l, (Except.ok (row l) : Except (List (LErr × Nat)) α)))).flatMap
      (fun x => (errsOf x.2).map (fun y => (x.1, BitVec.ofNat 64 y.2, y.1))) = [] := by
  simp [errsOf_ok, List.flatMap_map]

/-- Lines of lanes that all translate fail for no lane. -/
theorem spanErrs_none {s : State} {c : Ctx} {row : Nat → Option (Nat × Nat × Nat × Nat × Nat)} {ls : List Nat}
    (h : ∀ l ∈ ls, s.spanErrs c (row l) = []) :
    (ls.map (fun l => (l, row l))).flatMap (fun x => (s.spanErrs c x.2).map (fun y => (x.1, BitVec.ofNat 64 y.2, y.1))) = [] := by
  simpa [List.flatMap_map] using h

/-- An instruction retires with both accumulators of some lanes set, and the flags of their elements. -/
theorem State.laneDone_products {s : State} {c : Ctx} (h : s.laneCtx = some c) (e : LaneEntry) (ls : List Nat)
    (elem : Nat → Nat → W32 × FFlags) :
    let res := ls.map (fun l => (l, (span 0 2).map (elem l)))
    s.laneDone c e (fun g => res.foldl (fun g x => ((span 0 2).zip x.2).foldl (fun g y => g.setH y.1 x.1 y.2.1) g) g)
        (res.foldl (fun a x => x.2.foldl (fun a y => a.or y.2) a) {}) =
      .next (laneAfter s c e (ls.foldl (fun a l => (a.or (elem l 0).2).or (elem l 1).2) {})
        (fun g => { g with h := setAccs c.gang.h ls (fun l j => (elem l j).1) })) := by
  simp only [List.foldl_map]
  exact State.laneDone_eq h e _ fun ss => Gang.foldl_setH_pair ls (fun l j => (elem l j).1) { c.gang with subs := ss }

/-- Settles O8: with every record, line and row at hand no lane fails, and the products go to both accumulators lane by lane. -/
theorem laneMatrixResults : Obligations.LaneMatrixResults := by
  unfold Obligations.LaneMatrixResults
  intro s c f e h hw
  obtain ⟨⟨hc, -⟩, -⟩ := id h
  obtain ⟨-, -, hacc⟩ := hw
  refine ⟨exec_lmma_idle h, ?_⟩
  intro nk s1 s2 s3 s4 la lb xa xb b0 b1 row hls hclass kb nc spanB spanA spans hkb hspans hrecA hrecB hrowsB hrowsA elem v
  refine ⟨setAccs c.gang.h (lanes c f e) (fun l j => (elem l j).1), ?_, fun j hj l hl => ?_⟩
  · have hB : ∀ j ∈ [0, 1], s2.spanErrs c (spanB j) = [] := fun j hj =>
      hspans (spanB j) (List.mem_append_left _ (List.mem_map_of_mem (f := spanB) hj))
    have hA : ∀ l ∈ lanes c f e, s2.spanErrs c (spanA l) = [] := fun l hl =>
      hspans (spanA l) (List.mem_append_right _ (List.mem_map_of_mem hl))
    have hspan0 : lmmaSpan lb xb (fmtB e.fmt.toNat) nk kb nc f.imm.toInt = spanB 0 := by simp only [spanB, Int.add_zero]
    have hspan1 : lmmaSpan lb xb (fmtB e.fmt.toNat) nk kb (nc + 1) f.imm.toInt = spanB 1 := rfl
    have hspanA : ∀ l, lmmaSpan la xa (fmtA e.fmt.toNat) nk kb (wA c f l).toInt f.imm.toInt = spanA l := fun _ => rfl
    have hregA : ∀ l, c.gang.getW l f.a.toNat = wA c f l := fun _ => rfl
    have hslotA : fld f.f0.toNat 2 0 = f.f0.toNat % 8 := fld_zero ..
    have hslotB : fld f.f0.toNat 5 3 = f.f0.toNat / 8 % 8 := rfl
    have hkbOf : sx 32 (e.xop.toNat % 2 ^ 32) = kb := rfl
    have hncOf : sx 32 (e.xop.toNat / 2 ^ 32) = nc := rfl
    have hctx : (v.clearRemote c.iss (lmmaSg c)).laneCtx = some c := calc
      _ = s4.laneCtx := State.l2Reads_laneCtx ..
      _ = s3.laneCtx := (congrArg (·.1.laneCtx) hrowsA.symm).trans (State.lmmaRows_laneCtx ..)
      _ = s2.laneCtx := (congrArg (·.1.laneCtx) hrowsB.symm).trans (State.lmmaRows_laneCtx ..)
      _ = s1.laneCtx := (congrArg (·.1.laneCtx) hrecB.symm).trans (State.lmmaRecord_laneCtx ..)
      _ = s.laneCtx := (congrArg (·.1.laneCtx) hrecA.symm).trans (State.lmmaRecord_laneCtx ..)
      _ = some c := hc
    show execLmma f s = _
    rw [execLmma, laneOp_bothHeads h, activeLanes_eq]
    -- what is read: the records, the spans of the rows, the rows
    simp only [hls, if_false, hclass, Option.getD_some, hslotA, hslotB, hrecA, hrecB, errsOf_ok, valOf_ok, hkbOf, hncOf, hkb, hregA, hrowsB,
      hrowsA, hspanA, hspan0, hspan1, List.map_cons, List.map_nil, zip_lanes, List.map_map]
    -- no lane fails and none waits
    simp only [if_true, List.flatMap_cons, List.flatMap_nil, hB 0 (by decide), hB 1 (by decide), spanErrs_none hA, errsOf_ok, rowErrs_ok,
      List.append_nil, List.filter_nil, forAll_nil, ne_eq, not_true_eq_false, waits, List.any_nil, Bool.false_eq_true, bne_self_eq_false,
      Bool.or_false, if_false]
    exact State.laneDone_products hctx e (lanes c f e) elem
  · rw [get_setAccs (fun l hl => (mem_lanes.mp hl).1) _ hj hl hacc]
    simp only [mem_lanes, hl, true_and]
    rfl

end Sys2Proof.Machine

namespace Sys2Proof

open Sys2Proof.Machine

/-! ## Masks of lanes (R176, R200) -/

/-- A clear bit is set by adding its power. -/
theorem add_two_pow_eq_setFld {a k : Nat} (h : bitAt a k = false) : a + 2 ^ k = setFld a k k 1 := by
  have heven : a / 2 ^ k % 2 = 0 := by simpa [bitAt] using h
  have hhigh : a / 2 ^ (k + 1) * 2 ^ (k + 1) = a / 2 ^ k * 2 ^ k := by
    rw [Nat.pow_succ, ← Nat.div_div_eq_div_mul, Nat.mul_comm (2 ^ k) 2, ← Nat.mul_assoc,
      Nat.div_mul_cancel (Nat.dvd_of_mod_eq_zero heven)]
  have hparts := Nat.div_add_mod' a (2 ^ k)
  have hone : 1 % 2 ^ (k + 1 - k) = 1 := by rw [Nat.add_sub_cancel_left]; rfl
  rw [setFld, hhigh, hone]
  omega

/-- The bits of a number in which bit k is set when it is clear. -/
theorem testBit_setClear (a k l : Nat) : (if bitAt a k then a else a + 2 ^ k).testBit l = (a.testBit l || decide (l = k)) := by
  by_cases hk : bitAt a k = true
  · rw [if_pos hk]
    by_cases hlk : l = k
    · rw [hlk, ← bitAt_eq_testBit, hk, Bool.true_or]
    · simp [hlk]
  · rw [if_neg hk, add_two_pow_eq_setFld (Bool.eq_false_iff.mpr hk), testBit_setFld (Nat.le_refl k)]
    by_cases hlk : l = k
    · simp [hlk]
    · rw [if_neg (by omega)]
      simp [hlk]

/-- Lane l is in the mask of a list when it is listed. -/
theorem getLsbD_maskOf (ls : List Nat) {l : Nat} (hl : l < 32) : (maskOf ls).getLsbD l = decide (l ∈ ls) := by
  have hfold : ∀ a : Nat, (ls.foldl (fun a k => if bitAt a k then a else a + 2 ^ k) a).testBit l =
      (a.testBit l || decide (l ∈ ls)) := by
    induction ls with
    | nil => simp
    | cons k ls ih =>
      intro a
      rw [List.foldl_cons, ih, testBit_setClear, Bool.or_assoc, ← Bool.decide_or]
      simp only [List.mem_cons]
  rw [maskOf, BitVec.getLsbD_ofNat, hfold 0]
  simp [hl]

/-- The lanes of a set of slices. -/
theorem getLsbD_sliceMask (sl : BitVec 8) {l : Nat} (hl : l < 32) : (sliceMask sl).getLsbD l = sl.getLsbD (l / 4) := by
  rw [sliceMask, getLsbD_maskOf _ hl]
  simp [mem_span, hl]

/-! ## Bits counted (R207) -/

/-- The one bits of a number from bit a on are those that a filter of their places keeps. -/
theorem popcount_eq_length (w n : Nat) : ∀ a, popcount n (w / 2 ^ a) = ((span a n).filter (fun i => w.testBit i)).length := by
  induction n with
  | zero => exact fun _ => rfl
  | succ n ih =>
    intro a
    rw [popcount, Nat.div_div_eq_div_mul, ← Nat.pow_succ, ih, span, List.filter_cons, Nat.testBit_eq_decide_div_mod_eq]
    obtain hbit | hbit := Nat.mod_two_eq_zero_or_one (w / 2 ^ a)
    · simp [hbit]
    · simp [hbit, Nat.add_comm]

/-- The leading zeros of a word: it lies between the powers that its highest one bit gives. -/
theorem clz32_bounds (v : W32) : clz32 v ≤ 32 ∧ v.toNat < 2 ^ (32 - clz32 v) ∧ (clz32 v < 32 → 2 ^ (31 - clz32 v) ≤ v.toNat) := by
  have hzero : ∀ n ≤ 32, (∀ i < n, v.getLsbD (31 - i) = false) → v.toNat < 2 ^ (32 - n) := by
    intro n hn hoff
    refine Nat.lt_pow_two_of_testBit _ fun i hi => ?_
    rw [BitVec.testBit_toNat]
    by_cases hi32 : i < 32
    · have hbit := hoff (31 - i) (by omega)
      rwa [show 31 - (31 - i) = i by omega] at hbit
    · exact BitVec.getLsbD_of_ge _ _ (by omega)
  unfold clz32
  rw [span_eq_range']
  cases hfind : (List.range' 0 32).find? (fun i => v.getLsbD (31 - i)) with
  | none =>
    rw [List.find?_range'_eq_none] at hfind
    have hoff : ∀ i < 32, v.getLsbD (31 - i) = false := fun i hi => by simpa using hfind i (Nat.zero_le i) (by omega)
    exact ⟨Nat.le_refl 32, hzero 32 (Nat.le_refl 32) hoff, fun h => absurd h (Nat.lt_irrefl 32)⟩
  | some n =>
    rw [List.find?_range'_eq_some] at hfind
    obtain ⟨hon, hmem, hoff⟩ := hfind
    have hn : n < 32 := by simpa using hmem
    refine ⟨Nat.le_of_lt hn, hzero n (Nat.le_of_lt hn) fun i hi => by simpa using hoff i (Nat.zero_le i) hi, fun _ => ?_⟩
    rw [← BitVec.testBit_toNat] at hon
    exact Nat.ge_two_pow_of_testBit hon

end Sys2Proof

namespace Sys2Proof.Machine

open Sys2Proof Sys2Proof.Claims

/-! ## Bytes selected (R208) -/

/-- The bytes of the word that four bytes make. -/
theorem byteOf_leNat (g : Nat → Byte) {j : Nat} (hj : j < 4) : byteOf (BitVec.ofNat 32 (leNat ((span 0 4).map g))) j = (g j).toNat := by
  have hbyte : ∀ k, (g k).toNat < 256 := fun k => (g k).isLt
  obtain ⟨h0, h1, h2, h3⟩ := byteOf32_ofBytes (hbyte 0) (hbyte 1) (hbyte 2) (hbyte 3)
  have hword : leNat ((span 0 4).map g) = (g 0).toNat + (g 1).toNat * 2 ^ 8 + (g 2).toNat * 2 ^ 16 + (g 3).toNat * 2 ^ 24 := by
    show (g 0).toNat + 256 * ((g 1).toNat + 256 * ((g 2).toNat + 256 * ((g 3).toNat + 256 * 0))) = _
    omega
  rw [hword]
  match j, hj with
  | 0, _ => exact h0
  | 1, _ => exact h1
  | 2, _ => exact h2
  | 3, _ => exact h3

/-- Byte n of a pair of words. -/
theorem pair_byte (a b : W32) {n : Nat} (hn : n < 8) :
    (a.toNat + b.toNat * 2 ^ 32) / 2 ^ (8 * n) % 256 = if n < 4 then byteOf a n else byteOf b (n - 4) := by
  have ha : a.toNat < 2 ^ 32 := a.isLt
  unfold byteOf
  match n, hn with
  | 0, _ | 1, _ | 2, _ | 3, _ => rw [if_pos (by decide)]; omega
  | 4, _ | 5, _ | 6, _ | 7, _ => rw [if_neg (by decide)]; omega

/-- Each byte of bperm is the one its selector names. -/
theorem byteOf_bpermVal (a b : W32) (sel : Nat) {j : Nat} (hj : j < 4) :
    let n := sel / 16 ^ j % 16
    byteOf (bpermVal a b sel) j = if 8 ≤ n then 0 else if n < 4 then byteOf a n else byteOf b (n - 4) := by
  intro n
  have hfld : fld sel (4 * j + 3) (4 * j) = n := by
    rw [fld, show 4 * j + 3 + 1 - 4 * j = 4 by omega, Nat.pow_mul]
    rfl
  simp only [bpermVal, byteOf_leNat _ hj, hfld]
  split
  · rfl
  · next hn => rw [BitVec.toNat_ofNat, ← pair_byte a b (Nat.lt_of_not_le hn)]

/-! ## Bit fields (R209) -/

theorem bfLen_eq (v : W32) : bfLen v = fieldLen v := rfl

/-- A number of n bits, sign-extended, bit by bit. -/
theorem getLsbD_ofInt_sx {n x j : Nat} (hn : 0 < n) (hx : x < 2 ^ n) (hj : j < 32) :
    (BitVec.ofInt 32 (sx n x)).getLsbD j = if j < n then x.testBit j else x.testBit (n - 1) := by
  obtain ⟨m, rfl⟩ : ∃ m, n = m + 1 := ⟨n - 1, by omega⟩
  have hword : BitVec.ofInt 32 (sx (m + 1) x) = (BitVec.ofNat (m + 1) x).signExtend 32 := by
    rw [BitVec.signExtend, ← sx_eq_toInt, BitVec.toNat_ofNat, Nat.mod_eq_of_lt hx]
  have hmsb : (BitVec.ofNat (m + 1) x).msb = x.testBit m := by
    rw [BitVec.msb_eq_getLsbD_last, BitVec.getLsbD_ofNat]
    simp
  rw [hword, BitVec.getLsbD_signExtend, hmsb, BitVec.getLsbD_ofNat]
  by_cases hjm : j < m + 1 <;> simp [hj, hjm]

theorem fieldPos_add_fieldLen_le (v : W32) : fieldPos v + fieldLen v ≤ 32 := by
  unfold fieldLen fieldPos
  omega

theorem getLsbD_bfxVal (signed : Bool) (a v : W32) {j : Nat} (hj : j < 32) :
    (bfxVal signed a v).getLsbD j = if j < fieldLen v then a.getLsbD (fieldPos v + j)
      else (signed && decide (0 < fieldLen v)) && a.getLsbD (fieldPos v + fieldLen v - 1) := by
  unfold bfxVal
  rw [bfLen_eq]
  by_cases hlen : fieldLen v = 0
  · simp [hlen]
  · have hpos : 0 < fieldLen v := Nat.pos_of_ne_zero hlen
    have hwidth : bfPos v + fieldLen v - 1 + 1 - bfPos v = fieldLen v := by omega
    have hx : fld a.toNat (bfPos v + fieldLen v - 1) (bfPos v) < 2 ^ fieldLen v := by
      rw [fld, hwidth]
      exact Nat.mod_lt _ (Nat.two_pow_pos _)
    have hbit : ∀ i, (fld a.toNat (bfPos v + fieldLen v - 1) (bfPos v)).testBit i =
        (decide (i < fieldLen v) && a.getLsbD (fieldPos v + i)) := by
      intro i
      rw [testBit_fld, hwidth, BitVec.testBit_toNat]
      rfl
    dsimp only
    rw [if_neg hlen]
    cases signed with
    | true =>
      rw [if_pos rfl, getLsbD_ofInt_sx hpos hx hj, hbit, hbit, ← Nat.add_sub_assoc hpos]
      by_cases hjlen : j < fieldLen v <;> simp [hjlen, hpos]
    | false =>
      rw [if_neg (by decide), BitVec.getLsbD_ofNat, hbit]
      simp [hj]

theorem getLsbD_bfiVal (d a v : W32) {j : Nat} (hj : j < 32) :
    (bfiVal d a v).getLsbD j =
      if fieldPos v ≤ j ∧ j < fieldPos v + fieldLen v then a.getLsbD (j - fieldPos v) else d.getLsbD j := by
  unfold bfiVal
  rw [bfLen_eq]
  by_cases hlen : fieldLen v = 0
  · simp [hlen]
  · have hends : (bfPos v ≤ j ∧ j ≤ bfPos v + fieldLen v - 1) ↔ fieldPos v ≤ j ∧ j < fieldPos v + fieldLen v := by
      show (fieldPos v ≤ j ∧ j ≤ fieldPos v + fieldLen v - 1) ↔ _
      omega
    dsimp only
    rw [if_neg hlen, BitVec.getLsbD_ofNat, testBit_setFld (by omega)]
    simp only [hends, hj, decide_true, Bool.true_and, BitVec.testBit_toNat]
    rfl

/-! ## Integer operations on lanes (R207) -/

/-- A result of iadd or isub: clamped to the range of T under SATI, with SAT, or wrapped. -/
theorem satResult_eq (f : LaneF) (x : Int) : satResult f x = clampT f x := by
  have hrange : loT f ≤ hiT f := by unfold loT hiT; split <;> decide
  show (if f.f0 = 1 then if x < loT f then (BitVec.ofInt 32 (loT f), ({ sat := true } : FFlags))
      else if hiT f < x then (BitVec.ofInt 32 (hiT f), { sat := true }) else (BitVec.ofInt 32 x, {})
    else (BitVec.ofInt 32 x, {})) = clampT f x
  unfold clampT
  split
  · by_cases hlo : x < loT f
    · simp [hlo, min_eq_right (Int.le_trans (Int.le_of_lt hlo) hrange), max_eq_left (Int.le_of_lt hlo)]
    · by_cases hhi : hiT f < x
      · simp [hlo, hhi, min_eq_left (Int.le_of_lt hhi), max_eq_right hrange]
      · simp [hlo, hhi, min_eq_right (Int.not_lt.mp hhi), max_eq_right (Int.not_lt.mp hlo)]
  · rfl

theorem sshiftRight_eq_ofInt (a : W32) (n : Nat) : a.sshiftRight n = BitVec.ofInt 32 (a.toInt / 2 ^ n) := by
  rw [BitVec.sshiftRight, Int.shiftRight_eq_div_pow]
  norm_cast

/-- Each integer operation of the table is the shared one on a function that gives the value of its row. -/
theorem liTable_exec : ∀ p ∈ liTable, ∃ op : LaneF → W32 → W32 → W32, (∀ f a b, op f a b = p.2 f a b) ∧
    ∀ (f : LaneF) (s : State), exec (p.1 f) s = laneInt2 f (op f) s := by
  simp only [liTable, List.forall_mem_cons, List.not_mem_nil, false_implies, implies_true, and_true]
  refine ⟨⟨fun _ a b => a * b, fun _ a b => ?mul, fun _ _ => rfl⟩,
    ⟨fun f a b => BitVec.ofInt 32 (tInt f a * tInt f b / 2 ^ 32), fun _ _ _ => rfl, fun _ _ => rfl⟩,
    ⟨fun f a b => if tInt f b < tInt f a then b else a, fun _ _ _ => rfl, fun _ _ => rfl⟩,
    ⟨fun f a b => if tInt f a < tInt f b then b else a, fun _ _ _ => rfl, fun _ _ => rfl⟩,
    ⟨fun _ a b => a &&& b, fun _ _ _ => rfl, fun _ _ => rfl⟩, ⟨fun _ a b => a ||| b, fun _ _ _ => rfl, fun _ _ => rfl⟩,
    ⟨fun _ a b => a ^^^ b, fun _ _ _ => rfl, fun _ _ => rfl⟩,
    ⟨fun _ a b => a <<< (b.toNat % 32), fun _ a b => ?shl, fun _ _ => rfl⟩,
    ⟨fun _ a b => a >>> (b.toNat % 32), fun _ a b => ?shr, fun _ _ => rfl⟩,
    ⟨fun _ a b => a.sshiftRight (b.toNat % 32), fun _ a b => ?sra, fun _ _ => rfl⟩⟩
  case mul => rw [BitVec.ofNat_mul, BitVec.ofNat_toNat, BitVec.ofNat_toNat, BitVec.setWidth_eq, BitVec.setWidth_eq]
  case shl => exact BitVec.eq_of_toNat_eq (by rw [BitVec.toNat_shiftLeft, Nat.shiftLeft_eq, BitVec.toNat_ofNat])
  case shr => rw [← Nat.shiftRight_eq_div_pow, ← BitVec.toNat_ushiftRight, BitVec.ofNat_toNat, BitVec.setWidth_eq]
  case sra => exact sshiftRight_eq_ofInt a _

/-! ## Comparisons, votes and moves between lanes (R205, R210 to R212) -/

/-- The active lanes whose bit of the source predicate is set (R212). -/
def votedLanes (c : Ctx) (f : LaneF) (e : LaneEntry) : List Nat :=
  (lanes c f e).filter (fun l => (c.gang.getLp (f.a.toNat % 8)).getLsbD l)

/-- The bit that a vote writes for lane l: any, all, or the lowest of those that are set. -/
def voteBit (mode : Nat) (ls on : List Nat) (l : Nat) : Bool := match mode with
  | 0 => on != []
  | 1 => on == ls
  | _ => on.head? == some l

theorem voteBit_any (ls on : List Nat) (l : Nat) : voteBit 0 ls on l = decide (on ≠ []) := Bool.eq_iff_iff.mpr (by simp [voteBit])

theorem voteBit_all (ls on : List Nat) (l : Nat) : voteBit 1 ls on l = decide (on = ls) := beq_eq_decide ..

theorem voteBit_first (ls on : List Nat) (l : Nat) : voteBit 3 ls on l = decide (on.head? = some l) := beq_eq_decide ..

/-- A predicate with the bits of some lanes replaced. -/
def predSet (m : W32) (ls : List Nat) (v : Nat → Bool) : W32 := (m &&& ~~~maskOf ls) ||| maskOf (ls.filter v)

theorem getLsbD_predSet (m : W32) (ls : List Nat) (v : Nat → Bool) {l : Nat} (hl : l < 32) :
    (predSet m ls v).getLsbD l = if l ∈ ls then v l else m.getLsbD l := by
  rw [predSet, BitVec.getLsbD_or, BitVec.getLsbD_and, BitVec.getLsbD_not, getLsbD_maskOf _ hl, getLsbD_maskOf _ hl]
  by_cases hmem : l ∈ ls <;> simp [hmem, hl]

section
variable {s : State} {c : Ctx} {f : LaneF} {e : LaneEntry}

/-- An instruction that retires with the bits of its active lanes written in predicate d. -/
theorem writesPred_laneDone (h : s.laneCtx = some c) (hw : GangWf c) (d : Nat) (v : Nat → Bool) :
    WritesPred s c f e d v (s.laneDone c e (fun g => g.setPred (activeLanes c f e) d v) {}) := by
  obtain ⟨-, hpred, -⟩ := hw
  refine ⟨SMap.set 0 c.gang.lp d (predSet (c.gang.getLp d) (lanes c f e) v), State.laneDone_eq h e {} fun ss => ?_,
    fun k _ l hl => ?_⟩
  · rw [activeLanes_eq]
    rfl
  · rw [SMap.get_set hpred]
    by_cases hk : k = d
    · simp only [hk, if_true, and_true, getLsbD_predSet _ _ _ hl, mem_lanes, hl, true_and]
    · simp only [hk, if_false, and_false]
      rfl

variable (h : AtHead s c e)
include h

/-- vote retires with register D of its active lanes written in mode 2, and with predicate D in the others. -/
theorem exec_vote : exec (.vote f) s = s.laneDone c e (fun g => if f.f0.toNat = 2
    then g.setLanes (activeLanes c f e) f.d.toNat (fun _ => maskOf (votedLanes c f e))
    else g.setPred (activeLanes c f e) (f.d.toNat % 8) (voteBit f.f0.toNat (lanes c f e) (votedLanes c f e))) {} := by
  obtain ⟨hc, rest, hq⟩ := h
  show execVote f s = _
  rw [execVote, laneOp_runs hc hq, activeLanes_eq]
  match f.f0.toNat with
  | 0 | 1 | 2 | n + 3 => rfl

variable (hw : GangWf c)
include hw

/-- A comparison writes all ones or zero to register D, or the bits of predicate D. -/
theorem writes_laneCmp (hold : Ctx → LaneEntry → Nat → Bool) :
    (f.pw = 0 → WritesReg s c f e f.d.toNat (fun l => if hold c e l then 0xFFFFFFFF#32 else 0) {} (laneCmp f hold s)) ∧
    (f.pw = 1 → f.d.toNat < 8 → WritesPred s c f e f.d.toNat (hold c e) (laneCmp f hold s)) := by
  obtain ⟨hc, rest, hq⟩ := h
  rw [laneCmp, laneOp_runs hc hq]
  refine ⟨fun hreg => ?_, fun hpred hd => ?_⟩
  · simp only [hreg, show ((0 : B1) = 1) = False by decide, if_false]
    exact writesReg_laneDone hc hw {} f.d.isLt _
  · simp only [hpred, if_true, Nat.mod_eq_of_lt hd]
    exact writesPred_laneDone hc hw _ _

theorem writesPred_vote (hf : f.f0.toNat ≠ 2) (hd : f.d.toNat < 8) {v : Nat → Bool}
    (hv : ∀ l, voteBit f.f0.toNat (lanes c f e) (votedLanes c f e) l = v l) : WritesPred s c f e f.d.toNat v (exec (.vote f) s) := by
  simp only [exec_vote h, if_neg hf, Nat.mod_eq_of_lt hd, funext hv]
  exact writesPred_laneDone h.1 hw _ _

theorem writesReg_vote (hf : f.f0.toNat = 2) :
    WritesReg s c f e f.d.toNat (fun _ => maskOf (votedLanes c f e)) {} (exec (.vote f) s) := by
  simp only [exec_vote h, if_pos hf]
  exact writesReg_laneDone h.1 hw {} f.d.isLt _

end

/-- The lane that lane l reads in shfl and in bcast: itself where the named one is none of the sub-gang's (R210, R211). -/
def shflFrom (c : Ctx) (f : LaneF) (l : Nat) : Nat :=
  (shflSrc c.desc.legacy (sliceMask c.th.slices) f.f0.toNat l ((bOf c f l).toNat % 32)).getD l
def bcastFrom (c : Ctx) (f : LaneF) (e : LaneEntry) (l : Nat) : Nat :=
  if (sliceMask c.th.slices).getLsbD (bcastLane c f e) then bcastLane c f e else l

/-- A lane of the sub-gang is one in the mask of its slices. -/
theorem ownLane_iff (c : Ctx) (x : Int) : ownLane c x ↔ ¬ (x < 0 ∨ 31 < x ∨ (sliceMask c.th.slices).getLsbD x.toNat = false) := by
  unfold ownLane
  by_cases hrange : 0 ≤ x ∧ x ≤ 31
  · rw [getLsbD_sliceMask _ (by omega)]
    simp [hrange, Int.not_lt.mpr hrange.1, Int.not_lt.mpr hrange.2]
  · simp
    omega

theorem shflFrom_eq (c : Ctx) (f : LaneF) (l : Nat) :
    (ownLane c (shflLane c f l) → shflFrom c f l = (shflLane c f l).toNat) ∧
      (¬ ownLane c (shflLane c f l) → shflFrom c f l = l) := by
  have hsrc : shflFrom c f l = (if shflLane c f l < 0 ∨ 31 < shflLane c f l ∨
      (sliceMask c.th.slices).getLsbD (shflLane c f l).toNat = false then none else some (shflLane c f l).toNat).getD l := by
    unfold shflFrom shflSrc shflLane
    match f.f0.toNat with
    | 0 | 1 | 2 => rfl
    | n + 3 => simp
  rw [hsrc, ownLane_iff]
  exact ⟨fun h => by rw [if_neg h]; rfl, fun h => by rw [if_pos (not_not.mp h)]; rfl⟩

theorem bcastLane_lt (c : Ctx) (f : LaneF) (e : LaneEntry) : bcastLane c f e < 32 := by
  have hfirst : (lanes c f e).headD 0 < 32 := by
    cases hls : lanes c f e with
    | nil => decide
    | cons l ls => exact (mem_lanes.mp (hls ▸ List.mem_cons_self : l ∈ lanes c f e)).1
  unfold bcastLane
  dsimp only
  split <;> split <;> omega

theorem bcastFrom_eq (c : Ctx) (f : LaneF) (e : LaneEntry) (l : Nat) :
    (ownLane c (bcastLane c f e) → bcastFrom c f e l = bcastLane c f e) ∧
      (¬ ownLane c (bcastLane c f e) → bcastFrom c f e l = l) := by
  have hlt := bcastLane_lt c f e
  unfold bcastFrom ownLane
  rw [getLsbD_sliceMask _ hlt, Int.toNat_natCast]
  exact ⟨fun ⟨_, _, hon⟩ => if_pos hon, fun h => if_neg fun hon => h ⟨by omega, by omega, hon⟩⟩

/-! ## What the encoding tables allow (R205 to R212) -/

section
variable {f : LaneF}

theorem bperm_wf_sel (h : (Instr.bperm f).wf = true) (hf : f.f0 = 1) : f.c = 0 ∧ f.imm.toNat < 2 ^ 16 := by
  simpa [hf] using (Bool.and_eq_true_iff.mp h).2

theorem field_wf_imm (h : (Instr.bfx f).wf = true ∨ (Instr.bfi f).wf = true) (hi : f.i = 1) :
    f.imm.toNat < 2 ^ 14 ∧ f.imm.toNat / 32 % 8 = 0 := by
  have himm : bfImm f = true := h.elim (fun h => (Bool.and_eq_true_iff.mp h).2) (fun h => (Bool.and_eq_true_iff.mp h).2)
  simpa [bfImm, hi] using himm

theorem fcmp_wf_code (h : (Instr.fcmp f).wf = true) : f.f0.toNat < 7 :=
  Nat.lt_succ_of_le (of_decide_eq_true (Bool.and_eq_true_iff.mp h).2)

theorem icmp_wf_code (h : (Instr.icmp f).wf = true) : f.f0.toNat < 6 :=
  Nat.lt_succ_of_le (of_decide_eq_true (Bool.and_eq_true_iff.mp h).2)

theorem shfl_wf_mode (h : (Instr.shfl f).wf = true) : f.f0.toNat < 4 ∧ (f.i = 1 → f.imm.toNat < 32) := by
  obtain ⟨hfields, himm⟩ := Bool.and_eq_true_iff.mp h
  exact ⟨of_decide_eq_true (Bool.and_eq_true_iff.mp hfields).2, fun hi => by simpa [hi] using himm⟩

theorem bcast_wf_lane (h : (Instr.bcast f).wf = true) :
    f.f0.toNat < 2 ∧ (f.f0 = 0 → f.imm.toNat < 32) ∧ (f.f0 = 1 → f.imm = 0) := by
  obtain ⟨hfields, himm⟩ := Bool.and_eq_true_iff.mp h
  exact ⟨of_decide_eq_true (Bool.and_eq_true_iff.mp hfields).2, fun hf => by simpa [hf] using himm,
    fun hf => by simpa [hf] using himm⟩

theorem vote_wf_mode (h : (Instr.vote f).wf = true) : f.f0.toNat < 4 ∧ (f.pw = 0 ↔ f.f0 = 2) := by
  obtain ⟨hfields, hdest⟩ := Bool.and_eq_true_iff.mp h
  refine ⟨of_decide_eq_true (Bool.and_eq_true_iff.mp hfields).2, ?_⟩
  by_cases hf : f.f0 = 2
  · simpa [hf] using hdest
  · rw [if_neg (by rwa [beq_iff_eq]), Bool.and_eq_true, beq_iff_eq] at hdest
    exact ⟨fun hpw => absurd (hpw.symm.trans hdest.1) (by decide), fun hmode => absurd hmode hf⟩

end

/-! ## Integer, bit, compare and cross-lane instructions (R205, R207 to R212) -/

theorem laneIntegerResults : LaneIntegerResults := by
  intro s c f e h hw
  refine ⟨writesReg_of_laneMap h hw rfl fun l => satResult_eq f _, writesReg_of_laneMap h hw rfl fun l => satResult_eq f _,
    fun p hp => ?table, ?popc, ⟨fun l => BitVec.ofNat 32 (clz32 (wA c f l)), writesReg_laneMapI h hw _, fun l _ => ?clz⟩,
    ⟨fun l => bpermVal (wA c f l) (wB c f l) (if f.f0 = 1 then f.imm else wC c f l).toNat, ?perm,
      fun l _ j hj => byteOf_bpermVal _ _ _ hj⟩,
    ⟨fun l => bfxVal (f.t == 3) (wA c f l) (bOf c f l), writesReg_laneMapI h hw _, fun l _ j hj => ?bfx⟩,
    ⟨fun l => bfiVal (wD c f l) (wA c f l) (bOf c f l), writesReg_laneMapI h hw _, fun l _ j hj => getLsbD_bfiVal _ _ _ hj⟩,
    bperm_wf_sel, field_wf_imm⟩
  case table =>
    obtain ⟨op, hop, hexec⟩ := liTable_exec p hp
    rw [hexec]
    simp only [← hop]
    exact writesReg_laneMapI h hw _
  case popc =>
    have hcount : ∀ l, BitVec.ofNat 32 ((span 0 32).filter (fun i => (wA c f l).getLsbD i)).length =
        BitVec.ofNat 32 (popcount 32 (wA c f l).toNat) := fun l => by
      rw [← Nat.div_one (wA c f l).toNat, ← Nat.pow_zero 2, popcount_eq_length]
      rfl
    simp only [hcount]
    exact writesReg_laneMapI h hw _
  case clz =>
    obtain ⟨hle, hlt, hge⟩ := clz32_bounds (wA c f l)
    rw [BitVec.toNat_ofNat, Nat.mod_eq_of_lt (by omega)]
    exact ⟨hle, hlt, hge⟩
  case perm =>
    have hsel : ∀ l, (if f.f0 = 1 then f.imm else wC c f l).toNat = if f.f0 = 1 then f.imm.toNat else (wC c f l).toNat :=
      fun l => apply_ite ..
    simp only [hsel]
    exact writesReg_laneMapI h hw _
  case bfx =>
    rw [getLsbD_bfxVal _ _ _ hj]
    simp only [Bool.decide_and]
    rfl

theorem laneCompareAndMoveResults : LaneCompareAndMoveResults := by
  intro s c f e h hw
  refine ⟨?cmp, writesReg_laneMapI h hw _,
    ⟨fun l => wA c f (shflFrom c f l), writesReg_laneMapI h hw _, fun l _ => ?shfl⟩,
    ⟨fun l => wA c f (bcastFrom c f e l), ?bcast, fun l _ => ?bcastLanes⟩,
    ⟨fun hf hd => writesPred_vote h hw (by rw [hf]; decide) hd fun l => ?any,
      fun hf hd => writesPred_vote h hw (by rw [hf]; decide) hd fun l => ?all,
      fun hf => ⟨maskOf (votedLanes c f e), writesReg_vote h hw (by rw [hf]; rfl), fun j hj => getLsbD_maskOf _ hj⟩,
      fun hf hd => writesPred_vote h hw (by rw [hf]; decide) hd fun l => ?first⟩,
    fcmp_wf_code, icmp_wf_code, shfl_wf_mode, bcast_wf_lane, vote_wf_mode⟩
  case cmp =>
    rintro i hold (⟨rfl, rfl⟩ | ⟨rfl, rfl⟩)
    · rw [← laneFlush_eq]
      exact writes_laneCmp h hw _
    · exact writes_laneCmp h hw _
  case shfl =>
    obtain ⟨hown, hother⟩ := shflFrom_eq c f l
    exact ⟨fun hx => congrArg (wA c f) (hown hx), fun hx => congrArg (wA c f) (hother hx)⟩
  case bcast =>
    unfold bcastFrom bcastLane
    rw [← activeLanes_eq]
    exact writesReg_laneMapI h hw _
  case bcastLanes =>
    obtain ⟨hown, hother⟩ := bcastFrom_eq c f e l
    exact ⟨fun hx => congrArg (wA c f) (hown hx), fun hx => congrArg (wA c f) (hother hx)⟩
  case any =>
    rw [hf]
    exact voteBit_any ..
  case all =>
    rw [hf]
    exact voteBit_all ..
  case first =>
    rw [hf]
    exact voteBit_first ..

/-- Settles O44: the integer and bit instructions by the value of each lane, then the comparisons and the moves between lanes. -/
theorem laneIntegerMoveResults : Obligations.LaneIntegerMoveResults := ⟨laneIntegerResults, laneCompareAndMoveResults⟩

end Sys2Proof.Machine
